-- ==== Sys2Proof/Word.lean ====
section
/-! DEFINITION. The word types of the model (spec 00 R5, R6; 02 R21): bytes, 64-byte lines and the
names of the units that are numbered from zero. -/
namespace Sys2Proof

/-- One byte of memory, of a payload or of a table entry. -/
abbrev Byte := BitVec 8

/-- One 64-byte line; byte `i` is bits `8 * i + 7` down to `8 * i` (R5). -/
abbrev Line := BitVec 512

/-- A station (host port), 0 to 47 (R411). -/
abbrev Station := Fin 48

/-- A pump (compute engine), 0 to 15 (R214). -/
abbrev PumpId := Fin 16

/-- A home die, 0 to 3 (R132). -/
abbrev DieId := Fin 4

/-- A table held sparsely: entries in rising order of their index; an index not listed holds the
default the table's reader names. -/
abbrev Tab (α : Type) := List (Nat × α)

end Sys2Proof
end

