-- ==== Sys2Proof/Syntax.lean ====
section
/-! DEFINITION. The commands of the block: one constructor of `Instr` per row of the opcode table, with
the row's operands. Mailbox commands carry their header and the fields of their payload (15 R446). -/
namespace Sys2Proof

/-- A mailbox a client can write (15 R444). -/
inductive Mbx where
  | stn (n : Station)
  | eth
  | i3c
  deriving DecidableEq, Repr

/-- A command header (15 R446) and what the payload carries beside its named fields: the reserved
bytes in their order, and bytes beyond the fixed payload. `sender` identifies the sender on a
management mailbox (19 R573). -/
structure CmdHdr where
  mbx    : Mbx
  sender : BitVec 64 := 0
  ver    : Byte := 1
  flags  : Byte := 0
  /-- The waybill that the keeper of the pair journal assigns to the command, on the module that does not keep (15 R467). -/
  waybill : Option (BitVec 64) := none
  len    : BitVec 16
  tag    : BitVec 64 := 0
  seq    : BitVec 32 := 0
  rsvHdr : BitVec 368 := 0
  rsvPay : List Byte := []
  extra  : List Byte := []
  deriving DecidableEq, Repr

/-- One 32-byte range entry as a command writes it (13 R383). -/
structure RangeWords where
  vbase  : BitVec 64
  length : BitVec 64
  well   : BitVec 32
  rights : Byte
  flags  : Byte
  rsv    : BitVec 16 := 0
  offset : BitVec 64
  deriving DecidableEq, Repr

/-- The fields of the KEY_SET payload after OP (19 R585). -/
structure KeyPay where
  roles   : Byte := 0
  slot    : BitVec 16
  well    : BitVec 32 := 0xFFFFFFFF
  station : Byte := 0
  context : BitVec 16 := 0
  credId  : BitVec 64 := 0
  peer    : BitVec 384 := 0
  pubkey  : BitVec 768 := 0
  deriving DecidableEq, Repr

/-- The fields of the FAULT_INJECT payload after OP (17 R541). -/
structure InjectPay where
  unitKind : Byte
  unit     : Byte
  count    : Byte
  source   : BitVec 16
  address  : BitVec 64
  deriving DecidableEq, Repr

/-- Five component versions in the order SB, PM, LK, MS, PW (15 R476). -/
structure Versions where
  sb : BitVec 32
  pm : BitVec 32
  lk : BitVec 32
  ms : BitVec 32
  pw : BitVec 32
  deriving DecidableEq, Repr

/-- What the control cores find in the package a FW_STAGE names (15 R477, R478); the spec gives no
package format, so the content is the row's operand. -/
structure FwPackage where
  valid        : Bool
  versions     : Versions
  manifestSeq  : BitVec 32
  combinations : List Versions
  deriving DecidableEq, Repr

/-- The twin's answer to its share of a command (15 R445): a status, its state bytes, and the DPA of a
copy it made. -/
structure PeerAnswer where
  status : Byte := 0
  bytes  : List Byte := []
  start  : BitVec 48 := 0
  deriving DecidableEq, Repr

/-- A MIRRORED well that the twin holds: what a copy of it here would take, whether its copy is primary there, whether a reset of the twin
has left it without its contents (20 R600), and where it lies (16 R488, R489, R501). -/
structure PeerWell where
  handle   : BitVec 32
  length   : BitVec 64
  place    : Byte
  primary  : Bool
  restored : Bool := false
  start    : BitVec 64 := 0
  deriving DecidableEq, Repr

/-- What the twin's Utvanan tells at pairing (16 R488, R489; 15 R467, R468). -/
structure PeerInfo where
  serial       : BitVec 64
  versions     : BitVec 32
  next         : BitVec 64
  ready        : Bool := true
  room         : Bool := true
  resyncWells  : BitVec 32 := 0
  resyncBytes  : BitVec 64 := 0
  /-- The highest SEQ of this module's audit records in the twin's twin ring (19 R577). -/
  auditSeq     : BitVec 64 := 0
  /-- The MIRRORED wells that the twin holds. -/
  wells        : List PeerWell := []
  /-- Some entry of the twin's journal is RUNNING (15 R468). -/
  running      : Bool := false
  deriving DecidableEq, Repr

/-- One 128-byte journal entry (15 R462) in its fields. -/
structure JWords where
  waybill    : BitVec 64
  tag        : BitVec 64
  opcode     : BitVec 16
  source     : Byte
  role       : Byte
  state      : Byte
  status     : Byte
  flags      : BitVec 16
  credId     : BitVec 64
  digest     : BitVec 128
  acceptTime : BitVec 64
  finishTime : BitVec 64
  origin     : BitVec 64
  boot       : BitVec 32
  object     : BitVec 64
  result     : List Byte
  /-- The wells of the twin that the entries of a RANGE_TABLE_SET name (16 R505). -/
  names      : List (BitVec 32) := []
  deriving DecidableEq, Repr

/-- One 128-byte audit record (19 R575) in its fields. -/
structure AuditWords where
  seq     : BitVec 64
  time    : BitVec 64
  origin  : BitVec 64
  boot    : BitVec 32
  kind    : BitVec 16
  source  : Byte
  role    : Byte
  credId  : BitVec 64
  waybill : BitVec 64
  opcode  : BitVec 16
  status  : Byte
  digest  : BitVec 128
  detail  : BitVec 192
  chain   : BitVec 128
  deriving DecidableEq, Repr

/-- A message of the crossover mailbox (15 R445). -/
inductive XMsg where
  /-- An entry of the pair journal, written or finished on the twin (R461, R467). -/
  | entry (e : JWords)
  /-- The twin, which does not keep the pair journal, asks for a waybill; the keeper assigns one to an entry of this module (R467). -/
  | askWaybill
  | waybill (waybill : BitVec 64)
  /-- No entry of the twin's journal is RUNNING any more: pairing goes on (R468). -/
  | settled
  /-- The twin's share of a MIRRORED WELL_CREATE, or a copy that a resync fills: this module's copy, and whether this module's side is its
  origin (16 R489, R492, R509; 20 R609). -/
  | wellCopy (handle : BitVec 32) (length : BitVec 64) (place flags : Byte) (owner : BitVec 16)
      (cistern : BitVec 32) (twinStart : BitVec 64) (resync origin : Bool)
  /-- The twin's answer to such a share of this module: where its copy lies; none where it could make none (16 R501). -/
  | copied (handle : BitVec 32) (start : Option (BitVec 64))
  /-- The mirror bitmap of a well of which the twin is primary, by page of the well, as its resync starts (16 R495). -/
  | bitmap (handle : BitVec 32) (pages : List (BitVec 32))
  /-- The twin's share of a RANGE_TABLE_SET with TWIN entries: they name wells of this module (13 R387). -/
  | rangeSet (id : BitVec 32) (context : BitVec 16) (entries : List RangeWords)
  /-- The twin accepted a WELL_RESIZE of a MIRRORED well: this module's copy (03 R69). -/
  | wellResize (handle : BitVec 32) (newLength : BitVec 64)
  /-- The twin destroyed a MIRRORED well or released its copy. -/
  | wellGone (handle : BitVec 32)
  /-- A well of the twin is destroyed (from 0) or shrinks: TWIN entries that name it at or beyond an offset are cleared (13 R391). -/
  | rangeClear (handle : BitVec 32) (frm : BitVec 64)
  /-- A resize of a well of the twin has completed: its length is another one (13 R385). -/
  | wellLength (handle : BitVec 32) (length : BitVec 64)
  /-- A CISTERN_RECOVER accepted on the twin acts on both sides (06 R165): MODE as the command has it. -/
  | recover (cistern : BitVec 32) (mode : Byte)
  /-- A context or cistern the twin creates here before it copies a well (20 R609). -/
  | context (number : BitVec 16) (name : BitVec 128)
  | cistern (handle : BitVec 32) (name : BitVec 128) (tbi : BitVec 16)
  /-- Pairing as the twin's TWIN_PAIR asks for it (16 R489), or as a twin that was paired before asks for it after its bring-up (R490). -/
  | pair (info : PeerInfo) (rate : BitVec 16) (auto : Bool)
  /-- Unpairing as the twin's TWIN_UNPAIR asks for it (16 R491). -/
  | unpair (split : Bool)
  /-- A commanded switchover of the twin: the wells whose primacy leaves this module and those whose primacy it gains, in one gap (16
  R507). -/
  | primacy (away here : List (BitVec 32))
  /-- An FW_ACTIVATE of the twin has completed: the crossover versions of its combination (16 R485). -/
  | versions (mask : BitVec 32)
  /-- A key slot and the MIRRORED wells bound to it (19 R582, 20 R610). -/
  | keySlot (slot : BitVec 16) (station : Byte) (context : BitVec 16) (peer : BitVec 384)
      (keys : BitVec 512) (wells : List (BitVec 32))
  deriving DecidableEq, Repr

/-- A back-invalidate answer of a host (04 R111); `blk` is an answer in block form. -/
inductive BiRsp where
  | i | s | e | blk
  deriving DecidableEq, Repr

/-- A host's snoop of a line the device cache holds over CXL.cache (05 R140). -/
inductive H2D where
  | cur | data | inv
  deriving DecidableEq, Repr

/-- The half of a 64-bit register a write names (14 R424). -/
inductive Half where
  | full | lo | hi
  deriving DecidableEq, Repr

/-- The operation whose check failed (11 R337 STEP, R620). -/
inductive StepOp where
  | qk | pv | vector | format | load | write | product | crc
  deriving DecidableEq, Repr

/-- The speed, width and flit mode a link trains to (14 R411, R426), and the code of Max_Payload_Size in Device Control (14 R415, R431). -/
structure LinkMode where
  speed : BitVec 2
  width : BitVec 4
  flit  : BitVec 2
  payload : BitVec 3 := 0
  deriving DecidableEq, Repr

/-- The answer of the host's translation agent (13 R402, R403). -/
structure AtsAnswer where
  ok    : Bool
  read  : Bool
  write : Bool
  hpa   : BitVec 64
  /-- log2 of the size in 4 KiB pages. -/
  k     : BitVec 6
  deriving DecidableEq, Repr

/-- What the twin's answer says of its data (16 R495; 13 R408; 06 R167). -/
inductive TwinMark where
  | good | poison | down
  deriving DecidableEq, Repr

/-- What a grant record says of its line (06 R178). -/
inductive GrantNote where
  | e | m | returned
  deriving DecidableEq, Repr

/-- A request of the twin over the crossover (16 R495, 13 R408, R392). -/
inductive TwinAccess where
  /-- A standby's forwarded access to a MIRRORED well. -/
  | fwdRead (id : BitVec 32) (handle : BitVec 32) (off : BitVec 64) (own : Bool)
  | fwdWrite (id : BitVec 32) (handle : BitVec 32) (off : BitVec 64) (data : Line) (mask : BitVec 64) (poison : Bool)
  /-- A locale-0x1 access of a twin pump. -/
  | read (id : BitVec 32) (dpa : BitVec 48)
  | write (id : BitVec 32) (dpa : BitVec 48) (data : Line) (mask : BitVec 64) (poison : Bool)
  /-- An atomic operation of a twin pump on a MIRRORED well, and on a locale-0x1 address. -/
  | fwdAtomic (id : BitVec 32) (handle : BitVec 32) (off : BitVec 64) (aop width : BitVec 8) (operand compare : BitVec 64)
  | atomic (id : BitVec 32) (dpa : BitVec 48) (aop width : BitVec 8) (operand compare : BitVec 64)
  /-- A range fill: the Start and length of a well here. -/
  | rangeFill (id : BitVec 32) (handle : BitVec 32)
  /-- The twin is about to release bytes of its well: drop translations that name it. -/
  | rangeDrop (id : BitVec 32) (handle : BitVec 32)
  /-- A ZERO recovery of the primary zeroes this module's copy of a MIRRORED well (06 R175). -/
  | zero (id : BitVec 32) (handle : BitVec 32)
  deriving DecidableEq, Repr

/-- Lines with their poison bits: a 4 KiB page of the other module (64 lines), or what a host returned. -/
abbrev PageImage := List (Line × Bool)

/-- The health report of the twin (16 R499); `openUf` says that it has an open UF record. -/
structure Report where
  serial    : BitVec 64
  time      : BitVec 64
  seq       : BitVec 32
  phase     : Byte
  pairState : Byte
  openUf    : Bool
  deriving DecidableEq, Repr

/-- What an announcement of the twin announces (16 R502). -/
inductive Announce where
  | moduleReset | powerDown | drain
  deriving DecidableEq, Repr

/-- The port an SPDM requester uses: a station's DOE mailbox, or I3C (19 R587). -/
inductive SpdmPort where
  | stn (n : Station) | i3c
  deriving DecidableEq, Repr

/-- An IDE stream of a station: the CXL.cachemem stream, or one of the PCIe streams, the link stream (0) and the two selective ones (19 R586). -/
inductive IdeKind where
  | cxl | pcie (k : Fin 3)
  deriving DecidableEq, Repr

/-- What an SPDM requester establishes over its port: a session; a stream keyed in a session that is new, or in one that is open, by its
place; or new keys for a stream that runs on (19 R576, R586). A CXL.cachemem stream runs in skid or in containment mode. -/
inductive SpdmOpen where
  | session
  | keyed (ide : IdeKind) (containment : Bool)
  | stream (ide : IdeKind) (containment : Bool) (sess : Fin 4)
  | refresh (ide : IdeKind) (sess : Fin 4)
  deriving DecidableEq, Repr

/-- What an SPDM requester asks (19 R587, R588). -/
inductive SpdmAsk where
  | version | capabilities | algorithms
  | certificate (slot : Fin 8)
  | measurements (index : Byte)
  deriving DecidableEq, Repr

/-- What ends: a secured SPDM session of a port, by its place among those in service, or an IDE stream of a station (19 R576, R584). -/
inductive SecLink where
  | session (port : SpdmPort) (k : Fin 4)
  | stream (n : Station) (ide : IdeKind)
  deriving DecidableEq, Repr

/-- The commands of the block, in the order of the opcode table but for events without operands, which stand last. -/
inductive Instr where
  -- mailbox: identity, state, journal (15)
  | identify (h : CmdHdr)
  | getState (h : CmdHdr)
  | journalReadEntries (h : CmdHdr) (frm : BitVec 64) (count : Byte)
  | journalReadRejects (h : CmdHdr) (frm : BitVec 64) (count : Byte)
  | journalFindTag (h : CmdHdr) (tag : BitVec 64)
  -- wells and cisterns (03)
  | wellCreate (h : CmdHdr) (length : BitVec 64) (place flags : Byte) (owner : BitVec 16) (cistern : BitVec 32)
      (peer : PeerAnswer)
  | wellDestroy (h : CmdHdr) (handle : BitVec 32)
  | wellResize (h : CmdHdr) (handle : BitVec 32) (newLength : BitVec 64) (peer : PeerAnswer)
  | wellGrant (h : CmdHdr) (handle : BitVec 32) (station rights decoder : Byte)
  | wellRevoke (h : CmdHdr) (handle : BitVec 32) (station : Byte)
  | wellQuery (h : CmdHdr) (handle : BitVec 32)
  | wellQuerySummary (h : CmdHdr)
  | migrate (h : CmdHdr) (handle : BitVec 32) (place : Byte) (rsvFlags : BitVec 7) (rate : BitVec 16)
  | migrateCancel (h : CmdHdr) (handle : BitVec 32) (place : Byte) (rsvFlags : BitVec 7) (rate : BitVec 16)
  | cisternCreate (h : CmdHdr) (name : BitVec 128) (tbi : BitVec 16)
  | cisternJoin (h : CmdHdr) (cistern : BitVec 32) (station : Byte)
  | cisternLeave (h : CmdHdr) (cistern : BitVec 32) (station : Byte)
  | cisternRecoverZero (h : CmdHdr) (cistern : BitVec 32)
  | cisternRecoverKeep (h : CmdHdr) (cistern : BitVec 32)
  | cisternRecoverDissolve (h : CmdHdr) (cistern : BitVec 32)
  | cisternQuery (h : CmdHdr) (cistern : BitVec 32)
  -- translation (13)
  | contextCreate (h : CmdHdr) (name : BitVec 128) (diePref : Byte)
  | contextDestroy (h : CmdHdr) (context : BitVec 16)
  | rangeTableSet (h : CmdHdr) (context : BitVec 16) (first count : Byte) (entries : List RangeWords)
      (peer : PeerAnswer)
  | rangeInvalidateSpan (h : CmdHdr) (context : BitVec 16) (well : BitVec 32) (vbase length : BitVec 64)
  | rangeInvalidateWell (h : CmdHdr) (context : BitVec 16) (well : BitVec 32) (vbase length : BitVec 64)
  | adviseNormal (h : CmdHdr) (context : BitVec 16) (die : Byte) (vbase length : BitVec 64)
  | adviseWillUse (h : CmdHdr) (context : BitVec 16) (die : Byte) (vbase length : BitVec 64)
  | adviseDontNeed (h : CmdHdr) (context : BitVec 16) (die : Byte) (vbase length : BitVec 64)
  | adviseSetDiePref (h : CmdHdr) (context : BitVec 16) (die : Byte) (vbase length : BitVec 64)
  | stationXlateMode (h : CmdHdr) (station mode : Byte)
  -- platforms and partitions (11)
  | platformCreate (h : CmdHdr) (ringWell : BitVec 32) (station partition : Byte) (vector : BitVec 16)
      (ringOff : BitVec 64) (context : BitVec 16) (slotsLog2 : Byte) (allot : BitVec 32) (stationMask : BitVec 64)
  | platformDestroy (h : CmdHdr) (platform : BitVec 16)
  | platformDrainFinish (h : CmdHdr) (platform : BitVec 16)
  | platformDrainAbort (h : CmdHdr) (platform : BitVec 16)
  | platformDrainResume (h : CmdHdr) (platform : BitVec 16)
  | partitionSet (h : CmdHdr) (partition lwait : Byte) (quota : BitVec 32) (pumps : BitVec 16)
  -- namespaces (12)
  | namespaceCreate (h : CmdHdr) (store : BitVec 32) (format width : Byte) (nkvh nlayers leaseS : BitVec 16)
      (quota : BitVec 32) (flags : Byte)
  | namespaceDestroy (h : CmdHdr) (handle : BitVec 32)
  | namespaceQuota (h : CmdHdr) (handle quota : BitVec 32) (leaseS : BitVec 16) (flags : Byte)
  -- device cache (05)
  | cacheEnable (h : CmdHdr) (slices flags station : Byte) (value : BitVec 32)
  | cacheDisable (h : CmdHdr) (slices flags station : Byte) (value : BitVec 32)
  | cacheFlush (h : CmdHdr) (slices flags station : Byte) (value : BitVec 32)
  | cacheInvalidate (h : CmdHdr) (slices flags station : Byte) (value : BitVec 32)
  | cacheSetThreshold (h : CmdHdr) (slices flags station : Byte) (value : BitVec 32)
  | cacheSetTHold (h : CmdHdr) (slices flags station : Byte) (value : BitVec 32)
  | cacheSetQuota (h : CmdHdr) (slices flags station : Byte) (value : BitVec 32)
  | cacheStatus (h : CmdHdr) (slices flags station : Byte) (value : BitVec 32)
  -- twin (16)
  | twinPair (h : CmdHdr) (rate : BitVec 16) (peer : PeerInfo)
  | twinUnpairEmpty (h : CmdHdr)
  | twinUnpairSplit (h : CmdHdr)
  | twinSwitchover (h : CmdHdr) (target scope : Byte) (rsvFlags : BitVec 7)
  | twinTakeover (h : CmdHdr) (target scope : Byte) (rsvFlags : BitVec 7)
  | twinStatus (h : CmdHdr) (handle : BitVec 32)
  -- faults and tests (17)
  | faultStatus (h : CmdHdr) (frm : BitVec 64) (count filter : Byte)
  | faultAck (h : CmdHdr) (seq : BitVec 64) (mode : Byte)
  | faultPolicySet (h : CmdHdr) (source : BitVec 16) (reaction flags : Byte) (threshold : BitVec 32)
      (windowS : BitVec 16)
  | unitHistoryRead (h : CmdHdr) (unitKind unit : Byte) (frm : BitVec 32) (count : Byte)
  | fieldTestPolicy (h : CmdHdr) (flags : Byte) (intervalS maxOutUs scrubH : BitVec 16)
  -- power (18)
  | powerLimitSet (h : CmdHdr) (limitW : BitVec 16) (flags : Byte) (hotIdleUs warmIdleUs dormantIdleMs : BitVec 32)
  | powerStatus (h : CmdHdr)
  -- firmware (15)
  | fwStage (h : CmdHdr) (well : BitVec 32) (offset length : BitVec 64) (pkg : FwPackage)
  | fwActivate (h : CmdHdr) (index flags : Byte) (versions : Versions)
  | fwManifestRead (h : CmdHdr) (first count : Byte)
  -- roles, keys, audit (19)
  | roleAuthChallenge (h : CmdHdr) (role : Byte) (credId : BitVec 64) (signature : BitVec 768)
  | roleAuthRespond (h : CmdHdr) (role : Byte) (credId : BitVec 64) (signature : BitVec 768)
  | roleDrop (h : CmdHdr)
  | keyGenerate (h : CmdHdr) (p : KeyPay)
  | keyBind (h : CmdHdr) (p : KeyPay)
  | keyErase (h : CmdHdr) (p : KeyPay)
  | credSet (h : CmdHdr) (p : KeyPay)
  | credErase (h : CmdHdr) (p : KeyPay)
  | auditRead (h : CmdHdr) (ring count : Byte) (frm : BitVec 64)
  -- service and factory (20, 17)
  | moduleDrain (h : CmdHdr) (flags : Byte)
  | moduleDrainOff (h : CmdHdr) (flags : Byte)
  | moduleDrainResume (h : CmdHdr) (flags : Byte)
  | moduleDrainEmpty (h : CmdHdr) (flags : Byte)
  | spareActivate (h : CmdHdr) (stack mode : Byte) (location : BitVec 64)
  | factoryTestEnter (h : CmdHdr) (serial : BitVec 64)
  | injectRaise (h : CmdHdr) (p : InjectPay)
  | injectFlip1 (h : CmdHdr) (p : InjectPay)
  | injectFlip2 (h : CmdHdr) (p : InjectPay)
  | injectPoison (h : CmdHdr) (p : InjectPay)
  | injectParity (h : CmdHdr) (p : InjectPay)
  | injectChecksum (h : CmdHdr) (p : InjectPay)
  | injectLinkCrc (h : CmdHdr) (p : InjectPay)
  | injectClearHistory (h : CmdHdr) (p : InjectPay)
  | asyncCommandComplete (waybill : BitVec 64)
  | crossoverMailboxMessage (m : XMsg)
  -- platforms and jobs (11)
  | platformDoorbell (n : Station) (platform : BitVec 12) (size : BitVec 4) (sqTail cqHead : BitVec 24) (rsv : BitVec 15)
  | platformRestart (n : Station) (platform : BitVec 12) (size : BitVec 4) (sqTail cqHead : BitVec 24) (rsv : BitVec 15)
  | nop (plat : BitVec 12) (idx : BitVec 24)
  | draw (plat : BitVec 12) (idx : BitVec 24)
  | drawTree (plat : BitVec 12) (idx : BitVec 24)
  | merge (plat : BitVec 12) (idx : BitVec 24)
  | encode (plat : BitVec 12) (idx : BitVec 24)
  | fetch (plat : BitVec 12) (idx : BitVec 24)
  | copy (plat : BitVec 12) (idx : BitVec 24)
  | fill (plat : BitVec 12) (idx : BitVec 24)
  | gather (plat : BitVec 12) (idx : BitVec 24)
  | scatter (plat : BitVec 12) (idx : BitVec 24)
  | atomic (plat : BitVec 12) (idx : BitVec 24)
  | atomicOperationAtHome (plat : BitVec 12) (idx : BitVec 24) (op : BitVec 17)
  | gemm (plat : BitVec 12) (idx : BitVec 24)
  | lowrank (plat : BitVec 12) (idx : BitVec 24)
  | checksum (plat : BitVec 12) (idx : BitVec 24)
  | prefixLookup (plat : BitVec 12) (idx : BitVec 24)
  | prefixInsert (plat : BitVec 12) (idx : BitVec 24)
  | prefixRelease (plat : BitVec 12) (idx : BitVec 24)
  | prefixRenew (plat : BitVec 12) (idx : BitVec 24)
  | evenLookupCommit (plat : BitVec 12) (idx : BitVec 24)
  | prefixPendingResolved (plat : BitVec 12) (idx : BitVec 24)
  | holdLeaseExpire (hold : BitVec 20)
  | pumpJobHandoff (p : PumpId)
  | tileLoadDone (p : PumpId) (lines : BitVec 13) (host : PageImage)
  | tileStepDone (p : PumpId) (fail : Option StepOp)
  | stepReplayDone (p : PumpId) (pass : Bool)
  | pumpHangTimeout (p : PumpId)
  | rangeCacheFill (p : PumpId) (context : BitVec 12) (entry : BitVec 8) (peer : PeerAnswer)
  | rangeSwitchTimeout (p : PumpId)
  | jobEnd (plat : BitVec 12) (idx : BitVec 24)
  | completionRecordWrite (plat : BitVec 12)
  | sealWrite (plat : BitVec 12) (idx : BitVec 24)
  | deviceWriteGo (n : Station) (id : BitVec 32) (data : Line)
  | stationCtoExpire (n : Station) (id : BitVec 32)
  | atsTranslationCompletion (n : Station) (address : BitVec 56) (answer : AtsAnswer)
  | atsInvalidateRequest (n : Station) (address : BitVec 56) (k : BitVec 6)
  -- CXL.mem (04)
  | memRdS (n : Station) (hpa : BitVec 64)
  | memRdA (n : Station) (hpa : BitVec 64)
  | memRdOwn (n : Station) (hpa : BitVec 64)
  | memRdCur (n : Station) (hpa : BitVec 64)
  | memInvOwn (n : Station) (hpa : BitVec 64)
  | memDrop (n : Station) (hpa : BitVec 64)
  | memSpecRd (n : Station) (hpa : BitVec 64)
  | memWb (n : Station) (hpa : BitVec 64) (data : Line) (mask : BitVec 64)
  | memWbS (n : Station) (hpa : BitVec 64) (data : Line)
  | memUcWr (n : Station) (hpa : BitVec 64) (data : Line) (mask : BitVec 64)
  | plainMemRead (n : Station) (hpa : BitVec 64)
  | plainMemWrite (n : Station) (hpa : BitVec 64) (data : Line) (mask : BitVec 64)
  | biRsp (n : Station) (hpa : BitVec 64) (rsp : BiRsp)
  | biConflict (n : Station) (hpa : BitVec 64)
  | holdEnd (dpa : BitVec 48)
  | biTimerExpire (holder : Fin 49) (dpa : BitVec 48)
  | downWalkEnd (cistern : BitVec 12)
  | cisternRecoveryDone (cistern : BitVec 12)
  | retryStoreRepresent (n : Option Station)
  -- apertures and registers (02, 14)
  | apertureRead (n : Station) (offset : BitVec 26) (size : BitVec 13)
  | apertureWrite (n : Station) (offset : BitVec 26) (data : List Byte)
  | winBaseWrite (n : Station) (half : Half) (value : BitVec 64)
  | jnlMarkWrite (n : Station) (half : Half) (value : BitVec 64)
  | jnlThresholdWrite (n : Station) (value : BitVec 32)
  | registerWrite (n : Station) (offset : BitVec 26) (size : BitVec 4) (value : BitVec 64)
  | msixVectorUnmask (n : Station) (vector : Option (BitVec 11))
  | hdmDecoderCommit (n : Station) (decoder : BitVec 5) (base size : BitVec 64) (ways : BitVec 4)
  | hdmDecoderUncommit (n : Station) (decoder : BitVec 5)
  -- station power, reset and link (14)
  | d3hotEntry (n : Station)
  | d0Return (n : Station)
  | perstAssert (n : Station)
  | perstDeassert (n : Station)
  | hotReset (n : Station)
  | functionLevelReset (n : Station)
  | linkDlUp (n : Station) (mode : LinkMode) (cacheEn memEn biEn atsEn : Bool) (cto : BitVec 4)
  | linkDlDown (n : Station)
  | linkRecoveryEntry (n : Station)
  | linkRecoveryEnd (n : Station)
  | flitAck (n : Station) (req : BitVec 11) (rwd : BitVec 10) (rsp : BitVec 9)
  | memoryActiveReturn (n : Station)
  | h2dSnoop (n : Station) (hpa : BitVec 64) (kind : H2D)
  | streamTrackerRelease (die : DieId) (slot : BitVec 6)
  -- device cache, wells (05, 03)
  | cacheWalkDone (die : DieId)
  | zeroFillDone (well : BitVec 16)
  | resizeGrowDone (well : BitVec 16)
  | revocationDrainTimeout (well : BitVec 16) (n : Station)
  | revocationComplete (well : BitVec 16) (n : Station)
  | backgroundZeroing (dpa : BitVec 48) (length : BitVec 48)
  | migrateChunkCommit (well : BitVec 16)
  | migrateChunkStart (well : BitVec 16)
  | migrateCancelComplete (well : BitVec 16)
  -- twin and crossover (16)
  | twinPresenceLost
  | crossoverLinkDown (k : Fin 4)
  | crossoverSilence
  | presenceWaitExpire
  | keepaliveSend (k : Fin 4)
  | mirrorWriteReceive (id : BitVec 32) (handle : BitVec 32) (off : BitVec 64) (data : Line) (mask : BitVec 64) (poison : Bool)
  | mirrorWriteAck (id : BitVec 32)
  | mirrorAckTimeout (id : BitVec 32)
  | twinAnnounceReceive (what : Announce)
  | fenceOrderReceive
  | switchoverGapEnd
  | grantRecordReceive (id : BitVec 32) (handle : BitVec 32) (off : BitVec 64) (what : GrantNote)
  | healthReportSend
  | healthReportReceive (r : Report)
  | twinReportsMissed
  | mirrorAuditPage (handle : BitVec 32) (page : BitVec 32) (other : PageImage)
  | resyncPageCopy (handle : BitVec 32) (page : BitVec 32) (image : PageImage)
  | auditRecordReceive (r : AuditWords)
  -- faults, tests, security (17, 19)
  | faultDetected (source : BitVec 16) (unit : Byte) (object address : BitVec 64) (detail : BitVec 128)
  | scrubLine (dpa : BitVec 48)
  | modErrOneShotEnd
  | aliveToggle
  | aliveToggleMissed
  | signalBoxWatchdogExpire
  | coreWatchdogExpire (core : Fin 6)
  | blockResetDone (unitKind : Byte) (unit : Byte)
  | katTurn (p : PumpId)
  | katPartDone (p : PumpId) (pass : Bool)
  | drainDelayExpire
  | ideIntegrityFail (stream : Station × IdeKind)
  | ideStreamEnd (link : SecLink)
  | spdmSessionEstablish (port : SpdmPort) (what : SpdmOpen) (peer : BitVec 384)
  | spdmRequest (port : SpdmPort) (ask : SpdmAsk)
  | mgmtSessionIdle (m : Mbx)
  | authLockoutEnd (m : Mbx)
  | challengeExpire (m : Mbx)
  -- power (18)
  | vinSample (mv ma : BitVec 32)
  /-- Bits 1:0 name the converter; bit 2 says that it left regulation, and has not stopped (R546, R555). -/
  | converterLost (k : Fin 8)
  | railFault (rail : BitVec 5)
  /-- Rails by their ID, and from 0x15 the outputs of converters 0 to 3 (R548, R555). -/
  | railSample (rail : BitVec 5) (mv : BitVec 16) (current10mA : BitVec 16) (temp : Byte)
  | powerManagerStep (inputW : BitVec 16)
  | thermalSample (sensors : List Byte) (dram : List Byte)
  | stackDormantEntry (die : DieId)
  | stackWakeDone (die : DieId)
  | pumpHotToWarm (p : PumpId)
  | pumpWarmToCold (p : PumpId)
  | pumpWakeDone (p : PumpId)
  -- bring-up and service (20, 15)
  | sbImageCheckDone (pass0 pass1 : Bool)
  | componentCheckDone (passes : List Bool)
  | stackTrainingDone (failedStack : Option (Fin 24))
  | metadataRestoreDone (ok : Bool)
  | bringUpComplete (failed : List PumpId)
  | fwComponentSwitchDone (pass : Bool)
  | crossoverLinkUp (k : Fin 4) (laneFail : Option (Fin 16)) (localPass : Bool) (peerPass : Bool)
  | twinAccessReceive (a : TwinAccess)
  | twinResponseReceive (id : BitVec 32) (data : Line) (mark : TwinMark)
  | twinSnoopReceive (id : BitVec 32) (handle : BitVec 32) (off : BitVec 64)
  | twinDeclarationReceive (cistern : BitVec 32) (cause : Byte)
  | nmiCaptureDone (unitKind : Byte) (unit : Byte)
  | replayPumpWaitExpire (p : PumpId)
  -- pins, input and module: events without operands (18, 20)
  | vinOvervoltageTrip
  | inputFail
  | vinLow
  | vinHigh
  | currentLimitTimeout
  | hotSwapRetry
  | hotSwapClose
  | inrushSlopeEnd
  | thermalShutdown
  | attnButtonPress
  | attnCancelWindowEnd
  | modRstAssert
  | bringUpStart
  | restoredWellFillDone
  | metadataLogFlush
  | sbHandoverEnd
  | spareSpanCopyDone
  | twinPresenceGained
  | standbySupplyLost
  | standbySupplyReturn
  deriving DecidableEq, Repr

end Sys2Proof
end

