-- ==== Sys2Proof/Decode.lean ====
section
/-! DEFINITION. The decoder the host asks for. The opcode table of this block gives no row any bits, so no
word spells a command. -/
namespace Sys2Proof

/-- The command a word spells by the table's bits: none, as the table gives no bits to any row. -/
def decodeTableWord (_nbits _w : Nat) : Option Instr := none

end Sys2Proof
end

