-- ==== Sys2Proof/Config.lean ====
section
/-! DEFINITION. What an implementation fixes and what the spec leaves open. The opaque constants have
no body on purpose: nothing can be proved about their values. Each is named in the assumption log. -/
namespace Sys2Proof.Config

/-- A choice among equals that the spec leaves open (a victim among ways of one pseudo-LRU age, the
least recently used stream tracker: 05 R132, R138, R142). Indexed by the model's counter. -/
opaque freeChoice : Nat → Nat

/-- The AGE another way of a set takes when one of its ways is used (04 R102 gives its two ends only). -/
opaque freeAge : Nat → BitVec 3

/-- A draw of the signal box's random source (12 R347, 19 R569, R581). -/
opaque random : Nat → BitVec 256

/-- Where in a pump's working area its tile buffers begin (08 R220). -/
opaque bufferBase : Nat → Nat

/-- A byte of the signal box's control space, locale 0xF (02 R615: not defined). -/
opaque controlSpace : Nat → Nat → BitVec 8

/-- Reply bytes, image digests and other values the spec names but does not state. -/
opaque freeBits : Nat → BitVec 384

/-- The crossover versions a combination of component versions supports (16 R485), as a mask. -/
opaque crossoverVersions : List (BitVec 32) → BitVec 32

/-- The place of a line's row in its aligned 32 MiB span, by stack and die address (20 R607). -/
opaque rowOf : Nat → Nat → Nat

/-- The version of a section of the station table that the spec does not state (14 R422). -/
opaque sectionVersion : Nat → BitVec 32

/-- A byte of the expansion ROM image that the spec does not state (14 R421). -/
opaque romFill : Nat → BitVec 8

/-- The next pointer of the Holmujo DVSEC (14 R420). -/
opaque nextCapability : BitVec 12

/-- The wells' number (03 R50). -/
def maxWells : Nat := 65536
/-- Cisterns, contexts and platforms (03 R53, 13 R378, 11 R307). -/
def maxTables : Nat := 4096
/-- Namespaces (12 R344). -/
def maxNamespaces : Nat := 1024
/-- Entries of the journal ring (15 R461) and of each audit ring (19 R574). -/
def journalRing : Nat := 1048576
/-- Records of the fault ring (17 R519). -/
def faultRing : Nat := 4096
/-- Entries of the unit history (17 R535). -/
def historyMax : Nat := 65536
/-- Records of the poison map (17 R517). -/
def poisonMapMax : Nat := 4194304
/-- Bytes of one GiB granule (02 R28). -/
def gib : Nat := 1073741824
/-- First byte beyond the pool area (02 R21). -/
def poolEnd : Nat := 0x02F000000000
/-- First byte beyond locale 0x0's backed span (02 R21). -/
def locale0End : Nat := 0x030000000000
/-- Locale 0x8 base and stride (02 R21). -/
def scratchBase : Nat := 0x800000000000
def scratchStride : Nat := 0x2000000
def scratchSize : Nat := 0x1800000
/-- Locale 0xC: the read-only alias of the reserve (02 R21). -/
def aliasBase : Nat := 0xC00000000000
def aliasSize : Nat := 0x1000000000
/-- Locale 0x1: the twin's pool area. -/
def twinBase : Nat := 0x100000000000
/-- Locale 0xF: control space. -/
def controlBase : Nat := 0xF00000000000
def controlSize : Nat := 0x100000000
/-- Bytes of the reserve (03 R75). -/
def reserveBytes : Nat := 0x1000000000
/-- A byte of the CXL register block of a station whose contents the spec does not give: those of its RAS, Link and IDE Capabilities and
of the CXL device status registers among them (14 R414; notes/assumptions/162). The first argument is the state's counter of free values. -/
opaque cxlRegister : Nat → Nat → Nat → BitVec 8
/-- CXL.io reads outstanding at a station (14 R432). -/
def ioReads : Nat := 256
/-- The UNIT a vector names when a platform has none (11 R320). -/
def noVector : Nat := 0xFFFF
/-- The handle that names nothing. -/
def noHandle : Nat := 0xFFFFFFFF

end Sys2Proof.Config
end

