-- ==== Sys2Proof/Machine/Bits.lean ====
section
/-! DEFINITION. Bytes, words and sparse tables: the byte order of every structure (00 R5) and the tables held
as rising lists. -/
namespace Sys2Proof.Machine

/-! ## Sparse tables -/

/-- The entry of index `i`. -/
def tget {α : Type} : Tab α → Nat → Option α
  | [], _ => none
  | (k, v) :: t, i => if k = i then some v else tget t i

/-- The entry of index `i`, or the table's default. -/
def tgetD {α : Type} (t : Tab α) (i : Nat) (d : α) : α := (tget t i).getD d

/-- The table with entry `i` set, in rising order of indices. -/
def tset {α : Type} : Tab α → Nat → α → Tab α
  | [], i, v => [(i, v)]
  | (k, w) :: t, i, v =>
    if i < k then (i, v) :: (k, w) :: t else if k = i then (i, v) :: t else (k, w) :: tset t i v

/-- The table without entry `i`. -/
def tdel {α : Type} : Tab α → Nat → Tab α
  | [], _ => []
  | (k, v) :: t, i => if k = i then t else (k, v) :: tdel t i

/-- The table with entry `i`, where there is one, changed by `f`. -/
def tmod {α : Type} : Tab α → Nat → (α → α) → Tab α
  | [], _, _ => []
  | (k, v) :: t, i, f => if k = i then (k, f v) :: t else (k, v) :: tmod t i f

/-- The lowest index below `n` that the table does not use. -/
def tfree {α : Type} (t : Tab α) (n : Nat) : Option Nat := (List.range n).find? fun i => (tget t i).isNone

/-! ## Bytes, little-endian (00 R5) -/

/-- The low `n` bytes of a number, least significant first. -/
def le : Nat → Nat → List Byte
  | 0, _ => []
  | n + 1, v => BitVec.ofNat 8 v :: le n (v / 256)

/-- The number that bytes spell, least significant first. -/
def ofLe : List Byte → Nat
  | [] => 0
  | b :: bs => b.toNat + 256 * ofLe bs

/-- The low `n` bytes of a number, most significant first. -/
def be (n v : Nat) : List Byte := (le n v).reverse

/-- The number that bytes spell, most significant first. -/
def ofBe (bs : List Byte) : Nat := ofLe bs.reverse

/-- `n` zero bytes. -/
def zeros (n : Nat) : List Byte := List.replicate n 0

/-- Exactly `n` bytes: cut, or filled with zeros. -/
def pad (n : Nat) (bs : List Byte) : List Byte := bs.take n ++ zeros (n - bs.length)

/-- `n` bytes at an offset of a list; bytes beyond its end read zero. -/
def slice (bs : List Byte) (off n : Nat) : List Byte := pad n (bs.drop off)

/-- The number at an offset of `n` bytes. -/
def num (bs : List Byte) (off n : Nat) : Nat := ofLe (slice bs off n)

/-- A bit as a number. -/
def bit (b : Bool) : Nat := if b then 1 else 0

/-- Bit `i` of a number. -/
def nbit (v i : Nat) : Bool := v.testBit i

/-- Bits `hi` down to `lo` of a number. -/
def field (v hi lo : Nat) : Nat := (v / 2 ^ lo) % 2 ^ (hi + 1 - lo)

/-! ## Lines -/

/-- The 64 bytes of a line. -/
def lineBytes (l : Line) : List Byte := le 64 l.toNat

/-- The line of (at most 64) bytes. -/
def bytesLine (bs : List Byte) : Line := BitVec.ofNat 512 (ofLe (bs.take 64))

/-- Bytes of `new` where the mask is set, of `old` elsewhere (07 R209). -/
def mergeLine (old new : Line) (mask : BitVec 64) : Line :=
  bytesLine (((lineBytes old).zip (lineBytes new)).zipIdx.map fun ((o, n), i) => if mask.getLsbD i then n else o)

/-- Every byte of the line. -/
def fullMask : BitVec 64 := BitVec.allOnes 64

/-- Bytes `i` to `i + n - 1` of the line. -/
def spanMask (i n : Nat) : BitVec 64 := BitVec.ofNat 64 ((2 ^ n - 1) * 2 ^ i)

/-- The line of an address, and the line's first address. -/
def lineOf (a : Nat) : Nat := a / 64 * 64

/-- All ones, which a line that may not be read reads as (02 R42, R43). -/
def onesLine : Line := BitVec.allOnes 512

/-- Bytes set in a list at an offset. -/
def patch (bs : List Byte) (off : Nat) (new : List Byte) : List Byte :=
  (bs.take off) ++ new ++ (bs.drop (off + new.length))

/-- The sum of a list of numbers. -/
def sumOf {α : Type} (f : α → Nat) (l : List α) : Nat := l.foldl (fun a x => a + f x) 0

/-- A count that stops at its field's highest value. -/
def sat (bits v : Nat) : Nat := min v (2 ^ bits - 1)

/-- The set bits of a 64-bit mask below `n`, in rising order. -/
def bitsOf (v : Nat) (n : Nat) : List Nat := (List.range n).filter fun i => v.testBit i

/-- The mask of a list of bit numbers. -/
def maskOf (l : List Nat) : Nat := l.foldl (fun a i => a ||| 2 ^ i) 0

/-- A function folded over the items of a list: the order in which the block does several things. -/
def forAll {α σ : Type} (l : List α) (f : α → σ → σ) (s : σ) : σ := l.foldl (fun s x => f x s) s

end Sys2Proof.Machine
end

