-- ==== Sys2Proof/Machine/Aes.lean ====
section
/-! DEFINITION. AES-256-XTS, by which the stacks hold the lines of a well that is bound to a key slot (FIPS 197 and IEEE 1619, which 19 R582
names; PRESUMED, notes/assumptions/15). -/
namespace Sys2Proof.Machine

/-! ## The cipher -/

/-- The substitution of a byte and its inverse: byte `x` of each number. -/
def aesSbox : Nat :=
    0x16bb54b00f2d99416842e6bf0d89a18cdf2855cee9871e9b948ed9691198f8e19e1dc186b95735610ef6034866b53e708a8bbd4b1f74dde8c6b4a61c2e2578ba * 2 ^ 1536 +
    0x08ae7a65eaf4566ca94ed58d6d37c8e779e4959162acd3c25c2406490a3a32e0db0b5ede14b8ee4688902a22dc4f816073195d643d7ea7c41744975fec130ccd * 2 ^ 1024 +
    0xd2f3ff1021dab6bcf5389d928f40a351a89f3c507f02f94585334d43fbaaefd0cf584c4a39becb6a5bb1fc20ed00d153842fe329b3d63b52a05a6e1b1a2c8309 * 2 ^ 512 +
    0x75b227ebe28012079a059618c323c7041531d871f1e5a534ccf73f362693fdb7c072a49cafa2d4adf04759fa7dc982ca76abd7fe2b670130c56f6bf27b777c63
def aesInvSbox : Nat :=
    0x7d0c2155631469e126d677ba7e042b17619953833cbbebc8b0f52aae4d3be0a0ef9cc9939f7ae52d0d4ab519a97f51605fec8027591012b131c7078833a8dd1f * 2 ^ 1536 +
    0xf45acd78fec0db9a2079d2c64b3e56fc1bbe18aa0e62b76f89c5291d711af1476edf751ce837f9e28535ade72274ac9673e6b4f0cecff297eadc674f4111913a * 2 ^ 1024 +
    0x6b8a130103bdafc1020f3fca8f1e2cd00645b3b80558e4f70ad3bc8c00abd890849d8da75746155edab9edfd5048706c92b6655dcc5ca4d41698688664f6f872 * 2 ^ 512 +
    0x25d18b6d49a25b76b224d92866a12e084ec3fa420b954cee3d23c2a632947b54cbe9dec444438e3487ff2f9b8239e37cfbd7f3819ea340bf38a53630d56a0952

def aesSub (table x : Nat) : Nat := table / 2 ^ (8 * x) % 256

/-- Twice a byte in the field of AES. -/
def aesDouble (x : Nat) : Nat := if x < 128 then 2 * x else (2 * x) ^^^ 0x11B

/-- The product of a byte with a number of four bits. -/
def aesMul (k x : Nat) : Nat :=
  let y := aesDouble x
  let z := aesDouble y
  (if k % 2 = 1 then x else 0) ^^^ (if k / 2 % 2 = 1 then y else 0) ^^^ (if k / 4 % 2 = 1 then z else 0) ^^^ (if k / 8 % 2 = 1 then aesDouble z else 0)

def aesXor (a b : List Nat) : List Nat := List.zipWith (· ^^^ ·) a b

/-- The round constant of a step of the key schedule. -/
def aesRcon : Nat → Nat
  | 0 => 1
  | n + 1 => aesDouble (aesRcon n)

/-- The key schedule: 60 words of four bytes. -/
def aesSchedule (key : List Nat) : List (List Nat) :=
  (List.range 52).foldl (fun ws i =>
    let last := ws.getD (i + 7) []
    let t :=
      if i % 8 = 0 then aesXor ((last.drop 1 ++ last.take 1).map (aesSub aesSbox)) [aesRcon (i / 8), 0, 0, 0]
      else if i % 8 = 4 then last.map (aesSub aesSbox)
      else last
    ws ++ [aesXor (ws.getD i []) t]) ((List.range 8).map fun i => (key.drop (4 * i)).take 4)

/-- The key of round `r`. -/
def aesRoundKey (ws : List (List Nat)) (r : Nat) : List Nat := ((ws.drop (4 * r)).take 4).flatten

/-- Row `r` of the block moves by `k * r` columns. -/
def aesShift (k : Nat) (b : List Nat) : List Nat := (List.range 16).map fun i => b.getD ((i + 4 * k * (i % 4)) % 16) 0

/-- The columns of the block multiplied by a circulant matrix, given by its first row. -/
def aesMix (m b : List Nat) : List Nat :=
  (List.range 16).map fun i => (List.range 4).foldl (fun x j => x ^^^ aesMul (m.getD ((j + 4 - i % 4) % 4) 0) (b.getD (i / 4 * 4 + j) 0)) 0

def aesEncrypt (key block : List Nat) : List Nat :=
  let ws := aesSchedule key
  let b := (List.range 13).foldl (fun b r => aesXor (aesMix [2, 3, 1, 1] (aesShift 1 (b.map (aesSub aesSbox)))) (aesRoundKey ws (r + 1)))
    (aesXor block (aesRoundKey ws 0))
  aesXor (aesShift 1 (b.map (aesSub aesSbox))) (aesRoundKey ws 14)

def aesDecrypt (key block : List Nat) : List Nat :=
  let ws := aesSchedule key
  let b := (List.range 13).foldl (fun b r => aesMix [14, 11, 13, 9] (aesXor ((aesShift 3 b).map (aesSub aesInvSbox)) (aesRoundKey ws (13 - r))))
    (aesXor block (aesRoundKey ws 14))
  aesXor ((aesShift 3 b).map (aesSub aesInvSbox)) (aesRoundKey ws 0)

/-! ## XTS over a data unit of 64 bytes -/

/-- The tweak of the next block of a data unit. -/
def xtsNext (t : Nat) : Nat := if t < 2 ^ 127 then 2 * t else (2 * t) % 2 ^ 128 ^^^ 0x87

def bytesOf (n v : Nat) : List Nat := (le n v).map (·.toNat)
def ofBytes (l : List Nat) : Nat := l.foldr (fun b a => b + 256 * a) 0

/-- A line through XTS with one direction of the cipher: the first of the two keys, in the low half, for the data, the second for the tweak. -/
def xtsLine (f : List Nat → List Nat → List Nat) (keys : BitVec 512) (tweak : Nat) (d : Line) : Line :=
  let k1 := bytesOf 32 (keys.toNat % 2 ^ 256)
  let t := ofBytes (aesEncrypt (bytesOf 32 (keys.toNat / 2 ^ 256)) (bytesOf 16 tweak))
  let go := fun (acc : List Nat × Nat) (i : Nat) =>
    let x := bytesOf 16 acc.2
    (acc.1 ++ aesXor (f k1 (aesXor (bytesOf 16 (d.toNat / 2 ^ (128 * i))) x)) x, xtsNext acc.2)
  BitVec.ofNat 512 (ofBytes ((List.range 4).foldl go ([], t)).1)

def xtsSeal (keys : BitVec 512) (tweak : Nat) (d : Line) : Line := xtsLine aesEncrypt keys tweak d
def xtsOpen (keys : BitVec 512) (tweak : Nat) (d : Line) : Line := xtsLine aesDecrypt keys tweak d

end Sys2Proof.Machine
end

