-- ==== Sys2Proof/Machine/Floats.lean ====
section
/-! DEFINITION. Number formats: encodings, exact values, rounding, the array's dot product, the vector lanes and the
shared scale (09). A value is a dyadic number held exactly, an infinity or NaN. -/
namespace Sys2Proof.Machine

/-- An exact value: (-1)^neg * m * 2^e. -/
inductive FV where
  | nan
  | inf (neg : Bool)
  | fin (neg : Bool) (m : Nat) (e : Int)
  deriving DecidableEq, Repr

def FV.zero : FV := .fin false 0 0
def FV.isNan : FV → Bool
  | .nan => true
  | _ => false
def FV.isZero : FV → Bool
  | .fin _ 0 _ => true
  | _ => false

/-- Two exact values over one exponent. -/
def alignTo (m : Nat) (e f : Int) : Nat := m * 2 ^ (e - f).toNat

def signedMant (neg : Bool) (m : Nat) : Int := if neg then -(m : Int) else (m : Int)

/-- The exact sum (R257): a zero sum is + unless both are -0. -/
def FV.add : FV → FV → FV
  | .nan, _ => .nan
  | _, .nan => .nan
  | .inf a, .inf b => if a == b then .inf a else .nan
  | .inf a, _ => .inf a
  | _, .inf b => .inf b
  | .fin a m e, .fin b n f =>
    let g := min e f
    let x := signedMant a (alignTo m e g) + signedMant b (alignTo n f g)
    if x == 0 then .fin (a && b && m == 0 && n == 0) 0 0 else .fin (x < 0) x.natAbs g

/-- The exact product. -/
def FV.mul : FV → FV → FV
  | .nan, _ => .nan
  | _, .nan => .nan
  | .inf a, .inf b => .inf (a != b)
  | .inf a, .fin b n _ => if n == 0 then .nan else .inf (a != b)
  | .fin a m _, .inf b => if m == 0 then .nan else .inf (a != b)
  | .fin a m e, .fin b n f => .fin (a != b) (m * n) (e + f)

def FV.neg : FV → FV
  | .nan => .nan
  | .inf a => .inf !a
  | .fin a m e => .fin (!a) m e

/-- A value times 2^k. -/
def FV.scale (x : FV) (k : Int) : FV :=
  match x with
  | .fin a m e => .fin a m (e + k)
  | x => x

/-- The exact sum of a list, + for an empty one. -/
def FV.sum : List FV → FV
  | [] => .zero
  | x :: l => l.foldl FV.add x

/-- The order of two values without NaN, +0 above -0 (R260). -/
def FV.lt (x y : FV) : Bool :=
  match x, y with
  | .inf a, .inf b => a && !b
  | .inf a, _ => a
  | _, .inf b => !b
  | .fin a m e, .fin b n f =>
    let g := min e f
    let u := signedMant a (alignTo m e g)
    let v := signedMant b (alignTo n f g)
    u < v || (u == v && u == 0 && a && !b)
  | _, _ => false

/-- Compare-and-select of the greater (R260). -/
def FV.max (x y : FV) : FV := if x.isNan || y.isNan then .nan else if x.lt y then y else x

/-! ## Formats (R250 to R253) -/

/-- A floating-point encoding: exponent and mantissa bits, bias, and whether it has infinity and NaN as IEEE formats do,
one NaN code only (E4M3), or neither. -/
inductive Specials where
  | ieee | nanOnly | none
  deriving DecidableEq, Repr

structure Fmt where
  eb : Nat
  mb : Nat
  bias : Int
  sp : Specials
  deriving DecidableEq, Repr

def fp32 : Fmt := ⟨8, 23, 127, .ieee⟩
def bf16 : Fmt := ⟨8, 7, 127, .ieee⟩
def e4m3 : Fmt := ⟨4, 3, 7, .nanOnly⟩
def e5m2 : Fmt := ⟨5, 2, 15, .ieee⟩
def e3m2 : Fmt := ⟨3, 2, 3, .none⟩
def e2m3 : Fmt := ⟨2, 3, 1, .none⟩
def e2m1 : Fmt := ⟨2, 1, 1, .none⟩

/-- The element encoding of a format code (R250, R251); INT8 has none. -/
def fmtOf (code : Nat) : Fmt :=
  match code with
  | 1 => bf16
  | 2 | 4 => e4m3
  | 3 | 5 => e5m2
  | 6 => e3m2
  | 7 => e2m3
  | 8 => e2m1
  | _ => fp32

/-- Bits per element (R250). -/
def bitsOfFmt (code : Nat) : Nat :=
  match code with
  | 1 => 16
  | 2 | 3 | 4 | 5 | 9 => 8
  | 6 | 7 => 6
  | 8 => 4
  | _ => 32

/-- Formats with a shared scale (R250). -/
def isMx (code : Nat) : Bool := 4 ≤ code && code ≤ 8

def Fmt.bits (f : Fmt) : Nat := 1 + f.eb + f.mb

/-- The value of a code (R251). -/
def Fmt.decode (f : Fmt) (c : Nat) : FV :=
  let neg := nbit c (f.eb + f.mb)
  let ex := field c (f.eb + f.mb - 1) f.mb
  let m := c % 2 ^ f.mb
  if ex == 0 then .fin neg m (1 - f.bias - f.mb)
  else if f.sp == .ieee && ex == 2 ^ f.eb - 1 then (if m == 0 then .inf neg else .nan)
  else if f.sp == .nanOnly && ex == 2 ^ f.eb - 1 && m == 2 ^ f.mb - 1 then .nan
  else .fin neg (m + 2 ^ f.mb) (ex - f.bias - f.mb)

/-- The canonical NaN (R255); a format without NaN has none. -/
def Fmt.nan (f : Fmt) : Nat :=
  match f.sp with
  | .ieee => (2 ^ f.eb - 1) * 2 ^ f.mb + 2 ^ (f.mb - 1)
  | _ => 2 ^ (f.eb + f.mb) - 1

/-- The largest finite code without its sign. -/
def Fmt.maxCode (f : Fmt) : Nat :=
  match f.sp with
  | .ieee => (2 ^ f.eb - 1) * 2 ^ f.mb - 1
  | .nanOnly => 2 ^ (f.eb + f.mb) - 2
  | .none => 2 ^ (f.eb + f.mb) - 1

/-- `m / 2^k` rounded to nearest, ties to even. -/
def rne (m k : Nat) : Nat :=
  let q := m / 2 ^ k
  let r := m % 2 ^ k
  if 2 * r < 2 ^ k then q else if 2 ^ k < 2 * r then q + 1 else q + q % 2

/-- The magnitude code nearest a non-zero finite magnitude with unbounded exponent range upward: codes above `maxCode`
mean overflow. -/
def Fmt.roundMag (f : Fmt) (m : Nat) (e : Int) : Nat :=
  let top : Int := (Nat.log2 m : Int) + e
  let q : Int := max (top - f.mb) (1 - f.bias - f.mb)
  let r : Nat := if q ≤ e then m * 2 ^ (e - q).toNat else rne m (q - e).toNat
  -- r counts units of 2^q; below 2^mb it is subnormal
  (q - (1 - f.bias - f.mb)).toNat * 2 ^ f.mb + r

def Fmt.signBit (f : Fmt) (neg : Bool) : Nat := bit neg * 2 ^ (f.eb + f.mb)

/-- One rounding to FP32, overflow to infinity (R256, R260). -/
def round32 (x : FV) : BitVec 32 :=
  match x with
  | .nan => 0x7FC00000
  | .inf s => BitVec.ofNat 32 (fp32.signBit s + 0x7F800000)
  | .fin s m e =>
    if m == 0 then BitVec.ofNat 32 (fp32.signBit s)
    else BitVec.ofNat 32 (fp32.signBit s + min (fp32.roundMag m e) 0x7F800000)

def of32 (b : BitVec 32) : FV := fp32.decode b.toNat

/-- FP32 rounding of an exact value, as a value. -/
def FV.r32 (x : FV) : FV := of32 (round32 x)

/-- A conversion to a narrower format with its saturation and non-finite events (R261, R262). -/
def Fmt.convert (f : Fmt) (x : FV) : Nat × Nat × Nat :=
  match x with
  | .nan => (f.nan, 0, 1)
  | .inf s => if f.sp == .ieee then (f.signBit s + (2 ^ f.eb - 1) * 2 ^ f.mb, 0, 0) else (f.nan, 0, 1)
  | .fin s m e =>
    if m == 0 then (f.signBit s, 0, 0)
    else
      let c := f.roundMag m e
      let beyond := (FV.fin false (f.maxCode % 2 ^ f.mb + 2 ^ f.mb) (f.maxCode / 2 ^ f.mb - f.bias - f.mb)).lt (.fin false m e)
      if beyond || f.maxCode < c then (f.signBit s + f.maxCode, 1, 0) else (f.signBit s + c, 0, 0)

/-- A number in a format an operator writes: FP32 rounds once, and counts a NaN only (R262). -/
def convertTo (code : Nat) (x : FV) : Nat × Nat × Nat :=
  if code == 0x0A then ((round32 x).toNat, 0, if x.isNan then 1 else 0) else (fmtOf code).convert x

/-! ## Vector lanes (R260) -/

/-- Fused multiply-add. -/
def fma32 (a b c : FV) : FV := ((a.mul b).add c).r32

/-- Fraction bits of the fixed-point exponential. That they separate every 2^x of an FP32 x from a rounding boundary,
so that rounding the series gives the nearest value (09 R260), is UNVERIFIED (notes/assumptions/47). -/
def expBits : Nat := 256

/-- ln 2 in fixed point, as the sum of 1 / (k * 2^k). -/
def ln2Fix : Nat := (List.range 300).foldl (fun a k => a + 2 ^ expBits / ((k + 1) * 2 ^ (k + 1))) 0

/-- 2^(f / 2^expBits) in fixed point for a fraction f, by the exponential series. -/
def exp2Frac (f : Nat) : Nat :=
  let x := f * ln2Fix / 2 ^ expBits
  ((List.range 80).foldl (fun (acc : Nat × Nat) k =>
    let term := acc.2 * x / 2 ^ expBits / (k + 1)
    (acc.1 + term, term)) (2 ^ expBits, 2 ^ expBits)).1

/-- exp2: the FP32 value nearest 2^x (R260). -/
def exp2 (x : FV) : FV :=
  match x with
  | .nan => .nan
  | .inf s => if s then .zero else .inf false
  | .fin s m e =>
    if m == 0 then .fin false 1 0
    else
      let top : Int := (Nat.log2 m : Int) + e
      if 10 < top then (if s then .zero else .inf false)
      else if top < -expBits then .fin false 1 0
      else
        -- x in fixed point; its integer part and fraction
        let v : Int := signedMant s (if 0 ≤ e + (expBits : Int) then m * 2 ^ (e + expBits).toNat else m / 2 ^ (-(e + expBits)).toNat)
        let n : Int := v / ((2 ^ expBits : Nat) : Int)
        let f : Nat := (v % ((2 ^ expBits : Nat) : Int)).toNat
        if f == 0 then (FV.fin false 1 n).r32
        else (FV.fin false (exp2Frac f) (n - expBits)).r32

/-- The first fraction bits of the base-2 logarithm of a fixed-point number from 1 to 2, by repeated squaring. -/
def log2Bits : Nat → Nat → Nat → Nat
  | 0, _, f => f
  | k + 1, y, f =>
    let q := y * y / 2 ^ expBits
    if q < 2 ^ (expBits + 1) then log2Bits k q (2 * f) else log2Bits k (q / 2) (2 * f + 1)

/-- log2: the FP32 value nearest the logarithm (R260). That 96 fraction bits separate every inexact logarithm of an FP32 value
from a rounding boundary is UNVERIFIED (notes/assumptions/47). -/
def lanesLog2 (x : FV) : FV :=
  match x with
  | .nan => .nan
  | .inf s => if s then .nan else .inf false
  | .fin s m e =>
    if m == 0 then .inf true
    else if s then .nan
    else
      let n := Nat.log2 m
      let f := log2Bits 96 (m * 2 ^ expBits / 2 ^ n) 0
      let v : Int := ((n : Int) + e) * ((2 ^ 96 : Nat) : Int) + (f : Int)
      if v == 0 then .fin false 0 0 else (FV.fin (decide (v < 0)) v.natAbs (-96)).r32

/-- The FP32 quotient rounded to nearest-even (10 R298). -/
def div32 (x y : FV) : FV :=
  match x, y with
  | .nan, _ => .nan
  | _, .nan => .nan
  | .inf _, .inf _ => .nan
  | .inf a, .fin b _ _ => .inf (a != b)
  | .fin a _ _, .inf b => .fin (a != b) 0 0
  | .fin a m e, .fin b n f =>
    if n == 0 then (if m == 0 then .nan else .inf (a != b))
    else
      let k := 64 + Nat.log2 n
      let q := m * 2 ^ k / n
      let sticky := bit (m * 2 ^ k % n != 0)
      (FV.fin (a != b) (2 * q + sticky) (e - f - k - 1)).r32

/-! ## Packed rows (R270) and shared scales (R252) -/

/-- Element `i` of a packed row. -/
def elemCode (code : Nat) (row : List Byte) (i : Nat) : Nat :=
  let b := bitsOfFmt code
  let bit0 := b * i
  let v := num row (bit0 / 8) ((bit0 % 8 + b + 7) / 8)
  v / 2 ^ (bit0 % 8) % 2 ^ b

/-- The value of element `i` of a packed row, INT8 included, before its scale. -/
def elemVal (code : Nat) (row : List Byte) (i : Nat) : FV :=
  let c := elemCode code row i
  if code == 9 then (if c < 128 then .fin false c 0 else .fin true (256 - c) 0) else (fmtOf code).decode c

/-- Codes packed into a row. -/
def packRow (code : Nat) (cs : List Nat) : List Byte :=
  let b := bitsOfFmt code
  le ((b * cs.length + 7) / 8) (cs.zipIdx.foldl (fun a (c, i) => a + c * 2 ^ (b * i)) 0)

/-- Bytes of a row of `n` elements. -/
def rowBytes (code n : Nat) : Nat := (bitsOfFmt code * n + 7) / 8

/-- Scale bytes of a row of `n` elements. -/
def scaleBytes (code n : Nat) : Nat := if isMx code then (n + 31) / 32 else 0

/-- One operand row: its format, elements and scale bytes. -/
structure Row where
  code : Nat
  elems : List Byte
  scales : List Byte
  deriving DecidableEq, Repr

/-- The scale code of group `g`. -/
def Row.scale (r : Row) (g : Nat) : Nat := if isMx r.code then num r.scales g 1 else 0x7F

/-! ## The array (R256 to R259) -/

/-- One dot product over `n` elements, from `acc` (R256, R257). Widening is exact (R259), so the elements enter as they
are. -/
def dot (a b : Row) (n : Nat) (acc : FV) : FV :=
  (List.range ((n + 31) / 32)).foldl (fun acc g =>
    let sa := a.scale g
    let sb := b.scale g
    if sa == 0xFF || sb == 0xFF then .nan
    else
      let idx := (List.range 32).filter fun i => 32 * g + i < n
      let s := FV.sum (idx.map fun i => (elemVal a.code a.elems (32 * g + i)).mul (elemVal b.code b.elems (32 * g + i)))
      -- elements the format unit pads with are +0
      let s := if idx.length < 32 then s.add .zero else s
      (acc.add ((s.scale ((sa : Int) - 127 + ((sb : Int) - 127))).r32)).r32) acc

/-- An INT8 element as a 32-bit number. -/
def int8At (row : List Byte) (i : Nat) : Nat :=
  let c := num row i 1
  if c < 128 then c else 2 ^ 32 - (256 - c)

/-- An INT8 dot product, wrapping modulo 2^32 (R258). -/
def dotInt (a b : Row) (n acc : Nat) : Nat :=
  (List.range n).foldl (fun acc i => (acc + int8At a.elems i * int8At b.elems i) % 2 ^ 32) acc

/-- A 32-bit two's-complement number as an exact value. -/
def ofInt32 (v : Nat) : FV := if v < 2 ^ 31 then .fin false v 0 else .fin true (2 ^ 32 - v) 0

/-! ## The shared scale (R264) -/

/-- The exponent of the largest element of an MX element format (R264). -/
def emaxOf (code : Nat) : Int :=
  match code with
  | 4 => 8
  | 5 => 15
  | 6 => 4
  | _ => 2

def FV.notFinite : FV → Bool
  | .fin _ _ _ => false
  | _ => true

/-- A group of 32 inputs encoded: its scale, its element codes, and the events (R264). -/
def encodeGroup (code : Nat) (xs : List FV) : Nat × List Nat × Nat × Nat :=
  let f := fmtOf code
  if xs.any FV.notFinite then (0xFF, xs.map fun _ => 0, 0, 1)
  else if xs.all FV.isZero then
    (0, xs.map fun x => match x with | .fin s _ _ => f.signBit s | _ => 0, 0, 0)
  else
    let mag := fun (x : FV) => match x with | .fin _ m e => FV.fin false m e | x => x
    let amax := xs.foldl (fun a x => if a.lt (mag x) then mag x else a) FV.zero
    let lg : Int := match amax with | .fin _ m e => (Nat.log2 m : Int) + e | _ => 0
    let e := min (max (lg - emaxOf code) (-127)) 127
    let rs := xs.map fun x => f.convert (x.scale (-e))
    ((e + 127).toNat, rs.map (·.1), sumOf (·.2.1) rs, 0)

/-- A row of inputs encoded in a stored format: element codes, scales, saturation and non-finite events (R264). -/
def encodeRow (code : Nat) (xs : List FV) : List Nat × List Nat × Nat × Nat :=
  if isMx code then
    (List.range ((xs.length + 31) / 32)).foldl (fun (acc : List Nat × List Nat × Nat × Nat) g =>
      let (sc, cs, st, nf) := encodeGroup code ((xs.drop (32 * g)).take 32)
      (acc.1 ++ cs, acc.2.1 ++ [sc], acc.2.2.1 + st, acc.2.2.2 + nf)) ([], [], 0, 0)
  else
    let rs := xs.map (fmtOf code).convert
    (rs.map (·.1), [], sumOf (·.2.1) rs, sumOf (·.2.2) rs)

end Sys2Proof.Machine
end

