-- ==== Sys2Proof/Machine/Hash.lean ====
section
/-! DEFINITION. The digests and the signature check the spec names: BLAKE2s (RFC 7693; 12 R349, 15 R462), SHA-384
and ECDSA on P-384 (19 R570), and the reflected CRC-64 of ECMA-182 (11 R334). -/
namespace Sys2Proof.Machine

/-! ## Constants drawn from roots of primes (FIPS 180-4; RFC 7693) -/

/-- The primes below 410: the first 80. -/
def hashPrimes : List Nat := (List.range 410).filter fun p => 2 ≤ p && (List.range 19).all fun d => p ≤ d + 2 || p % (d + 2) != 0

/-- The greatest number whose power is at most `n`, found bit by bit from the bits below `b` upon `r`. -/
def rootFrom (k n : Nat) : Nat → Nat → Nat
  | 0, r => r
  | b + 1, r => rootFrom k n b (if (r + 2 ^ b) ^ k ≤ n then r + 2 ^ b else r)

/-- The first `w` bits of the fraction of a prime's `k`-th root. -/
def rootBits (k w p : Nat) : BitVec w := BitVec.ofNat w (rootFrom k (p * 2 ^ (k * w)) (w + 5) 0)

/-! ## BLAKE2s -/

def blakeIV : List (BitVec 32) := (hashPrimes.take 8).map (rootBits 2 32)

def blakeSigma : List (List Nat) :=
  [[0, 1, 2, 3, 4, 5, 6, 7, 8, 9, 10, 11, 12, 13, 14, 15], [14, 10, 4, 8, 9, 15, 13, 6, 1, 12, 0, 2, 11, 7, 5, 3],
   [11, 8, 12, 0, 5, 2, 15, 13, 10, 14, 3, 6, 7, 1, 9, 4], [7, 9, 3, 1, 13, 12, 11, 14, 2, 6, 5, 10, 4, 0, 15, 8],
   [9, 0, 5, 7, 2, 4, 10, 15, 14, 1, 11, 12, 6, 8, 3, 13], [2, 12, 6, 10, 0, 11, 8, 3, 4, 13, 7, 5, 15, 14, 1, 9],
   [12, 5, 1, 15, 14, 13, 4, 10, 0, 7, 6, 3, 9, 2, 8, 11], [13, 11, 7, 14, 12, 1, 3, 9, 5, 0, 15, 4, 8, 6, 2, 10],
   [6, 15, 14, 9, 11, 3, 0, 8, 12, 2, 13, 7, 1, 4, 10, 5], [10, 2, 8, 4, 7, 6, 1, 5, 15, 11, 9, 14, 3, 12, 13, 0]]

/-- One mixing of four words of the work vector. -/
def blakeG (v : List (BitVec 32)) (a b c d : Nat) (x y : BitVec 32) : List (BitVec 32) :=
  let va := v.getD a 0 + v.getD b 0 + x
  let vd := (v.getD d 0 ^^^ va).rotateRight 16
  let vc := v.getD c 0 + vd
  let vb := (v.getD b 0 ^^^ vc).rotateRight 12
  let va := va + vb + y
  let vd := (vd ^^^ va).rotateRight 8
  let vc := vc + vd
  let vb := (vb ^^^ vc).rotateRight 7
  (((v.set a va).set b vb).set c vc).set d vd

def blakeRound (m : List (BitVec 32)) (v : List (BitVec 32)) (sg : List Nat) : List (BitVec 32) :=
  [(0, 4, 8, 12), (1, 5, 9, 13), (2, 6, 10, 14), (3, 7, 11, 15), (0, 5, 10, 15), (1, 6, 11, 12), (2, 7, 8, 13),
    (3, 4, 9, 14)].zipIdx.foldl (fun v ((a, b, c, d), i) =>
      blakeG v a b c d (m.getD (sg.getD (2 * i) 0) 0) (m.getD (sg.getD (2 * i + 1) 0) 0)) v

/-- The compression of one 64-byte block; `t` counts the bytes taken so far. -/
def blakeF (h : List (BitVec 32)) (block : List Byte) (t : Nat) (last : Bool) : List (BitVec 32) :=
  let m := (List.range 16).map fun i => BitVec.ofNat 32 (num block (4 * i) 4)
  let v := h ++ blakeIV
  let v := v.set 12 (v.getD 12 0 ^^^ BitVec.ofNat 32 t)
  let v := v.set 13 (v.getD 13 0 ^^^ BitVec.ofNat 32 (t / 2 ^ 32))
  let v := if last then v.set 14 (~~~ (v.getD 14 0)) else v
  let v := blakeSigma.foldl (blakeRound m) v
  (List.range 8).map fun i => h.getD i 0 ^^^ v.getD i 0 ^^^ v.getD (i + 8) 0

/-- The blocks of a message, the last one final. -/
def blakeBlocks : Nat → List (BitVec 32) → List Byte → Nat → List (BitVec 32)
  | 0, h, _, _ => h
  | fuel + 1, h, msg, t =>
    if msg.length ≤ 64 then blakeF h (pad 64 msg) (t + msg.length) true
    else blakeBlocks fuel (blakeF h (msg.take 64) (t + 64) false) (msg.drop 64) (t + 64)

/-- BLAKE2s with a digest of `n` bytes and a key of at most 32 bytes (none: unkeyed). -/
def blake2s (n : Nat) (key msg : List Byte) : List Byte :=
  let h0 := blakeIV.set 0 (blakeIV.getD 0 0 ^^^ BitVec.ofNat 32 (0x01010000 + 256 * key.length + n))
  let all := if key.isEmpty then msg else pad 64 key ++ msg
  ((blakeBlocks (all.length / 64 + 1) h0 all 0).flatMap fun w => le 4 w.toNat).take n

/-! ## SHA-384 (FIPS 180-4) -/

/-- The eight working words. -/
structure ShaWork where
  a : BitVec 64
  b : BitVec 64
  c : BitVec 64
  d : BitVec 64
  e : BitVec 64
  f : BitVec 64
  g : BitVec 64
  h : BitVec 64
  deriving DecidableEq, Repr

/-- Three rotations of a word, or two and a shift, added without carry. -/
def turn3 (x : BitVec 64) (i j k : Nat) : BitVec 64 := x.rotateRight i ^^^ x.rotateRight j ^^^ x.rotateRight k
def turn2 (x : BitVec 64) (i j k : Nat) : BitVec 64 := x.rotateRight i ^^^ x.rotateRight j ^^^ (x >>> k)

/-- One of the 80 rounds, with the round's constant and message word already added. -/
def ShaWork.next (x : ShaWork) (kw : BitVec 64) : ShaWork :=
  let chosen := x.g ^^^ (x.e &&& (x.f ^^^ x.g))
  let most := (x.a &&& x.b) ||| (x.c &&& (x.a ||| x.b))
  let add := kw + chosen + turn3 x.e 14 18 41 + x.h
  { a := add + most + turn3 x.a 28 34 39, b := x.a, c := x.b, d := x.c, e := x.d + add, f := x.e, g := x.f, h := x.g }

def ShaWork.plus (x y : ShaWork) : ShaWork :=
  ⟨x.a + y.a, x.b + y.b, x.c + y.c, x.d + y.d, x.e + y.e, x.f + y.f, x.g + y.g, x.h + y.h⟩

/-- The rounds of one block: `win` holds the next sixteen words of the message schedule. -/
def shaRounds : List (BitVec 64) → List (BitVec 64) → ShaWork → ShaWork
  | [], _, x => x
  | k :: ks, win, x =>
    let w := fun i => win.getD i 0
    shaRounds ks (win.tail ++ [turn2 (w 14) 19 61 6 + w 9 + turn2 (w 1) 1 8 7 + w 0]) (x.next (k + w 0))

/-- The hash after each further block of 128 bytes. -/
def shaChain (ks : List (BitVec 64)) : Nat → List Byte → ShaWork → ShaWork
  | 0, _, x => x
  | n + 1, msg, x =>
    let words := (List.range 16).map fun i => BitVec.ofNat 64 (ofBe (slice msg (8 * i) 8))
    shaChain ks n (msg.drop 128) (x.plus (shaRounds ks words x))

/-- The hash before the first block: from the square roots of the ninth to sixteenth primes. -/
def sha384Start : ShaWork :=
  let iv := fun i => rootBits 2 64 (hashPrimes.getD (8 + i) 2)
  ⟨iv 0, iv 1, iv 2, iv 3, iv 4, iv 5, iv 6, iv 7⟩

def sha384 (msg : List Byte) : List Byte :=
  let blocks := (msg.length + 17 + 127) / 128
  let filled := msg ++ 0x80 :: zeros (128 * blocks - msg.length - 17) ++ be 16 (8 * msg.length)
  let x := shaChain (hashPrimes.map (rootBits 3 64)) blocks filled sha384Start
  [x.a, x.b, x.c, x.d, x.e, x.f].flatMap fun w => be 8 w.toNat

/-! ## ECDSA on P-384 -/

def p384P : Nat := 2 ^ 384 - 2 ^ 128 - 2 ^ 96 + 2 ^ 32 - 1
def p384N : Nat :=
  0xffffffffffffffffffffffffffffffffffffffffffffffffc7634d81f4372ddf581a0db248b0a77aecec196accc52973
def p384B : Nat :=
  0xb3312fa7e23ee7e4988e056be3f82d19181d9c6efe8141120314088f5013875ac656398d8a2ed19d2a85c8edd3ec2aef
def p384Gx : Nat :=
  0xaa87ca22be8b05378eb1c71ef320ad746e1d3b628ba79b9859f741e082542a385502f25dbf55296c3a545e3872760ab7
def p384Gy : Nat :=
  0x3617de4a96262c6f5d9e98bf9292dc29f8f41dbd289a147ce9da3113b5f0b8c00a60b1ce1d7e819d7a431d7c90ea0e5f

/-- `b ^ e mod m`, over the 384 bits of the exponent. -/
def powMod (m : Nat) : Nat → Nat → Nat → Nat → Nat
  | 0, _, _, acc => acc
  | k + 1, b, e, acc => powMod m k (b * b % m) (e / 2) (if e % 2 = 1 then acc * b % m else acc)

/-- The inverse modulo a prime below 2^384. -/
def invMod (m a : Nat) : Nat := powMod m 384 (a % m) (m - 2) 1

/-- A point of the curve, or the point at infinity. -/
abbrev EcPt := Option (Nat × Nat)

def ecAdd (p q : EcPt) : EcPt :=
  match p, q with
  | none, q => q
  | p, none => p
  | some (x1, y1), some (x2, y2) =>
    if x1 = x2 ∧ (y1 + y2) % p384P = 0 then none
    else
      let l := if x1 = x2 then (3 * x1 * x1 + (p384P - 3)) % p384P * invMod p384P (2 * y1) % p384P
        else (y2 + p384P - y1) % p384P * invMod p384P ((x2 + p384P - x1) % p384P) % p384P
      let x3 := (l * l + 2 * p384P - x1 - x2) % p384P
      some (x3, (l * ((x1 + p384P - x3) % p384P) + p384P - y1) % p384P)

def ecMul : Nat → Nat → EcPt → EcPt → EcPt
  | 0, _, _, acc => acc
  | k + 1, e, p, acc => ecMul k (e / 2) (ecAdd p p) (if e % 2 = 1 then ecAdd acc p else acc)

/-- X and Y are the coordinates of a point on the curve (19 R585). -/
def onCurve (x y : Nat) : Bool :=
  x < p384P && y < p384P && (y * y) % p384P == (x * x * x + (p384P - 3) * x + p384B) % p384P

/-- The two coordinates of a stored public key: its 96 bytes hold X then Y, each big-endian (19 R568). -/
def keyXY (key : BitVec 768) : Nat × Nat :=
  let bs := le 96 key.toNat
  (ofBe (bs.take 48), ofBe (bs.drop 48))

/-- ECDSA verification with SHA-384 of a signature r then s, 48 bytes each, big-endian (19 R569, R570). -/
def ecdsaOk (key sig : BitVec 768) (msg : List Byte) : Bool :=
  let (x, y) := keyXY key
  let (r, s) := keyXY sig
  let e := ofBe (sha384 msg)
  let w := invMod p384N s
  let pt := ecAdd (ecMul 384 (e * w % p384N) (some (p384Gx, p384Gy)) none) (ecMul 384 (r * w % p384N) (some (x, y)) none)
  onCurve x y && 0 < r && r < p384N && 0 < s && s < p384N &&
    (match pt with | none => false | some (px, _) => px % p384N == r)

/-! ## CRC-64 (11 R334) -/

def crcStep : Nat → Nat → Nat
  | 0, c => c
  | k + 1, c => crcStep k (if c % 2 = 1 then (c / 2) ^^^ 0xC96C5795D7870F42 else c / 2)

def crcByte (c : Nat) (b : Byte) : Nat := crcStep 8 (c ^^^ b.toNat)

/-- The CRC-64 register after more bytes; it starts at all ones and is complemented at the end. -/
def crcBytes (c : Nat) (bs : List Byte) : Nat := bs.foldl crcByte c

def crc64 (bs : List Byte) : Nat := crcBytes (2 ^ 64 - 1) bs ^^^ (2 ^ 64 - 1)

end Sys2Proof.Machine
end

