-- ==== Sys2Proof/Machine/State.lean ====
section
/-! DEFINITION. The state of the block: every piece of state the spec gives the machine (INVENTORY.md), the
queue of commands, and the state right after reset. -/
namespace Sys2Proof.Machine

/-! ## Placement, wells and cisterns (02, 03) -/

/-- A placement (02 R28, 03 R66): PLACE 0x0, 0x1, 0x4 to 0x7. -/
inductive Place where
  | free | spread | loc (d : DieId)
  deriving DecidableEq, Repr

/-- One entry of the granule table (02 R28). -/
structure Granule where
  place : Place := .free
  q0 : Nat := 0
  q1 : Nat := 0
  q2 : Nat := 0
  q3 : Nat := 0
  mig : Bool := false
  deriving DecidableEq, Repr

/-- The states of a well (03 R56). -/
inductive WellSt where
  | free | creating | live | migrating | resizing | destroying
  deriving DecidableEq, Repr

/-- A grant of a well to a station that is not NONE (03 R57, R74). -/
structure Grant where
  fenced : Bool := false
  w : Bool
  dec : Nat
  deriving DecidableEq, Repr

/-- A MIGRATE in progress (03 R89 to R94). `point` is the copy point; `transit` says that the chunk at
the point (below it under a cancel) is in transit. `wb` is the waybill of the MIGRATE, `cancel` that of a
running cancel. -/
structure Mig where
  point : Nat := 0
  start : Nat
  place : Place
  rate : Nat
  transit : Bool := false
  stopped : Bool := false
  /-- The chunk in transit was on its way to the target when the cancel came (03 R94). -/
  turning : Bool := false
  wb : Nat
  cancel : Option Nat := none
  deriving DecidableEq, Repr

/-- A WELL_RESIZE in progress: the length it ends with and its waybill (03 R69). -/
structure Resize where
  newLen : Nat
  wb : Nat
  deriving DecidableEq, Repr

/-- Mirror states of a MIRRORED well (16 R493). -/
inductive MirSt where
  | sync | resync | degraded | fenced
  deriving DecidableEq, Repr

/-- The mirror data of a MIRRORED well (16 R492, R493, R501). -/
structure Mirror where
  primary : Bool
  /-- This module's side is the well's origin (R492; 20 R609). -/
  origin : Bool
  st : MirSt
  twinStart : Nat
  /-- A copy that a module reset has left without its contents (20 R600). -/
  restored : Bool := false
  /-- The primary's length, which this copy takes once what it does now is over (03 R69; 20 R600). -/
  want : Option Nat := none
  deriving DecidableEq, Repr

/-- One well-table entry (03 R47, R51, R74). `gen` outlives the well. -/
structure Well where
  gen : Nat := 0
  st : WellSt := .free
  place : Place := .free
  coh : Bool := false
  kvb16 : Bool := false
  owner : Nat := 0
  /-- The cistern's index, for a CISTERN well. -/
  cistern : Option Nat := none
  start : Nat := 0
  length : Nat := 0
  grants : Tab Grant := []
  mig : Option Mig := none
  resize : Option Resize := none
  mirror : Option Mirror := none
  /-- The waybill of the WELL_CREATE or WELL_DESTROY that runs, if one does. -/
  wb : Option Nat := none
  /-- A copy that restore left to be filled with poison or zeros (20 R599). -/
  toFill : Bool := false
  /-- Its destroy waits until its MIGRATE can end (03 R91; 06 R169). -/
  doomed : Bool := false
  deriving DecidableEq, Repr

/-- The states of a cistern (03 R58). -/
inductive CisSt where
  | free | live | down | recovering | dissolving
  deriving DecidableEq, Repr

/-- A recovery's mode (03 R79). -/
inductive RecMode where
  | zero | keep | dissolve
  deriving DecidableEq, Repr

/-- One cistern-table entry (03 R80) with the record of its last declaration (06 R161, R176). Holders are
numbered 0 to 47 for stations and 48 for the twin. -/
structure Cistern where
  gen : Nat := 0
  st : CisSt := .free
  name : BitVec 128 := 0
  tBi : Nat := 20
  members : List Nat := []
  twin : Bool := false
  downCause : Nat := 0
  downStation : Nat := 0xFF
  downTime : Nat := 0
  dead : List Nat := []
  lost : List Nat := []
  lostCount : Nat := 0
  sweptWb : Nat := 0
  droppedWr : Nat := 0
  /-- The down walk has not yet ended (06 R162). -/
  walking : Bool := false
  /-- The recovery accepted, with its waybill here (none when the twin accepted it). -/
  recover : Option (RecMode × Option Nat) := none
  /-- CISTERN_LEAVE commands that run: (station, waybill). -/
  leaving : List (Nat × Nat) := []
  /-- Lines whose E or M holder at the declaration may still write back: (DPA line, holder) (06 R166). -/
  expectWb : List (Nat × Nat) := []
  /-- Wells whose copy here a ZERO recovery has zeroed (06 R175). -/
  zeroed : List Nat := []
  deriving DecidableEq, Repr

/-- Why a revocation runs (03 R81, R87; 20 R605; 16 R491; 19 R584). -/
inductive RevCause where
  | revoke (wb : Nat)
  | destroy
  | shrink
  | leave (wb : Nat)
  | uncommit
  | reset
  | dead
  | drain
  | unpair (wb : Nat)
  | ide
  deriving DecidableEq, Repr

/-- One revocation sequence in progress (03 R81): the grant of `well` to `station`, over the bytes from
`frm` up; whether the station failed to answer (R85). -/
structure Rev where
  well : Nat
  station : Nat
  frm : Nat := 0
  start : Nat
  deadHost : Bool := false
  snoops : Bool := true
  cause : RevCause
  /-- Its 50 us have come (03 R83). -/
  late : Bool := false
  deriving DecidableEq, Repr

/-- The pool: granules, wells, cisterns, revocations, and the freed runs not yet zeroed
(02, 03). -/
structure Pool where
  granules : Tab Granule := []
  wells : Tab Well := []
  cisterns : Tab Cistern := []
  revs : List Rev := []
  /-- Freed runs (DPA, length) whose bytes await zeroing (03 R66). -/
  dirtyRuns : List (Nat × Nat) := []
  deriving DecidableEq, Repr

/-! ## The homes: directory and device cache (04, 05) -/

/-- What a directory entry says of its exclusive holder; with none its holders hold S (O where the home
copy is dirty: 04 R105). -/
inductive Excl where
  | none | e | m
  deriving DecidableEq, Repr

/-- One directory entry (04 R101, R102). `key` is the DPA of its line; `ways` one way in pointer form and
two in vector form. `record` marks the grant record of the twin (06 R178). -/
structure DirEnt where
  key : Nat
  die : Nat
  set : Nat
  ways : List Nat
  excl : Excl := .none
  holders : List Nat
  held : Bool := false
  holdEnd : Nat := 0
  age : Nat := 0
  record : Bool := false
  deriving DecidableEq, Repr

/-- The kinds of a back-invalidate snoop (04 R109). -/
inductive BiKind where
  | cur | data | inv
  deriving DecidableEq, Repr

/-- Who waits for a line access, and for what part of it. -/
inductive Origin where
  /-- A CXL.mem request of a station at an HPA. -/
  | host (n : Nat) (hpa : Nat)
  /-- Line `i` of the aperture read `id` of station `n`, or a line of an aperture write. -/
  | aperRead (n : Nat) (id : Nat) (i : Nat)
  | aperWrite (n : Nat) (offset : Nat)
  /-- Line `i` of the tile with number `tile` that the job with this id loads. -/
  | tile (job tile : Nat) (i : Nat)
  /-- A line of the write tile `tile` of a job, from the write queue of a pump. -/
  | jobWrite (job pump tile : Nat)
  /-- Line `k` of a job's descriptor (11 R313; 08 R238). -/
  | desc (job : Nat) (k : Nat)
  /-- A job's completion record, and its seal (11 R317; 07 R197). -/
  | record (job : Nat)
  | seal (job : Nat)
  /-- Atomic operation `i` of a job (07 R209). -/
  | atom (job : Nat) (i : Nat)
  /-- A request of the twin. -/
  | twin (id : Nat)
  /-- An access the block makes on its own. -/
  | own
  deriving DecidableEq, Repr

/-- The request classes of the action tables (04 R109, R112, R113; 07 R209). -/
inductive ReqKind where
  | rdS | rdA | rdOwn | rdCur | invOwn | drop | wb | wbS | ucWr
  | plainRd | plainWr | swaRd | swaWr
  /-- AOP and WIDTH, the byte of the line, OPERAND and COMPARE (11 R335). -/
  | atomic (aop width pos : Nat) (operand compare : Nat)
  deriving DecidableEq, Repr

/-- A request to a line of a well: the well's index and generation and the line's offset in it. -/
structure Req where
  org : Origin
  kind : ReqKind
  well : Nat
  gen : Nat
  off : Nat
  data : Line := 0
  mask : BitVec 64 := 0
  /-- The write carries poison (17 R514). -/
  pois : Bool := false
  /-- The order in which requests reached the block. -/
  seq : Nat := 0
  /-- In the retry store: when it returned there (04 R116). -/
  since : Nat := 0
  deriving DecidableEq, Repr

/-- What holds a line B (04 R106, R113). -/
inductive Purpose where
  | serve (r : Req)
  | evict
  | quota (n : Nat)
  | revoke (well n : Nat)
  | down (c : Nat)
  | recall
  | twinSnoop (id : Nat)
  deriving DecidableEq, Repr

/-- A transaction that holds a line B: the line, its purpose, and the holders that have not answered. -/
structure Txn where
  key : Nat
  purpose : Purpose
  wait : List Nat
  /-- The entry as it stood when it moved to the eviction buffer (04 R127). -/
  evicted : Option DirEnt := none
  /-- Snoops of the twin answered with this recall, on a line whose own request is at the primary (04 R125; 16 R495). -/
  asks : List Nat := []
  deriving DecidableEq, Repr

/-- A back-invalidate snoop outstanding (04 R123): the HPA it names at its holder, and its deadline. -/
structure Snoop where
  key : Nat
  holder : Nat
  hpa : Nat
  kind : BiKind
  deadline : Nat
  cistern : Nat
  deriving DecidableEq, Repr

/-- The four home dies' directory slices, transactions and queues (04). -/
structure Home where
  dir : List DirEnt := []
  txns : List Txn := []
  snoops : List Snoop := []
  /-- Line-wait queues, in order of arrival: (die, request) (04 R115). -/
  waitq : List (Nat × Req) := []
  /-- Retry stores, in order of arrival (04 R116). -/
  retry : List Req := []
  /-- Requests held for a chunk in transit, a switchover gap or a dormant die (03 R90, 06 R180, 18 R560). -/
  held : List Req := []
  /-- BIRsps that wait behind a held write-back of their line: (station, HPA, answer) (04 R111). -/
  rsps : List (Nat × Nat × BiRsp) := []
  seq : Nat := 0
  tHold : Nat := 160
  /-- Directory quotas that differ from 1,048,576 (04 R129). -/
  quotas : Tab Nat := []
  /-- Lines whose directory entry is lost and whose recall waits for the line to be free (17 R521). -/
  lost : List Nat := []
  deriving DecidableEq, Repr

/-- The key of a device-cache line (05 R133, R134). -/
inductive CKey where
  | pool (dpa : Nat)
  | host (n : Nat) (hpa : Nat)
  deriving DecidableEq, Repr

/-- CXL.cache states of a host line (05 R135). -/
inductive HostSt where
  | s | e | m
  deriving DecidableEq, Repr

/-- One valid or retained way of a device-cache slice (05 R132, R135). -/
structure CLine where
  key : CKey
  die : Nat
  set : Nat
  way : Nat
  data : Line
  pois : Bool := false
  dirty : Bool := false
  hst : HostSt := .s
  retained : Bool := false
  /-- Of a retained pool line: the die address of its tag (05 R134). -/
  tagAt : Option Nat := none
  age : Nat := 0
  deriving DecidableEq, Repr

/-- The states of a slice (05 R146). -/
inductive SliceSt where
  | enabled | disabling | disabled | flushing | invalidating
  deriving DecidableEq, Repr

/-- A slice: its state, STALE, the state an INVALIDATE started from, and the waybill of the operation that
walks it (05 R146, R148). `opens` says that an ENABLE with INVALIDATE_FIRST walks it: it serves no lookup until its
retained lines have gone (R152). -/
structure Slice where
  st : SliceSt := .enabled
  stale : Bool := false
  frm : SliceSt := .enabled
  wb : Option Nat := none
  opens : Bool := false
  deriving DecidableEq, Repr

/-- The source of a write as the streaming detector sees it (05 R142). -/
inductive Src where
  | stn (n : Nat) | pump (p : Nat) | xo
  deriving DecidableEq, Repr

/-- A stream tracker (05 R142, R143): lines are die-address lines or HPA lines. -/
structure Tracker where
  die : Nat
  slot : Nat
  src : Src
  host : Bool
  start : Nat
  high : Nat
  threshold : Nat
  streaming : Bool := false
  last : Nat
  deriving DecidableEq, Repr

/-- The device cache (05). -/
structure Cache where
  lines : List CLine := []
  slices : Vector Slice 4 := Vector.replicate 4 {}
  thresholdKiB : Nat := 4
  trackers : List Tracker := []
  /-- Ways reserved for an M recall: (die, set, way, line) (05 R138). -/
  reserved : List (Nat × Nat × Nat × Nat) := []
  /-- Ways whose host line is in transfer: (number of the access at the station, die, set, way) (05 R138 to R140). -/
  moving : List (Nat × Nat × Nat × Nat) := []
  /-- H2D snoops of host lines in transfer, to be answered when the transfer ends: (station, HPA, snoop) (05 R140). -/
  snoops : List (Nat × Nat × H2D) := []
  deriving DecidableEq, Repr
/-! ## Translation (13) -/

/-- The states of a context (13 R378). -/
inductive CtxSt where
  | free | live | destroying
  deriving DecidableEq, Repr

/-- One valid range entry (13 R383). -/
structure Range where
  vbase : Nat
  length : Nat
  /-- The well handle. -/
  well : Nat
  r : Bool
  w : Bool
  a : Bool
  twin : Bool
  offset : Nat
  deriving DecidableEq, Repr

/-- One context with its valid range entries by index (13 R379, R383). -/
structure Ctx where
  st : CtxSt := .free
  diePref : Nat := 4
  name : BitVec 128 := 0
  xlateFaults : Nat := 0
  rightsFaults : Nat := 0
  rangeMisses : Nat := 0
  ranges : Tab Range := []
  /-- The waybill of a CONTEXT_DESTROY that runs. -/
  wb : Option Nat := none
  deriving DecidableEq, Repr

/-- The marks ADVISE sets on a range-cache entry (13 R410). -/
inductive RcMark where
  | none | keep | first
  deriving DecidableEq, Repr

/-- One entry of a pump's range cache, with the Start and length of its well at the fill (13 R393). The
list of a pump's entries is in order of use, the most recent first. -/
structure RcEnt where
  ctx : Nat
  idx : Nat
  start : Nat
  length : Nat
  mark : RcMark := .none
  /-- The well is tagged KVB16. -/
  kvb : Bool := false
  deriving DecidableEq, Repr

/-- What must still move before a range change completes (13 R389, R391, R392). -/
inductive SwCause where
  | cmd (wb : Nat)
  | well (i : Nat)
  /-- Entries that named a twin well of this handle were cleared (13 R391). -/
  | gone (h : Nat)
  | twin (id : Nat)
  deriving DecidableEq, Repr

/-- A range switch in progress: the tiles translated before it, by job and tile number, and its deadline. -/
structure Switch where
  tiles : List (Nat × Nat)
  /-- Write tiles with lines outstanding that were translated before it, by job and tile number. -/
  writes : List (Nat × Nat) := []
  deadline : Nat
  cause : SwCause
  /-- Entries cleared. -/
  cleared : Nat := 0
  deriving DecidableEq, Repr

/-- One entry of a station's address translation cache (13 R402). -/
structure AtcEnt where
  base : Nat
  k : Nat
  hpa : Nat
  r : Bool
  w : Bool
  deriving DecidableEq, Repr

/-- Contexts and the range switches in progress (13). -/
structure Xl where
  ctxs : Tab Ctx := []
  switches : List Switch := []
  /-- Fills that an ADVISE WILL_USE has asked of the twin: (pump, context, entry) (13 R410). -/
  advised : List (Nat × Nat × Nat) := []
  deriving DecidableEq, Repr

/-! ## Platforms, jobs, pumps (08, 11) -/

/-- The states of a platform (11 R318). -/
inductive PlatSt where
  | free | active | draining | drained | stopped | destroying
  deriving DecidableEq, Repr

/-- One platform-table entry (11 R307, R309, R310). -/
structure Platform where
  st : PlatSt := .free
  ringLost : Bool := false
  station : Nat := 0
  partition : Nat := 0
  vector : Nat := 0xFFFF
  ringWell : Nat := 0
  ringOff : Nat := 0
  context : Nat := 0
  slotsLog2 : Nat := 4
  mask : BitVec 64 := 0
  allot : Nat := 1
  free : Nat := 1
  held : Nat := 0
  accepted : Nat := 0
  consumed : Nat := 0
  /-- Indices at or above `consumed` whose slots have been read. -/
  readAhead : List Nat := []
  tail : Nat := 0
  cqWritten : Nat := 0
  cqHead : Nat := 0
  dropped : Nat := 0
  ok : Nat := 0
  failed : Nat := 0
  /-- The waybill of a PLATFORM_DRAIN or PLATFORM_DESTROY that runs. -/
  wb : Option Nat := none
  /-- Drains that run and that an ABORT or a PLATFORM_DESTROY has followed. -/
  earlier : List Nat := []
  abandoned : Nat := 0
  deriving DecidableEq, Repr

/-- A doorbell waiting for the writes that arrived before it (07 R190): `seq` is the order of its arrival. -/
structure Doorbell where
  stn : Nat
  plat : Nat
  size : Nat
  tail : Nat
  head : Nat
  rsv : Nat
  restart : Bool
  seq : Nat
  deriving DecidableEq, Repr

/-- Job statuses (11 R339). -/
inductive JobStatus where
  | done | doneReplayed | xlateFault | rightsFault | poison | stationLost | stationReset | stationTimeout
  | domainDown | aborted | badDescriptor | saturated | unitFault
  deriving DecidableEq, Repr

/-- How far a job has come (11 R313, R315, R317). -/
inductive JobStage where
  /-- Accepted; the signal box reads its descriptor to choose a pump. -/
  | peek
  /-- Accepted; no pump has it, as its partition has none or a FENCE holds it. -/
  | waiting
  /-- In pump `p`'s queue. -/
  | queued (p : Nat)
  /-- On pump `p`, which reads its descriptor. -/
  | reading (p : Nat)
  /-- On pump `p`, its descriptor read and its start row still to come. -/
  | ready (p : Nat)
  /-- Running on pump `p`. -/
  | running (p : Nat)
  /-- Its work has stopped; hold-back and release are awaited. -/
  | stopped
  /-- Ended in the sense of R315; its record waits for a slot. -/
  | ended
  /-- Its record is written and not committed. -/
  | recording
  /-- Its record is committed; the seal is to be written. -/
  | recorded
  /-- Its seal is issued and not acknowledged. -/
  | sealing
  deriving DecidableEq, Repr

/-- What the completion record says of the first failure or replay (11 R337). -/
structure Fail where
  /-- UNIT. -/
  unit : Nat
  opnd : Nat := 0
  step : Nat := 0
  addrKind : Nat := 0
  addr : Nat := 0
  temp : Nat
  rail : Nat
  time : Nat
  deriving DecidableEq, Repr

/-- Where an access of a job goes once translated (11 R325; 13 R385). -/
inductive Target where
  /-- Offset in a local well, through range `entry` of the job's context. -/
  | pool (well off : Nat)
  /-- A locale-0x1 DPA. -/
  | twin (dpa : Nat)
  /-- Scratchpad DPA. -/
  | scratch (dpa : Nat)
  /-- Host memory through a station, by HPA. -/
  | host (n hpa : Nat)
  deriving DecidableEq, Repr

/-- One line read of a tile: the operand address of the line's first wanted byte, how many bytes of the line are wanted,
where it goes, and its data once it has come (with its poison). -/
structure LineRd where
  addr : Nat
  len : Nat
  tgt : Target
  /-- The read has been issued: its data are awaited. -/
  sent : Bool := false
  got : Option (Line × Bool) := none
  deriving DecidableEq, Repr

/-- A tile that has come, where it lies: its operand and first byte, its length, its place in its buffer, and its offset in
the working area (08 R220, R225); `carry` says that poison in it does not stop the job. -/
structure Placed where
  opnd : Nat
  addr : Nat
  len : Nat
  pos : Nat
  at_ : Nat
  carry : Bool
  deriving DecidableEq, Repr

/-- A tile in flight: its number, the load of the phase it belongs to, its operand and first byte, its line reads, and the range
entries it was translated through (08 R227; 13 R389); or a tile that has come before and is loaded again (08 R225). -/
structure Tile where
  id : Nat
  load : Nat
  opnd : Nat
  addr : Nat
  reads : List LineRd
  entries : List Nat
  again : Option Placed := none
  deriving DecidableEq, Repr

/-- A tile of the write queue with lines not yet committed: its number, its operand and first byte, the range entries it was
translated through, and the atomic operation it is (13 R389). -/
structure WTile where
  id : Nat
  opnd : Nat
  addr : Nat
  entries : List Nat
  atom : Option Nat := none
  deriving DecidableEq, Repr

/-- A line the sequencer has written that has not yet entered the write queue: its tile, operand and operand address, where it
goes, its bytes and its poison. -/
structure QLine where
  tile : Nat
  opnd : Nat
  addr : Nat
  tgt : Target
  bytes : List (BitVec 8)
  pois : Bool
  deriving DecidableEq, Repr

/-- An access of this block that a station has not yet answered (05 R136 to R140; 07 R186; 14 R432): a write (`own` where a
DirtyEvict carries it), a request for ownership, a write that waits for a transfer of its line, an eviction, a flushing read,
and a read (`keep` where the line is to be cached). -/
inductive DevKind where
  | write (mask : BitVec 64) (own : Bool)
  | rdOwn (mask : BitVec 64)
  | merge (mask : BitVec 64)
  | evict
  | flush
  | read (keep : Bool)
  | ioWrite (mask : BitVec 64)
  deriving DecidableEq, Repr

/-- An access of this block outstanding at a station, with the job it serves and the operand concerned
(0x7 for the seal). -/
structure DevOut where
  id : Nat
  stn : Nat
  hpa : Nat
  kind : DevKind
  data : Line := 0
  job : Option Nat := none
  opnd : Nat := 0
  addr : Nat := 0
  deadline : Nat := 0
  pois : Bool := false
  /-- The pump whose sequencer makes it; 16 for none (08 R235). -/
  pump : Nat := 16
  deriving DecidableEq, Repr

/-- Bytes in a tile buffer, with the poisoned spans among them, one for each line: (offset, length), and the tiles they came
in. -/
structure Buf where
  bytes : List (BitVec 8) := []
  bad : List (Nat × Nat) := []
  tiles : List Placed := []
  deriving DecidableEq, Repr

/-- The progress of an operator: its phase, the operator's own counters, the loads of this phase, what it keeps between phases,
and its accumulators. -/
structure Work where
  phase : Nat := 0
  pos : Nat := 0
  idx : Nat := 0
  head : Nat := 0
  bufs : List Buf := []
  kept : List Buf := []
  /-- Tiles that a parity error has spoiled, to be loaded again (08 R225). -/
  again : List Placed := []
  /-- The buffer lines at which a parity error had a tile loaded again, one entry each time (17 R532). -/
  reloads : List Nat := []
  /-- The line of the working area at which a parity error has spoiled working data (08 R225). -/
  spoiled : Option Nat := none
  acc : List (BitVec 32) := []
  aux : List Nat := []
  /-- Atomic operations issued, and those answered: each one's number, and its old value unless its line was
  poisoned. -/
  issued : Nat := 0
  atoms : List (Nat × Option Nat) := []
  finished : Bool := false
  deriving DecidableEq, Repr

/-- A running PREFIX_INSERT (12 R366): the keys of its blocks, the block it is at, the outcomes so far, the entries that
carry its provisional references, the entry it has made PENDING, and the block of the group it copies. -/
structure Insert where
  ns : Nat
  depth0 : Nat
  parent : Option Nat
  keys : List (BitVec 128) := []
  at_ : Nat := 0
  outs : List (Nat × Nat) := []
  refd : List Nat := []
  pend : Option Nat := none
  blk : Nat := 0
  /-- The block waits for a PENDING entry of another job. -/
  waits : Bool := false
  deriving DecidableEq, Repr

/-- Replay of the current step (08 R246). -/
inductive Replay where
  | none
  /-- First replay on the same pump. -/
  | first (op : StepOp)
  /-- The first replay failed; another pump is awaited until the deadline. -/
  | wait (op : StepOp) (deadline : Nat)
  /-- Third execution, on pump `q`. -/
  | third (op : StepOp) (q : Nat)
  deriving DecidableEq, Repr

/-- One accepted job until its record and seal are done (11 R313). -/
structure Job where
  id : Nat
  plat : Nat
  idx : Nat
  stage : JobStage := .waiting
  desc : List (BitVec 8) := []
  /-- Its slot has been read by what runs it. -/
  read : Bool := false
  opcode : Nat := 0
  tag : BitVec 64 := 0
  work : Work := {}
  /-- The two lines of its descriptor, as far as they have come, and the well offset of a poisoned one. -/
  slot : List (Option (Line × Bool)) := [none, none]
  slotBad : Option Nat := none
  /-- Tiles in flight, in the order of their issue. -/
  tiles : List Tile := []
  nextTile : Nat := 0
  replay : Replay := .none
  replays : Nat := 0
  /-- An injection has failed an execution of the current step (17 R541). -/
  injected : Bool := false
  sat : Nat := 0
  nf : Nat := 0
  status : Option JobStatus := none
  fail : Option Fail := none
  /-- Writes of the job not yet committed, and those not yet acknowledged elsewhere. -/
  poolOut : Nat := 0
  twinOut : List Nat := []
  /-- Write tiles with lines outstanding, and lines that wait to enter the write queue (08 R233). -/
  wTiles : List WTile := []
  wq : List QLine := []
  /-- The pump in whose queue it waits reads its descriptor early (08 R234). -/
  early : Bool := false
  /-- Its ring was lost: it ends without a record (11 R319). -/
  noRecord : Bool := false
  /-- Its platform as it stood when it was freed (11 R321). -/
  was : Option Platform := none
  /-- Its completion record or its seal is on its way. -/
  lastOut : Bool := false
  /-- What its record says of its end where it met no failure (11 R337). -/
  atEnd : Option Fail := none
  /-- Stations through which the job has written host memory, with the last line written. -/
  hostWrote : Tab Nat := []
  /-- Host lines it has left in M in the device cache, by station and HPA (07 R198). -/
  mLines : List (Nat × Nat) := []
  /-- The last locale-0x1 line it wrote. -/
  twinLast : Option Nat := none
  /-- Its PREFIX_INSERT. -/
  ins : Option Insert := none
  /-- Its context's die preference when it was accepted (13 R410). -/
  pref : Nat := 4
  /-- Stations lost (false) or reset (true) while its descriptor was still to be read (11 R341). -/
  gone : List (Nat × Bool) := []
  /-- Entries of its namespace that were PENDING when it started (12 R377). -/
  pendAt : List Nat := []
  /-- The bound of an EVEN lookup (12 R364). -/
  even : Option Nat := none
  /-- The place of a prefix job in the order in which they start (12 R377). -/
  started : Nat := 0
  /-- SEAL_GLOBAL's own steps: none, the evictions sent, the flushing reads sent (07 R198). -/
  flushed : Nat := 0
  /-- The pump that ran it last. -/
  lastPump : Nat := 0
  /-- The step began at this time (17 R520 PUMP_HANG). -/
  stepStart : Nat := 0
  deriving DecidableEq, Repr

/-- Pump clock states (08 R237, 18 R557). -/
inductive PumpClk where
  | hot | warm | cold
  deriving DecidableEq, Repr

/-- One pump (08 R214, R234, R237; 17 R537, R541). -/
structure Pump where
  clk : PumpClk := .cold
  waking : Bool := false
  part : Option Nat := some 0
  queue : List Nat := []
  job : Option Nat := none
  since : Nat := 0
  /-- Judged permanently faulty; `some true` through injection only (08 R249). -/
  permanent : Option Bool := none
  parityInj : Nat := 0
  csumInj : Nat := 0
  /-- Taken out for the known-answer test: the part running, from 0. -/
  test : Option Nat := none
  /-- The part to run next, and how many have run in this time out (17 R537). -/
  katNext : Nat := 0
  katRun : Nat := 0
  katFails : Nat := 0
  /-- An injection failed the part that is repeated (17 R541). -/
  katInj : Bool := false
  /-- Taken out for an update of PM, or by a block reset. -/
  updating : Bool := false
  resetting : Bool := false
  /-- The partition it joins once idle and zeroed (08 R242). -/
  moving : Option (Option Nat) := none
  rcache : List RcEnt := []
  /-- Range entries whose last fill found the twin's handle stale: their bytes have no mapping (13 R393). -/
  rcStale : List (Nat × Nat) := []
  /-- Ended jobs whose writes a release at PUMP scope has covered and that are still in the write queue (08 R236). -/
  covered : List Nat := []
  deriving DecidableEq, Repr

/-- One pump partition (08 R240, R241). -/
structure Part where
  lwait : Nat := 0
  quota : List Nat := [0, 0, 0, 0]
  deriving DecidableEq, Repr

/-- A PARTITION_SET that runs (11 R323). -/
structure PartRun where
  part : Nat
  pumps : List Nat
  wb : Nat
  deriving DecidableEq, Repr

/-- Platforms, jobs and pumps (08, 11). -/
structure Jobs where
  plats : Tab Platform := []
  doorbells : List Doorbell := []
  jobs : List Job := []
  /-- Ids of ended jobs in the order their records are written (11 R315). -/
  endOrder : List Nat := []
  nextId : Nat := 0
  pumps : Vector Pump 16 := Vector.replicate 16 {}
  parts : Vector Part 16 := (Vector.replicate 16 {}).set 0 ⟨12, [16, 16, 16, 16]⟩
  partRuns : List PartRun := []
  devOut : List DevOut := []
  nextDev : Nat := 0
  deriving DecidableEq, Repr
/-! ## The prefix index (12) -/

/-- The states of a namespace (12 R345). -/
inductive NsSt where
  | free | live | storeless | destroying
  deriving DecidableEq, Repr

/-- One namespace with its salt (12 R345, R347). -/
structure Ns where
  gen : Nat := 0
  st : NsSt := .free
  even : Bool := false
  format : Nat := 1
  width : Nat := 0
  ctx : Nat := 0
  nkvh : Nat := 1
  nlayers : Nat := 1
  leaseS : Nat := 0
  store : Nat := 0xFFFFFFFF
  quota : Nat := 1
  hitBlocks : Nat := 0
  evictions : Nat := 0
  salt : BitVec 256 := 0
  /-- The waybill of a NAMESPACE_DESTROY that runs. -/
  wb : Option Nat := none
  deriving DecidableEq, Repr

/-- One used entry of the prefix index; the table's index is the entry index (12 R352). -/
structure PfxEnt where
  key : BitVec 128
  ns : Nat
  live : Bool
  well : Nat
  offset : Nat
  depth : Nat
  parent : Nat
  refs : Nat
  children : Nat
  lastUse : Nat
  tag : BitVec 64
  deriving DecidableEq, Repr

/-- One hold record that has been used: its generation outlives it (12 R371). -/
structure Hold where
  gen : Nat := 0
  live : Bool := false
  entry : Nat := 0
  ns : Nat := 0
  leaseS : Nat := 0
  expiry : Nat := 0
  deriving DecidableEq, Repr

/-- Namespaces, index and holds (12). -/
structure Pfx where
  nss : Tab Ns := []
  index : Tab PfxEnt := []
  holds : Tab Hold := []
  deriving DecidableEq, Repr

/-! ## Stations (02, 14, 17) -/

/-- One MSI-X vector (14 R428, R429). -/
structure Vec where
  addr : BitVec 64 := 0
  data : BitVec 32 := 0
  mask : Bool := true
  pend : Bool := false
  deriving DecidableEq, Repr

/-- One HDM decoder (02 R32, R33): the well bound to it, by index. -/
structure Decoder where
  base : Nat := 0
  size : Nat := 0
  committed : Bool := false
  notCommitted : Bool := false
  /-- An uncommit that completes with the revocation of its well (02 R37). -/
  uncommit : Bool := false
  well : Option Nat := none
  deriving DecidableEq, Repr

/-- One record of a station's fault-block log (17 R527, R528). -/
structure FltRec where
  seq : Nat
  kind : Nat
  decoder : Nat
  hpa : BitVec 64
  time : Nat
  detail : BitVec 64
  deriving DecidableEq, Repr

/-- An aperture read whose lines have not all come (02 R40, 14 R431). -/
structure AperRd where
  id : Nat
  offset : Nat
  size : Nat
  /-- Each line's data, in order, once it is known; `true` marks a poisoned or fenced line. -/
  got : List (Option (Line × Bool))
  deriving DecidableEq, Repr

/-- A Translation Request outstanding at a station: the page, the job that needs it, and the access it is for
(13 R402, R403), and the spans of the Invalidate Requests that have overtaken it (R405). -/
structure AtsReq where
  page : Nat
  job : Nat
  opnd : Nat
  addr : Nat
  step : Nat
  deadline : Nat
  inv : List (Nat × Nat) := []
  /-- The prefetcher asks, for a tile that is not next to move (13 R398). -/
  ahead : Bool := false
  /-- The tile that is translated: its first byte and its length. -/
  tile : Option (Nat × Nat) := none
  deriving DecidableEq, Repr

/-- An ATS Invalidate Request being served: its span, the HPA spans of the entries it covers, and whether their host lines have
left the cache (13 R405). -/
structure AtsInv where
  base : Nat
  k : Nat
  spans : List (Nat × Nat)
  cleaned : Bool := false
  deriving DecidableEq, Repr

/-- The errors that Advanced Error Reporting reports (14 R415). -/
inductive AerErr where
  | completionTimeout | unsupportedRequest | poisonedTlp | uncorrectableInternal
  deriving DecidableEq, Repr

/-- One station (14 R411 to R443). -/
structure Stn where
  /-- Errors logged in AER (14 R415, R419). -/
  aer : List AerErr := []
  up : Bool := false
  speed : Nat := 0
  width : Nat := 0
  flit : Nat := 0
  cacheEn : Bool := false
  memEn : Bool := false
  biEn : Bool := false
  /-- The CXL.cachemem IDE stream is active. -/
  ide : Bool := false
  /-- The PCIe IDE streams that are active (19 R586). -/
  pcieIde : List (Fin 3) := []
  /-- The peer identity of the IDE stream or SPDM session (19 R583). -/
  idePeer : BitVec 384 := 0
  /-- The session its keys were programmed over, and containment mode (19 R584, R586). -/
  ideSession : Nat := 0
  ideContain : Bool := false
  spdm : Bool := false
  ats : Bool := false
  /-- The function's ATS Enable bit (13 R404). -/
  atsEnable : Bool := false
  d3hot : Bool := false
  /-- The BARs hold addresses and Memory Space Enable is set: host firmware has configured the function since its last reset (14 R437,
  R442; notes/assumptions/161). -/
  barsSet : Bool := false
  /-- Max_Payload_Size in bytes (14 R431, R432); 128 after a reset (PRESUMED, notes/assumptions/176). -/
  maxPayload : Nat := 128
  perst : Bool := false
  memActive : Bool := false
  /-- Reset and Memory_Active not yet returned (14 R438). -/
  memReturn : Bool := false
  recovery : Bool := false
  reqInUse : Nat := 0
  rwdInUse : Nat := 0
  rspInUse : Nat := 0
  /-- Slots whose credit return is sent and not acknowledged (14 R434, R435). -/
  reqSent : Nat := 0
  rwdSent : Nat := 0
  rspSent : Nat := 0
  reqReturning : Nat := 0
  rwdReturning : Nat := 0
  rspReturning : Nat := 0
  /-- Credit returns held back while the link is in Recovery (14 R435). -/
  reqHeld : Nat := 0
  rwdHeld : Nat := 0
  rspHeld : Nat := 0
  retrains : Nat := 0
  dlDowns : Nat := 0
  ctoUs : Nat := 40000
  decoders : Tab Decoder := []
  /-- The DPA of the window's first byte (02 R38). -/
  winBase : Nat := 0
  winEnable : Bool := false
  winWrite : Bool := false
  winRefuse : Nat := 0
  winDeny : Nat := 0
  fltLog : List FltRec := []
  fltNext : Nat := 0
  fltLastSeq : Nat := 0
  fltDropped : Nat := 0
  fltPoisoned : Nat := 0
  jnlMark : Nat := 0
  jnlThreshold : Nat := 0
  msixEnable : Bool := false
  msixMask : Bool := false
  vecs : Tab Vec := []
  atc : List AtcEnt := []
  /-- Translation Requests outstanding. -/
  atsReqs : List AtsReq := []
  /-- Pages for which a job's tile that is next to move got no translation: the job and the page (13 R397, R403). -/
  atsFailed : List (Nat × Nat) := []
  /-- ATS Invalidate Requests being served. -/
  atsInv : List AtsInv := []
  reads : List AperRd := []
  nextRead : Nat := 0
  deriving DecidableEq, Repr
/-! ## Mailboxes, journal, firmware (15) -/

/-- Mailbox statuses (21; 15 R457). -/
inductive Status where
  | ok | accepted | busy | badOpcode | badArgument | noRight | stateConflict | noResource | duplicateTag
  | versionMismatch | notPaired | domainDown | factoryOnly | internalError
  deriving DecidableEq, Repr

/-- The sessions of a mailbox (15 R450, 19 R565). -/
inductive Role where
  | none | operator | installer | maker
  deriving DecidableEq, Repr

/-- A reply (15 R447). -/
structure Reply where
  opcode : Nat
  status : Status
  journaled : Bool := false
  tag : BitVec 64
  seq : BitVec 32
  waybill : Nat := 0
  time : Nat
  payload : List (BitVec 8)
  deriving DecidableEq, Repr

/-- One slot of a completion ring, or a notice (15 R449, R456). -/
structure Cpl where
  waybill : Nat
  tag : BitVec 64
  opcode : Nat
  status : Status
  time : Nat
  result : List (BitVec 8)
  deriving DecidableEq, Repr

/-- One reject record (15 R460). -/
structure Reject where
  time : Nat
  tag : BitVec 64
  opcode : Nat
  status : Status
  detail : BitVec 8
  deriving DecidableEq, Repr

/-- A ROLE_AUTH challenge a mailbox holds (19 R569). -/
structure Challenge where
  nonce : BitVec 256
  role : Nat
  cred : BitVec 64
  expires : Nat
  deriving DecidableEq, Repr

/-- One mailbox (15 R444, R450; 19 R569 to R573). -/
structure Mailbox where
  /-- The bytes of a station mailbox's command area that are not zero, by offset in the area (15 R446). -/
  area : List Host.Cell := []
  /-- A command is held that no reply has answered yet: STATE is CHECKING (15 R450, R452). -/
  checking : Bool := false
  /-- The keeper has been asked for the waybill of that command (15 R467). -/
  asked : Bool := false
  replied : Bool := false
  handover : Bool := false
  session : Role := .none
  cred : BitVec 64 := 0
  credSlot : Nat := 0
  /-- The sender that holds a management mailbox's session, and the time of its last command. -/
  sender : BitVec 64 := 0
  lastUse : Nat := 0
  replySeq : Nat := 0
  reply : Option Reply := none
  cplWrite : Nat := 0
  cplLost : Nat := 0
  cplAck : Nat := 0
  /-- The completion ring's slots, by slot number. -/
  cpls : Tab Cpl := []
  rejectCount : Nat := 0
  /-- Newest first, at most 64. -/
  rejects : List Reject := []
  challenge : Option Challenge := none
  /-- Times of the NO_RIGHT replies to RESPOND, newest first. -/
  failures : List Nat := []
  lockUntil : Option Nat := none
  deriving DecidableEq, Repr

/-- The states of a journal entry (15 R462). -/
inductive JSt where
  | running | done | failed | void
  deriving DecidableEq, Repr

/-- One journal entry (15 R462). -/
structure JEntry where
  waybill : Nat
  tag : BitVec 64 := 0
  opcode : Nat
  source : Nat
  role : Role := .none
  st : JSt
  status : Status
  forced : Bool := false
  staleReuse : Bool := false
  bySurvivor : Bool := false
  cred : BitVec 64 := 0
  digest : BitVec 128 := 0
  acceptTime : Nat
  finishTime : Nat := 0
  origin : BitVec 64
  boot : Nat
  object : Nat := 0
  result : List (BitVec 8) := []
  /-- The wells of its module that the entries of a RANGE_TABLE_SET name (16 R505). -/
  names : List Nat := []
  deriving DecidableEq, Repr

/-- An asynchronous command that runs (15 R454): where its completion goes, and its status and result once its
work has ended. -/
structure Async where
  wb : Nat
  mbx : Option Mbx
  sender : BitVec 64 := 0
  quiet : Bool := false
  opcode : Nat
  tag : BitVec 64 := 0
  ready : Option (Status × List (BitVec 8)) := none
  /-- A revocation of the command met a station that did not answer (03 R85). -/
  down : Bool := false
  deriving DecidableEq, Repr

/-- Mailboxes, journal and running commands (15). -/
structure MbxS where
  stn : Vector Mailbox 48 := Vector.replicate 48 {}
  eth : Mailbox := {}
  i3c : Mailbox := {}
  /-- The crossover mailbox, SOURCE 0x30, which the twin's Utvanan alone writes (15 R444, R445). -/
  xo : Mailbox := {}
  next : Nat := 1
  /-- Newest first. -/
  journal : List JEntry := []
  shared : Bool := false
  keeper : Bool := false
  filling : Bool := false
  /-- Entries that Utvanan writes without a command and that await a waybill of the keeper (15 R467), oldest first. -/
  unnumbered : List JEntry := []
  asyncs : List Async := []
  deriving DecidableEq, Repr

/-- One firmware component (15 R476): its active bank, and each bank's version and whether its image passes. -/
structure Comp where
  bank : Fin 2 := 0
  ver0 : BitVec 32
  ver1 : BitVec 32
  ok0 : Bool := true
  ok1 : Bool := true
  deriving DecidableEq, Repr

/-- A manifest (15 R477, R478). -/
structure Manifest where
  seq : BitVec 32
  combos : List Versions
  deriving DecidableEq, Repr

/-- An FW_ACTIVATE that runs (15 R479, R480): the components still to change, those changed, and the target. -/
structure FwRun where
  wb : Nat
  todo : List Nat
  done : List Nat := []
  target : List (BitVec 32)
  force : Bool
  fromStaged : Bool
  /-- The turn within the component that changes: a converter, a stack, a link or a pump (R480). -/
  turn : Nat := 0
  deriving DecidableEq, Repr

/-- Firmware (15); components in the order SB, PM, LK, MS, PW. -/
structure Fw where
  comps : Vector Comp 5 := Vector.replicate 5 ⟨0, 0x01000000, 0, true, false⟩
  active : Manifest := ⟨1, [⟨0x01000000, 0x01000000, 0x01000000, 0x01000000, 0x01000000⟩]⟩
  staged : Option (Manifest × List (BitVec 32)) := none
  forced : Bool := false
  run : Option FwRun := none
  staging : Option (Nat × FwPackage) := none
  /-- The SB hand-over runs (15 R480). -/
  handover : Bool := false
  /-- Stations reset since it began: their MBX_STATUS has its reset value (15 R455). -/
  resetIn : List Nat := []
  deriving DecidableEq, Repr

/-! ## Roles, keys and audit (19) -/

/-- One used credential slot (19 R568). -/
structure Cred where
  roles : Nat
  id : BitVec 64
  key : BitVec 768
  deriving DecidableEq, Repr

/-- One ARMED key slot (19 R581), with the wells bound to it. -/
structure KeySlot where
  keys : BitVec 512
  station : Nat
  context : Nat
  peer : BitVec 384
  wells : List Nat := []
  /-- KEY_BIND commands that run: (well, waybill). -/
  binding : List (Nat × Nat) := []
  deriving DecidableEq, Repr

/-- One audit record (19 R575), with its CHAIN. -/
structure Audit where
  seq : Nat
  time : Nat
  origin : BitVec 64
  boot : Nat
  kind : Nat
  source : Nat
  role : Nat
  cred : BitVec 64 := 0
  waybill : Nat := 0
  opcode : Nat := 0
  status : Nat := 0
  digest : BitVec 128 := 0
  detail : BitVec 192 := 0
  chain : BitVec 128 := 0
  deriving DecidableEq, Repr

/-- Credentials, keys and audit (19). -/
structure Sec where
  creds : Tab Cred := []
  keys : Tab KeySlot := []
  /-- Keys of the twin's slots that are ARMED here with other keys, for the MIRRORED wells bound to them (R582). -/
  twinKeys : Tab KeySlot := []
  /-- Newest first. -/
  own : List Audit := []
  twin : List Audit := []
  /-- Records of the twin appended so far (19 R574). -/
  twinSeen : Nat := 0
  nextSeq : Nat := 1
  mark : Nat := 0
  /-- The RESUME record of this boot is written (R574). -/
  resumed : Bool := false
  /-- Sessions to be recorded as ended by a module reset at the next bring-up: mailbox, role and credential (R576). -/
  endedByReset : List (Nat × Nat × BitVec 64) := []
  /-- Secured SPDM sessions in service, per station (48 for I3C), oldest first: the number of each and its requester's certificate-chain digest
  (R576). -/
  spdm : Tab (List (Nat × BitVec 384)) := []
  nextSpdm : Nat := 0
  deriving DecidableEq, Repr

/-! ## Twin (16) -/

/-- PAIR_STATE (16 R501). -/
inductive PairSt where
  | unpaired | pairing | paired | gap | fenced | refused
  deriving DecidableEq, Repr

/-- A write of a MIRRORED well applied here and not acknowledged by the twin (16 R494), with the request it
answers. -/
structure MirOut where
  id : Nat
  well : Nat
  off : Nat
  data : Line
  pois : Bool
  deadline : Nat
  req : Req
  /-- The old data that answers an atomic operation of the twin once both copies hold its write (16 R494). -/
  ans : Option (Line × Bool) := none
  deriving DecidableEq, Repr

/-- A request this module sent to the twin's home (16 R495; 13 R408, R393), with what it answers. -/
structure FwdOut where
  id : Nat
  req : Option Req := none
  /-- The primary's copy of this write has been applied here, to a line that held these bytes (16 R504). -/
  applied : Option Line := none
  /-- Line `i` of a tile of a job: (job, tile, i). -/
  tile : Option (Nat × Nat × Nat) := none
  job : Option Nat := none
  dpa : Nat := 0
  /-- The data, mask and poison of a write, and its write tile. -/
  wr : Option (Line × BitVec 64 × Bool) := none
  wtile : Nat := 0
  /-- A snoop of this module's directory to the twin, by its line. -/
  snoop : Option Nat := none
  /-- A record of an exclusive grant, by its line: the grant awaits its acknowledgement (06 R178). -/
  grant : Option Nat := none
  /-- A request to drop the twin's translations of a well here, by its index (13 R392). -/
  drop : Option Nat := none
  /-- A request to zero the twin's copy of a well of a cistern: (cistern, well) (06 R175). -/
  zero : Option (Nat × Nat) := none
  /-- Line `i` of the aperture read `id` of a station (02 R41), and whether a switchover gap still keeps the request
  from leaving (02 R23). -/
  aper : Option (Nat × Nat × Nat) := none
  unsent : Bool := false
  /-- The operand and the operand address of a job's write, and the number of its atomic operation. -/
  opnd : Nat := 0
  addr : Nat := 0
  atom : Option Nat := none
  /-- The pump whose sequencer makes it; 16 for none (08 R235). -/
  pump : Nat := 16
  deriving DecidableEq, Repr

/-- A snoop of the twin's directory that this module recalls from its own stations (04 R125). -/
structure TwinSnoop where
  id : Nat
  key : Nat
  deriving DecidableEq, Repr

/-- A commanded switchover in progress (16 R507, 06 R182): the wells whose primacy leaves this module and those whose
primacy it gains, and whether its gap has begun (the recall of R182 comes first). `wb` is none for one that no command of
this module made. -/
structure Swo where
  wb : Option Nat
  out : List Nat
  gain : List Nat
  gap : Bool := false
  deriving DecidableEq, Repr

/-- Pairing and twin state (16). -/
structure Twin where
  st : PairSt := .unpaired
  keeper : Bool := true
  version : Nat := 0
  localVersions : BitVec 32 := 1
  twinVersions : BitVec 32 := 0
  serial : BitVec 64 := 0
  /-- The serial recorded in flash for R490. -/
  recorded : BitVec 64 := 0
  pairedSince : Nat := 0
  lastReport : Nat := 0
  report : Option Report := none
  reportSeq : Nat := 0
  switchovers : Nat := 0
  lastCause : Nat := 0
  gapCause : Nat := 0
  links : Vector Bool 4 := Vector.replicate 4 false
  retired : Vector Bool 4 := Vector.replicate 4 false
  laneFails : Vector (List Nat) 4 := Vector.replicate 4 []
  /-- TWIN_PRSNT_N is low. -/
  present : Bool := false
  presenceWait : Bool := false
  rate : Nat := 256
  mirOut : List MirOut := []
  fwdOut : List FwdOut := []
  nextId : Nat := 0
  snoops : List TwinSnoop := []
  /-- Grant records of the twin that wait for a way: (number, line, modified) (06 R178). -/
  grants : List (Nat × Nat × Bool) := []
  swo : Option Swo := none
  /-- Switchovers of the twin that wait for that one (16 R507). -/
  swoNext : List Swo := []
  /-- Mirrored writes of the twin that wait for a dormant die: number, well handle, offset, data, mask and poison (18 R560). -/
  mirHeld : List (Nat × Nat × Nat × BitVec 512 × BitVec 64 × Bool) := []
  /-- Lines that the walk after a switchover gap has still to recall (06 R181). -/
  walk : List Nat := []
  /-- The gap's MODULE_RESET held under 17 R524. -/
  resetHeld : Bool := false
  pairWb : Option Nat := none
  pairInfo : Option PeerInfo := none
  /-- An unpairing that waits for the release of copies (R491), with the waybill of a TWIN_UNPAIR of this module. -/
  unpairing : Option (Option Nat) := none
  /-- Pages of the mirror bitmap that are set, by page number of the pool area (16 R496). -/
  bitmap : List Nat := []
  /-- The page the audit of this module's standby copies compared last: the well's handle and the page (16 R497). -/
  auditLast : Option (Nat × Nat) := none
  /-- The time the last full audit of a well ended (16 R501), by well. -/
  auditTime : Tab Nat := []
  katPass : Nat := 0
  katFail : Nat := 0
  scrubPages : Nat := 0
  auditPages : Nat := 0
  auditMismatch : Nat := 0
  deriving DecidableEq, Repr

/-! ## Faults (17) -/

/-- Fault reactions (17 R521), in order. -/
inductive React where
  | int | nmi | block | module
  deriving DecidableEq, Repr

/-- A source's policy (17 R520). -/
structure Policy where
  react : React
  pin : Bool
  esc : Bool
  threshold : Nat := 0
  windowS : Nat := 0
  deriving DecidableEq, Repr

/-- One fault record (17 R519). -/
structure FaultRec where
  seq : Nat
  time : Nat
  source : Nat
  cls : Nat
  react : React
  pin : Bool
  unitKind : Nat
  unit : Nat
  acked : Bool := false
  permanent : Bool := false
  escalated : Bool := false
  held : Bool := false
  injected : Bool := false
  drain : Bool := false
  count : Nat := 1
  temp : Nat
  rail : Nat
  object : BitVec 64
  address : BitVec 64
  detail : BitVec 128
  /-- The stations it concerns (17 R521). -/
  stns : List Nat
  deriving DecidableEq, Repr

/-- One unit-history entry (17 R535). -/
structure Hist where
  boot : Nat
  source : Nat
  unitKind : Nat
  unit : Nat
  time : Nat
  location : BitVec 64
  count : Nat
  verdict : Nat
  injected : Bool := false
  deriving DecidableEq, Repr

/-- A reaction still to be carried out in the same command (17 R521). -/
inductive Todo where
  | nmi (unitKind unit : Nat)
  | block (unitKind unit : Nat)
  | moduleReset
  | replace
  | pumpOut (p : Nat)
  | stationOut (n : Nat)
  | revokeIde (n : Nat)
  deriving DecidableEq, Repr

/-- Faults, policies and field tests (17). -/
structure Flt where
  /-- Newest first. -/
  records : List FaultRec := []
  nextSeq : Nat := 1
  lost : Nat := 0
  policies : Tab Policy := []
  drainDelay : Option Nat := some 600
  /-- Times of events counted toward a threshold: (source, unit) to times, newest first. -/
  counts : List (Nat × Nat × Nat) := []
  /-- Newest first. -/
  history : List Hist := []
  replaceFlag : Bool := false
  /-- The start of the drain delay. -/
  flaggedAt : Option Nat := none
  /-- Stations held as if PERST_N were low (R539). -/
  stnOut : List Nat := []
  /-- UF, FW and some EN events of this boot: (source, unit kind, unit, time, injected) (R532). -/
  recent : List (Nat × Nat × Nat × Nat × Bool) := []
  katEn : Bool := true
  scrubEn : Bool := true
  intervalS : Nat := 60
  maxOutUs : Nat := 2000
  scrubH : Nat := 24
  /-- Flits to corrupt, by station number and, from 48, by crossover link. -/
  linkCrc : Tab Nat := []
  /-- Rows with corrected errors in a scrub pass: (row span, last such pass, number of them, one of them injected) (R532). -/
  rows : List (Nat × Nat × Nat × Bool) := []
  /-- Lines that have had an uncorrectable error, and whether an injection caused one (R532). -/
  uncorr : List (Nat × Bool) := []
  /-- The scrub pass in progress and the line it has read last, by its stack and its address there (R512). -/
  scrubPass : Nat := 0
  scrubAt : Nat := 0
  /-- Units under NMI capture or block reset: (kind, unit, block?). -/
  busy : List (Nat × Nat × Bool) := []
  deriving DecidableEq, Repr

/-! ## Power, pins, module (14, 17, 18, 20) -/

/-- The hot-swap controller (18 R543, R544, 20 R606). -/
inductive HotSwap where
  | open_ | sloping | closed
  deriving DecidableEq, Repr

/-- A rail's last sample (18 R548). -/
structure Rail where
  mv : Nat := 0
  ma10 : Nat := 0
  temp : BitVec 8 := 0
  bad : Bool := false
  deriving DecidableEq, Repr

/-- Power and temperature (18). -/
structure Pwr where
  mv : Nat := 0
  ma : Nat := 0
  inW : Nat := 0
  inW1 : Nat := 0
  /-- The input power of the last ten 100 us averages, newest first. -/
  wHist : List Nat := []
  energyMj : Nat := 0
  energyRem : Nat := 0
  limitW : Nat := 2000
  hotIdleUs : Nat := 20
  warmIdleUs : Option Nat := some 1000
  dormantMs : Option Nat := none
  duty : Nat := 16
  memStep : Nat := 16
  thermDuty : Vector Nat 4 := Vector.replicate 4 16
  thermMem : Vector Nat 4 := Vector.replicate 4 16
  below : Nat := 0
  unmet : Bool := false
  hotSwap : HotSwap := .closed
  tries : Nat := 0
  limiting : Bool := false
  /-- Stays open until a pin event (20 R606), a fall below 54 V, or the next try (R544). -/
  holdOpen : Nat := 0
  /-- Stays open until every sensor is below its warning limit (R564). -/
  hot : Bool := false
  /-- STATE of each converter: 0 off, 1 in service, 2 out of regulation, 3 updating (R546, R555). -/
  conv : Vector Nat 4 := Vector.replicate 4 1
  /-- The last sample of each converter's output (R548, R555). -/
  convOut : Vector Rail 4 := Vector.replicate 4 {}
  rails : Vector Rail 21 := Vector.replicate 21 {}
  temps : Vector (BitVec 8) 7 := Vector.replicate 7 0
  stackTemps : Vector (BitVec 8) 24 := Vector.replicate 24 0
  therm : Bool := false
  /-- Sensors at or above their warning and their critical limits when last read (R561). -/
  warned : List Nat := []
  critical : List Nat := []
  dormant : Vector Bool 4 := Vector.replicate 4 false
  /-- Dies leaving dormancy (18 R560). -/
  waking : Vector Bool 4 := Vector.replicate 4 false
  lastReq : Vector Nat 4 := Vector.replicate 4 0
  /-- The time since when a die has held no placed byte (18 R559). -/
  emptySince : Vector (Option Nat) 4 := Vector.replicate 4 (some 0)
  updating : Bool := false
  powerDown : Bool := false
  standby : Bool := true
  inputGood : Bool := true
  deriving DecidableEq, Repr

/-- PHASE (15 R473), with the states in which no client is answered: the boot ROM before SB runs, stopped
(20 R595), and powered down (20 R606). -/
inductive Phase where
  | bringUp | service | factory | recovery | drained
  deriving DecidableEq, Repr

/-- How far bring-up has come (20 R594). -/
inductive BootStage where
  | reset | rom | stopped | sb | checked | trained | restored | filled | done
  deriving DecidableEq, Repr

/-- A MODULE_DRAIN that runs (20 R604, R605). -/
structure Drain where
  wb : Option Nat
  off : Bool
  step : Nat := 0
  deriving DecidableEq, Repr

/-- A row spared or being spared (20 R607, R608). -/
structure Spare where
  stack : Nat
  span : Nat
  wb : Option Nat := none
  done : Bool := false
  /-- The rows spared with it. -/
  rows : Nat := 0
  deriving DecidableEq, Repr

/-- The state a metadata log restores (20 R597, R598). -/
structure MetaLog where
  wells : Tab Well := []
  granules : Tab Granule := []
  cisterns : Tab Cistern := []
  ctxs : Tab Ctx := []
  plats : Tab Platform := []
  nss : Tab Ns := []
  parts : List (Nat × List Nat) := []
  pumps : List (Option Nat) := []
  audit : List Audit := []
  deriving DecidableEq, Repr

/-- The module's own state (14 R427, 15 R473, 20). -/
structure Mod where
  phase : Phase := .bringUp
  stage : BootStage := .reset
  /-- Recovery was caused by the metadata log alone (20 R604). -/
  metaBad : Bool := false
  otherBad : Bool := false
  serial : BitVec 64 := 0
  boot : Nat := 1
  drain : Option Drain := none
  poweredDown : Bool := false
  attnLatch : Bool := false
  /-- A button action waits for its 5 s window, which ends then. -/
  attnUntil : Option Nat := none
  attnPresses : Nat := 0
  twinChanges : Nat := 0
  /-- MOD_ERR_N: the alive toggle's level (low), the hardware hold, the one-shot. -/
  toggleLow : Bool := true
  toggleHeld : Bool := true
  oneShot : Bool := false
  errForced : Bool := true
  spares : List Spare := []
  mlog : MetaLog := {}
  memInfoValid : Bool := false
  deriving DecidableEq, Repr
/-- An indicator's drive (14 R427, 20 R602). -/
inductive Led where
  | off | on | blink
  deriving DecidableEq, Repr

/-- The levels of the block's own output pins (20 R589, R602; 17 R525; 18 R562; 16 R484). -/
structure Pins where
  modErrLow : Bool := true
  thermLow : Bool := false
  attnLed : Led := .off
  pwrLed : Led := .blink
  presenceLow : Bool := false
  deriving DecidableEq, Repr

/-! ## What the block sends -/

/-- Completions of CXL.mem (04 R110). -/
inductive CmpKind where
  | cmp | cmpS | cmpE
  deriving DecidableEq, Repr

/-- CXL.cache requests and answers of the block (05 R136, R138, R140; 14 R432). -/
inductive D2H where
  | rdShared | rdCurr | rdOwn | itoMWr | wrInv | dirtyEvict | cleanEvict | ioRead | ioWrite | flushRead
  | rspIHit | rspSHit | rspFwdM | rspMiss
  deriving DecidableEq, Repr

/-- Messages to the twin over the crossover (16). -/
inductive XOut where
  | mirror (id well off : Nat) (data : Line) (pois : Bool)
  | mirrorAck (id : Nat)
  | request (id well off : Nat) (kind : ReqKind) (data : Line) (mask : BitVec 64) (pois : Bool)
  | read (id dpa : Nat)
  | write (id dpa : Nat) (data : Line) (mask : BitVec 64) (pois : Bool)
  | atomic (id dpa aop width operand compare : Nat)
  | response (id : Nat) (data : Line) (pois : Bool) (down : Bool := false)
  | rangeInfo (id start length : Nat) (kvb : Bool)
  | rangeFill (id handle : Nat)
  | rangeDrop (id handle : Nat)
  /-- Entries that name a well of this module at or beyond an offset have no mapping any more (13 R391). -/
  | rangeClear (handle frm : Nat)
  /-- A well of this module has another length from now on (13 R385). -/
  | wellLength (handle length : Nat)
  | rangeDropped (id : Nat)
  | zero (id handle : Nat)
  | snoop (id well off : Nat) (kind : BiKind)
  | snoopRsp (id : Nat)
  | declaration (cistern cause : Nat)
  | fence
  | announce (what : Announce)
  | grant (id handle off : Nat) (granted modified : Bool)
  | page (handle page : Nat) (lines : List (Line × Bool))
  /-- The record of a page's audit (16 R497): the page and its CRC-64. -/
  | crc (handle page crc : Nat)
  | askWaybill
  | waybill (waybill : Nat)
  | settled
  | wellCopy (handle length place flags owner cistern twinStart : Nat) (resync origin : Bool)
  | copied (handle : Nat) (start : Option Nat)
  | bitmap (handle : Nat) (pages : List Nat)
  /-- The answer to the twin's share of a command: its status and the bytes of a STATE_CONFLICT. -/
  | share (id status : Nat) (bytes : List (BitVec 8))
  | context (number : Nat) (name : BitVec 128)
  | cistern (handle : Nat) (name : BitVec 128) (tbi : Nat)
  | audit (a : Audit)
  | mail (waybill opcode : Nat)
  | versions (mask : BitVec 32)
  | keySlot (slot station context : Nat) (peer : BitVec 384) (keys : BitVec 512) (wells : List Nat)
  | entry (e : JEntry)
  | keepalive (k : Nat)
  | report (bytes : List (BitVec 8))
  deriving DecidableEq, Repr

/-- Notices to the management network other than records and replies. -/
inductive Notice where
  | button | limitUnmet | linkUpdate (n : Nat) | versions (local_ twin : BitVec 32)
  deriving DecidableEq, Repr

/-- The SPDM capabilities that are advertised; measurements are signed, and neither PSK nor a handshake in the clear is (19 R587). -/
inductive SpdmCap where
  | cert | chal | meas | keyEx | encrypt | mac | mutAuth | hbeat | keyUpd | chunk
  deriving DecidableEq, Repr

/-- The algorithms advertised. -/
inductive SpdmAlg where
  | ecdsaP384 | sha384 | secp384r1 | aes256Gcm | dmtf
  deriving DecidableEq, Repr

/-- A certificate of a chain; that of the DeviceID carries the serial number in its subject. -/
inductive SpdmCert where
  | root | productCa
  | deviceId (serial : BitVec 64)
  deriving DecidableEq, Repr

/-- The DMTF value types of the measurement blocks (R588). -/
inductive DmtfType where
  | immutableRom | mutableFirmware | freeformManifest | firmwareConfig | deviceMode
  deriving DecidableEq, Repr

/-- One measurement block: raw content, or a digest of it. -/
structure MeasBlock where
  index : Nat
  type : DmtfType
  raw : Bool := false
  content : List (BitVec 8)
  deriving DecidableEq, Repr

inductive SpdmAnswer where
  | versions (l : List Nat)
  | capabilities (l : List SpdmCap)
  | algorithms (l : List SpdmAlg)
  | chain (l : List SpdmCert)
  | count (n : Nat)
  | blocks (l : List MeasBlock)
  deriving DecidableEq, Repr

/-- Everything the block sends to the world outside it. -/
inductive Output where
  /-- A CXL.mem response of station `n`; `data` carries its poison indication. -/
  | mem (n hpa : Nat) (kind : CmpKind) (data : Option (Line × Bool))
  | snoop (n hpa : Nat) (kind : BiKind)
  | conflictAck (n hpa : Nat)
  /-- Read data of an aperture; `ep` is the poisoned bit. -/
  | io (n offset : Nat) (bytes : List (BitVec 8)) (ep : Bool)
  | ur (n : Nat)
  | msix (n vector : Nat) (addr : BitVec 64) (data : BitVec 32)
  | reply (mbx : Mbx) (sender : BitVec 64) (r : Reply)
  | notice (mbx : Mbx) (sender : BitVec 64) (c : Cpl)
  | record (f : FaultRec)
  /-- An I3C in-band interrupt (17 R521). -/
  | i3cInterrupt
  | mgmt (n : Notice)
  | health (bytes : List (BitVec 8))
  | d2h (n : Nat) (id : Nat) (kind : D2H) (hpa : Nat) (data : Line) (mask : BitVec 64) (pois : Bool)
  | atsRequest (n addr : Nat)
  | atsInvalidated (n addr k : Nat)
  | spdm (port : SpdmPort) (answer : SpdmAnswer)
  | xo (m : XOut)
  deriving DecidableEq, Repr

/-! ## The machine -/

/-- The state of the block and its queue of commands. Fields beside the spec's own are the queue, `out`
(what has been sent, oldest last), `freeCtr` (the index of free values) and `todo` (reactions of the
command that runs): notes/assumptions/7 and 8. -/
structure State where
  pending : List Instr := []
  /-- Newest first. -/
  out : List Output := []
  freeCtr : Nat := 0
  todo : List Todo := []
  /-- Signal-box time in ns (15 R475). -/
  now : Nat := 0
  /-- DRAM and scratchpads by DPA (02 R21), in canonical form. -/
  mem : List Host.Cell := []
  /-- Lines with their poison bit set, by DPA, rising (17 R513). -/
  poison : List Nat := []
  /-- Symbols in error of a stored line: (DPA, number, injected) (17 R511). -/
  upsets : List (Nat × Nat × Bool) := []
  /-- The poison map, oldest first: (DPA, well handle, cause) (17 R517). -/
  poisonMap : List (Nat × Nat × Nat) := []
  pool : Pool := {}
  home : Home := {}
  cache : Cache := {}
  xl : Xl := {}
  jobs : Jobs := {}
  pfx : Pfx := {}
  stn : Vector Stn 48 := Vector.replicate 48 {}
  mbx : MbxS := {}
  fw : Fw := {}
  sec : Sec := {}
  twin : Twin := {}
  flt : Flt := {}
  pwr : Pwr := {}
  mod : Mod := {}
  pins : Pins := {}
  deriving DecidableEq, Repr

/-- The canonical form of memory: addresses strictly rising, and no entry equal to what an unlisted byte
reads as, which is zero. -/
def Memory.wf : List Host.Cell → Bool
  | [] => true
  | [(_, b)] => b != 0
  | (a, b) :: (a', b') :: rest => b != 0 && a < a' && Memory.wf ((a', b') :: rest)

/-- The machine right after a module reset at the factory's flash contents (20 R592, R594, R598): see
notes/assumptions/3 to 6, 10, 11 and 16 to 18 for the values the spec leaves open. -/
def State.reset : State :=
  { sec := { creds := [(0, ⟨4, 1, 0⟩), (1, ⟨2, 2, 0⟩)] } }

/-- The reasons a step could stop with a fault. -/
inductive Fault where
  /-- No meaning raises it: the spec gives every command of the table an effect. Safe. -/
  | noEffect
  deriving DecidableEq, Repr

/-- The reasons a step could refuse a command. -/
inductive Refusal where
  /-- Raised by `exec` for a command that has no meaning in the model yet. Safe. -/
  | notModelled (mnemonic : String)
  deriving DecidableEq, Repr

end Sys2Proof.Machine
end

