-- ==== Sys2Proof/Machine/Ops.lean ====
section
/-! DEFINITION. Named operations over the state: memory by DPA, poison, placement, what is sent, interrupts,
free values and the journaled tables. -/
namespace Sys2Proof.Machine

/-- What a meaning answers with. -/
abbrev Out := Host.Outcome State Fault Refusal

/-! ## Memory by DPA: unlisted bytes read zero (notes/assumptions/6) -/

def memGet : List Host.Cell → Nat → Byte
  | [], _ => 0
  | (k, b) :: m, a => if k = a then b else memGet m a

/-- `n` bytes from `a` up. -/
def memRead (m : List Host.Cell) (a n : Nat) : List Byte :=
  let near := m.filter fun c => a ≤ c.1 && c.1 < a + n
  (List.range n).map fun i => memGet near (a + i)

/-- The cells of bytes stored from `a` up; a zero byte needs no cell. -/
def cellsOf : Nat → List Byte → List Host.Cell
  | _, [] => []
  | a, b :: bs => if b = 0 then cellsOf (a + 1) bs else (a, b) :: cellsOf (a + 1) bs

/-- Bytes stored from `a` up. -/
def memWrite (m : List Host.Cell) (a : Nat) (bs : List Byte) : List Host.Cell :=
  m.filter (fun c => c.1 < a) ++ cellsOf a bs ++ m.filter (fun c => a + bs.length ≤ c.1)

/-- `n` bytes from `a` up read zero. -/
def memZero (m : List Host.Cell) (a n : Nat) : List Host.Cell :=
  m.filter (fun c => c.1 < a) ++ m.filter (fun c => a + n ≤ c.1)

/-- `n` bytes from `src` copied to `dst`. -/
def memCopy (m : List Host.Cell) (src dst n : Nat) : List Host.Cell :=
  m.filter (fun c => c.1 < dst) ++
    ((m.filter fun c => src ≤ c.1 && c.1 < src + n).map fun c => (c.1 - src + dst, c.2)) ++
    m.filter (fun c => dst + n ≤ c.1)

/-- A line in the rising list of poisoned lines. -/
def lineIns : List Nat → Nat → List Nat
  | [], a => [a]
  | k :: l, a => if a < k then a :: k :: l else if k = a then k :: l else k :: lineIns l a

def State.setMem (s : State) (a : Nat) (bs : List Byte) : State := { s with mem := memWrite s.mem a bs }

/-- The poison bit of a stored line is set, without a record of it. -/
def State.setPoison (s : State) (a : Nat) : State := { s with poison := lineIns s.poison a }

/-- The poison bit of a stored line is cleared, and with it the line's record of the poison map (17 R517). -/
def State.clearPoison (s : State) (a : Nat) : State :=
  { s with poison := s.poison.filter (· != a), poisonMap := s.poisonMap.filter (·.1 != a),
           upsets := s.upsets.filter (·.1 != a) }

/-- The stored line at a DPA. -/
def State.dram (s : State) (a : Nat) : Line := bytesLine (memRead s.mem a 64)

/-- Every byte of a run reads zero, with no poison: what a zero fill leaves (03 R49). -/
def State.zeroRun (s : State) (a n : Nat) : State :=
  let out := fun k => k < a || a + n ≤ k
  { s with mem := memZero s.mem a n, poison := s.poison.filter out, poisonMap := s.poisonMap.filter (fun r => out r.1),
           upsets := s.upsets.filter (fun r => out r.1) }

/-- A run's bytes, poison bits and symbols in error copied to another place (03 R92, 17 R514). -/
def State.copyRun (s : State) (src dst n : Nat) : State :=
  let out := fun k => k < dst || dst + n ≤ k
  let inn := fun k => src ≤ k && k < src + n
  { s with
    mem := memCopy s.mem src dst n
    poison := s.poison.filter (· < dst) ++ (s.poison.filter inn).map (· - src + dst) ++ s.poison.filter (dst + n ≤ ·)
    poisonMap := s.poisonMap.filter (fun r => out r.1) ++
      ((s.poisonMap.filter fun r => inn r.1).map fun (a, w, c) => (a - src + dst, w, c))
    upsets := s.upsets.filter (fun r => out r.1) ++
      ((s.upsets.filter fun r => inn r.1).map fun (a, k, i) => (a - src + dst, k, i)) }

/-! ## What is sent, and free values -/

def State.emit (s : State) (o : Output) : State := { s with out := o :: s.out }

/-- A fresh number the spec leaves open, below `n` (notes/assumptions/8). -/
def State.choose (s : State) (n : Nat) : Nat × State :=
  (Config.freeChoice s.freeCtr % max n 1, { s with freeCtr := s.freeCtr + 1 })

def State.random (s : State) : BitVec 256 × State := (Config.random s.freeCtr, { s with freeCtr := s.freeCtr + 1 })

/-- One of several candidates among which the spec does not choose. -/
def State.pick {α : Type} (s : State) (l : List α) : Option α × State :=
  match l with
  | [] => (none, s)
  | [x] => (some x, s)
  | l =>
    let (k, s) := s.choose l.length
    (l[k]?, s)

/-- A use of one item of a set under a recency policy whose other steps the spec leaves open: every other item's
age becomes a free value (04 R102, 05 R132). -/
def State.freshAge (s : State) : Nat × State := ((Config.freeAge s.freeCtr).toNat, { s with freeCtr := s.freeCtr + 1 })

/-- The first step of signal-box time at or after a time: it advances by 10 ns (15 R475). -/
def tick (t : Nat) : Nat := (t + 9) / 10 * 10

/-- The clock moved on to a moment that has come (notes/assumptions/2). -/
def State.until (s : State) (t : Nat) : State := { s with now := max s.now (tick t) }

/-! ## Stations -/

def State.stnAt (s : State) (n : Nat) : Stn := s.stn.toArray.toList.getD n {}

/-- A station changed; a number that is no station changes nothing. -/
def State.modStn (s : State) (n : Nat) (f : Stn → Stn) : State :=
  if h : n < 48 then { s with stn := s.stn.set n (f s.stn[n]) } else s

def State.pumpAt (s : State) (p : Nat) : Pump := s.jobs.pumps.toArray.toList.getD p {}

def State.modPump (s : State) (p : Nat) (f : Pump → Pump) : State :=
  if h : p < 16 then { s with jobs := { s.jobs with pumps := s.jobs.pumps.set p (f s.jobs.pumps[p]) } } else s

/-! ## MSI-X (14 R428, R429) -/

/-- Vector `v` of station `n`. -/
def State.vec (s : State) (n v : Nat) : Vec := tgetD (s.stnAt n).vecs v {}

def State.setVec (s : State) (n v : Nat) (x : Vec) : State := s.modStn n fun t => { t with vecs := tset t.vecs v x }

/-- A pending vector's message leaves when MSI-X is enabled, the function is not masked, the vector is not
masked and the link is up (R429). -/
def State.sendVec (s : State) (n v : Nat) : State :=
  let t := s.stnAt n
  let x := s.vec n v
  if x.pend && t.msixEnable && !t.msixMask && !x.mask && t.up then
    (s.setVec n v { x with pend := false }).emit (.msix n v x.addr x.data)
  else s

/-- An event for a vector sets its pending bit, and the message follows under R429. -/
def State.raiseVec (s : State) (n v : Nat) : State :=
  let x := s.vec n v
  (s.setVec n v { x with pend := true }).sendVec n v

def State.sendVecs (s : State) (n : Nat) : State := forAll ((s.stnAt n).vecs.map (·.1)) (fun v s => s.sendVec n v) s

/-- A vector raised on every station. -/
def State.raiseAll (s : State) (v : Nat) : State := forAll (List.range 48) (fun n s => s.raiseVec n v) s

/-! ## The station's fault-block log (17 R527, R528) -/

/-- A request written to the station's log; a write or a doorbell counts in DROPPED. -/
def State.logFlt (s : State) (n kind path decoder : Nat) (addr : Nat) (well : Nat) (isWrite : Bool) : State :=
  s.modStn n fun t =>
    { t with
      fltLog := ⟨t.fltNext, kind, decoder, BitVec.ofNat 64 addr, s.now, BitVec.ofNat 64 (well + 2 ^ 32 * path)⟩ ::
        t.fltLog.take 63
      fltNext := t.fltNext + 1
      fltDropped := if isWrite then sat 32 (t.fltDropped + 1) else t.fltDropped }

/-- A read answered with poison counts in POISONED. -/
def State.countPoisoned (s : State) (n : Nat) : State :=
  s.modStn n fun t => { t with fltPoisoned := sat 32 (t.fltPoisoned + 1) }

/-! ## Wells, handles and placement (02, 03) -/

def State.well (s : State) (i : Nat) : Well := tgetD s.pool.wells i {}
def State.setWell (s : State) (i : Nat) (w : Well) : State := { s with pool := { s.pool with wells := tset s.pool.wells i w } }
def State.modWell (s : State) (i : Nat) (f : Well → Well) : State := s.setWell i (f (s.well i))

def handleOf (i gen : Nat) : Nat := i + 65536 * (gen % 65536)

def State.wellHandle (s : State) (i : Nat) : Nat := handleOf i (s.well i).gen

/-- The index of the well a handle names (03 R51, R64): none when its index is FREE or its GEN stale. -/
def State.named (s : State) (h : Nat) : Option Nat :=
  let i := h % 65536
  let w := s.well i
  if w.st != .free && w.gen % 65536 == h / 65536 then some i else none

def State.cis (s : State) (c : Nat) : Cistern := tgetD s.pool.cisterns c {}
def State.setCis (s : State) (c : Nat) (x : Cistern) : State :=
  { s with pool := { s.pool with cisterns := tset s.pool.cisterns c x } }
def State.modCis (s : State) (c : Nat) (f : Cistern → Cistern) : State := s.setCis c (f (s.cis c))

/-- The cistern a handle names (03 R54). -/
def State.namedCis (s : State) (h : Nat) : Option Nat :=
  let c := h % 65536
  let x := s.cis c
  if c < 4096 && x.st != .free && x.gen % 65536 == h / 65536 then some c else none

/-- The handle of a well's cistern, or 0xFFFF_FFFF (03 R74). -/
def State.cisHandle (s : State) (c : Option Nat) : Nat :=
  match c with
  | none => Config.noHandle
  | some c => handleOf c (s.cis c).gen

/-- The cistern is DOWN or RECOVERING; a dissolve accepted while the down walk runs begins only when it ends (06 R166, R172). -/
def Cistern.isDown (x : Cistern) : Bool := x.st == .down || x.st == .recovering || (x.st == .dissolving && x.walking)

/-- A well's cistern is DOWN or RECOVERING (06 R166). -/
def State.isDown (s : State) (w : Well) : Bool :=
  match w.cistern with
  | none => false
  | some c => (s.cis c).isDown

def Place.code : Place → Nat
  | .free => 0
  | .spread => 1
  | .loc d => 4 + d.val

def Place.ofCode (v : Nat) : Option Place :=
  match v with
  | 1 => some .spread
  | 4 => some (.loc 0)
  | 5 => some (.loc 1)
  | 6 => some (.loc 2)
  | 7 => some (.loc 3)
  | _ => none

def State.granule (s : State) (g : Nat) : Granule := tgetD s.pool.granules g {}

/-- The die and die address of a reserve offset: the tables in frames 0 to 7 of die 0, the remap sub-area of each die where R26
puts it (02 R30). -/
def reserveHome (off : Nat) : Nat × Nat :=
  if off < 2 ^ 33 then (0, off)
  else
    let die := (off - 2 ^ 33) / 0x380000000
    let z := (off - 2 ^ 33) % 0x380000000
    (die, if die == 0 then z + 2 ^ 33 else z)

/-- The home die and die address of a DPA of locale 0x0 (02 R27, R30); none where no well is placed. -/
def State.homeOf (s : State) (dpa : Nat) : Option (Nat × Nat) :=
  if Config.poolEnd ≤ dpa then (if dpa < Config.locale0End then some (reserveHome (dpa - Config.poolEnd)) else none)
  else
  let g := s.granule (dpa / Config.gib)
  let x := dpa % Config.gib
  match g.place with
  | .free => none
  | .loc d => some (d.val, g.q0 * 2 ^ 28 + x)
  | .spread =>
    let die := x / 4096 % 4
    let q := match die with | 0 => g.q0 | 1 => g.q1 | 2 => g.q2 | _ => g.q3
    some (die, q * 2 ^ 28 + (x / 16384 * 4096 + x % 4096))

/-- The pool DPA whose byte lies at a die address (02 R27, R30); none where no granule is placed there. -/
def State.dpaAt (s : State) (die a : Nat) : Option Nat :=
  s.pool.granules.findSome? fun (g, x) =>
    match x.place with
    | .free => none
    | .loc d => if d.val == die && x.q0 * 2 ^ 28 ≤ a && a < x.q0 * 2 ^ 28 + Config.gib then some (g * Config.gib + (a - x.q0 * 2 ^ 28)) else none
    | .spread =>
      let q := (match die with | 0 => x.q0 | 1 => x.q1 | 2 => x.q2 | _ => x.q3) * 2 ^ 28
      if q ≤ a && a < q + 2 ^ 28 then some (g * Config.gib + (a - q) / 4096 * 16384 + die * 4096 + (a - q) % 4096) else none

/-- An error is logged in AER (14 R415, R419). -/
def State.aerLog (s : State) (n : Nat) (e : AerErr) : State :=
  s.modStn n fun t => { t with aer := if t.aer.contains e then t.aer else t.aer ++ [e] }

/-- The stack of a die address (02 R24): its global number and its byte address. -/
def stackOf (die a : Nat) : Nat × Nat := (6 * die + a / 256 % 6, a / 256 / 6 * 256 + a % 256)

/-- The home die of a DPA; die 0 where nothing is placed. -/
def State.dieOf (s : State) (dpa : Nat) : Nat := ((s.homeOf dpa).map (·.1)).getD 0

/-- The well that holds a DPA of the pool area, and the offset in it: a well at its Start, or the target of a
migration. -/
def State.wellAt (s : State) (dpa : Nat) : Option (Nat × Nat) :=
  match s.pool.wells.find? fun (_, w) => w.st != .free && w.start ≤ dpa && dpa < w.start + w.length with
  | some (i, w) => some (i, dpa - w.start)
  | none =>
    match s.pool.wells.find? fun (_, w) =>
        match w.mig with
        | some m => w.st == .migrating && m.start ≤ dpa && dpa < m.start + w.length
        | none => false with
    | some (i, w) => (w.mig).map fun m => (i, dpa - m.start)
    | none => none

/-- Where a byte of a well lies now: offsets below the copy point are at a migration's target (03 R90, R94). -/
def Well.dpa (w : Well) (off : Nat) : Nat :=
  match w.mig with
  | some m => if w.st == .migrating && off < m.point then m.start + off else w.start + off
  | none => w.start + off

/-- The chunk a migration has in transit: its first offset, and whether it is on its way back (03 R90, R94). -/
def Mig.back (m : Mig) : Bool := m.cancel.isSome && !m.turning

def Mig.chunk (m : Mig) : Nat := if m.back then m.point - 65536 else m.point

/-- The offset lies in a chunk in transit, whose requests wait (03 R90). -/
def Well.inTransit (w : Well) (off : Nat) : Bool :=
  match w.mig with
  | some m => w.st == .migrating && m.transit && m.chunk ≤ off && off < m.chunk + 65536
  | none => false

/-- A dormant die begins to leave self-refresh (18 R560). -/
def State.wakeDie (s : State) (d : Nat) : State :=
  if h : d < 4 then (if s.pwr.dormant[d] then { s with pwr := { s.pwr with waking := s.pwr.waking.set d true } } else s) else s

/-! ## Journaled and restored tables -/

def State.ctx (s : State) (c : Nat) : Ctx := tgetD s.xl.ctxs c {}
def State.modCtx (s : State) (c : Nat) (f : Ctx → Ctx) : State :=
  { s with xl := { s.xl with ctxs := tset s.xl.ctxs c (f (s.ctx c)) } }

def State.plat (s : State) (p : Nat) : Platform := tgetD s.jobs.plats p {}
def State.modPlat (s : State) (p : Nat) (f : Platform → Platform) : State :=
  { s with jobs := { s.jobs with plats := tset s.jobs.plats p (f (s.plat p)) } }

def State.ns (s : State) (i : Nat) : Ns := tgetD s.pfx.nss i {}
def State.modNs (s : State) (i : Nat) (f : Ns → Ns) : State :=
  { s with pfx := { s.pfx with nss := tset s.pfx.nss i (f (s.ns i)) } }

/-- The namespace a handle names (12 R344). -/
def State.namedNs (s : State) (h : Nat) : Option Nat :=
  let i := h % 65536
  let x := s.ns i
  if i < 1024 && x.st != .free && x.gen % 65536 == h / 65536 then some i else none

def State.slice (s : State) (d : Nat) : Slice := s.cache.slices.toArray.toList.getD d {}
def State.modSlice (s : State) (d : Nat) (f : Slice → Slice) : State :=
  if h : d < 4 then { s with cache := { s.cache with slices := s.cache.slices.set d (f s.cache.slices[d]) } } else s

def State.job (s : State) (id : Nat) : Option Job := s.jobs.jobs.find? (·.id == id)
def State.modJob (s : State) (id : Nat) (f : Job → Job) : State :=
  { s with jobs := { s.jobs with jobs := s.jobs.jobs.map fun j => if j.id == id then f j else j } }

def Phase.code : Phase → Nat
  | .bringUp => 0
  | .service => 1
  | .factory => 2
  | .recovery => 3
  | .drained => 4

/-- The twin's last health report shows it in service with no open UF record (17 R539, 20 R603, R605;
notes/assumptions/21). -/
def State.twinHealthy (s : State) : Bool :=
  match s.twin.report with
  | some r => s.twin.st == .paired && r.phase == 1 && !r.openUf
  | none => false

/-- An NMI captures the unit's state: it issues no new work (17 R521). -/
def State.captured (s : State) (kind unit : Nat) : Bool := s.flt.busy.contains (kind, unit, false)

/-- The key slots that are ARMED here, with those of the twin that this module holds for MIRRORED wells (19 R582). -/
def State.slots (s : State) : Tab KeySlot := s.sec.keys ++ s.sec.twinKeys

/-- The crossover links that are up (16 R482). -/
def State.xoUp (s : State) : List Nat := (List.range 4).filter fun k => s.twin.links.toArray.toList.getD k false

/-- The module is paired, a switchover gap included (15 R467, 16 R510). -/
def State.isPaired (s : State) : Bool := s.twin.st == .paired

def State.inGap (s : State) : Bool := s.twin.st == .gap

end Sys2Proof.Machine
end

