-- ==== Sys2Proof/Machine/Faults.lean ====
section
/-! DEFINITION. Fault records: sources, policies, coalescing, thresholds, escalation, reactions and the judgement
of permanence (17). -/
namespace Sys2Proof.Machine

/-- What R520 says of a source. -/
structure Source where
  code : Nat
  cls : Nat
  kind : Nat
  policy : Policy
  floor : React := .int
  deriving DecidableEq, Repr

def src (code cls kind : Nat) (r : React) (pin esc : Bool) (floor : React := .int) (th : Nat := 0) (win : Nat := 0) : Source :=
  ⟨code, cls, kind, ⟨r, pin, esc, th, win⟩, floor⟩

/-- The sources of 17 R520 with their defaults. -/
def sources : List Source :=
  [src 0x0101 0 2 .int false false .int 256 60, src 0x0102 1 2 .int false false, src 0x0103 2 2 .int true true,
   src 0x0104 2 2 .int true true, src 0x0105 2 2 .nmi true true .nmi, src 0x0106 1 0 .int true false,
   src 0x0201 0 1 .int false false .int 64 60, src 0x0202 2 1 .nmi true true .nmi, src 0x0203 1 1 .int false false,
   src 0x0204 0 1 .int false false .int 1024 60, src 0x0205 2 1 .module true true .module,
   src 0x0301 0 3 .int false false .int 16 3600, src 0x0302 2 3 .int true true, src 0x0303 0 3 .int false false,
   src 0x0304 1 3 .int false false, src 0x0305 2 3 .block false true .block] ++
  [src 0x0401 3 4 .int false false, src 0x0402 3 4 .int false false, src 0x0403 3 4 .int false false,
   src 0x0404 3 8 .int false false, src 0x0405 3 4 .int false false, src 0x0406 3 4 .int false false,
   src 0x0407 3 4 .int false false, src 0x0408 3 4 .block true false, src 0x0409 2 4 .int true true,
   src 0x0501 3 5 .int false false, src 0x0502 2 5 .int true true, src 0x0503 3 0 .int false false,
   src 0x0504 3 0 .int false false, src 0x0505 3 0 .int true false, src 0x0506 3 0 .int false false,
   src 0x0507 0 0 .int false false] ++
  [src 0x0601 4 0 .int true true, src 0x0602 4 0 .int true true, src 0x0603 4 7 .int true true,
   src 0x0604 4 0 .module true true .module, src 0x0605 4 1 .int false false, src 0x0606 4 1 .module true true .module,
   src 0x0701 5 6 .block false true, src 0x0702 5 6 .block true true .block, src 0x0703 5 9 .int false false,
   src 0x0704 5 0 .int true true, src 0x0705 5 0xA .int false true, src 0x0706 5 6 .nmi true true]

def sourceOf (code : Nat) : Option Source := sources.find? (·.code == code)

/-- The policy in force for a source (17 R520, R531). -/
def State.policy (s : State) (x : Source) : Policy := tgetD s.flt.policies x.code x.policy

def React.rank : React → Nat
  | .int => 0
  | .nmi => 1
  | .block => 2
  | .module => 3

def React.ofRank (n : Nat) : React :=
  match n with
  | 0 => .int
  | 1 => .nmi
  | 2 => .block
  | _ => .module

/-- The temperature of a unit's die (17 R519, 18 R561): stacks have their own sensors; pumps are on their home
die, stations and crossover links on a station die, the rest on the signal box. -/
def State.tempOf (s : State) (kind unit : Nat) : Nat :=
  let t := fun i => (s.pwr.temps.toArray.toList.getD i 0).toNat
  match kind with
  | 1 => t unit
  | 2 => (s.pwr.stackTemps.toArray.toList.getD unit 0).toNat
  | 3 => t (unit / 4)
  | 4 => t (4 + unit / 24)
  | 5 => t (4 + unit / 2)
  | _ => t 6

def State.railMv (s : State) (i : Nat) : Nat := ((s.pwr.rails.toArray.toList.getD i {}).mv) % 65536

/-- RAIL_MV of a unit (18 R548). For the kinds whose rail the spec does not name the value is free. -/
def State.railOf (s : State) (kind unit : Nat) : Nat :=
  match kind with
  | 1 => s.railMv (4 * unit)
  | 2 => s.railMv (4 * (unit / 6) + 2)
  | 3 => s.railMv (4 * (unit / 4) + 1)
  | 4 => s.railMv (0x10 + unit / 24)
  | _ => Config.freeChoice s.freeCtr % 65536

/-- An event a fault source detects. -/
structure Event where
  source : Nat
  /-- Its unit's kind, where it is not the one that the source's row names. -/
  kind : Option Nat := none
  unit : Nat := 0
  object : Nat := 0
  address : Nat := 0
  detail : Nat := 0
  /-- Stations the record concerns beside the unit itself (14 R428). -/
  stns : List Nat := []
  injected : Bool := false
  permanent : Bool := false
  /-- Opens its record without counting toward a threshold (17 R541 RAISE). -/
  direct : Bool := false
  deriving DecidableEq, Repr

/-- The row of an event's source, with the kind of its unit (17 R520). -/
def Event.row (e : Event) : Option Source := (sourceOf e.source).map fun x => { x with kind := e.kind.getD x.kind }

def State.addHist (s : State) (source kind unit : Nat) (location : Nat) (count verdict : Nat) (inj : Bool) : State :=
  let e : Hist := ⟨s.mod.boot, source, kind, unit, s.now, BitVec.ofNat 64 location, count, verdict, inj⟩
  let h := s.flt.history
  let h := if h.length < Config.historyMax then h else
    match (h.reverse.zipIdx.find? fun x => x.1.verdict != 2) with
    | some (_, i) => (h.reverse.eraseIdx i).reverse
    | none => h.dropLast
  { s with flt := { s.flt with history := e :: h } }

def State.modRecord (s : State) (seq : Nat) (f : FaultRec → FaultRec) : State :=
  { s with flt := { s.flt with records := s.flt.records.map fun r => if r.seq == seq then f r else r } }

/-- The record of a source and unit that a further event coalesces with (17 R519). -/
def State.openRec (s : State) (x : Source) (e : Event) : Option FaultRec :=
  s.flt.records.find? fun r =>
    r.source == e.source && !r.acked && r.injected == e.injected && r.unitKind == x.kind &&
      (if x.kind == 8 || x.kind == 9 then r.object == BitVec.ofNat 64 e.object
       else r.unit == e.unit)

/-- Records that take part in escalation with a new one of class `cls` (17 R522). -/
def State.openEsc (s : State) (cls : Nat) : Nat :=
  (s.flt.records.filter fun r =>
    r.cls == cls && !r.acked && (match sourceOf r.source with | some x => (s.policy x).esc | none => false)).length

/-- Room in the ring: the oldest ACKED record goes, or the oldest, and LOST counts (17 R519). -/
def State.ringRoom (s : State) : State :=
  let rs := s.flt.records
  if rs.length < Config.faultRing then s else
    let rs' := match rs.reverse.zipIdx.find? fun x => x.1.acked with
      | some (_, i) => (rs.reverse.eraseIdx i).reverse
      | none => rs.dropLast
    { s with flt := { s.flt with records := rs', lost := s.flt.lost + 1 } }

/-- The unit kinds that have a block (17 R521). -/
def hasBlock (kind : Nat) : Bool := kind == 3 || kind == 4 || kind == 5 || kind == 6

/-- BLOCK_RESET of a unit of this kind: NMI for a kind that has no block (17 R521). -/
def blockStep (kind : Nat) : React := if hasBlock kind then .block else .nmi

/-- A MODULE_RESET of this source is held while a switchover gap is on (17 R524). -/
def State.holdsReset (s : State) (x : Source) (r : React) : Bool := r == .module && s.inGap && x.floor != .module

/-- The reaction a record applies now (17 R521): in factory test mode nothing above NMI but a source whose floor is MODULE_RESET
(R540); while a MODULE_RESET is held, the step below it (R524; DEDUCED, notes/assumptions/177). -/
def State.appliedReact (s : State) (x : Source) (r : React) : React :=
  if s.mod.phase == .factory && x.floor != .module && r.rank > 1 then .nmi
  else if r == .block || s.holdsReset x r then blockStep x.kind
  else r

/-- The step a record names: the policy's in factory test mode (17 R540), and the one applied otherwise (R519, R521). -/
def State.namedReact (s : State) (x : Source) (r : React) : React :=
  if s.mod.phase == .factory && x.floor != .module && r.rank > 1 then (s.policy x).react else s.appliedReact x r

/-- The steps of a reaction that remain for the end of the command (17 R521, R523, R524); a die-to-die link that fails in
bring-up leads to recovery (20 R596). -/
def State.react (s : State) (x : Source) (kind unit : Nat) (r : React) : State :=
  let held := s.holdsReset x r
  let a := s.appliedReact x r
  let s := if a.rank == 0 then s else { s with todo := s.todo ++ [.nmi kind unit] }
  let s := if held then { s with twin := { s.twin with resetHeld := true } } else s
  match a with
  | .int | .nmi => s
  | .block => { s with todo := s.todo ++ [.block kind unit] }
  | .module =>
    if x.code == 0x0205 && s.mod.phase == .bringUp then { s with mod := { s.mod with phase := .recovery, otherBad := true } }
    else { s with todo := s.todo ++ [.moduleReset] }

/-- Vector 1 of every station of a list, whose FLT block notes the record (17 R521, R526). -/
def State.tell (s : State) (seq : Nat) (stns : List Nat) : State :=
  forAll stns (fun n s => (s.modStn n fun t => { t with fltLastSeq := max t.fltLastSeq seq }).raiseVec n 1) s

/-- The record goes to the management network with an I3C in-band interrupt, and vector 1 to every station it concerns (17
R521, R526). -/
def State.report (s : State) (r : FaultRec) : State := ((s.emit (.record r)).emit .i3cInterrupt).tell r.seq r.stns

/-- A MODULE_RESET that a gap held is applied: the records that named it held say so, each with its notice (17 R524, R526). -/
def State.applyHeld (s : State) : State :=
  if s.twin.resetHeld then
    let s := (s.flt.records.filter (·.held)).foldl (fun s r =>
      (s.modRecord r.seq fun r => { r with held := false, react := .module }).emit (.record { r with held := false, react := .module })) s
    { s with twin := { s.twin with resetHeld := false }, todo := s.todo ++ [.moduleReset] }
  else s

/-- A tag error that both tag copies show (17 R521): bit 0 of DETAIL says so (DESIGN CHOICE, notes/assumptions/156). -/
def Event.tagError (e : Event) : Bool := e.source == 0x0202 && e.detail % 2 == 1

/-- A unit judged permanent starts the replacement sequence unless the judgement rests on an injected event
(17 R539, 08 R249). -/
def State.judged (s : State) (kind unit seq : Nat) (inj : Bool) : State :=
  let s := if kind == 3 then { s with todo := s.todo ++ [.pumpOut unit] } else s
  let s := if kind == 3 then s.modPump unit fun p => { p with permanent := if p.permanent == some false then some false else some inj } else s
  if inj then s
  else
    let s := s.modRecord seq fun r => { r with drain := true }
    let s := if kind == 4 then { s with todo := s.todo ++ [.stationOut unit] } else s
    { s with todo := s.todo ++ [.replace] }

/-- The stations an event concerns (14 R428): the station that is its unit, the members of the cistern it is about, the
station of the platform it is about, and the station of the job that runs on the pump that is its unit. -/
def State.concerned (s : State) (x : Source) (e : Event) : List Nat :=
  let more :=
    if x.kind == 4 then (if e.unit < 48 then [e.unit] else [])
    else if x.kind == 3 then
      match ((s.pumpAt e.unit).job.bind s.job).filter fun j => j.stage == .running e.unit with
      | some j => [(s.plat j.plat).station]
      | none => []
    else if x.kind == 8 then (match s.namedCis e.object with | some c => (s.cis c).members | none => [])
    else if x.kind == 9 then (if (s.plat e.object).st == .free then [] else [(s.plat e.object).station])
    else []
  e.stns ++ more.filter fun n => !e.stns.contains n

/-- A new record opens, with its reaction, escalation and pin (17 R519 to R525). -/
def State.openRecord (s : State) (x : Source) (e : Event) : State :=
  let p := s.policy x
  let k := if p.esc then s.openEsc x.cls else 0
  let rank := p.react.rank + k
  let r := if e.tagError then .module else React.ofRank rank
  let f : FaultRec :=
    { seq := s.flt.nextSeq, time := s.now, source := e.source, cls := x.cls,
      react := s.namedReact x r, held := s.holdsReset x r && s.mod.phase != .factory
      pin := p.pin || rank > 3, unitKind := x.kind, unit := if x.kind == 8 || x.kind == 9 then 0 else e.unit,
      permanent := e.permanent, escalated := k > 0, injected := e.injected, temp := s.tempOf x.kind e.unit,
      rail := s.railOf x.kind e.unit, object := BitVec.ofNat 64 e.object, address := BitVec.ofNat 64 e.address,
      detail := BitVec.ofNat 128 e.detail, stns := s.concerned x e }
  let s := s.ringRoom
  let s := { s with freeCtr := s.freeCtr + 1,
                    flt := { s.flt with records := f :: s.flt.records, nextSeq := s.flt.nextSeq + 1 } }
  let s := if f.pin && (s.mod.phase == .service || s.mod.phase == .drained) then
    { s with mod := { s.mod with oneShot := true } } else s
  (s.report f).react x x.kind e.unit r

/-- 24 hours in ns. -/
def dayNs : Nat := 86400000000000

/-- The sources whose second event on one unit within 24 hours judges the unit (17 R532), and the source that
reports it. -/
def repeatPerm (x : Source) : Option Nat :=
  if x.code == 0x0305 then some 0x0302
  else if x.kind == 3 || x.kind == 2 || x.kind == 5 then none
  else if x.kind == 4 then (if x.cls == 2 && x.code != 0x0409 then some 0x0409 else none)
  else if x.cls == 2 || x.cls == 5 || x.code == 0x0603 || x.code == 0x0604 then some x.code
  else none

/-- The step that an OPEN record applies rises to MODULE_RESET, with its notice (17 R526). -/
def State.recordUp (s : State) (x : Source) (r : FaultRec) : State :=
  let up := fun (r : FaultRec) => { r with react := s.namedReact x .module, held := s.holdsReset x .module && s.mod.phase != .factory }
  if (up r).react == r.react then s else (s.modRecord r.seq up).emit (.record (up r))

/-- One event without the judgement of repetition: it coalesces, counts toward a threshold, or opens a record. -/
def State.recordOnce (s : State) (e : Event) : State :=
  match e.row with
  | none => s
  | some x =>
    let s := if x.kind == 2 || x.kind == 5 then s.addHist e.source x.kind e.unit e.address 1 (if e.permanent then 2 else 0) e.injected
      else if e.permanent then s.addHist e.source x.kind e.unit e.address 1 2 e.injected else s
    match s.openRec x e with
    | some r =>
      let on := s.concerned x e
      let new := on.filter fun n => !r.stns.contains n
      let s := forAll on (fun n s => s.modStn n fun t => { t with fltLastSeq := max t.fltLastSeq r.seq }) s
      let s := s.modRecord r.seq fun r =>
        { r with count := sat 32 (r.count + 1), permanent := r.permanent || e.permanent, stns := r.stns ++ new }
      let s := s.tell r.seq new
      if e.tagError then (s.recordUp x r).react x x.kind e.unit .module else s
    | none =>
      let p := s.policy x
      if p.threshold == 0 || e.direct then s.openRecord x e
      else
        let mine := fun (c : Nat × Nat × Nat) => c.1 == e.source && c.2.1 == e.unit
        let live := s.flt.counts.filter fun c => !(mine c && c.2.2 + p.windowS * 1000000000 < s.now)
        let counts := (e.source, e.unit, s.now) :: live
        if (counts.filter mine).length < p.threshold then { s with flt := { s.flt with counts := counts } }
        else { s with flt := { s.flt with counts := counts.filter fun c => !mine c } }.openRecord x e

/-- The newest OPEN record of a source and unit. -/
def State.newest (s : State) (e : Event) : Nat :=
  match e.row with
  | none => 0
  | some x => ((s.openRec x e).map (·.seq)).getD 0

/-- An event a source detects: its record, and the judgement of permanence that repetition gives (17 R519, R532). -/
def State.record (s : State) (e : Event) : State :=
  match e.row with
  | none => s
  | some x =>
    let key := if x.kind == 8 || x.kind == 9 then e.object else e.unit
    let earlier := s.flt.recent.filter fun (c, k, u, t, _) =>
      c == e.source && k == x.kind && u == key && s.now ≤ t + dayNs
    match repeatPerm x with
    | none =>
      let s := s.recordOnce e
      if e.permanent && x.code != 0x0103 && !(x.code == 0x0502 && e.detail % 256 == 1) then
        s.judged x.kind e.unit (s.newest e) e.injected else s
    | some perm =>
      let s := { s with flt := { s.flt with recent := (e.source, x.kind, key, s.now, e.injected) :: s.flt.recent } }
      -- a single event of another unit is judged transient (R532, R535)
      if earlier.isEmpty then (if x.kind == 3 then s else s.addHist e.source x.kind e.unit e.address 1 1 e.injected).recordOnce e
      else
        let inj := e.injected || earlier.any fun x => x.2.2.2.2
        if perm == x.code then
          let e' := { e with permanent := true, injected := inj }
          let s := s.recordOnce e'
          s.judged x.kind e.unit (s.newest e') inj
        else
          -- events of one command take SEQ in ascending source code (R522)
          let e' : Event := { source := perm, unit := e.unit, stns := e.stns, injected := inj, permanent := true }
          let s := if perm < x.code then (s.recordOnce e').recordOnce e else (s.recordOnce e).recordOnce e'
          s.judged x.kind e.unit (s.newest e') inj

/-- An access of the block's own to an unbacked address is logged under R22's source, with the unit that made it (02 R22). -/
def State.unbackedBy (s : State) (kind unit a : Nat) : State := s.record { source := 0x0403, kind := some kind, unit := unit, address := a }

/-! ## Poison with its record (17 R517) -/

/-- A line is poisoned for a cause, with a record in the poison map where one is free. -/
def State.poisonLine (s : State) (a cause : Nat) : State :=
  let s := s.setPoison a
  let s := { s with upsets := s.upsets.filter (·.1 != a) }
  if s.poisonMap.any (·.1 == a) then s
  else if s.poisonMap.length < Config.poisonMapMax then
    let h := match s.wellAt a with | some (i, _) => s.wellHandle i | none => Config.noHandle
    { s with poisonMap := s.poisonMap ++ [(a, h, cause)] }
  else s.record { source := 0x0106, address := a }

/-- The stack that holds a DPA, as the unit of a memory record. -/
def State.stackAt (s : State) (a : Nat) : Nat :=
  match s.homeOf a with
  | some (d, x) => (stackOf d x).1
  | none => 0

/-- The number of symbols in error of a stored line, and whether an injection flipped one. -/
def State.upsetOf (s : State) (a : Nat) : Option (Nat × Bool) :=
  (s.upsets.find? (·.1 == a)).map fun x => x.2

/-! ## Rows and stacks (17 R532; 20 R607) -/

/-- The die and span of a row's location: the die of its stack and the aligned 32 MiB of die address that hold it. -/
def spanOf (loc : Nat) : Nat := loc / 2 ^ 25

def State.spansLeft (s : State) (die : Nat) : Nat := 448 - (s.mod.spares.filter fun x => x.stack / 6 == die).length

/-- Rows of a stack that are permanent and not spared: the locations of their history entries. -/
def State.permRows (s : State) (stack : Nat) : List Nat :=
  ((s.flt.history.filter fun e => e.source == 0x0103 && e.unitKind == 2 && e.unit == stack && e.verdict == 2).map (·.location.toNat)).eraseDups

/-- A stack is judged permanent by its rows: more than 64, or more unspared rows on its die than spans left (17 R532). -/
def State.judgeStack (s : State) (stack : Nat) : State :=
  let die := stack / 6
  let mine := s.flt.history.filter fun e => e.source == 0x0103 && e.unitKind == 2 && e.unit == stack && (e.verdict == 2 || e.verdict == 3)
  let rows := (mine.map (·.location.toNat)).eraseDups
  let open_ := sumOf (fun k => (s.permRows (6 * die + k)).length) (List.range 6)
  let pending := (s.mod.spares.filter fun x => x.stack / 6 == die && !x.done).length
  let judged := s.flt.history.any fun e => e.source == 0x0104 && e.unitKind == 2 && e.unit == stack && e.verdict == 2
  if !judged && (64 < rows.length || s.spansLeft die + pending < open_) then
    s.record { source := 0x0104, unit := stack, injected := mine.any (·.injected), permanent := true }
  else s

/-- The row address of a die address: a row lies within one aligned 32 MiB span (20 R607). -/
def rowAddr (stack a : Nat) : Nat := a / 2 ^ 25 * 2 ^ 25 + Config.rowOf stack a % 2 ^ 25

/-- A row is judged permanent (17 R532). -/
def State.rowJudged (s : State) (stack loc : Nat) (inj : Bool) : State :=
  (s.record { source := 0x0103, unit := stack, address := loc, injected := inj, permanent := true }).judgeStack stack

/-- An uncorrectable error of a stored line, the event `e` (17 R511, R517): the line is poisoned. One that has been poisoned before and
is not now has been written whole since, so that the error recurs, and its row is judged (R532). -/
def State.uncorrectable (s : State) (e : Event) : State :=
  let line := lineOf e.address
  let old := s.flt.uncorr.find? (·.1 == line)
  let inj := e.injected || ((old.map (·.2)) == some true)
  let s' := { s with flt := { s.flt with uncorr := (line, inj) :: s.flt.uncorr.filter (·.1 != line) } }
  let judge := fun (s : State) => match old, s.homeOf line with
    | some _, some (d, a) => if s.poison.contains line then s else s.rowJudged e.unit (rowAddr (stackOf d a).1 a) inj
    | _, _ => s
  (if e.source < 0x0103 then judge (s'.record e) else (judge s').record e).poisonLine line 1

/-- An uncorrectable error other than a completion timeout is logged in AER, and is the event of LINK_UC (14 R415; 17 R520). -/
def State.aerUc (s : State) (n : Nat) (e : AerErr) : State := (s.aerLog n e).record { source := 0x0407, unit := n }

/-- A request that no BAR of the function answers, and one that the module does not define (an AtomicOp, a message, an I/O request: no row
of the table brings one), completes as an Unsupported Request (14 R415, R431, R439). -/
def State.unsupported (s : State) (n : Nat) : State := (s.aerUc n .unsupportedRequest).emit (.ur n)

/-- An access reaches the stacks of a line's die: a dormant one wakes for it (18 R559, R560). -/
def State.touch (s : State) (a : Nat) : State :=
  let d := (s.homeOf a).map (·.1) |>.getD 0
  if h : d < 4 then
    if s.pwr.dormant[d] then s.wakeDie d else { s with pwr := { s.pwr with lastReq := s.pwr.lastReq.set d s.now } }
  else s

/-- Accesses that the block makes on its own reach the stacks of these lines: a dormant die is woken, and they wait for it (18 R560); otherwise
they count as requests to their dies (R559). -/
def State.stacksReady (s : State) (keys : List Nat) : Bool × State :=
  let dies := (keys.filterMap fun a => (s.homeOf a).map (·.1)).eraseDups
  if dies.any fun d => s.pwr.dormant.toArray.toList.getD d false then (false, dies.foldl (fun s d => s.wakeDie d) s)
  else (true, { s with pwr := { s.pwr with lastReq := dies.foldl (fun v d => v.setIfInBounds d s.now) s.pwr.lastReq } })

/-- A read of a stored line through its code (17 R511): one symbol in error is corrected and rewritten; more
poison the line. -/
def State.readDram (s : State) (a : Nat) : Line × Bool × State :=
  let s := s.touch a
  match s.upsetOf a with
  | none => (s.dram a, s.poison.contains a, s)
  | some (k, inj) =>
    if k ≤ 1 then
      let s := { s with upsets := s.upsets.filter (·.1 != a) }
      (s.dram a, s.poison.contains a, s.record { source := 0x0101, unit := s.stackAt a, address := a, injected := inj })
    else
      let h := match s.wellAt a with | some (i, _) => s.wellHandle i | none => 0
      (s.dram a, true, s.uncorrectable { source := if a < Config.poolEnd then 0x0102 else 0x0105, unit := s.stackAt a, object := h, address := a, injected := inj })

/-- A whole line stored to DRAM with its poison (17 R516). -/
def State.writeDram (s : State) (a : Nat) (d : Line) (pois : Bool) : State :=
  let s := (s.touch a).setMem a (lineBytes d)
  if pois then { (s.setPoison a) with upsets := s.upsets.filter (·.1 != a) } else s.clearPoison a

end Sys2Proof.Machine
end

