-- ==== Sys2Proof/Machine/CacheOps.lean ====
section
/-! DEFINITION. The device cache: index, lookup, victims, the streaming detector, and the home copy of a pool line
(05; 04 R107, R108, R114). -/
namespace Sys2Proof.Machine

/-- The slice and set of a device-cache line (05 R133, R134); `a` is the die address of a pool line. -/
def cacheSetOf (l u : Nat) : Nat := (l % 65536) ^^^ (u % 65536 * 0x9E3B % 65536)

def poolSet (a : Nat) : Nat := cacheSetOf (a / 64) (a / 64 / 65536)

def hostSlice (n hpa : Nat) : Nat := (hpa / 4096 % 4) ^^^ (n % 4)

def hostSet (n hpa : Nat) : Nat := cacheSetOf (hpa / 64) ((hpa / 64 / 65536) ^^^ (n * 2 ^ 24))

def State.placeOf (s : State) (k : CKey) : Option (Nat × Nat) :=
  match k with
  | .pool dpa => (s.homeOf dpa).map fun (d, a) => (d, poolSet a)
  | .host n hpa => some (hostSlice n hpa, hostSet n hpa)

/-- A slice that performs lookups (05 R151); one that is invalidated from DISABLED still performs none (R146), nor does
one before an INVALIDATE_FIRST has dropped its retained lines (R152). -/
def State.looksUp (s : State) (d : Nat) : Bool :=
  (s.slice d).st != .disabled && !((s.slice d).st == .invalidating && ((s.slice d).frm == .disabled || (s.slice d).opens))

/-- A slice that allocates (05 R150). -/
def State.allocates (s : State) (d : Nat) : Bool := s.looksUp d && (s.slice d).st != .disabling

/-- The valid cached line of a key. -/
def State.cached (s : State) (k : CKey) : Option CLine :=
  s.cache.lines.find? fun c => c.key == k && !c.retained && s.looksUp c.die

def State.setLines (s : State) (l : List CLine) : State := { s with cache := { s.cache with lines := l } }

def State.modLine (s : State) (k : CKey) (f : CLine → CLine) : State :=
  s.setLines (s.cache.lines.map fun c => if c.key == k && !c.retained then f c else c)

def State.dropLine (s : State) (k : CKey) : State := s.setLines (s.cache.lines.filter fun c => !(c.key == k && !c.retained))

/-- A line used: its age is 0, and the ages of the other ways of its set are open (05 R132). -/
def State.touchLine (s : State) (k : CKey) : State :=
  match s.cached k with
  | none => s
  | some c =>
    let others := s.cache.lines.filter fun x => x.die == c.die && x.set == c.set && x.key != k
    let s := forAll others (fun x s =>
      let (a, s) := s.freshAge
      s.setLines (s.cache.lines.map fun y => if y.key == x.key && y.retained == x.retained then { y with age := a } else y)) s
    s.modLine k fun c => { c with age := 0 }

/-- The pump of the job an access is made for; 16 for none. -/
def State.pumpOfJob (s : State) (job : Option Nat) : Nat := ((job.bind s.job).map (·.lastPump)).getD 16

/-- A request of this block to a station's host, and its record where an answer is awaited (05 R136; 07 R186). -/
def State.device (s : State) (n : Nat) (what : D2H) (kind : DevKind) (hpa : Nat) (d : Line) (pois : Bool) (job : Option Nat)
    (opnd addr : Nat) (mask : BitVec 64 := fullMask) : State :=
  let id := s.jobs.nextDev
  let o : DevOut := ⟨id, n, hpa, kind, d, job, opnd, addr, s.now + (s.stnAt n).ctoUs * 1000, pois, s.pumpOfJob job⟩
  { s with jobs := { s.jobs with devOut := s.jobs.devOut ++ [o], nextDev := id + 1 } }.emit (.d2h n id what hpa d mask pois)

/-- The way that the access with a number is moving a host line into or out of (05 R138). -/
def State.inTransfer (s : State) (id d set w : Nat) : State :=
  { s with cache := { s.cache with moving := s.cache.moving ++ [(id, d, set, w)] } }

/-- A modified host line leaves for its host; its way is in transfer until the GO (05 R138, R149). -/
def State.dirtyEvict (s : State) (c : CLine) (n hpa : Nat) (job : Option Nat) (opnd addr : Nat) : State :=
  let id := s.jobs.nextDev
  ((s.dropLine c.key).device n .dirtyEvict .evict hpa c.data c.pois job opnd addr).inTransfer id c.die c.set c.way

/-- A valid line leaves the cache (05 R138): dirty pool data goes to DRAM, host lines to their host. -/
def State.evict (s : State) (c : CLine) : State :=
  match c.key with
  | .pool dpa =>
    let s := s.dropLine c.key
    if c.dirty then s.writeDram dpa c.data c.pois else s
  | .host n hpa =>
    if c.hst == .m then s.dirtyEvict c n hpa none 0 0
    else (s.dropLine c.key).emit (.d2h n 0 .cleanEvict hpa 0 0 false)

/-- Victim groups in order (05 R138). -/
def victimGroup (c : CLine) : Nat :=
  match c.key with
  | .pool _ => if c.dirty then 3 else 0
  | .host _ _ => if c.hst == .m then 2 else 1

/-- A way for a line of a set: a free one, else that of the victim, which leaves (05 R138, R139). A way reserved for an M
recall or in transfer is neither free nor a victim's. Of several free ways the lowest is taken (DESIGN CHOICE: R138 names none;
notes/assumptions/168). -/
def State.takeWay (s : State) (d set : Nat) : Option Nat × State :=
  let here := s.cache.lines.filter fun c => c.die == d && c.set == set
  let kept := fun w => (s.cache.reserved.any fun r => r.1 == d && r.2.1 == set && r.2.2.1 == w) ||
    (s.cache.moving.any fun r => r.2.1 == d && r.2.2.1 == set && r.2.2.2 == w)
  match (List.range 16).find? fun w => !(here.any (·.way == w) || kept w) with
  | some w => (some w, s)
  | none =>
    let cand := here.filter fun c => !c.retained && !kept c.way
    match (List.range 4).find? fun g => cand.any fun c => victimGroup c == g with
    | none => (none, s)
    | some g =>
      let cand := cand.filter fun c => victimGroup c == g
      let oldest := cand.foldl (fun a c => max a c.age) 0
      match s.pick (cand.filter (·.age == oldest)) with
      | (none, s) => (none, s)
      | (some v, s) => (some v.way, s.evict v)

/-- A line placed in its slice, where the slice allocates and a way is to be had (05 R136, R139). -/
def State.place (s : State) (c : CLine) : Option State :=
  match s.placeOf c.key with
  | none => none
  | some (d, set) =>
    if !s.allocates d then none
    else match s.takeWay d set with
      | (none, _) => none
      | (some w, s) =>
        some ((s.setLines ({ c with die := d, set := set, way := w } :: s.cache.lines)).touchLine c.key)

/-! ## The streaming detector (05 R142 to R144) -/

/-- A whole-line write of a source at line `l` of a slice: its tracker is extended or taken, and whether the write
is streaming. Of several trackers that it continues, it extends the one taken last (DESIGN CHOICE: R142 names none; notes/assumptions/167). -/
def State.stream (s : State) (d : Nat) (src : Src) (host : Bool) (l : Nat) : Bool × State :=
  let ts := s.cache.trackers.filter fun t => s.now ≤ t.last + 10000
  let put := fun ts => { s with cache := { s.cache with trackers := ts } }
  let mine := fun (t : Tracker) => t.die == d && t.src == src && t.host == host && t.start ≤ l && l ≤ t.high + 8
  match ts.find? mine with
  | some t =>
    let high := max t.high l
    let was := t.streaming
    let now := was || (high - t.start + 1) * 64 ≥ t.threshold
    (was, put (ts.map fun x => if x == t then { t with high := high, streaming := now, last := s.now } else x))
  | none =>
    let here := ts.filter (·.die == d)
    let start := fun (slot : Nat) (ts : List Tracker) (s : State) =>
      { s with cache := { s.cache with trackers :=
          ⟨d, slot, src, host, l, l, s.cache.thresholdKiB * 1024, 64 ≥ s.cache.thresholdKiB * 1024, s.now⟩ :: ts } }
    match (List.range 64).find? fun i => !(here.any (·.slot == i)) with
    | some i => (false, start i ts s)
    | none =>
      let oldest := here.foldl (fun a t => min a t.last) s.now
      match s.pick (here.filter (·.last == oldest)) with
      | (none, s) => (false, s)
      | (some v, s) => (false, start v.slot (ts.filter (· != v)) s)

/-! ## The home copy of a pool line -/

/-- The home copy (04): the cached line, else the stored one read through its code. -/
def State.homeRead (s : State) (dpa : Nat) : Line × Bool × State :=
  match s.cached (.pool dpa) with
  | some c => (c.data, c.pois, s.touchLine (.pool dpa))
  | none => s.readDram dpa

/-- The home copy is newer than DRAM (04 R105). -/
def State.homeDirty (s : State) (dpa : Nat) : Bool :=
  match s.cached (.pool dpa) with
  | some c => c.dirty
  | none => false

/-- A station's read of a pool line, which allocates (05 R136). -/
def State.stationRead (s : State) (dpa : Nat) : Line × Bool × State :=
  match s.cached (.pool dpa) with
  | some c => (c.data, c.pois, s.touchLine (.pool dpa))
  | none =>
    let (d, p, s) := s.readDram dpa
    match s.place { key := .pool dpa, die := 0, set := 0, way := 0, data := d, pois := p } with
    | some s => (d, p, s)
    | none => (d, p, s)

/-- Data merged with what a line held, and the poison the line then has (17 R514, R516). -/
def mergePois (old new : Line) (mask : BitVec 64) (oldP newP : Bool) : Line × Bool :=
  if mask = fullMask then (new, newP) else (mergeLine old new mask, oldP || newP)

/-- Data written past the cache: merged with a cached copy, which is dropped, and stored (05 R137, R150, R151). -/
def State.writeThrough (s : State) (dpa : Nat) (d : Line) (mask : BitVec 64) (pois keep : Bool) : State :=
  match s.cached (.pool dpa) with
  | some c =>
    let (m, p) := mergePois c.data d mask c.pois pois
    let s := s.writeDram dpa m p
    if keep then s.modLine (.pool dpa) fun c => { c with data := m, pois := p, dirty := false } else s.dropLine (.pool dpa)
  | none =>
    if mask = fullMask then s.writeDram dpa d pois
    else
      let (old, oldP, s) := s.readDram dpa
      let (m, p) := mergePois old d mask oldP pois
      s.writeDram dpa m p

/-- A poison record ends with its poison also where the clean copy is the cached one (17 R517). -/
def State.dropRecord (s : State) (dpa : Nat) (pois : Bool) : State :=
  if pois then s else { s with poisonMap := s.poisonMap.filter (·.1 != dpa) }

/-- The copy made by an operator that carries poison has its record (17 R514, R517). -/
def State.copyPoison (s : State) (dpa : Nat) (pois : Bool) : State :=
  if pois && !(s.poisonMap.any (·.1 == dpa)) then s.poisonLine dpa 4 else s

/-- A write merged into the home copy: dirty in the cache where it allocates, and written through where it does not
(05 R136, R137). `src` is the writer as the streaming detector sees it, which counts every whole-line write (R142). -/
def State.homeWrite (s : State) (dpa : Nat) (d : Line) (mask : BitVec 64) (pois : Bool) (src : Src) : State :=
  match s.homeOf dpa with
  | none => s
  | some (die, a) =>
    let st := (s.slice die).st
    let (streaming, s) := if mask = fullMask then s.stream die src false (a / 64) else (false, s)
    let s' :=
      if !s.looksUp die then s.writeThrough dpa d mask pois false
      else if st == .disabling then s.writeThrough dpa d mask pois true
      else if streaming then s.writeThrough dpa d mask pois false
      else match s.cached (.pool dpa) with
          | some c =>
            let (m, p) := mergePois c.data d mask c.pois pois
            ((s.modLine (.pool dpa) fun c => { c with data := m, pois := p, dirty := true }).touchLine (.pool dpa)).dropRecord dpa p
          | none =>
            let (old, oldP, s) := if mask = fullMask then (0, false, s) else s.readDram dpa
            let (m, p) := mergePois old d mask oldP pois
            match s.place { key := .pool dpa, die := 0, set := 0, way := 0, data := m, pois := p, dirty := true } with
            | some s => s.dropRecord dpa p
            | none => s.writeThrough dpa m fullMask p false
    s'.copyPoison dpa pois

/-- A way reserved for the data an M recall may bring (05 R138, R139). -/
def State.reserveWay (s : State) (dpa : Nat) : State :=
  match s.placeOf (.pool dpa) with
  | none => s
  | some (d, set) =>
    if !s.allocates d || (s.cached (.pool dpa)).isSome || s.cache.reserved.any (fun r => r.2.2.2 == dpa) then s
    else match s.takeWay d set with
      | (none, s) => s
      | (some w, s) => { s with cache := { s.cache with reserved := (d, set, w, dpa) :: s.cache.reserved } }

def State.unreserve (s : State) (dpa : Nat) : State :=
  { s with cache := { s.cache with reserved := s.cache.reserved.filter fun r => r.2.2.2 != dpa } }

/-- A recalled owner's data taken into the way reserved for it, or written as any write-back (05 R136, R139); a slice that
has stopped allocating takes it no longer (R150, R151). Data taken into a reserved way is no write of its source to the
streaming detector (notes/assumptions/155). -/
def State.takeBack (s : State) (dpa : Nat) (d : Line) (mask : BitVec 64) (pois : Bool) (src : Src) : State :=
  match s.cache.reserved.find? fun r => r.2.2.2 == dpa with
  | none => s.homeWrite dpa d mask pois src
  | some (die, set, w, _) =>
    let s := s.unreserve dpa
    if !s.allocates die then s.homeWrite dpa d mask pois src
    else
      let (old, oldP, s) := if mask = fullMask then (0, false, s) else s.readDram dpa
      let (m, p) := mergePois old d mask oldP pois
      (((s.setLines (⟨.pool dpa, die, set, w, m, p, true, .s, false, none, 0⟩ :: s.cache.lines)).touchLine (.pool dpa)).dropRecord dpa p).copyPoison
        dpa pois

/-- An M recall whose line has neither a cached copy nor a reserved way writes the owner's data through (05 R139).
The streaming detector counts it no more than one that its reserved way takes (DESIGN CHOICE, notes/assumptions/155). -/
def State.takeThrough (s : State) (dpa : Nat) (d : Line) (mask : BitVec 64) (pois : Bool) (src : Src) : State :=
  if (s.cached (.pool dpa)).isSome || s.cache.reserved.any (fun r => r.2.2.2 == dpa) then s.takeBack dpa d mask pois src
  else (s.writeThrough dpa d mask pois false).copyPoison dpa pois

/-- The home copy's poison bit set, with a record of the cause (06 R162). -/
def State.poisonHome (s : State) (dpa cause : Nat) : State :=
  match s.cached (.pool dpa) with
  | some _ => (s.modLine (.pool dpa) fun c => { c with pois := true, dirty := true }).poisonLine dpa cause
  | none => s.poisonLine dpa cause

/-- Every cached line of a run of DPA leaves without being written (bytes that are zeroed or released); a retained line is touched
by no write (05 R151). -/
def State.forgetRun (s : State) (a n : Nat) : State :=
  s.setLines (s.cache.lines.filter fun c => match c.key with
    | .pool k => c.retained || !(a ≤ k && k < a + n)
    | .host _ _ => true)

/-- Every cached pool line of a run written back and dropped, before its bytes move by DPA. -/
def State.cleanRun (s : State) (a n : Nat) : State :=
  forAll (s.cache.lines.filter fun c => match c.key with
      | .pool k => a ≤ k && k < a + n && !c.retained
      | .host _ _ => false) (fun c s => s.evict c) s

end Sys2Proof.Machine
end

