-- ==== Sys2Proof/Machine/Home.lean ====
section
/-! DEFINITION. The homes: the directory, back-invalidate snoops, transactions, the line-wait queue and the
service of line requests by the action tables (04), with the routing of migration, mirroring, a switchover gap
and a DOWN cistern (03 R90; 06 R166, R180; 16 R494 to R496). -/
namespace Sys2Proof.Machine

/-- The twin as a holder (04 R102). -/
def twinHolder : Nat := 48

/-- The directory set of a die address (04 R101). -/
def dirSetOf (a : Nat) : Nat :=
  let l := a / 64
  (l % 524288) ^^^ (l / 524288 * 0x2F6B5 % 524288)

/-- The directory tag of a die address (04 R101). -/
def dirTagOf (a : Nat) : Nat := a / 64 / 524288

/-! ## Directory entries -/

def State.modHome (s : State) (f : Home → Home) : State := { s with home := f s.home }

def State.modTwin (s : State) (f : Twin → Twin) : State := { s with twin := f s.twin }
def State.modPool (s : State) (f : Pool → Pool) : State := { s with pool := f s.pool }

/-- The entry of a line; a grant record of the twin takes part in no action table (06 R178). -/
def State.ent (s : State) (key : Nat) : Option DirEnt := s.home.dir.find? fun e => e.key == key && !e.record

def State.modEnt (s : State) (key : Nat) (f : DirEnt → DirEnt) : State :=
  s.modHome fun h => { h with dir := h.dir.map fun e => if e.key == key && !e.record then f e else e }

def State.delEnt (s : State) (key : Nat) : State :=
  s.modHome fun h => { h with dir := h.dir.filter fun e => !(e.key == key && !e.record) }

/-- A transaction holds the line (04 R106). -/
def State.txnOf (s : State) (key : Nat) : Option Txn := s.home.txns.find? (·.key == key)
def State.busy (s : State) (key : Nat) : Bool := (s.txnOf key).isSome

/-- The line of a request where it lies now. -/
def State.keyOf (s : State) (r : Req) : Nat := (s.well r.well).dpa r.off

/-- The line is B: a transaction on it waits for an answer, or for a hold, a way or an eviction (04 R106). -/
def State.isB (s : State) (key : Nat) : Bool := s.busy key || s.home.waitq.any fun x => s.keyOf x.2 == key
def State.modTxn (s : State) (key : Nat) (f : Txn → Txn) : State :=
  s.modHome fun h => { h with txns := h.txns.map fun t => if t.key == key then f t else t }
def State.delTxn (s : State) (key : Nat) : State := s.modHome fun h => { h with txns := h.txns.filter (·.key != key) }

/-- The minimum hold is in force (04 R120). -/
def DirEnt.heldAt (e : DirEnt) (now : Nat) : Bool := e.held && now < e.holdEnd

/-- An entry used: its AGE is 0, and the ages of the other entries of its set are open (04 R102). -/
def State.touchEnt (s : State) (key : Nat) : State :=
  match s.ent key with
  | none => s
  | some e =>
    let others := s.home.dir.filter fun x => x.die == e.die && x.set == e.set && x.key != key
    let s := forAll others (fun x s =>
      let (a, s) := s.freshAge
      s.modEnt x.key fun y => { y with age := a }) s
    s.modEnt key fun e => { e with age := 0 }

/-- An entry with four or fewer holders is in pointer form (04 R103). -/
def DirEnt.fit (e : DirEnt) : DirEnt := if e.holders.length ≤ 4 then { e with ways := e.ways.take 1 } else e

/-! ## Snoops -/

/-- The decoder of a station that is bound to a well, or 0xFF. -/
def State.decoderOf (s : State) (n well : Nat) : Nat :=
  match (s.stnAt n).decoders.find? fun x => x.2.well == some well with
  | some (k, _) => k
  | none => 0xFF

/-- The HPA at which a station reaches an offset of a well. -/
def State.hpaOf (s : State) (n well off : Nat) : Nat :=
  match (s.stnAt n).decoders.find? fun x => x.2.well == some well with
  | some (_, d) => d.base + off
  | none => 0

/-- A back-invalidate snoop of one line to a holder, with its timer (04 R109, R123, R125). A snoop that recalls an M line first
reserves a device-cache way for what it may bring (R105, R112). The twin's snoop names the line itself for the HPA. -/
def State.sendSnoop (s : State) (key : Nat) (kind : BiKind) (holder : Nat) : State :=
  match s.wellAt key with
  | none => s
  | some (i, off) =>
    let m := match (s.ent key).orElse fun _ => (s.txnOf key).bind (·.evicted) with | some e => e.excl == .m && e.holders.contains holder | none => false
    let s := if m && kind != .cur then s.reserveWay key else s
    let c := (s.well i).cistern.getD 0
    let t := (s.cis c).tBi * 1000
    if holder == twinHolder then
      let id := s.twin.nextId
      let s := s.modTwin fun t => { t with nextId := id + 1, fwdOut := t.fwdOut ++ [{ id := id, snoop := some key }] }
      (s.modHome fun h => { h with snoops := h.snoops ++ [({ key := key, holder := holder, hpa := key, kind := kind, deadline := s.now + 2 * t, cistern := c } : Snoop)] }).emit
        (.xo (.snoop id (s.wellHandle i) off kind))
    else
      let hpa := s.hpaOf holder i off
      (s.modHome fun h => { h with snoops := h.snoops ++ [({ key := key, holder := holder, hpa := hpa, kind := kind, deadline := s.now + t, cistern := c } : Snoop)] }).emit (.snoop holder hpa kind)

/-- A transaction that holds the line B until every target has answered (04 R106). -/
def State.startTxn (s : State) (key : Nat) (p : Purpose) (targets : List Nat) (kind : BiKind) (ev : Option DirEnt := none) : State :=
  let s := s.modHome fun h => { h with txns := h.txns ++ [{ key := key, purpose := p, wait := targets, evicted := ev }] }
  targets.foldl (fun s n => s.sendSnoop key kind n) s

/-- A victim entry moves to the eviction buffer (04 R127). -/
def State.evictEnt (s : State) (e : DirEnt) : State := (s.delEnt e.key).startTxn e.key .evict e.holders .inv (some e)

/-- Entries of a die's eviction buffer. -/
def State.evicting (s : State) (die : Nat) : Nat :=
  (s.home.txns.filter fun t => match t.evicted with | some e => e.die == die | none => false).length

/-- The gap of a switchover on this module: whether a well is among those it is for (06 R180; 16 R507). -/
def State.gapFor (s : State) (i : Nat) : Bool :=
  (s.well i).mirror.isSome && (s.inGap || (match s.twin.swo with
    | some x => x.gap && x.gain.contains i
    | none => false))

/-- The cistern of the well holds a MIRRORED well for which a gap is on (06 R180). -/
def State.gapCis (s : State) (w : Well) : Bool :=
  (s.inGap || s.twin.swo.isSome) && w.cistern.isSome && s.pool.wells.any fun x => x.2.st != .free && x.2.cistern == w.cistern && s.gapFor x.1

/-- No snoop of the line is sent during the gap, where its cistern stays LIVE (06 R180). -/
def State.noSnoop (s : State) (key : Nat) : Bool :=
  match s.wellAt key with
  | some (i, _) => s.gapCis (s.well i) && ((s.well i).cistern.map fun c => (s.cis c).st == .live) == some true
  | none => false

/-- Victim groups in order (04 R126). -/
def entGroup (e : DirEnt) (dirty : Bool) : Nat :=
  match e.excl with
  | .none => if e.holders.length ≤ 1 && !dirty then 0 else 1
  | .e => 2
  | .m => 3

/-- The ways of a set that hold no entry. -/
def State.freeWays (s : State) (die set : Nat) : List Nat :=
  let here := s.home.dir.filter fun e => e.die == die && e.set == set
  (List.range 16).filter fun w => !(here.any fun e => e.ways.contains w)

/-- The victim of a set leaves, and its lowest way is free (04 R126, R127); none while no entry can be one. -/
def State.evictWay (s : State) (die set : Nat) (own : Nat) : Option (Nat × State) :=
  let cand := s.home.dir.filter fun e =>
    e.die == die && e.set == set && !e.record && e.key != own && !s.isB e.key && !e.heldAt s.now && !s.noSnoop e.key
  let group := fun e => entGroup e (s.homeDirty e.key)
  match (List.range 4).find? fun g => cand.any fun e => group e == g with
  | none => none
  | some g =>
    let cand := cand.filter fun e => group e == g
    let oldest := cand.foldl (fun a e => max a e.age) 0
    let low := fun (e : DirEnt) => e.ways.foldl min 16
    match (cand.filter (·.age == oldest)).foldl (fun a e => match a with
        | none => some e
        | some b => if low e < low b then some e else some b) none with
    | none => none
    | some e => if 32 ≤ s.evicting die then none else some (low e, s.evictEnt e)

/-- A way of a set for a new entry or for the second way of an entry being updated (04 R126 to R128); none while
the request must wait. -/
def State.dirWay (s : State) (die set : Nat) (own : Nat) : Option (Nat × State) :=
  match s.freeWays die set with
  | w :: _ => some (w, s)
  | [] => s.evictWay die set own

/-! ## Quotas (04 R129, R130) -/

/-- Entries of a slice that name a station. -/
def State.dirCount (s : State) (n die : Nat) : Nat := (s.home.dir.filter fun e => e.die == die && e.holders.contains n).length

def State.quotaOf (s : State) (n : Nat) : Nat := tgetD s.home.quotas n 1048576

def State.quotaRecalls (s : State) (n die : Nat) : Nat :=
  (s.home.txns.filter fun t => t.purpose == .quota n && s.dieOf t.key == die).length

/-- An allocating request of the station waits for a recall to complete. -/
def State.quotaBlocked (s : State) (n die : Nat) : Bool := s.quotaOf n < s.dirCount n die && 256 ≤ s.quotaRecalls n die

/-- While a station's count exceeds its quota, its entries are recalled, the oldest first; among entries of one AGE the order of
the directory's list decides (DESIGN CHOICE, notes/assumptions/153). -/
def State.quotaRecall (s : State) (n die : Nat) : State :=
  let excess := s.dirCount n die - s.quotaOf n - s.quotaRecalls n die
  let room := 256 - s.quotaRecalls n die
  let cand := s.home.dir.filter fun e =>
    e.die == die && e.holders.contains n && !e.record && !s.isB e.key && !e.heldAt s.now && !s.noSnoop e.key
  let cand := cand.mergeSort fun a b => b.age ≤ a.age
  (cand.take (min excess room)).foldl (fun s e => s.startTxn e.key (.quota n) [n] .inv) s

/-- Every station's quota of every slice is enforced (R130). -/
def State.quotaStep (s : State) : State :=
  ((s.home.dir.flatMap fun e => (e.holders.filter (· < 48)).map fun n => (n, e.die)).eraseDups).foldl (fun s (n, d) =>
    if s.quotaOf n < s.dirCount n d then s.quotaRecall n d else s) s

/-! ## Answers -/

/-- The slot of a station's request is returned: its credit leaves, or waits for the link's Recovery to end
(14 R433 to R435). -/
def State.slotDone (s : State) (n : Nat) (rwd : Bool) : State :=
  s.modStn n fun t =>
    if rwd then (if t.recovery then { t with rwdHeld := t.rwdHeld + 1 } else { t with rwdSent := t.rwdSent + 1 })
    else if t.recovery then { t with reqHeld := t.reqHeld + 1 } else { t with reqSent := t.reqSent + 1 }

def ReqKind.isWrite : ReqKind → Bool
  | .wb | .wbS | .ucWr | .plainWr | .swaWr | .atomic .. => true
  | _ => false

/-- Requests that arrive with data (M2S RwD). -/
def ReqKind.isRwd : ReqKind → Bool
  | .wb | .wbS | .ucWr | .plainWr => true
  | _ => false

/-- Requests of the snoop-without-allocate agents (R113). -/
def ReqKind.isSwa : ReqKind → Bool
  | .swaRd | .swaWr | .atomic .. => true
  | _ => false

/-- Requests that make the requester a holder. -/
def ReqKind.grants : ReqKind → Bool
  | .rdS | .rdA | .rdOwn | .invOwn => true
  | _ => false

/-- The bytes an aperture read asked for, from its lines (02 R40, R43). -/
def AperRd.bytes (a : AperRd) : List Byte × Bool :=
  let all : List Byte := a.got.flatMap fun g => match g with
    | some (d, p) => if p then lineBytes onesLine else lineBytes d
    | none => zeros 64
  (slice all (a.offset % 64) a.size, a.got.any fun g => match g with | some (_, p) => p | none => false)

/-- The completions of a read: each holds as many bytes as Max_Payload_Size and a 64-byte Read Completion Boundary at its end allow, in
ascending order (14 R431; notes/assumptions/163). The first argument bounds their number. -/
def completions (mps : Nat) : Nat → Nat → List Byte → List (Nat × List Byte)
  | 0, _, _ => []
  | k + 1, off, bs =>
    let n := (off + mps) / 64 * 64 - off
    if bs.isEmpty then [] else (off, bs.take n) :: completions mps k (off + n) (bs.drop n)

/-- The data of a read leaves; every completion of one that includes a poisoned line has EP set (02 R43; 14 R431). -/
def State.ioData (s : State) (n off : Nat) (bs : List Byte) (ep : Bool) : State :=
  (completions (s.stnAt n).maxPayload bs.length off bs).foldl (fun s (a, b) => s.emit (.io n a b ep)) s

/-- A line of an aperture read is known; the last one completes the read (14 R431). -/
def State.fillRead (s : State) (n id i : Nat) (d : Line) (p : Bool) : State :=
  let s := s.modStn n fun t =>
    { t with reads := t.reads.map fun a => if a.id == id then { a with got := a.got.set i (some (d, p)) } else a }
  match (s.stnAt n).reads.find? fun a => a.id == id && a.got.all (·.isSome) with
  | none => s
  | some a =>
    let (bytes, ep) := a.bytes
    let s := (s.modStn n fun t => { t with reads := t.reads.filter (·.id != id) }).ioData n a.offset bytes ep
    if ep then s.countPoisoned n else s

/-- Line `i` of a tile of a job has come. -/
def State.fillTile (s : State) (id tile i : Nat) (d : Line) (p : Bool) : State :=
  s.modJob id fun j =>
    { j with tiles := j.tiles.map fun t =>
        if t.id == tile then { t with reads := t.reads.zipIdx.map fun (x, k) => if k == i then { x with got := some (d, p) } else x } else t }

/-- Line `k` of a job's descriptor has come. -/
def State.fillDesc (s : State) (id k : Nat) (d : Line) (p : Bool) : State :=
  s.modJob id fun j => { j with slot := j.slot.set k (some (d, p)) }

/-- A write of a job is committed (07 R186). -/
def State.jobWritten (s : State) (id : Nat) : State := s.modJob id fun j => { j with poolOut := j.poolOut - 1 }

/-- Operation `i` of an ATOMIC job is answered (11 R335). -/
def State.atomDone (s : State) (id i : Nat) (old : Option Nat) : State :=
  s.modJob id fun j => { j with work := { j.work with atoms := j.work.atoms ++ [(i, old)] } }

/-- A request completes to whoever made it. -/
def State.respond (s : State) (r : Req) (k : CmpKind) (data : Option (Line × Bool)) : State :=
  let (d, p) := data.getD (0, false)
  match r.org with
  | .host n hpa =>
    let s := (s.emit (.mem n hpa k data)).slotDone n r.kind.isRwd
    if p then s.countPoisoned n else s
  | .aperRead n id i => s.fillRead n id i d p
  | .aperWrite _ _ => s
  | .tile j t i => s.fillTile j t i d p
  | .jobWrite j .. => s.jobWritten j
  | .atom j _ => s.jobWritten j
  | .desc j k => s.fillDesc j k d p
  | .record j | .seal j => s.modJob j fun j => { j with lastOut := false }
  | .twin id => s.emit (.xo (.response id d p))
  | .own => s

/-- A request answered as one that may not be served: poison, or a dropped write with a log entry of the kind given
(02 R35; 03 R82; 06 R166). -/
def State.refuseReq (s : State) (r : Req) (kind : Nat) : State :=
  let h := s.wellHandle r.well
  if let (.twin id, 5) := (r.org, kind) then s.emit (.xo (.response id onesLine true true))
  else if r.kind.isWrite then
    let s := match r.org with
      | .host n hpa =>
        s.logFlt n kind 0 (s.decoderOf n r.well) hpa h true
      | .aperWrite n off => s.logFlt n (if kind == 1 then 9 else kind) 1 0xFF off h true
      | .atom j i => s.atomDone j i none
      | _ => s
    s.respond r .cmp none
  else match r.kind with
    | .invOwn | .drop => s.respond r .cmp none
    | _ => s.respond r .cmp (some (onesLine, true))

/-! ## Mirrored wells (16 R494 to R496) -/

/-- This module is the primary of the well, or the well is SINGLE. -/
def Well.isHome (w : Well) : Bool :=
  match w.mirror with
  | none => true
  | some m => m.primary

def Well.mirSt (w : Well) : Option MirSt := w.mirror.map (·.st)

/-- The page of a DPA is not held by the other copy (on the primary), or not yet held here (on the standby). -/
def State.marked (s : State) (dpa : Nat) : Bool := s.twin.bitmap.contains (dpa / 4096)

/-- The home copy as it stands. -/
def State.peekLine (s : State) (dpa : Nat) : Line × Bool :=
  match s.cached (.pool dpa) with
  | some c => (c.data, c.pois)
  | none => (s.dram dpa, s.poison.contains dpa)

/-- A write applied here is committed at once, or once the twin holds its copy; a page the twin does not hold is
marked (R494, R496, R509). -/
def State.commit (s : State) (r : Req) (key : Nat) (ans : Option (Line × Bool) := none) : State :=
  match (s.well r.well).mirror with
  | none => s.respond r .cmp ans
  | some m =>
    let both := s.isPaired && (m.st == .sync || (m.st == .resync && !s.marked key))
    if both then
      let (d, p) := s.peekLine key
      let id := s.twin.nextId
      let o : MirOut := ⟨id, r.well, r.off, d, p, s.now + 100000, r, ans⟩
      (s.modTwin fun t => { t with nextId := id + 1, mirOut := t.mirOut ++ [o] }).emit
        (.xo (.mirror id (s.wellHandle r.well) r.off d p))
    else
      (s.modTwin fun t => { t with bitmap := lineIns t.bitmap (key / 4096) }).respond r .cmp ans

/-- The writer of a request as the streaming detector sees it (05 R142); what the block writes on its own counts as the crossover
engine's (DESIGN CHOICE, notes/assumptions/154). -/
def State.srcOf (s : State) (r : Req) : Src :=
  match r.org with
  | .host n _ | .aperRead n _ _ | .aperWrite n _ => .stn n
  | .tile j .. | .jobWrite j .. | .atom j _ | .desc j _ | .record j | .seal j => .pump ((s.job j).map (·.lastPump) |>.getD 0)
  | .twin _ | .own => .xo

/-- A write applied to the home copy in the home's order, then committed; `recalled` says that it answers an M recall. -/
def State.applyWrite (s : State) (r : Req) (key : Nat) (recalled : Bool := false) : State :=
  (if recalled then s.takeThrough key r.data r.mask r.pois (s.srcOf r) else s.homeWrite key r.data r.mask r.pois (s.srcOf r)).commit r key

/-! ## Atomic operations (07 R209, 11 R335) -/

/-- The value of a number of `8 * width` bits as two's complement. -/
def signedOf (width v : Nat) : Int := if v < 2 ^ (8 * width - 1) then (v : Int) else (v : Int) - (2 ^ (8 * width) : Nat)

/-- The new value of an atomic operation. -/
def atomicNew (aop width old opnd cmp : Nat) : Nat :=
  match aop with
  | 0 => (old + opnd) % 2 ^ (8 * width)
  | 1 => opnd
  | 2 => if old = cmp then opnd else old
  | 3 => old &&& opnd
  | 4 => old ||| opnd
  | 5 => old ^^^ opnd
  | 6 => max old opnd
  | 7 => min old opnd
  | 8 => if signedOf width old < signedOf width opnd then opnd else old
  | _ => if signedOf width opnd < signedOf width old then opnd else old

/-- One read-modify-write of a line at its home; a poisoned line is left as it is. -/
def State.applyAtomic (s : State) (r : Req) (key aop width pos opnd cmp : Nat) : State :=
  let (d, p, s) := s.homeRead key
  let job := fun (s : State) (old : Option Nat) => match r.org with
    | .atom j i => s.atomDone j i old
    | _ => s
  if p then
    match r.org with
    | .twin id => s.emit (.xo (.response id d true))
    | _ => (job s none).respond r .cmp none
  else
    let old := num (lineBytes d) pos width
    let new := bytesLine (zeros pos ++ le width (atomicNew aop width old opnd cmp))
    let s := (job s (some old)).homeWrite key new (spanMask pos width) false (s.srcOf r)
    match r.org with
    | .twin _ => s.commit r key (some (BitVec.ofNat 512 old, false))
    | _ => s.commit r key

/-! ## Grants -/

/-- The holder a request makes of its requester: a station, or the twin. -/
def holderOf : Origin → Option Nat
  | .host n _ => some n
  | .twin _ => some twinHolder
  | _ => none

/-- The twin keeps a record of the E or M grants of the line to this module's stations (06 R178). -/
def State.recorded (s : State) (key n : Nat) : Bool :=
  match s.wellAt key with
  | some (i, _) => (s.well i).mirror.isSome && (s.well i).isHome && s.isPaired && n < 48
  | none => false

/-- The record of a grant or of a return of E or M leaves for the twin; a grant awaits its acknowledgement (06 R178). -/
def State.grantRecord (s : State) (key n : Nat) (granted modified : Bool) : State :=
  match s.wellAt key with
  | some (i, off) =>
    if s.recorded key n then
      let id := s.twin.nextId
      let wait : List FwdOut := if granted then [{ id := id, grant := some key }] else []
      (s.modTwin fun t => { t with nextId := id + 1, fwdOut := t.fwdOut ++ wait }).emit (.xo (.grant id (s.wellHandle i) off granted modified))
    else s
  | none => s

/-- A line leaves the E or M state of its holder. -/
def State.leaveExcl (s : State) (key : Nat) : State :=
  match s.ent key with
  | some e =>
    if e.excl == .none then s
    else e.holders.foldl (fun s n => s.grantRecord key n false false) (s.modEnt key fun e => { e with excl := .none, held := false })
  | none => s

/-- A holder removed; an entry that no transaction holds and that names no holder goes. -/
def State.dropHolder (s : State) (key n : Nat) : State :=
  match s.ent key with
  | none => s
  | some e =>
    let s := if e.holders.contains n then s.leaveExcl key else s
    let s := s.modEnt key fun e => { e with excl := if e.holders.contains n then .none else e.excl, holders := e.holders.filter (· != n) }.fit
    if (e.holders.filter (· != n)).isEmpty && !s.busy key then s.delEnt key else s

/-- A station becomes a holder in S (R112). -/
def State.grantShared (s : State) (key n : Nat) : State :=
  ((s.leaveExcl key).modEnt key fun e =>
    { e with excl := .none, holders := if e.holders.contains n then e.holders else e.holders ++ [n] }).touchEnt key

/-- A station becomes the sole holder in E or M, with its minimum hold (R112, R120). -/
def State.grantExcl (s : State) (key n : Nat) (x : Excl) : State :=
  (s.modEnt key fun e =>
    { e with holders := [n], excl := x, held := 0 < s.home.tHold, holdEnd := s.now + s.home.tHold }.fit).touchEnt key

/-! ## Serving a request -/

/-- The snoop a request needs of the other holders of its line (04 R112, R113). -/
def snoopPlan (kind : ReqKind) (me : Option Nat) (e : DirEnt) : Option (BiKind × List Nat) :=
  let others := e.holders.filter fun h => some h != me
  if others.isEmpty then none
  else match kind with
    | .rdS => if e.excl == .none then none else some (.data, others)
    | .rdCur | .swaRd | .plainRd => if e.excl == .none then none else some (.cur, others)
    | .drop => none
    | _ => some (.inv, others)

/-- The effect of a request once its line needs no snoop (R112, R113). `given` is the data the primary sent to a
standby. A request whose station has been lost makes no holder (14 R437). -/
def State.perform (s : State) (r : Req) (key : Nat) (given : Option (Line × Bool)) : State :=
  let grant := fun (s : State) (f : State → Nat → State) => match holderOf r.org with | some n => f s n | none => s
  let read := fun (s : State) (alloc : Bool) => match given with
    | some (d, p) => (d, p, s)
    | none => if alloc then s.stationRead key else s.homeRead key
  match r.kind with
  | .rdS =>
    let (d, p, s) := read s true
    (grant s fun s n => s.grantShared key n).respond r .cmpS (some (d, p))
  | .rdA =>
    let (d, p, s) := read s true
    (grant s fun s n => s.grantExcl key n .e).respond r .cmpE (some (d, p))
  | .rdOwn =>
    let (d, p, s) := read s true
    (grant s fun s n => s.grantExcl key n .m).respond r .cmpE (some (d, p))
  | .invOwn => (grant s fun s n => s.grantExcl key n .m).respond r .cmpE none
  | .rdCur | .plainRd =>
    let (d, p, s) := read (grant s fun s n => s.dropHolder key n) true
    s.respond r .cmp (some (d, p))
  | .swaRd =>
    let (d, p, s) := read s false
    s.respond r .cmp (some (d, p))
  | .drop => (grant s fun s n => s.dropHolder key n).respond r .cmp none
  | .wb | .wbS | .ucWr | .plainWr | .swaWr =>
    let s := ((s.leaveExcl key).modEnt key fun e => { e with excl := .none, holders := [] })
    let s := if s.busy key then s else s.delEnt key
    if given.isSome then s.respond r .cmp none else s.applyWrite r key
  | .atomic aop width pos a b =>
    let s := ((s.leaveExcl key).modEnt key fun e => { e with excl := .none, holders := [] })
    let s := if s.busy key then s else s.delEnt key
    match given with
    | none => s.applyAtomic r key aop width pos a b
    | some (d, p) =>
      let s := match r.org with
        | .atom j i => s.atomDone j i (if p then none else some (d.toNat % 2 ^ (8 * width)))
        | _ => s
      s.respond r .cmp none

/-- A request carried to the primary's home (16 R495). -/
def State.forward (s : State) (r : Req) : State :=
  let id := s.twin.nextId
  (s.modTwin fun t => { t with nextId := id + 1, fwdOut := t.fwdOut ++ [{ id := id, req := some r }] }).emit
    (.xo (.request id (s.wellHandle r.well) r.off r.kind r.data r.mask r.pois))

/-- What a home answers to a request it is given: done, wait in the line-wait queue, or held. -/
inductive Served where
  | done (s : State)
  | wait (s : State)
  | hold (s : State)

/-- A way for a request's new entry, or for the fifth holder of an entry (04 R103, R126). -/
def State.allocFor (s : State) (r : Req) (key : Nat) : Option State :=
  let n := (holderOf r.org).getD 0
  match s.homeOf key with
  | none => none
  | some (die, a) =>
    let set := dirSetOf a
    match s.ent key with
    | none =>
      if s.quotaBlocked n die then none
      else match s.dirWay die set key with
        | none => none
        | some (w, s) => some (s.modHome fun h => { h with dir := h.dir ++ [⟨key, die, set, [w], .none, [], false, 0, 0, false⟩] })
    | some e =>
      let after := (e.holders.filter (· != n)).length + 1
      if r.kind == .rdS && 4 < after && e.ways.length < 2 then
        match s.dirWay die set key with
        | none => none
        | some (w, s) => some (s.modEnt key fun e => { e with ways := e.ways ++ [w] })
      else some s

/-- After a grant, the station's quota of the slice is enforced. -/
def State.afterGrant (s : State) (r : Req) (key : Nat) : State :=
  match holderOf r.org with
  | some n => if n < 48 then s.quotaRecall n (s.dieOf key) else s
  | none => s

def ReqKind.isWb : ReqKind → Bool
  | .wb | .wbS => true
  | _ => false

/-- The entry by which a holder owns a line in E or M, in the directory or the eviction buffer (R109, R127). -/
def State.ownedBy (s : State) (key : Nat) (me : Option Nat) : Option DirEnt :=
  let own := fun (e : DirEnt) => e.excl != .none && me.isSome && e.holders.head? == me
  match (s.ent key).filter own with
  | some e => some e
  | none => ((s.txnOf key).bind (·.evicted)).filter own

/-- The sender of a request as a holder; an agent inside the module is none (R113). -/
def Req.sender (r : Req) : Option Nat := if r.kind.isSwa then none else holderOf r.org

/-- A write that passes the requests which wait for its line: the write-back of the line's owner (R118), and what a holder sends before its
answer to a snoop of the line (R111). -/
def State.passes (s : State) (r : Req) (key : Nat) : Bool :=
  (r.kind.isWb && (s.ownedBy key r.sender).isSome) ||
    (r.kind.isRwd && r.sender.isSome && s.home.snoops.any fun p => p.key == key && some p.holder == r.sender)

/-- The request's grant waits for the twin's acknowledgement of its record (06 R178). -/
def State.recordFirst (s : State) (r : Req) (key : Nat) : Bool :=
  match r.kind, r.sender with
  | .rdA, some n | .rdOwn, some n | .invOwn, some n => s.recorded key n
  | _, _ => false

/-- The record of the request's grant leaves; the transaction on its line awaits the acknowledgement. -/
def State.askRecord (s : State) (r : Req) (key : Nat) : State := s.grantRecord key (r.sender.getD 0) true (r.kind != .rdA)

/-- The write is the answer of an M owner to a snoop that recalls its line (05 R136, R139). -/
def State.recalledBy (s : State) (r : Req) (key : Nat) : Bool :=
  ((s.ownedBy key r.sender).map (·.excl)) == some .m &&
    s.home.snoops.any fun p => p.key == key && some p.holder == r.sender && p.kind != .cur

/-- A write that passes: applied at once where a snoop of its line is out, and the end of its sender's ownership otherwise. -/
def State.ownerWrite (s : State) (r : Req) (w : Well) (key : Nat) : State :=
  let recalled := s.recalledBy r key
  let s :=
    if s.busy key then s
    else if r.kind == .wbS then s.leaveExcl key
    else match r.sender with | some n => s.dropHolder key n | none => s
  if w.isHome then s.applyWrite r key recalled else s.forward r

/-- The service of a request that needs no snoop: read, grant, remove or merge, here or at the primary's home. -/
def State.serveFree (s : State) (r : Req) (w : Well) (key : Nat) : Served :=
  if r.kind.grants && (holderOf r.org).isSome then
    match s.allocFor r key with
    | none => .wait s
    | some s =>
      if !w.isHome then .done ((s.startTxn key (.serve r) [] .inv).forward r)
      else if s.recordFirst r key then .done ((s.startTxn key (.serve r) [] .inv).askRecord r key)
      else .done ((s.perform r key none).afterGrant r key)
  else if w.isHome || r.kind == .drop then .done (s.perform r key none)
  else .done ((s.startTxn key (.serve r) [] .inv).forward r)

/-- The service of a request to a CISTERN line (R112, R113); during a switchover gap one that needs a snoop is held (06
R180). -/
def State.serveCistern (s : State) (r : Req) (w : Well) (key : Nat) : Served :=
  if s.passes r key then .done (s.ownerWrite r w key)
  else
    let r := if r.kind.isWb then { r with kind := .ucWr } else r
    if s.busy key then .wait s
    else match s.ent key, (s.ent key).bind (snoopPlan r.kind r.sender) with
      | some e, some (k, targets) =>
        if s.noSnoop key then .hold s
        else if e.excl != .none && e.heldAt s.now then .wait s
        else .done (s.startTxn key (.serve r) targets k)
      | _, _ => s.serveFree r w key

/-- The service of a request to a PLAIN line: no directory, no snoop (04 R98; 16 R495). -/
def State.servePlain (s : State) (r : Req) (w : Well) (key : Nat) : State :=
  let local_ := w.isHome || (!r.kind.isWrite && !s.marked key)
  match r.kind with
  | .invOwn | .drop => s.respond r .cmp none
  | .atomic aop width pos a b =>
    if w.isHome then s.applyAtomic r key aop width pos a b else s.forward r
  | k =>
    if k.isWrite then (if w.isHome then s.applyWrite r key else s.forward r)
    else if !local_ then s.forward r
    else
      let (d, p, s) := if r.kind == .swaRd then s.homeRead key else s.stationRead key
      s.respond r .cmp (some (d, p))

/-- A write that a DOWN cistern's table still applies: the answer of a live E or M holder (06 R166). -/
def State.sweptWrite (s : State) (r : Req) (c key : Nat) : Bool :=
  match r.org with
  | .host n _ => r.kind.isRwd && (s.cis c).expectWb.contains (key, n)
  | .twin _ => r.kind.isWrite && (s.cis c).expectWb.contains (key, twinHolder)
  | _ => false

/-- The service of an access to a well of a DOWN or RECOVERING cistern (06 R166). -/
def State.serveDown (s : State) (r : Req) (c key : Nat) : State :=
  if s.sweptWrite r c key then
    let s := s.modCis c fun x => { x with sweptWb := x.sweptWb + 1 }
    if (s.well r.well).isHome then s.applyWrite r key (s.recalledBy r key) else s.forward r
  else
    let s := if r.kind.isWrite && r.org != .own then s.modCis c fun x => { x with droppedWr := x.droppedWr + 1 } else s
    s.refuseReq r 5

/-- A request to a MIRRORED well that the gap of a switchover holds (06 R180): all but reads of what is committed and
the answers to earlier snoops. -/
def ReqKind.gapHolds : ReqKind → Bool
  | .rdS | .rdCur | .plainRd | .swaRd | .drop | .wb | .wbS => false
  | _ => true

/-- A request of a station for a line of a well whose primacy is about to leave: it is held from the recall of R182 on, so that no record of
R178 remains, and no copy of which the next primary does not know (07 R205; DESIGN CHOICE, notes/assumptions/68). -/
def State.swoHolds (s : State) (r : Req) : Bool :=
  match s.twin.swo, r.kind, r.org with
  | some x, .rdS, .host .. | some x, .rdA, .host .. | some x, .rdOwn, .host .. | some x, .invOwn, .host .. => x.out.contains r.well
  | _, _, _ => false

/-- The home die of a line, or the station that sends a request, takes up no new work while an NMI captures its state (17 R521). -/
def State.unitHeld (s : State) (r : Req) (key : Nat) : Bool :=
  s.captured 1 (s.dieOf key) || (match r.org with
    | .host n _ | .aperRead n _ _ | .aperWrite n _ => s.captured 4 n
    | _ => false)

/-- The stacks that hold a line are dormant and the home copy is not cached (18 R560). -/
def State.asleep (s : State) (key : Nat) : Bool :=
  match s.homeOf key with
  | some (d, _) => (s.pwr.dormant.toArray.toList.getD d false) && (s.cached (.pool key)).isNone
  | none => false

/-- A request that the gap of a switchover holds (06 R180). -/
def State.gapBars (s : State) (r : Req) (key : Nat) : Bool := (r.kind.gapHolds || r.kind.isWb) && !s.passes r key

/-- A home serves a request, or says how it waits. A gap's read of a page that a resync had not copied here finds what step 6 of 16 R504 makes
of it, a poisoned line (DEDUCED, notes/assumptions/191). -/
def State.serve (s : State) (r : Req) : Served :=
  let w := s.well r.well
  let key := w.dpa r.off
  if w.st == .free || w.gen != r.gen || w.length ≤ r.off then .done (s.refuseReq r 1)
  else if w.coh && s.isDown w then .done (s.serveDown r (w.cistern.getD 0) key)
  else if w.mirSt == some .fenced then
    let (k, s) := s.choose 256
    .done (s.refuseReq r k)
  else if w.inTransit r.off then .hold s
  else if s.asleep key then .hold (s.wakeDie (s.dieOf key))
  else if s.unitHeld r key && !s.passes r key then .hold s
  else if ((s.gapCis w || s.gapFor r.well) && s.gapBars r key) || s.swoHolds r then .hold s
  else if s.gapFor r.well then
    if r.kind.isWrite || r.kind == .drop then (if w.coh then s.serveCistern r w key else .done (s.servePlain r w key))
    else if !w.isHome && s.marked key then .done (s.respond r .cmp (some ((s.peekLine key).1, true)))
    else
      let (d, p, s) := if r.kind == .swaRd then s.homeRead key else s.stationRead key
      .done (s.respond r .cmp (some (d, p)))
  else if w.coh then s.serveCistern r w key
  else .done (s.servePlain r w key)

/-! ## Waiting requests (04 R115 to R117; 08 R241) -/

/-- The pump partition of a job. -/
def State.partOf (s : State) (job : Nat) : Nat :=
  match s.job job with
  | some j => (s.plat j.plat).partition
  | none => 0

/-- The job an access is made for. -/
def Origin.ofJob : Origin → Option Nat
  | .tile j .. | .jobWrite j .. | .atom j _ | .desc j _ | .record j | .seal j => some j
  | _ => none

/-- Who shares a part of the line-wait queue with a request, and how large that part is (08 R241). The prefix unit's requests count in the
share of the partition whose job it runs (DESIGN CHOICE, notes/assumptions/181). -/
def State.waitShare (s : State) (r : Req) : (Req → Bool) × Nat :=
  match r.org with
  | .host n _ => ((fun q => match q.org with | .host m _ => m == n | _ => false), 16)
  | o =>
    match o.ofJob with
    | some j =>
      let p := s.partOf j
      ((fun q => match q.org.ofJob with | some k => s.partOf k == p | none => false),
        (s.jobs.parts.toArray.toList.getD p {}).lwait)
    | none => ((fun q => match q.org with | .host _ _ => false | o => o.ofJob.isNone), 4)

/-- A request returns to the retry store of its station die (R116). -/
def State.toRetry (s : State) (r : Req) : State := s.modHome fun h => { h with retry := h.retry ++ [{ r with since := s.now }] }

/-- A request takes an entry of its slice's line-wait queue, or goes to the retry store. -/
def State.enqueue (s : State) (r : Req) : State :=
  let die := s.dieOf (s.keyOf r)
  let here := s.home.waitq.filter (·.1 == die)
  let (same, share) := s.waitShare r
  if here.length < 64 && (here.filter fun x => same x.2).length < share then
    s.modHome fun h => { h with waitq := h.waitq ++ [(die, r)] }
  else s.toRetry r

/-- The pump whose sequencer makes an access. -/
def State.sequencerOf (s : State) (o : Origin) : Option Nat :=
  match o with
  | .jobWrite _ p _ => some p
  | .tile j .. | .atom j _ => (s.job j).map (·.lastPump)
  | _ => none

/-- An access of the same sequencer to the same line came before the request (07 R188; 08 R236). -/
def State.jobBefore (s : State) (r q : Req) : Bool :=
  (s.sequencerOf r.org).isSome && s.sequencerOf q.org == s.sequencerOf r.org && q.seq < r.seq && s.keyOf q == s.keyOf r

/-- A request is presented to its home: behind the requests that wait for its line, unless it passes them
(R115, R118), and behind its own sequencer's earlier accesses to the line (07 R188). -/
def State.present (s : State) (r : Req) : State :=
  if s.home.retry.any (s.jobBefore r) then s.toRetry r
  else if s.home.held.any (s.jobBefore r) then s.modHome fun h => { h with held := h.held ++ [r] }
  else if !s.passes r (s.keyOf r) && s.home.waitq.any (fun x => s.keyOf x.2 == s.keyOf r) then s.enqueue r
  else match s.serve r with
    | .done s => s
    | .wait s => s.enqueue r
    | .hold s => s.modHome fun h => { h with held := h.held ++ [r] }

/-- A request takes its place in the order of arrival. -/
def State.newReq (s : State) (r : Req) : Req × State :=
  let q := s.home.seq + 1
  ({ r with seq := q }, s.modHome fun h => { h with seq := q })

def State.submit (s : State) (r : Req) : State :=
  let (r, s) := s.newReq r
  s.present r

/-- One pass over the line-wait queue in order: the first request of each line that can be served is. -/
def State.drainPass (s : State) : State :=
  (s.home.waitq.foldl (fun (acc : State × List Nat) (x : Nat × Req) =>
    let (s, stuck) := acc
    let key := s.keyOf x.2
    if stuck.contains key || !s.home.waitq.contains x then (s, stuck)
    else
      let out := fun (s : State) => s.modHome fun h => { h with waitq := h.waitq.filter (· != x) }
      match s.serve x.2 with
      | .done s => (out s, stuck)
      | .hold s => ((out s).modHome fun h => { h with held := h.held ++ [x.2] }, stuck)
      | .wait s => (s, key :: stuck)) (s, [])).1

/-- Passes until nothing more is served. -/
def State.drainFor : Nat → State → State
  | 0, s => s
  | k + 1, s =>
    let t := s.drainPass
    if t.home.waitq.length < s.home.waitq.length then State.drainFor k t else t

def State.drain (s : State) : State := if s.home.waitq.isEmpty then s else s.drainFor s.home.waitq.length

/-! ## Revocation walks (03 R84; 04 R113) -/

/-- The walk of a revocation: each line of the bytes revoked that its station holds is recalled, once its hold and
any transaction on it have ended. -/
def State.revWalk (s : State) (v : Rev) : State :=
  let w := s.well v.well
  if !w.coh || !v.snoops || s.isDown w then s
  else
    let mine := s.home.dir.filter fun e =>
      !e.record && e.holders.contains v.station && !s.isB e.key && !(e.excl != .none && e.heldAt s.now) && !s.noSnoop e.key &&
        (match s.wellAt e.key with | some (i, off) => i == v.well && v.frm ≤ off | none => false)
    let mine := mine.mergeSort fun a b => a.set ≤ b.set
    mine.foldl (fun s e => s.startTxn e.key (.revoke v.well v.station) [v.station] .inv) s

/-- The walk after a switchover gap: a line that a transaction of before the gap held is recalled from the holders it has
left, before any request to it is served (06 R181). -/
def State.gapWalk (s : State) : State :=
  s.twin.walk.foldl (fun s k =>
    if s.isB k then s
    else
      let s := s.modTwin fun t => { t with walk := t.walk.filter (· != k) }
      match s.ent k with
      | some e =>
        let s := if e.excl != .none && e.held then s.until e.holdEnd else s
        s.startTxn k .recall e.holders .inv
      | none => s) s

/-- The recall of a line whose directory entry is lost, from every member of its cistern and from the twin where it is a holder; a line
that is B or that may not be snooped yet waits for it (04 R106; 06 R180; 17 R521). The lost entry takes an entry of the eviction buffer,
which may then hold more than the 32 that bound the choice of victims (DEDUCED, notes/assumptions/87). -/
def State.lostRecall (s : State) (key : Nat) : State :=
  match (s.wellAt key).bind fun x => (s.well x.1).cistern with
  | none => s
  | some c =>
    if s.isB key || s.noSnoop key then s.modHome fun h => { h with lost := if h.lost.contains key then h.lost else h.lost ++ [key] }
    else
      let e := s.ent key
      let s : State := match e with
        | some e => if e.excl != .none && e.held then s.until e.holdEnd else s
        | none => s
      let twin := match e with | some e => e.holders.contains twinHolder | none => false
      (s.delEnt key).startTxn key .recall ((s.cis c).members ++ (if twin then [twinHolder] else [])) .inv e

/-- Recalls of lost entries whose lines have become free. -/
def State.lostStep (s : State) : State := s.home.lost.foldl (fun s k => (s.modHome fun h => { h with lost := h.lost.filter (· != k) }).lostRecall k) s

/-- What may go on after any event at the homes. -/
def State.homeStep (s : State) : State :=
  let s := s.gapWalk.drain.lostStep
  (s.pool.revs.foldl (fun s v => s.revWalk v) s).quotaStep

/-! ## Answers to snoops (04 R111) -/

/-- An entry that no transaction holds and that names no holder goes. -/
def State.tidyEnt (s : State) (key : Nat) : State :=
  match s.ent key with
  | some e => if e.holders.isEmpty && !s.busy key then s.delEnt key else s
  | none => s

/-- A transaction ends, with the way it reserved. -/
def State.endTxn (s : State) (key : Nat) : State := ((s.delTxn key).unreserve key).tidyEnt key

/-- The request that a transaction has served completes; `given` is what the primary sent to a standby. -/
def State.completeServe (s : State) (r : Req) (key : Nat) (given : Option (Line × Bool)) : State :=
  (((((s.delTxn key).unreserve key).perform r key given)).afterGrant r key).tidyEnt key

/-- Snoops of the twin that the transaction also served are answered (04 R125). -/
def State.answerAsks (s : State) (key : Nat) : State :=
  match s.txnOf key with
  | some t => t.asks.foldl (fun s id => s.emit (.xo (.snoopRsp id))) (s.modTxn key fun t => { t with asks := [] })
  | none => s

/-- The last answer of a transaction has come: its line is free, and what it was for goes on. -/
def State.finishTxn (s : State) (t : Txn) : State :=
  match t.purpose with
  | .serve r =>
    if !(s.well r.well).isHome then (s.unreserve t.key).forward r
    else if s.recordFirst r t.key then s.askRecord r t.key
    else s.completeServe r t.key none
  | .twinSnoop id => ((s.answerAsks t.key).endTxn t.key).emit (.xo (.snoopRsp id))
  | .quota n => ((s.answerAsks t.key).endTxn t.key).quotaRecall n (s.dieOf t.key)
  | _ => (s.answerAsks t.key).endTxn t.key

/-- The twin has acknowledged the record of a grant: the request that awaits it completes (06 R178). -/
def State.grantAcked (s : State) (key : Nat) : State :=
  match s.txnOf key with
  | some t => match t.purpose with
    | .serve r => s.completeServe r key none
    | _ => s
  | none => s

/-- The answers a snoop allows (R111). -/
def BiKind.allows : BiKind → BiRsp → Bool
  | _, .i => true
  | .data, .s => true
  | .cur, .s => true
  | .cur, .e => true
  | _, _ => false

/-- An answer applied to the entry of its line. -/
def State.applyRsp (s : State) (key holder : Nat) (rsp : BiRsp) : State :=
  match rsp with
  | .s => s.leaveExcl key
  | .e => s.modEnt key fun e => { e with excl := if e.excl == .none then .none else .e }
  | _ => s.dropHolder key holder

/-- The purposes that recall a line from a holder altogether. -/
def Purpose.takesAll : Purpose → Bool
  | .serve _ => false
  | _ => true

/-- A holder's answer to a snoop: it is applied, and the transaction ends with its last one. Where a holder kept the
line that an invalidating purpose has taken over, that holder is snooped again, unless a switchover gap is on: the walk at its end
recalls the line (06 R180, R181). -/
def State.answer (s : State) (n : Snoop) (rsp : BiRsp) : State :=
  let s := s.modHome fun h => { h with snoops := h.snoops.erase n }
  let s := s.applyRsp n.key n.holder rsp
  let s := if rsp == .e then s else s.modCis n.cistern fun c => { c with expectWb := c.expectWb.filter (· != (n.key, n.holder)) }
  let s : State := match (s.txnOf n.key).bind (·.evicted) with
    | some e => if e.excl != .none && e.holders.contains n.holder then s.grantRecord n.key n.holder false false else s
    | none => s
  let s := s.modTxn n.key fun t =>
    { t with evicted := t.evicted.map fun e => { e with holders := e.holders.filter (· != n.holder) } }
  match s.txnOf n.key with
  | none => s
  | some t =>
    if t.purpose.takesAll && rsp != .i && n.kind != .inv && t.wait.contains n.holder && !s.noSnoop n.key then s.sendSnoop n.key .inv n.holder
    else
      let wait := t.wait.filter (· != n.holder)
      let t := { t with wait := wait }
      let s := s.modTxn n.key fun _ => t
      if !wait.isEmpty then s
      else if t.purpose.takesAll || t.asks.isEmpty then s.finishTxn t
      else s.answerAsks n.key

/-- The snoop outstanding at a station for an HPA. -/
def State.snoopAt (s : State) (n hpa : Nat) : Option Snoop := s.home.snoops.find? fun p => p.holder == n && p.hpa == lineOf hpa

/-- A holder's write of the line is held and comes before its answer to a snoop of it (R111). -/
def State.wbHeld (s : State) (n hpa : Nat) : Bool :=
  s.home.held.any fun r => r.kind.isRwd && (match r.org with
    | .host m a => m == n && lineOf a == lineOf hpa
    | .twin _ => n == twinHolder && s.keyOf r == hpa
    | _ => false)

/-- A holder's answer to a snoop outstanding: applied, and a fault where the snoop does not allow it (R111); it waits behind a
write of its line that is held. -/
def State.hostAnswered (s : State) (n hpa : Nat) (rsp : BiRsp) : State :=
  match s.snoopAt n hpa with
  | none => s
  | some p =>
    if s.wbHeld n hpa then s.modHome fun h => { h with rsps := h.rsps ++ [(n, hpa, rsp)] }
    else if p.kind.allows rsp && rsp != .blk then s.answer p rsp
    else (s.record { source := 0x0406, unit := n, address := lineOf hpa }).answer p .i

/-- Held requests are presented again in their order, then the answers that waited behind them. -/
def State.releaseHeld (s : State) : State :=
  let l := s.home.held
  let a := s.home.rsps
  let s := l.foldl (fun s r => s.present r) (s.modHome fun h => { h with held := [], rsps := [] })
  a.foldl (fun s (n, hpa, rsp) => s.hostAnswered n hpa rsp) s

/-! ## A cistern goes DOWN (06 R155 to R165) -/

/-- The wells of a cistern. -/
def State.wellsOf (s : State) (c : Nat) : List Nat :=
  (s.pool.wells.filter fun (_, w) => w.st != .free && w.cistern == some c).map (·.1)

/-- The line lies in a well of the cistern. -/
def State.inCis (s : State) (c key : Nat) : Bool :=
  match s.wellAt key with
  | some (i, _) => (s.well i).cistern == some c
  | none => false

/-- A revocation sequence starts: the grant is fenced, its walk begins, and what waits of it is left to R81. -/
def State.startRev (s : State) (v : Rev) : State :=
  match tget (s.well v.well).grants v.station with
  | none => s
  | some g =>
    if g.fenced then s
    else
      let s := if v.frm == 0 then
        s.modWell v.well fun w => { w with grants := tset w.grants v.station { g with fenced := true } } else s
      s.modPool fun p => { p with revs := p.revs ++ [v] }

/-- Waiting requests and transactions on the lines of a cistern end with poison or dropped (04 R124). -/
def State.endCisRequests (s : State) (c : Nat) : State :=
  let mine := fun (r : Req) => (s.well r.well).cistern == some c
  let serving := s.home.txns.filterMap fun t => match t.purpose with
    | .serve r => if mine r then some r else none
    | _ => none
  let waiting := (s.home.waitq.map (·.2) ++ s.home.retry ++ s.home.held).filter mine
  let s := s.modHome fun h =>
    { h with
      waitq := h.waitq.filter fun x => !mine x.2
      retry := h.retry.filter fun r => !mine r
      held := h.held.filter fun r => !mine r
      txns := h.txns.map fun t => match t.purpose with
        | .serve r => if mine r then { t with purpose := .down c } else t
        | _ => t }
  let gone := s.twin.fwdOut.filter fun f => match f.req with | some r => mine r && r.org != .own | none => false
  let acked := fun (f : FwdOut) => match f.grant with | some k => s.inCis c k | none => false
  let s := s.modTwin fun t => { t with fwdOut := t.fwdOut.filter fun f => !gone.contains f && !acked f }
  let fwd := gone.filterMap (·.req)
  let all := (serving ++ waiting ++ fwd.filter fun r => !serving.contains r)
  all.foldl (fun s r => s.serveDown r c (s.keyOf r)) s

/-- A line becomes a lost line: its home copy is poisoned and no holder remains (06 R162); the poison reaches the other copy as a
write does (R169), and a home copy at the twin as a write-back. -/
def State.loseLine (s : State) (c key : Nat) : State :=
  let s := (s.poisonHome key 2).modCis c fun x => { x with lost := key :: x.lost, lostCount := x.lostCount + 1 }
  match s.wellAt key with
  | some (i, off) =>
    let r : Req := { org := .own, kind := .wb, well := i, gen := (s.well i).gen, off := off, data := (s.peekLine key).1, mask := fullMask, pois := true }
    if (s.well i).mirror.isNone then s
    else if (s.well i).isHome then s.commit r key
    else if s.isPaired then s.forward r else s
  | none => s

/-- The down walk's treatment of one entry (R162). -/
def State.downEntry (s : State) (c : Nat) (e : DirEnt) (inBuffer : Bool) : State :=
  let x := s.cis c
  let dead := fun n => x.dead.contains n
  let lost := e.excl != .none && e.holders.any dead
  let live := e.holders.filter fun n => !dead n
  let s := if lost then s.loseLine c e.key else s
  let s := if e.excl == .none then s else (e.holders.filter dead).foldl (fun s n => s.grantRecord e.key n false false) s
  let s := if e.excl != .none then live.foldl (fun s n => s.modCis c fun x => { x with expectWb := (e.key, n) :: x.expectWb }) s else s
  let out := e.holders.filter dead
  let s := out.foldl (fun s n => s.modHome fun h => { h with snoops := h.snoops.filter fun p => !(p.key == e.key && p.holder == n) }) s
  let s := if inBuffer then s else s.modEnt e.key fun e =>
    { e with holders := e.holders.filter fun n => !dead n, held := false, excl := if e.holders.any dead then .none else e.excl }.fit
  match s.txnOf e.key with
  | some t =>
    let have_ := s.home.snoops.filterMap fun p => if p.key == e.key then some p.holder else none
    let purpose := match t.purpose with | .twinSnoop id => .twinSnoop id | _ => Purpose.down c
    let s := s.modTxn e.key fun t =>
      { t with purpose := purpose, wait := live,
               evicted := t.evicted.map fun e => { e with holders := live, excl := if lost then .none else e.excl } }
    let s := (live.filter fun n => !have_.contains n).foldl (fun s n => s.sendSnoop e.key .inv n) s
    if live.isEmpty then s.finishTxn { t with purpose := purpose, wait := [] } else s
  | none =>
    if live.isEmpty then s.delEnt e.key else s.startTxn e.key (.down c) live .inv

/-- The down walk: every entry for a line of the cistern, in the order of its set (R162, R164). -/
def State.downWalk (s : State) (c : Nat) : State :=
  let twinDead := (s.cis c).dead.contains twinHolder
  let mine := (s.home.dir.filter fun e => s.inCis c e.key).mergeSort fun a b => a.set ≤ b.set
  let buffered := s.home.txns.filterMap fun t => if s.inCis c t.key then t.evicted else none
  let s := (mine.filter (·.record)).foldl (fun s e =>
    let s := if twinDead then s.loseLine c e.key else s
    s.modHome fun h => { h with dir := h.dir.filter (· != e) }) s
  let s := (mine.filter fun e => !e.record).foldl (fun s e => s.downEntry c e false) s
  let s := buffered.foldl (fun s e => s.downEntry c e true) s
  -- transactions on lines that no entry names end with the walk
  let rest := s.home.txns.filter fun t => s.inCis c t.key && t.wait.isEmpty
  rest.foldl (fun s t => s.finishTxn (match t.purpose with | .twinSnoop _ => t | _ => { t with purpose := .down c })) s

/-- A holder is declared dead for a cistern, and the cistern goes DOWN (R161, R163). A cistern that is DISSOLVING stays
so (R175). `told` says that the twin, which lives, sent the declaration (R165). -/
def State.declare (s : State) (c cause station : Nat) (told : Bool := false) : State :=
  let x := s.cis c
  let first := x.st == .live
  let dead := if told || x.dead.contains station then x.dead else x.dead ++ [station]
  let s := s.modCis c fun x =>
    if first then
      { x with st := .down, downCause := cause, downStation := station, downTime := s.now, dead := if told then [] else [station], lost := [],
               lostCount := 0, sweptWb := 0, droppedWr := 0, walking := true, expectWb := [] }
    else if x.downCause == 0 then { x with dead := dead, downCause := cause, downStation := station, downTime := s.now }
    else { x with dead := dead }
  let s := s.endCisRequests c
  let blame := fun (v : Rev) =>
    if cause == 1 && v.station == station && (s.wellsOf c).contains v.well then { v with deadHost := true } else v
  let s := s.modPool fun p => { p with revs := p.revs.map blame }
  let s := (s.wellsOf c).foldl (fun s i =>
    s.startRev { well := i, station := station, start := s.now, snoops := false, cause := .dead }) s
  let s := s.downWalk c
  let x := s.cis c
  let s := if first && x.twin && station != twinHolder then s.emit (.xo (.declaration (handleOf c x.gen) cause)) else s
  s.record { source := 0x0404, object := handleOf c x.gen, detail := x.downCause + 256 * x.downStation, stns := x.members }

/-- The cisterns in which the directory or an eviction buffer names a holder in E or M. -/
def State.cisOfOwner (s : State) (n : Nat) : List Nat :=
  let own := fun (e : DirEnt) => e.excl != .none && e.holders.contains n
  let keys := (s.home.dir.filter own).map (·.key) ++
    (s.home.txns.filterMap fun t => (t.evicted.filter own).map (·.key))
  (keys.filterMap fun k => (s.wellAt k).bind fun (i, _) => (s.well i).cistern).eraseDups

/-- Every line that a holder holds in S is taken from it, and snoops to it are answered by its loss (R156; 03 R87). -/
def State.forgetHolder (s : State) (n : Nat) : State :=
  let s := s.modHome fun h => { h with rsps := h.rsps.filter fun a => a.1 != n }
  let s := (s.home.snoops.filter (·.holder == n)).foldl (fun s p => s.answer p .i) s
  ((s.home.dir.filter fun e => !e.record && e.holders.contains n).map (·.key)).foldl (fun s k => s.dropHolder k n) s

/-- A holder is lost with its link, by its reset, or as the twin (R155): the cisterns whose lines it owned go DOWN and
the other lines forget it. -/
def State.loseHolder (s : State) (n cause : Nat) : State :=
  let s := (s.cisOfOwner n).foldl (fun s c => s.declare c cause n) s
  (s.forgetHolder n)

end Sys2Proof.Machine
end

