-- ==== Sys2Proof/Machine/Layouts.lean ====
section
/-! DEFINITION. The layouts of the structures clients read: codes, table entries, records, and the reserve as
locale 0xC shows it (02 R28, R29; 03 R74, R80; 11 R309, R310; 12 R345, R352; 13 R379, R383; 15 R447 to R462;
17 R517 to R535; 19 R575). -/
namespace Sys2Proof.Machine

/-! ## Codes -/

def Status.code : Status → Nat
  | .ok => 0x00 | .accepted => 0x01 | .badOpcode => 0x10 | .badArgument => 0x11 | .noRight => 0x12
  | .stateConflict => 0x13 | .noResource => 0x14 | .busy => 0x15 | .duplicateTag => 0x16 | .versionMismatch => 0x17
  | .notPaired => 0x18 | .domainDown => 0x19 | .factoryOnly => 0x1A | .internalError => 0x1F

/-- The status of a code; an unassigned code is read as INTERNAL_ERROR. -/
def Status.ofCode (v : Nat) : Status :=
  match v with
  | 0x00 => .ok | 0x01 => .accepted | 0x10 => .badOpcode | 0x11 => .badArgument | 0x12 => .noRight
  | 0x13 => .stateConflict | 0x14 => .noResource | 0x15 => .busy | 0x16 => .duplicateTag | 0x17 => .versionMismatch
  | 0x18 => .notPaired | 0x19 => .domainDown | 0x1A => .factoryOnly | _ => .internalError

def Role.code : Role → Nat
  | .none => 0 | .operator => 1 | .installer => 2 | .maker => 3

def Role.ofCode (v : Nat) : Role :=
  match v with
  | 1 => .operator | 2 => .installer | 3 => .maker | _ => .none

def JSt.code : JSt → Nat
  | .running => 1 | .done => 2 | .failed => 3 | .void => 4

def JSt.ofCode (v : Nat) : JSt :=
  match v with
  | 1 => .running | 2 => .done | 3 => .failed | _ => .void

def WellSt.code : WellSt → Nat
  | .free => 0 | .creating => 1 | .live => 2 | .migrating => 3 | .resizing => 4 | .destroying => 5

def CisSt.code : CisSt → Nat
  | .free => 0 | .live => 1 | .down => 2 | .recovering => 3 | .dissolving => 4

def CtxSt.code : CtxSt → Nat
  | .free => 0 | .live => 1 | .destroying => 2

def PlatSt.code : PlatSt → Nat
  | .free => 0 | .active => 1 | .draining => 2 | .drained => 3 | .stopped => 4 | .destroying => 5

def NsSt.code : NsSt → Nat
  | .free => 0 | .live => 1 | .storeless => 2 | .destroying => 3

def SliceSt.code : SliceSt → Nat
  | .enabled => 0 | .disabling => 1 | .disabled => 2 | .flushing => 3 | .invalidating => 4

def MirSt.code : MirSt → Nat
  | .sync => 0 | .degraded => 1 | .resync => 2 | .fenced => 3

def PairSt.code : PairSt → Nat
  | .unpaired => 0 | .pairing => 1 | .paired => 2 | .gap => 3 | .fenced => 4 | .refused => 5

/-- In service as Memory_Active shows it: a drain clears it before the phase changes (14 R416, R425; 20 R605). -/
def State.inService (s : State) : Bool :=
  s.mod.phase == .service && (match s.mod.drain with | some d => decide (d.step < 4) | none => true)

/-- ID_STATE (14 R425): no reset of a station clears it (R424). -/
def State.idState (s : State) : Nat :=
  bit s.inService + 2 * bit s.isPaired + 4 * bit (s.mod.phase == .factory)

/-! ## Wells and cisterns -/

/-- The grant byte of a station (R74). -/
def grantByte (w : Well) (n : Nat) : Nat :=
  match tget w.grants n with
  | none => 0
  | some g => (if g.fenced then 2 else 1) + 4 * bit g.w + 8 * g.dec

/-- A well-table entry (R74). -/
def State.wellEntry (s : State) (i : Nat) : List Byte :=
  let w := s.well i
  if w.st == .free then le 4 (s.wellHandle i) ++ zeros 4 ++ le 4 Config.noHandle ++ zeros 116
  else
    let attr := w.place.code + 8 * bit w.coh + 16 * bit w.mirror.isSome + 32 * bit w.kvb16
    let (p, st, pl, fl) := match w.mig with
      | some m => (m.point, m.start, m.place.code, bit m.cancel.isSome)
      | none => (0, 0, 0, 0)
    le 4 (s.wellHandle i) ++ le 1 w.st.code ++ le 1 attr ++ le 2 w.owner ++ le 4 (s.cisHandle w.cistern) ++ zeros 4 ++
    le 8 w.start ++ le 8 w.length ++ le 8 p ++ le 8 st ++ le 1 pl ++ le 1 fl ++ zeros 6 ++
    le 8 (maskOf (w.grants.map (·.1))) ++ ((List.range 48).flatMap fun n => le 1 (grantByte w n)) ++ zeros 16

/-- A cistern-table entry's first 64 bytes (R80). -/
def State.cisEntry (s : State) (c : Nat) : List Byte :=
  let x := s.cis c
  if x.st == .free then le 4 (handleOf c x.gen) ++ zeros 60
  else
    let down := x.st == .down || x.st == .recovering
    le 4 (handleOf c x.gen) ++ le 1 x.st.code ++ le 1 (bit x.twin) ++ le 2 x.tBi ++ le 16 x.name.toNat ++
    le 8 (maskOf x.members) ++ le 4 (s.wellsOf c).length ++ le 1 (if down then x.downCause else 0) ++
    le 1 (if down then x.downStation else 0xFF) ++ zeros 2 ++ le 8 (if down then x.downTime else 0) ++ zeros 16

def Granule.enc (g : Granule) : List Byte :=
  le 8 (g.place.code + 2 ^ 8 * g.q0 + 2 ^ 20 * g.q1 + 2 ^ 32 * g.q2 + 2 ^ 44 * g.q3 + 2 ^ 56 * bit g.mig)

/-! ## Contexts, platforms, namespaces, the prefix index -/

/-- A range entry (13 R383). -/
def Range.enc (r : Range) : List Byte :=
  le 8 r.vbase ++ le 8 r.length ++ le 4 r.well ++ le 1 (bit r.r + 2 * bit r.w + 4 * bit r.a) ++ le 1 (1 + 2 * bit r.twin) ++
  zeros 2 ++ le 8 r.offset

def State.ctxWells (s : State) (c : Nat) : Nat := (s.pool.wells.filter fun x => x.2.st != .free && x.2.owner == c).length
def State.ctxPlats (s : State) (c : Nat) : Nat := (s.jobs.plats.filter fun x => x.2.st != .free && x.2.context == c).length
def State.ctxNss (s : State) (c : Nat) : Nat := (s.pfx.nss.filter fun x => x.2.st != .free && x.2.ctx == c).length

/-- A context-table entry's first 64 bytes (13 R379). -/
def State.ctxEntry (s : State) (c : Nat) : List Byte :=
  let x := s.ctx c
  if x.st == .free then le 2 c ++ zeros 62
  else le 2 c ++ le 1 x.st.code ++ le 1 x.diePref ++ le 2 x.ranges.length ++ zeros 2 ++ le 16 x.name.toNat ++
    le 4 (s.ctxWells c) ++ le 4 (s.ctxPlats c) ++ le 2 (s.ctxNss c) ++ zeros 6 ++ le 8 x.xlateFaults ++ le 8 x.rightsFaults ++
    le 8 x.rangeMisses

/-- A platform-table entry's first 64 bytes (11 R310). -/
def State.platEntry (s : State) (p : Nat) : List Byte :=
  let x := s.plat p
  if x.st == .free then le 2 p ++ zeros 62
  else le 2 p ++ le 1 x.st.code ++ le 1 (bit x.ringLost) ++ le 1 x.station ++ le 1 x.partition ++ le 2 x.vector ++
    le 4 x.ringWell ++ le 2 x.context ++ le 1 x.slotsLog2 ++ zeros 1 ++ le 8 x.ringOff ++ le 8 x.mask.toNat ++ le 4 x.allot ++
    le 4 x.free ++ le 4 x.held ++ le 4 x.accepted ++ le 4 x.consumed ++ le 4 x.cqWritten ++ le 4 x.cqHead ++ le 4 x.tail

/-- A ring header (11 R309). -/
def Platform.header (x : Platform) : List Byte :=
  le 4 x.consumed ++ le 4 x.accepted ++ le 4 x.tail ++ le 4 x.cqWritten ++ le 4 x.cqHead ++ le 1 x.st.code ++
  le 1 (bit x.ringLost) ++ zeros 2 ++ le 4 x.allot ++ le 4 x.free ++ le 4 x.held ++ le 4 x.dropped ++ le 8 x.ok ++ le 8 x.failed ++ zeros 8

/-- The KVB16 block size of a format and width code (09 R272). -/
def kvbSize (format width : Nat) : Nat :=
  let row := match format with
    | 1 => [4160, 8256, 12352, 16448]
    | 2 | 3 => [2112, 4160, 6208, 8256]
    | 4 | 5 => [2240, 4288, 6464, 8512]
    | 6 | 7 => [1728, 3264, 4928, 6464]
    | _ => [1216, 2240, 3392, 4416]
  row.getD width 0

def Ns.slotSize (x : Ns) : Nat := x.nlayers * x.nkvh * kvbSize x.format x.width

/-- Slots of a namespace's store (12 R345). -/
def State.nsCapacity (s : State) (x : Ns) : Nat :=
  match s.named x.store with
  | some i => if x.st == .live || x.st == .destroying then (s.well i).length / max 1 x.slotSize else 0
  | none => 0

def State.nsUsed (s : State) (i : Nat) : Nat := (s.pfx.index.filter fun e => e.2.ns == i).length
def State.nsHolds (s : State) (i : Nat) : Nat := (s.pfx.holds.filter fun h => h.2.live && h.2.ns == i).length

/-- A namespace record (12 R345). -/
def State.nsEntry (s : State) (i : Nat) : List Byte :=
  let x := s.ns i
  if x.st == .free then le 4 (handleOf i x.gen) ++ zeros 60
  else le 4 (handleOf i x.gen) ++ le 1 x.st.code ++ le 1 (bit x.even) ++ le 1 x.format ++ le 1 x.width ++ le 2 x.ctx ++
    le 2 x.nkvh ++ le 2 x.nlayers ++ le 2 x.leaseS ++ le 4 x.store ++ le 4 x.quota ++ le 8 x.slotSize ++
    le 4 (s.nsCapacity x) ++ le 4 (s.nsUsed i) ++ le 4 (s.nsHolds i) ++ zeros 4 ++ le 8 x.hitBlocks ++ le 8 x.evictions

/-- A prefix-index entry (12 R352). -/
def State.pfxEntry (s : State) (e : PfxEnt) : List Byte :=
  le 16 e.key.toNat ++ le 2 e.ns ++ le 1 (if e.live then 2 else 1) ++ le 1 (s.ns e.ns).format ++ le 4 e.well ++ le 8 e.offset ++
  le 4 e.depth ++ le 4 e.parent ++ le 4 e.refs ++ le 4 e.children ++ le 8 e.lastUse ++ le 8 e.tag.toNat

/-! ## Journal, mailbox and audit records (15, 19) -/

/-- A journal entry (15 R462). -/
def JEntry.enc (e : JEntry) : List Byte :=
  le 8 e.waybill ++ le 8 e.tag.toNat ++ le 2 e.opcode ++ le 1 e.source ++ le 1 e.role.code ++ le 1 e.st.code ++ le 1 e.status.code ++
  le 2 (bit e.forced + 2 * bit e.staleReuse + 4 * bit e.bySurvivor) ++ le 8 e.cred.toNat ++ le 16 e.digest.toNat ++ le 8 e.acceptTime ++
  le 8 e.finishTime ++ le 8 e.origin.toNat ++ le 4 e.boot ++ zeros 4 ++ le 8 e.object ++ pad 32 e.result ++ zeros 8

/-- An entry as a mailbox without a session sees one of another source (15 R464). -/
def JEntry.masked (e : JEntry) : List Byte :=
  le 8 e.waybill ++ zeros 12 ++ le 1 e.st.code ++ zeros 1 ++ le 2 8 ++ zeros 104

/-- A completion slot or notice (15 R449). -/
def Cpl.enc (c : Cpl) : List Byte :=
  le 8 c.waybill ++ le 8 c.tag.toNat ++ le 2 c.opcode ++ le 1 c.status.code ++ le 1 (min 32 c.result.length) ++ zeros 4 ++
  le 8 c.time ++ pad 32 c.result

/-- A reject record (15 R460). -/
def Reject.enc (r : Reject) : List Byte :=
  le 8 r.time ++ le 8 r.tag.toNat ++ le 2 r.opcode ++ le 1 r.status.code ++ [r.detail] ++ zeros 12

/-- A reply's header and payload (15 R447). -/
def Reply.enc (r : Reply) : List Byte :=
  le 2 r.opcode ++ le 1 r.status.code ++ le 1 (bit r.journaled) ++ le 2 r.payload.length ++ zeros 2 ++ le 8 r.tag.toNat ++
  le 4 r.seq.toNat ++ zeros 4 ++ le 8 r.waybill ++ le 8 r.time ++ zeros 24 ++ r.payload

/-- Bytes 0x00 to 0x5F of an audit record (19 R575), over which CHAIN is computed. -/
def Audit.body (a : Audit) : List Byte :=
  le 8 a.seq ++ le 8 a.time ++ le 8 a.origin.toNat ++ le 4 a.boot ++ le 2 a.kind ++ le 1 a.source ++ le 1 a.role ++ le 8 a.cred.toNat ++
  le 8 a.waybill ++ le 2 a.opcode ++ le 1 a.status ++ zeros 5 ++ le 16 a.digest.toNat ++ le 24 a.detail.toNat

def Audit.enc (a : Audit) : List Byte := a.body ++ le 16 a.chain.toNat ++ zeros 16

/-! ## Fault records (17) -/

/-- A fault record (R519). -/
def FaultRec.enc (f : FaultRec) : List Byte :=
  le 8 f.seq ++ le 8 f.time ++ le 2 f.source ++ le 1 f.cls ++ le 1 (f.react.rank + 4 * bit f.pin) ++ le 1 f.unitKind ++ le 1 f.unit ++
  le 1 (if f.acked then 2 else 1) ++
  le 1 (bit f.permanent + 2 * bit f.escalated + 4 * bit f.held + 8 * bit f.injected + 16 * bit f.drain) ++ le 4 f.count ++
  le 1 f.temp ++ zeros 1 ++ le 2 f.rail ++ le 8 f.object.toNat ++ le 8 f.address.toNat ++ le 16 f.detail.toNat

/-- An entry of a station's fault-block log (R528). -/
def FltRec.enc (r : FltRec) : List Byte :=
  le 8 r.time ++ le 8 r.hpa.toNat ++ le 4 (r.detail.toNat % 2 ^ 32) ++ le 1 r.kind ++ le 1 (r.detail.toNat / 2 ^ 32) ++ le 1 r.decoder ++ zeros 9

/-! ## The reserve through locale 0xC (02 R29, R31) -/

/-- The journal entry at a ring position: the newest that lies there. -/
def State.journalAt (s : State) (i : Nat) : Option JEntry :=
  s.mbx.journal.find? fun e => (e.waybill - 1) % Config.journalRing == i

/-- The DPA that a die address holds (02 R27). -/
def State.dpaOf (s : State) (die a : Nat) : Option Nat :=
  (s.pool.granules.findSome? fun (g, x) =>
    match x.place with
    | .free => none
    | .loc d =>
      if d.val == die && x.q0 * 2 ^ 28 ≤ a && a < x.q0 * 2 ^ 28 + Config.gib then some (g * Config.gib + (a - x.q0 * 2 ^ 28)) else none
    | .spread =>
      let q := [x.q0, x.q1, x.q2, x.q3].getD die 0
      if q * 2 ^ 28 ≤ a && a < (q + 1) * 2 ^ 28 then
        let y := a - q * 2 ^ 28
        some (g * Config.gib + (y / 4096 * 4 + die) * 4096 + y % 4096)
      else none)

/-- The spared spans of a die, in the order in which they took their places in its remap sub-area (20 R607). -/
def State.remapOf (s : State) (die : Nat) : List Nat := (s.mod.spares.filter fun x => x.stack / 6 == die).map (·.span)

/-- An entry of `size` bytes cut to the line wanted. -/
def lineIn (size off : Nat) (enc : Nat → List Byte) : Line := bytesLine (slice (enc (off / size)) (off % size) 64)

/-- The record at a position of the twin ring: the newest of those appended there (19 R574). -/
def State.twinAuditAt (s : State) (i : Nat) : Option Audit :=
  let back := (s.sec.twinSeen + Config.journalRing - 1 - i) % Config.journalRing
  if i < s.sec.twinSeen then s.sec.twin[back]? else none

/-- A line of the tables of the reserve (02 R29). -/
def State.tableLine (s : State) (off : Nat) : Line :=
  if off < 0x08000000 then lineIn 128 off fun i => match s.journalAt i with | some e => e.enc | none => zeros 128
  else if off < 0x10000000 then
    lineIn 128 (off - 0x08000000) fun i =>
      match s.sec.own.find? fun a => (a.seq - 1) % Config.journalRing == i with
      | some a => a.enc
      | none => zeros 128
  else if off < 0x18000000 then
    lineIn 128 (off - 0x10000000) fun i => match s.twinAuditAt i with | some a => a.enc | none => zeros 128
  else if off < 0x18800000 then lineIn 128 (off - 0x18000000) s.wellEntry
  else if off < 0x18900000 then lineIn 256 (off - 0x18800000) fun c => s.cisEntry c ++ zeros 192
  else if off < 0x18A00000 then lineIn 256 (off - 0x18900000) fun c => s.ctxEntry c ++ zeros 192
  else if off < 0x18B00000 then lineIn 256 (off - 0x18A00000) fun p => s.platEntry p ++ zeros 192
  else if off < 0x18B40000 then lineIn 256 (off - 0x18B00000) fun i => s.nsEntry i ++ zeros 192
  else if off < 0x18B48000 then
    lineIn 64 (off - 0x18B40000) fun l => (List.range 8).flatMap fun k => (s.granule (8 * l + k)).enc
  else if 0x1A000000 ≤ off && off < 0x1C000000 then
    let o := off - 0x1A000000
    lineIn 64 o fun l =>
      (List.range 2).flatMap fun k => match tget (s.ctx (o / 8192)).ranges ((2 * l + k) % 256) with
        | some r => r.enc
        | none => zeros 32
  else if 0x1C000000 ≤ off && off < 0x24000000 then
    let first := (off - 0x1C000000) * 8
    BitVec.ofNat 512 (maskOf ((s.twin.bitmap.filter fun p => first ≤ p && p < first + 512).map (· - first)))
  else if 0x24000000 ≤ off && off < 0x28000000 then
    lineIn 64 (off - 0x24000000) fun l =>
      (List.range 4).flatMap fun k => match s.poisonMap[4 * l + k]? with
        | some (a, w, c) => le 8 a ++ le 4 w ++ le 1 c ++ zeros 3
        | none => zeros 16
  else if 0x100000000 ≤ off && off < 0x200000000 then
    lineIn 64 (off - 0x100000000) fun i => match tget s.pfx.index i with | some e => s.pfxEntry e | none => zeros 64
  else 0

/-- Where a remap sub-area lies on its die (02 R26, R30). -/
def remapAt (die : Nat) : Nat := if die == 0 then 2 ^ 33 else 0

/-- The line of a die address: of the reserve's tables, of a remap sub-area, where it is the line of the span that it replaces
(20 R607), or of the pool. -/
def State.dieLine : Nat → State → Nat → Nat → Line
  | 0, _, _, _ => 0
  | k + 1, s, die, a =>
    if die == 0 && a < 2 ^ 33 then s.tableLine a
    else if remapAt die ≤ a && a < remapAt die + 0x380000000 then
      match (s.remapOf die)[(a - remapAt die) / 2 ^ 25]? with
      | none => 0
      | some span => State.dieLine k s die (span * 2 ^ 25 + (a - remapAt die) % 2 ^ 25)
    else match s.dpaOf die a with
      | some dpa => s.dram dpa
      | none => 0

/-- A line of the reserve as its alias shows it (02 R29 to R31). -/
def State.reserveLine (s : State) (off : Nat) : Line :=
  let (die, a) := reserveHome off
  s.dieLine 450 die a

end Sys2Proof.Machine
end

