-- ==== Sys2Proof/Machine/Mailbox.lean ====
section
/-! DEFINITION. Mailboxes, the waybill journal, completions, the audit log and sessions: how a command is checked,
refused, accepted and completed (15; 19 R565 to R577; 20 R593, R596). -/
namespace Sys2Proof.Machine

/-! ## Mailboxes -/

/-- The SOURCE code of a mailbox (15 R444). -/
def mbxSource : Mbx → Nat
  | .stn n => n.val
  | .eth => 0x31
  | .i3c => 0x32

def State.mb (s : State) (m : Mbx) : Mailbox :=
  match m with
  | .stn n => s.mbx.stn[n]
  | .eth => s.mbx.eth
  | .i3c => s.mbx.i3c

def State.modMbx (s : State) (f : MbxS → MbxS) : State := { s with mbx := f s.mbx }

def State.modMb (s : State) (m : Mbx) (f : Mailbox → Mailbox) : State :=
  match m with
  | .stn n => s.modMbx fun x => { x with stn := x.stn.set n.val (f x.stn[n]) n.isLt }
  | .eth => s.modMbx fun x => { x with eth := f x.eth }
  | .i3c => s.modMbx fun x => { x with i3c := f x.i3c }

/-- Every mailbox. -/
def allMbx : List Mbx := (List.finRange 48).map Mbx.stn ++ [.eth, .i3c]

/-- The session under which a command arrives: a management session belongs to the sender that opened it (19 R573). -/
def State.role (s : State) (m : Mbx) (sender : BitVec 64) : Role :=
  let x := s.mb m
  match m with
  | .stn _ => x.session
  | _ => if x.sender == sender then x.session else .none

def State.credOf (s : State) (m : Mbx) (sender : BitVec 64) : BitVec 64 :=
  if s.role m sender == .none then 0 else (s.mb m).cred

/-! ## The audit log (19 R574 to R577) -/

def State.modSec (s : State) (f : Sec → Sec) : State := { s with sec := f s.sec }

/-- A record appended to the own ring, chained to the one before it, and sent to the twin while paired. -/
def State.auditPut (s : State) (a : Audit) : State :=
  let seq := s.sec.nextSeq
  let prev := match s.sec.own with | b :: _ => b.chain | [] => 0
  let a := { a with seq := seq, time := s.now, origin := s.mod.serial, boot := s.mod.boot }
  let a := { a with chain := BitVec.ofNat 128 (ofLe (blake2s 16 [] (le 16 prev.toNat ++ a.body))) }
  let s := s.modSec fun x =>
    { x with own := a :: x.own.filter (fun b => (b.seq - 1) % Config.journalRing != (seq - 1) % Config.journalRing), nextSeq := seq + 1,
             mark := if seq ≤ x.mark then x.mark else x.mark + 65536 }
  if s.isPaired then s.emit (.xo (.audit a)) else s

/-- The first records of a boot: RESUME, and the sessions that the module reset ended (R574, R576). -/
def State.resumeAudit (s : State) : State :=
  if s.sec.resumed then s
  else
    let own := s.mod.mlog.audit
    let last := match own with | a :: _ => a.seq | [] => 0
    let ended := s.sec.endedByReset
    let s := s.modSec fun x => { x with own := own, resumed := true, endedByReset := [] }
    let s := s.auditPut { seq := 0, time := 0, origin := 0, boot := 0, kind := 0x0A, source := 0x3F, role := 0,
                          detail := BitVec.ofNat 192 (last + 2 ^ 64 * s.mod.boot) }
    ended.foldl (fun s (src, role, cred) =>
      s.auditPut { seq := 0, time := 0, origin := 0, boot := 0, kind := 5, source := src, role := role, cred := cred, detail := 6 }) s

/-- A record of an event. -/
def State.auditRec (s : State) (a : Audit) : State := s.resumeAudit.auditPut a

/-- An audit record of an event of a mailbox. -/
def State.auditMbx (s : State) (m : Mbx) (sender : BitVec 64) (kind wb opcode status : Nat) (digest : BitVec 128) (detail : Nat)
    (cred : Option (BitVec 64) := none) : State :=
  s.auditRec { seq := 0, time := 0, origin := 0, boot := 0, kind := kind, source := mbxSource m, role := (s.role m sender).code,
               cred := cred.getD (s.credOf m sender), waybill := wb, opcode := opcode, status := status, digest := digest,
               detail := BitVec.ofNat 192 detail }

/-- A session ends, with its record (R573, R576). -/
def State.endSession (s : State) (m : Mbx) (why : Nat) : State :=
  let x := s.mb m
  if x.session == .none then s
  else
    let s := s.auditMbx m x.sender 5 0 0 0 0 why
    s.modMb m fun x => { x with session := .none, cred := 0, credSlot := 0, sender := 0 }

/-! ## The journal (15 R461 to R469) -/

/-- NEXT becomes `next`: vector 3 on every station whose backlog passes its threshold with that, by whatever step (R466). -/
def State.crossThresholds (s : State) (next : Nat) : State :=
  let old := s.mbx.next
  (List.range 48).foldl (fun s n =>
    let t := s.stnAt n
    if t.jnlThreshold != 0 && old - 1 - t.jnlMark < t.jnlThreshold && t.jnlThreshold ≤ next - 1 - t.jnlMark then s.raiseVec n 3 else s) s

/-- An entry written into the ring, in both rings of a pair (R461, R467). -/
def State.writeEntry (s : State) (e : JEntry) : State :=
  let s := s.crossThresholds (e.waybill + 1)
  let s := s.modMbx fun x => { x with journal := e :: x.journal.take (Config.journalRing - 1), next := e.waybill + 1 }
  if s.isPaired then s.emit (.xo (.entry e)) else s

/-- The other module keeps the pair journal and assigns this one's waybills (R467). -/
def State.asksWaybill (s : State) : Bool := s.isPaired && s.mbx.shared && !s.mbx.keeper

/-- The waybill of a command accepted now: the keeper's, over the crossover mailbox, on the module that does not keep (R467;
notes/assumptions/36). -/
def State.waybillFor (s : State) (assigned : Option (BitVec 64)) : Nat :=
  match assigned with
  | some w => if s.asksWaybill then max s.mbx.next w.toNat else s.mbx.next
  | none => s.mbx.next

def State.entryOf (s : State) (wb : Nat) : Option JEntry := s.mbx.journal.find? (·.waybill == wb)

/-- An entry of this module changed, in both rings of a pair; where pairing has overwritten it, that of the keeper stands (15 R468). -/
def State.modEntry (s : State) (wb : Nat) (f : JEntry → JEntry) : State :=
  match s.entryOf wb with
  | some e =>
    if e.origin != s.mod.serial then s
    else
      let s := s.modMbx fun x => { x with journal := x.journal.map fun e => if e.waybill == wb then f e else e }
      if s.isPaired then s.emit (.xo (.entry (f e))) else s
  | none => s

/-- An entry that Utvanan writes without a command (R462), done at once; where the other module keeps the journal, it is written once
that has assigned its waybill (R467). -/
def State.ownEntry (s : State) (opcode object : Nat) (result : List Byte) : State :=
  let e : JEntry := { waybill := s.mbx.next, opcode := opcode, source := 0x3F, st := .done, status := .ok, acceptTime := s.now,
                      finishTime := s.now, origin := s.mod.serial, boot := s.mod.boot, object := object, result := result.take 32 }
  if s.asksWaybill then (s.modMbx fun x => { x with unnumbered := x.unnumbered ++ [e] }).emit (.xo .askWaybill)
  else s.writeEntry e

/-- The keeper assigns a waybill to the oldest entry that awaits one. -/
def State.numberEntry (s : State) (wb : Nat) : State :=
  match s.mbx.unnumbered with
  | [] => s
  | e :: rest => (s.modMbx fun x => { x with unnumbered := rest }).writeEntry { e with waybill := max s.mbx.next wb }

/-- This module numbers its entries on its own again. -/
def State.numberAll (s : State) : State := s.mbx.unnumbered.foldl (fun s _ => s.numberEntry s.mbx.next) s

/-- The BOOT entry, waybill 1 of a boot (R462; 20 R594, R598). -/
def State.bootEntry (s : State) : State := if s.mbx.next == 1 then s.ownEntry 0xFF04 0 [] else s

/-! ## Commands -/

/-- A part of a payload: a field of `n` bytes, or `n` reserved bytes. -/
inductive Seg where
  | f (n v : Nat)
  | r (n : Nat)
  deriving DecidableEq, Repr

/-- What the reference maps say of a command (21): its code, payload, the sessions that may issue it, and how it is
classed. -/
structure Cmd where
  opcode : Nat
  segs : List Seg := []
  roles : List Role
  query : Bool := false
  async : Bool := false
  /-- Accepted during bring-up (20 R593) and in recovery (20 R596). -/
  boot : Bool := false
  recov : Bool := false
  /-- Needs factory test mode (17 R541). -/
  factory : Bool := false
  /-- A RESPOND, whose failures have a record of their own (19 R576). -/
  respond : Bool := false
  /-- Without a session its own check refuses it, not its role (19 R565, R572). -/
  sessionOnly : Bool := false
  object : Nat := 0
  /-- The wells of this module that its range entries name (16 R505). -/
  names : List Nat := []

def anyRole : List Role := [.none, .operator, .installer, .maker]

/-- The payload's length. -/
def segsLen : List Seg → Nat
  | [] => 0
  | .f n _ :: l => n + segsLen l
  | .r n :: l => n + segsLen l

/-- The payload's bytes; reserved bytes come from the command. -/
def segsBytes : List Seg → List Byte → List Byte
  | [], _ => []
  | .f n v :: l, rsv => le n v ++ segsBytes l rsv
  | .r n :: l, rsv => pad n (rsv.take n) ++ segsBytes l (rsv.drop n)

/-- How many reserved bytes a payload has. -/
def segsRsv : List Seg → Nat
  | [] => 0
  | .f _ _ :: l => segsRsv l
  | .r n :: l => n + segsRsv l

/-- A reserved byte of the payload is not zero (00 R11). -/
def rsvBad (c : Cmd) (h : CmdHdr) : Bool := (h.rsvPay.take (segsRsv c.segs)).any (· != 0)

/-- DIGEST: BLAKE2s of header bytes 0x00 to 0x07 and the payload (15 R462). -/
def digestOf (c : Cmd) (h : CmdHdr) : BitVec 128 :=
  let hdr := le 2 c.opcode ++ [h.ver, h.flags] ++ le 2 h.len.toNat ++ le 2 (h.rsvHdr.toNat % 65536)
  let pay := pad h.len.toNat (segsBytes c.segs h.rsvPay ++ h.extra)
  BitVec.ofNat 128 (ofLe (blake2s 16 [] (hdr ++ pay)))

/-- A switchover gap is in progress (15 R457, 16 R504, R507). -/
def State.gapNow (s : State) : Bool := s.inGap || (match s.twin.swo with | some x => x.gap | none => false)

/-- Utvanan runs and answers mailboxes: SB has been started and the module is not powered down (20 R593, R595). -/
def State.answers (s : State) : Bool :=
  !s.mod.poweredDown && !(s.mod.stage == .reset || s.mod.stage == .rom || s.mod.stage == .stopped)

/-- A refusal: a status, the state bytes of a STATE_CONFLICT, and the waybill DUPLICATE_TAG names. -/
structure Refuse where
  st : Status
  bytes : List Byte := []
  wb : Nat := 0
  deriving DecidableEq, Repr

def bad : Option Refuse := some ⟨.badArgument, [], 0⟩
def conflict (l : List Nat) : Option Refuse := some ⟨.stateConflict, l.map (BitVec.ofNat 8), 0⟩
def refuse (st : Status) : Option Refuse := some ⟨st, [], 0⟩

/-- The first of a list of checks that refuses. -/
def firstOf : List (Bool × Option Refuse) → Option Refuse
  | [] => none
  | (b, r) :: l => if b then r else firstOf l

/-- The command codes of "Reference maps" (15 R457). -/
def mailboxCodes : List Nat :=
  [0x0001, 0x0002, 0x0003, 0x0004, 0x0100, 0x0101, 0x0102, 0x0103, 0x0104, 0x0105, 0x0106, 0x0110, 0x0111,
   0x0112, 0x0113, 0x0114, 0x0200, 0x0201, 0x0202, 0x0203, 0x0204, 0x0205, 0x0300, 0x0301, 0x0302, 0x0303,
   0x0400, 0x0401, 0x0402, 0x0500, 0x0600, 0x0601, 0x0602, 0x0603, 0x0700, 0x0701, 0x0702, 0x0703, 0x0704,
   0x0800, 0x0801, 0x0900, 0x0901, 0x0902, 0x0A00, 0x0A01, 0x0A02, 0x0A03, 0x0B00, 0x0B01, 0x0B02, 0x0B03]

/-- The commands that one byte of their payload tells apart: code, the byte's place, the values listed for it, the payload's length
and what the checks of all of them need (00 R11; 03 R79; 11 R313; 13 R388, R410; 05 R146; 15 R471; 16 R491; 17 R541; 19 R568, R582; 20 R604). -/
def selectors : List (Nat × List Nat × Nat × Cmd) := [
  (9, [0, 1], 16, { opcode := 0x0003, roles := anyRole, query := true, recov := true }),
  (4, [0, 1, 2], 5, { opcode := 0x0113, roles := [.operator] }),
  (2, [0, 1], 24, { opcode := 0x0203, roles := [.operator] }),
  (2, [0, 1, 2, 3], 24, { opcode := 0x0204, roles := [.operator] }),
  (2, [0, 1, 2], 3, { opcode := 0x0302, roles := [.operator] }),
  (0, [0, 1, 2, 3, 4, 5, 6, 7], 16, { opcode := 0x0500, roles := [.operator] }),
  (0, [0, 1], 8, { opcode := 0x0601, roles := [.installer] }),
  (0, [0, 1], 112, { opcode := 0x0A00, roles := anyRole, boot := true, recov := true }),
  (0, [0, 1, 2, 3, 4], 176, { opcode := 0x0A02, roles := [.installer] }),
  (0, [0, 1, 2, 3], 8, { opcode := 0x0B00, roles := [.installer], recov := true }),
  (0, [0, 1, 2, 3, 4, 5, 6, 0xF], 16, { opcode := 0x0B03, roles := [.maker], factory := true })]

/-- A command whose selecting byte is a value that no row lists: its whole payload stands in one field. -/
def unlisted (code : Nat) (pay : List Byte) : Option Cmd :=
  (selectors.find? fun x => x.2.2.2.opcode == code && !x.2.1.contains (num pay x.1 1)).map fun x =>
    { x.2.2.2 with segs := [.f x.2.2.1 (num pay 0 x.2.2.1)] }

/-- A mailbox answers BUSY first of all: while its HANDOVER is set, in a switchover gap, and during bring-up to all but the commands
it accepts then (15 R457; 20 R593). -/
def State.mailboxBusy (s : State) (m : Mbx) (boot : Bool) : Bool :=
  (s.mb m).handover || s.fw.handover || s.gapNow || (s.mod.phase == .bringUp && !boot)

/-- The checks every command passes, in their order (15 R457; 17 R541; 20 R593, R596). -/
def State.refusal (s : State) (h : CmdHdr) (c : Cmd) (own : State → Option Refuse) : Option Refuse :=
  let dup := if c.query || h.tag == 0 then none else s.mbx.journal.find? (·.tag == h.tag)
  firstOf [
    (s.mailboxBusy h.mbx c.boot, refuse .busy),
    (!c.roles.contains (s.role h.mbx h.sender), refuse .noRight),
    (c.factory && s.mod.phase != .factory, refuse .factoryOnly),
    (h.ver != 1 || 4032 < h.len.toNat || h.len.toNat < segsLen c.segs || h.rsvHdr != 0 || h.flags.toNat / 2 != 0, bad),
    (dup.isSome, some ⟨.duplicateTag, [], (dup.map (·.waybill)).getD 0⟩),
    (s.mod.phase == .recovery && !c.recov, conflict [s.mod.phase.code]),
    (rsvBad c h, bad),
    (true, own s)]

/-- A reply is written to its mailbox, or sent to the sender of a management command (15 R451, R456). -/
def State.reply (s : State) (h : CmdHdr) (r : Reply) : State :=
  let s := s.modMb h.mbx fun x =>
    { x with checking := false, asked := false, replied := true, replySeq := (x.replySeq + 1) % 65536, reply := some r }
  s.emit (.reply h.mbx h.sender r)

/-- A refused command changes nothing but the reject counter, the reject history and, where it must, the audit log
(15 R458, R460; 19 R576). -/
def State.reject (s : State) (h : CmdHdr) (c : Cmd) (r : Refuse) : State :=
  let s := if (r.st == .noRight || r.st == .factoryOnly) && !c.respond then
    s.auditMbx h.mbx h.sender 2 0 c.opcode r.st.code (digestOf c h) 0 else s
  let s := s.modMb h.mbx fun x =>
    { x with rejectCount := sat 32 (x.rejectCount + 1)
             rejects := ⟨s.now, h.tag, c.opcode, r.st, r.bytes.headD 0⟩ :: x.rejects.take 63 }
  s.reply h { opcode := c.opcode, status := r.st, tag := h.tag, seq := h.seq, waybill := r.wb, time := s.now,
              payload := if r.st == .stateConflict then r.bytes else [] }

/-- What an accepted command does: its reply payload, the object it names or creates, and the state it leaves. -/
abbrev Apply := Nat → State → List Byte × Nat × State

/-- What acceptance itself writes, before the command's effect: the waybill, the journal entry, the audit record and, for an
asynchronous command, its place among those that run (15 R458, R461; 19 R576). -/
def State.journalIn (s : State) (h : CmdHdr) (c : Cmd) : State :=
  let s := s.bootEntry
  let wb := s.waybillFor h.waybill
  let s := if s.asksWaybill && !(s.mb h.mbx).asked then s.emit (.xo .askWaybill) else s
  let e : JEntry :=
    { waybill := wb, tag := h.tag, opcode := c.opcode, source := mbxSource h.mbx, role := s.role h.mbx h.sender,
      st := if c.async then .running else .done, status := if c.async then .accepted else .ok, cred := s.credOf h.mbx h.sender,
      digest := digestOf c h, acceptTime := s.now, finishTime := if c.async then 0 else s.now, origin := s.mod.serial,
      boot := s.mod.boot, object := c.object, names := c.names }
  let s := s.writeEntry e
  let s := if c.roles.contains .none && !c.sessionOnly then s
    else s.auditMbx h.mbx h.sender 1 wb c.opcode (if c.async then 1 else 0) (digestOf c h) 0
  if c.async then s.modMbx fun x =>
      { x with asyncs := x.asyncs ++ [{ wb := wb, mbx := some h.mbx, sender := h.sender, quiet := nbit h.flags.toNat 0,
                                        opcode := c.opcode, tag := h.tag }] }
  else s

/-- A command accepted: its effect on the state that acceptance leaves, and its reply; a query has no entry (15 R458, R461). -/
def State.accept (s : State) (h : CmdHdr) (c : Cmd) (apply : Apply) : State :=
  if c.query then
    let (pay, _, s) := apply 0 s
    s.reply h { opcode := c.opcode, status := .ok, tag := h.tag, seq := h.seq, time := s.now, payload := pay }
  else
    let wb := s.bootEntry.waybillFor h.waybill
    let (pay, obj, s) := apply wb (s.journalIn h c)
    let s := s.modEntry wb fun e =>
      { e with object := obj, result := if c.async || !e.result.isEmpty then e.result else pay.take 32 }
    s.reply h { opcode := c.opcode, status := if c.async then .accepted else .ok, journaled := true, tag := h.tag, seq := h.seq,
                waybill := wb, time := s.now, payload := pay }

/-- The sender of a management session has sent a command (19 R573). -/
def State.noteUse (s : State) (h : CmdHdr) : State :=
  match h.mbx with
  | .stn _ => s
  | m => if s.role m h.sender == .none then s else s.modMb m fun x => { x with lastUse := s.now }

/-- The BARs of a station answer: its link is up and its function is configured and in D0 (14 R437, R439; 15 R444). -/
def State.barsUp (s : State) (n : Nat) : Bool := (s.stnAt n).up && (s.stnAt n).barsSet && !(s.stnAt n).d3hot

/-- An access that reaches no BAR: an Unsupported Request while the link is up, nothing without a link. -/
def State.noBar (s : State) (n : Nat) : State := if (s.stnAt n).up then s.unsupported n else s

/-- A command reaches its mailbox where the station's BARs answer (14 R439). One that the
mailbox already holds is answered whatever has become of the link since (14 R437). -/
def State.reaches (s : State) (m : Mbx) : Bool :=
  s.answers && (match m with
    | .stn n => (s.mb m).checking || s.barsUp n.val
    | _ => true)

/-- The control core that serves a mailbox (17 R521). -/
def coreOf : Mbx → Nat
  | .stn n => n.val / 12
  | _ => 4

/-- The entry of the command cannot be in both rings of the pair yet: no crossover link is up, or the keeper has not assigned its waybill
(15 R467; notes/assumptions/193). -/
def State.ringAwaits (s : State) (h : CmdHdr) : Bool :=
  s.isPaired && s.mbx.shared && (s.xoUp.isEmpty || (!s.mbx.keeper && h.waybill.isNone))

/-- The mailbox holds the command, CHECKING, until it can be answered; the keeper is asked for its waybill. -/
def State.keepCommand (s : State) (h : CmdHdr) (ask : Bool) : State :=
  let ask := ask && s.asksWaybill && !s.xoUp.isEmpty && !(s.mb h.mbx).asked
  let s := s.modMb h.mbx fun x => { x with checking := true, asked := x.asked || ask }
  if ask then s.emit (.xo .askWaybill) else s

/-- A mailbox command: not delivered, held, refused or accepted. The core that an NMI captures takes no command up (17 R521). -/
def State.mailbox (s : State) (h : CmdHdr) (c : Cmd) (own : State → Option Refuse) (apply : Apply) : State :=
  if !s.reaches h.mbx then
    match h.mbx with
    | .stn n => s.noBar n.val
    | _ => s
  else if s.captured 6 (coreOf h.mbx) then s.keepCommand h false
  else
    let s := s.noteUse h
    match s.refusal h c own with
    | some r => s.reject h c r
    | none => if !c.query && s.ringAwaits h then s.keepCommand h true else s.accept h c apply

/-! ## Completion (15 R454, R456, R463) -/

/-- An asynchronous command's work has ended with a status and a result; its completion is to be written. A revocation
whose station did not answer makes the status DOMAIN_DOWN (03 R85). -/
def State.ready (s : State) (wb : Nat) (st : Status) (result : List Byte) : State :=
  s.modMbx fun x => { x with asyncs := x.asyncs.map fun a =>
    if a.wb == wb && a.ready.isNone then { a with ready := some (if a.down && st == .ok then .domainDown else st, result) } else a }

/-- Where a waybill is known at all. -/
def State.readyOpt (s : State) (wb : Option Nat) (st : Status) (result : List Byte) : State :=
  match wb with
  | some wb => s.ready wb st result
  | none => s

/-- The command still runs. -/
def State.runs (s : State) (wb : Nat) : Bool := s.mbx.asyncs.any fun a => a.wb == wb && a.ready.isNone

/-- A completion slot of a station's ring is written, and vector 0 raised unless QUIET is set (R454). -/
def State.cplSlot (s : State) (n : Station) (quiet : Bool) (c : Cpl) : State :=
  let s := s.modMb (.stn n) fun x =>
    { x with cpls := tset x.cpls (x.cplWrite % 16) c
             cplWrite := (x.cplWrite + 1) % 65536
             cplLost := if 16 ≤ (x.cplWrite + 65536 - x.cplAck) % 65536 then sat 16 (x.cplLost + 1) else x.cplLost }
  if quiet then s else s.raiseVec n.val 0

/-- The journal entry is finished first, then the completion slot or notice follows. -/
def State.completeAsync (s : State) (a : Async) (st : Status) (result : List Byte) : State :=
  let s := s.modEntry a.wb fun e =>
    { e with st := if st == .ok then .done else .failed, status := st, finishTime := s.now, result := result.take 32 }
  let s := s.modMbx fun x => { x with asyncs := x.asyncs.filter (·.wb != a.wb) }
  let c : Cpl := ⟨a.wb, a.tag, a.opcode, st, s.now, result.take 32⟩
  match a.mbx with
  | none => s
  | some (.stn n) => s.cplSlot n a.quiet c
  | some m => if a.quiet then s else s.emit (.notice m a.sender c)

/-! ## Interrupt helpers of the twin's events (16) -/

/-- Vector 2 on every station: a twin event (14 R428). -/
def State.twinEvent (s : State) : State := s.raiseAll 2

end Sys2Proof.Machine
end

