-- ==== Sys2Proof/Machine/Translation.lean ====
section
/-! DEFINITION. Translation: range tables, the pumps' range caches, range switches, and host addresses through the
address translation caches (13; 08 R221). -/
namespace Sys2Proof.Machine

def State.modJobs (s : State) (f : Jobs → Jobs) : State := { s with jobs := f s.jobs }
def State.modXl (s : State) (f : Xl → Xl) : State := { s with xl := f s.xl }

/-! ## Range tables (R383 to R386) -/

def Range.covers (r : Range) (v : Nat) : Bool := r.vbase ≤ v && v < r.vbase + r.length

/-- The entry that maps a virtual address (R385). -/
def State.rangeAt (s : State) (c v : Nat) : Option (Nat × Range) := (s.ctx c).ranges.find? fun x => x.2.covers v

/-- A range entry as a command writes it. -/
def rwRange (w : RangeWords) : Range :=
  { vbase := w.vbase.toNat, length := w.length.toNat, well := w.well.toNat, r := w.rights.getLsbD 0, w := w.rights.getLsbD 1,
    a := w.rights.getLsbD 2, twin := w.flags.getLsbD 1, offset := w.offset.toNat }

def rwValid (w : RangeWords) : Bool := w.flags.getLsbD 0

/-- 64 KiB. -/
def k64 : Nat := 65536

/-- An entry written with VALID 0 is all zero; a valid one keeps to the ranges of R383 and R384. -/
def rwOk (w : RangeWords) : Bool :=
  if rwValid w then
    w.vbase.toNat % k64 == 0 && w.length.toNat % k64 == 0 && w.length != 0 && w.vbase.toNat + w.length.toNat ≤ 2 ^ 56 &&
    (w.rights == 1 || w.rights == 3 || w.rights == 7) && w.flags.toNat < 4 && w.rsv == 0 && w.offset.toNat % k64 == 0
  else
    w.vbase == 0 && w.length == 0 && w.well == 0 && w.rights == 0 && w.flags == 0 && w.rsv == 0 && w.offset == 0

/-- The table as it would stand. -/
def setRanges (t : Tab Range) (first : Nat) (es : List RangeWords) : Tab Range :=
  es.zipIdx.foldl (fun t (e, i) => if rwValid e then tset t (first + i) (rwRange e) else tdel t (first + i)) t

/-- No two valid entries overlap (R384). -/
def noOverlap : Tab Range → Bool
  | [] => true
  | (_, r) :: t => (t.all fun x => x.2.vbase + x.2.length ≤ r.vbase || r.vbase + r.length ≤ x.2.vbase) && noOverlap t

/-! ## The range cache (R393) -/

/-- The cached entry of a pump. -/
def State.rcHit (s : State) (p c i : Nat) : Option RcEnt := (s.pumpAt p).rcache.find? fun e => e.ctx == c && e.idx == i

/-- A pump's cached entry; the prefix unit of the signal box keeps none of its own and reads any pump's. -/
def State.rcOf (s : State) (p c i : Nat) : Option RcEnt :=
  if p < 16 then s.rcHit p c i else (List.range 16).findSome? fun q => s.rcHit q c i

/-- The last fill of an entry found its handle stale (R393). -/
def State.rcFailed (s : State) (p c i : Nat) : Bool :=
  if p < 16 then (s.pumpAt p).rcStale.contains (c, i) else (List.range 16).any fun q => (s.pumpAt q).rcStale.contains (c, i)

/-- An entry used moves to the front. -/
def State.rcTouch (s : State) (p c i : Nat) : State :=
  match s.rcHit p c i with
  | none => s
  | some e => s.modPump p fun x => { x with rcache := e :: x.rcache.filter (· != e) }

/-- The cache with a new entry: of 512, one marked for first eviction goes first, then the least recently used not marked
for last eviction (R393, R410). -/
def rcInsert (l : List RcEnt) (e : RcEnt) : List RcEnt :=
  let l := l.filter fun x => !(x.ctx == e.ctx && x.idx == e.idx)
  if l.length < 512 then e :: l
  else
    let r := l.reverse
    let victim := match r.find? (·.mark == .first) with
      | some v => some v
      | none => match r.find? (·.mark != .keep) with
        | some v => some v
        | none => r.head?
    match victim with
    | some v => e :: l.filter (· != v)
    | none => e :: l

/-- A fill with the well's Start and length as they stand, counted in RANGE_MISSES (R379, R393). -/
def State.rcFill (s : State) (p c i start length : Nat) (mark : RcMark := .none) (kvb : Bool := false) : State :=
  (s.modPump p fun x => { x with rcache := rcInsert x.rcache ⟨c, i, start, length, mark, kvb⟩ }).modCtx c fun x =>
    { x with rangeMisses := x.rangeMisses + 1 }

/-- Entries dropped from every pump. -/
def State.rcDrop (s : State) (f : Nat → Nat → Bool) : State :=
  ((List.range 16).foldl (fun s p => s.modPump p fun x =>
    { x with rcache := x.rcache.filter (fun e => !f e.ctx e.idx), rcStale := x.rcStale.filter fun e => !f e.1 e.2 }) s).modXl fun x =>
      { x with advised := x.advised.filter fun a => !f a.2.1 a.2.2 }

/-- Entries that name wells of a twin are dropped from every pump: the twin, or what it told of a well, is another one now (R385,
R393). -/
def State.rcDropTwin (s : State) (f : Range → Bool) : State :=
  s.rcDrop fun c i => match tget (s.ctx c).ranges i with | some r => r.twin && f r | none => false

/-! ## Range switches (R389 to R392) -/

/-- The platform of a job, as it stood when it was freed. -/
def State.platOf (s : State) (j : Job) : Platform := j.was.getD (s.plat j.plat)

/-- The context of a job. -/
def State.jobCtx (s : State) (j : Job) : Nat := (s.platOf j).context

/-- A switch over the entries that `hit` names: their cached copies go, and the tiles and writes translated from them
before it are awaited for 20 us. -/
def State.switchOn (s : State) (hit : Nat → Nat → Bool) (cause : SwCause) (cleared : Nat) : State :=
  let of_ := fun (j : Job) (es : List Nat) => es.any fun i => hit (s.jobCtx j) i
  let tiles := s.jobs.jobs.flatMap fun j => (j.tiles.filter fun t => of_ j t.entries).map fun t => (j.id, t.id)
  let writes := s.jobs.jobs.flatMap fun j => (j.wTiles.filter fun t => of_ j t.entries).map fun t => (j.id, t.id)
  (s.rcDrop hit).modXl fun x =>
    { x with switches := x.switches ++ [⟨tiles, writes, s.now + 20000, cause, cleared⟩] }

/-- Valid entries of a context that a condition picks. -/
def State.rangesWhere (s : State) (c : Nat) (f : Range → Bool) : List Nat := ((s.ctx c).ranges.filter fun x => f x.2).map (·.1)

/-- Valid entries of one context cleared for a command (R388, R389). -/
def State.clearIn (s : State) (c : Nat) (f : Range → Bool) (wb : Nat) : State :=
  let l := s.rangesWhere c f
  (s.switchOn (fun d i => d == c && l.contains i) (.cmd wb) l.length).modCtx c fun x => { x with ranges := x.ranges.filter fun r => !l.contains r.1 }

/-- A well, platform or namespace of the context is not FREE (R382). -/
def State.ctxInUse (s : State) (c : Nat) : Bool := s.ctxWells c != 0 || s.ctxPlats c != 0 || s.ctxNss c != 0

/-- A context is DESTROYING: its entries are cleared, and it ends with that (R382). -/
def State.endCtx (s : State) (c wb : Nat) : State :=
  (s.modCtx c fun x => { x with st := .destroying, wb := some wb }).clearIn c (fun _ => true) wb

/-- Entries cleared in every context (R388, R391). -/
def State.clearRanges (s : State) (f : Range → Bool) (cause : SwCause) : State :=
  let hits := s.xl.ctxs.map fun (c, _) => (c, s.rangesWhere c f)
  let s := s.switchOn (fun c i => (tgetD hits c []).contains i) cause (sumOf (fun x => x.2.length) hits)
  hits.foldl (fun s (c, l) => if l.isEmpty then s else s.modCtx c fun x => { x with ranges := x.ranges.filter fun r => !l.contains r.1 }) s

/-- Cached entries that name a well are dropped and their tiles awaited; the table keeps its entries (R392). -/
def State.dropRanges (s : State) (f : Range → Bool) (cause : SwCause) : State :=
  let hits := s.xl.ctxs.map fun (c, _) => (c, s.rangesWhere c f)
  s.switchOn (fun c i => (tgetD hits c []).contains i) cause 0

/-- The entry names the local well of index `i`. -/
def Range.names (r : Range) (i : Nat) : Bool := !r.twin && r.well % 65536 == i

/-- No switch of a well is still awaited, here or at the twin. -/
def State.wellSwitched (s : State) (i : Nat) : Bool :=
  !(s.xl.switches.any fun w => w.cause == .well i) && !(s.twin.fwdOut.any fun f => f.drop == some i)

/-- What a switch was for goes on once its tiles and writes have moved. -/
def State.switchDone (s : State) (w : Switch) : State :=
  match w.cause with
  | .cmd wb =>
    let s := match s.xl.ctxs.find? fun x => x.2.wb == some wb with
      | some (c, _) => s.modCtx c fun _ => {}
      | none => s
    let op := ((s.mbx.asyncs.find? (·.wb == wb)).map (·.opcode)).getD 0
    s.ready wb .ok (if op == 0x0203 then le 2 w.cleared else [])
  | .well _ | .gone _ => s
  | .twin h => s.emit (.xo (.rangeDropped h))

/-- Switches whose tiles and writes have all moved complete. -/
def State.switchStep (s : State) : State :=
  let still := fun (x : Nat × Nat) => match s.job x.1 with
    | some j => j.tiles.any (·.id == x.2) || j.wTiles.any (·.id == x.2)
    | none => false
  let ws := s.xl.switches.map fun w => { w with tiles := w.tiles.filter still, writes := w.writes.filter still }
  let moved := fun (w : Switch) => w.tiles.isEmpty && w.writes.isEmpty
  (ws.filter moved).foldl (fun s w => s.switchDone w) (s.modXl fun x => { x with switches := ws.filter fun w => !moved w })

/-! ## Host addresses (R400 to R407) -/

/-- The cached translation of an address. -/
def Stn.atcAt (t : Stn) (a : Nat) : Option AtcEnt := t.atc.find? fun e => e.base ≤ a && a < e.base + 4096 * 2 ^ e.k

/-- A translation used moves to the front. -/
def State.atcTouch (s : State) (n a : Nat) : State :=
  match (s.stnAt n).atcAt a with
  | none => s
  | some e => s.modStn n fun t => { t with atc := e :: t.atc.filter (· != e) }

/-- A Translation Request leaves, where one of the 64 places is free and none of the same page is out (R402); one that the
prefetcher has sent serves the tile once it is next to move. -/
def State.atsAsk (s : State) (n : Nat) (r : AtsReq) : State :=
  let t := s.stnAt n
  let isSame := fun (q : AtsReq) => q.page == r.page && q.job == r.job
  let next := fun (q : AtsReq) => if isSame q && q.ahead then { q with opnd := r.opnd, addr := r.addr, step := r.step, tile := r.tile, ahead := false } else q
  if t.atsReqs.any isSame then
    if r.ahead then s else s.modStn n fun t => { t with atsReqs := t.atsReqs.map next }
  else if 64 ≤ t.atsReqs.length then s
  else (s.modStn n fun t => { t with atsReqs := t.atsReqs ++ [r] }).emit (.atsRequest n (r.page * 4096))

/-! ## One line of an access of a job (R385, R386, R399; 08 R221; 02 R22, R23) -/

/-- Where a line of an access goes, or why it does not. -/
inductive Tr where
  | ok (t : Target) (entry : Option Nat)
  | fault (st : JobStatus)
  /-- A range-cache miss, or a locale-0x1 access during a switchover gap. -/
  | stall
  /-- A Translation Request of the page is needed. -/
  | ats (n page : Nat)
  deriving DecidableEq, Repr

/-- An access right: read, write or atomic. -/
inductive Acc where
  | r | w | a
  deriving DecidableEq, Repr

def Range.allows (x : Range) : Acc → Bool
  | .r => x.r
  | .w => x.w
  | .a => x.a

/-- An operand's parts (11 R325). -/
def opSpace (o : Nat) : Nat := o / 2 ^ 62
def opStation (o : Nat) : Nat := o / 2 ^ 56 % 64
def opAddr (o : Nat) : Nat := o % 2 ^ 56
/-- The null operand. -/
def nullOp : Nat := 3 * 2 ^ 62

/-- The partition a pump belongs to: one judged permanently faulty has left its own (08 R249). -/
def Pump.home (x : Pump) : Option Nat := if x.permanent.isSome then none else x.part

/-- The exchange area of a pump of the partition (08 R220, R221). -/
def State.exchange (s : State) (part dpa : Nat) : Bool :=
  let q := (dpa - Config.scratchBase) / Config.scratchStride
  let off := (dpa - Config.scratchBase) % Config.scratchStride
  Config.scratchBase ≤ dpa && q < 16 && 0x1000000 ≤ off && off < 0x1800000 && (s.pumpAt q).home == some part

/-- An address that has a byte behind it (02 R21, R23). -/
def State.backed (s : State) (a : Nat) : Bool :=
  a < Config.locale0End ||
  (Config.twinBase ≤ a && a < Config.twinBase + Config.poolEnd && (s.isPaired || s.gapNow)) ||
  (Config.scratchBase ≤ a && a < Config.scratchBase + 16 * Config.scratchStride &&
    (a - Config.scratchBase) % Config.scratchStride < Config.scratchSize) ||
  (Config.aliasBase ≤ a && a < Config.aliasBase + Config.aliasSize) ||
  (Config.controlBase ≤ a && a < Config.controlBase + Config.controlSize)

/-- The translation of one byte of an operand for pump `p` (16 is the prefix unit). Of SPACE 0x2, a backed byte outside the exchange
areas is a matter of rights, and an unbacked one has no mapping (02 R22; 08 R221). -/
def State.xlate (s : State) (j : Job) (p o a : Nat) (acc : Acc) : Tr :=
  match opSpace o with
  | 0 =>
    match s.rangeAt (s.jobCtx j) a with
    | none => .fault .xlateFault
    | some (i, r) =>
      let x := r.offset + (a - r.vbase)
      if r.twin then
        if s.gapNow then .stall
        else if !s.isPaired then .fault .xlateFault
        else match s.rcOf p (s.jobCtx j) i with
          | none => if s.rcFailed p (s.jobCtx j) i then .fault .xlateFault else .stall
          | some e =>
            if e.length ≤ x then .fault .xlateFault
            else if !r.allows acc then .fault .rightsFault
            else .ok (.twin (Config.twinBase + e.start + x)) (some i)
      else match s.named r.well with
        | none => .fault .xlateFault
        | some w =>
          if (s.well w).length ≤ x || (s.well w).st == .destroying then .fault .xlateFault
          else if !r.allows acc then .fault .rightsFault
          else if (s.well w).mirSt == some .fenced then .fault .domainDown
          else if p < 16 && (s.rcHit p (s.jobCtx j) i).isNone then .stall
          else if s.isDown (s.well w) then .fault .domainDown
          else .ok (.pool w x) (some i)
  | 1 =>
    let n := opStation o
    let t := s.stnAt n
    if !t.ats then .ok (.host n a) none
    else if !t.atsEnable then .fault .xlateFault
    else match t.atcAt a with
      | none => if t.atsFailed.contains (j.id, a / 4096) then .fault .xlateFault else .ats n (a / 4096)
      | some e =>
        if acc == .r && !e.r || acc == .w && !e.w then .fault .rightsFault
        else .ok (.host n (e.hpa + (a - e.base))) none
  | 2 => if s.exchange (s.platOf j).partition a then .ok (.scratch a) none else .fault (if s.backed a then .rightsFault else .xlateFault)
  | _ => .fault .badDescriptor

/-- The line pieces of an access: each line's first wanted byte and how many of its bytes are wanted. -/
def pieces : Nat → Nat → Nat → List (Nat × Nat)
  | 0, _, _ => []
  | _, _, 0 => []
  | k + 1, a, len =>
    let n := min len (64 - a % 64)
    (a, n) :: pieces k (a + n) (len - n)

/-- The pieces of `len` bytes from `a`. -/
def cutLines (a len : Nat) : List (Nat × Nat) := pieces (len / 64 + 2) a len

/-- A whole tile translated (R397): its lines with their targets and range entries, or the first fault with its address,
or what it waits for: a fault is known once nothing of the tile waits for its translation. -/
inductive TileTr where
  | ok (l : List (Nat × Nat × Target)) (entries : List Nat)
  | fault (st : JobStatus) (addr : Nat)
  | wait (s : State)

/-- Ranks of what is observed at one tile (11 R340). -/
def JobStatus.rank : JobStatus → Nat
  | .badDescriptor => 0
  | .xlateFault => 1
  | .rightsFault => 2
  | .domainDown => 3
  | .poison => 4
  | _ => 5

def State.xlateTile (s : State) (j : Job) (p o opnd a len : Nat) (acc : Acc) (step : Nat) (ahead : Bool := false) : TileTr :=
  let all := (cutLines a len).map fun (x, n) => (x, n, s.xlate j p o x acc)
  let faults := all.filterMap fun (x, _, t) => match t with | .fault st => some (st, x) | _ => none
  let best := faults.foldl (fun (b : Option (JobStatus × Nat)) f => match b with
    | none => some f
    | some g => if f.1.rank < g.1.rank then some f else some g) none
  let waits := all.filter fun (_, _, t) => match t with | .stall => true | .ats _ _ => true | _ => false
  match waits.isEmpty, best with
  | true, some (st, x) => .fault st x
  | _, _ =>
    if waits.isEmpty then
      .ok (all.filterMap fun (x, n, t) => match t with | .ok g _ => some (x, n, g) | _ => none)
        (all.filterMap fun (_, _, t) => match t with | .ok _ (some i) => some i | _ => none).eraseDups
    else
      .wait (waits.foldl (fun s (x, _, t) => match t with
        | .ats n page => s.atsAsk n { page := page, job := j.id, opnd := opnd, addr := x, step := step, deadline := s.now + (s.stnAt n).ctoUs * 1000,
                                      ahead := ahead, tile := some (a, len) }
        | _ => s) s)

/-- Translations used count as recent. -/
def State.xlateUsed (s : State) (j : Job) (p : Nat) (entries : List Nat) (l : List (Nat × Nat × Target)) (o : Nat) : State :=
  let s := entries.foldl (fun s i => s.rcTouch p (s.jobCtx j) i) s
  if opSpace o == 1 && (s.stnAt (opStation o)).ats then l.foldl (fun s (x, _, _) => s.atcTouch (opStation o) x) s else s

/-! ## Wells that an entry may not name (13 R387; 19 R582, R583) -/

def RangeWords.isTwin (w : RangeWords) : Bool := rwValid w && w.flags.getLsbD 1
def RangeWords.isLocal (w : RangeWords) : Bool := rwValid w && !w.flags.getLsbD 1

/-- A KEY_BIND of the well runs (19 R585). -/
def State.keyBinding (s : State) (i : Nat) : Bool := s.sec.keys.any fun (_, k) => k.binding.any fun b => b.1 == i

/-- A key slot bars the well from the context's table (19 R583). -/
def State.keyBarsCtx (s : State) (i c : Nat) : Bool := 
  s.keyBinding i || s.slots.any fun (_, k) => k.wells.contains i && (k.context != c || k.context == 0xFFFF)

/-- A well that an entry may not name now. -/
def State.rwShut (s : State) (c i : Nat) : Bool :=
  let st := (s.well i).st
  !(st == .live || st == .migrating || st == .resizing) || s.keyBarsCtx i c

end Sys2Proof.Machine
end

