-- ==== Sys2Proof/Machine/PrefixIndex.lean ====
section
/-! DEFINITION. The prefix index: keys, entries, slots, holds and eviction (12). -/
namespace Sys2Proof.Machine

def State.modPfx (s : State) (f : Pfx → Pfx) : State := { s with pfx := f s.pfx }

/-- The key of a prefix block (R349). -/
def prefixKey (salt : BitVec 256) (parent : BitVec 128) (tokens : List Byte) (tag : BitVec 64) : BitVec 128 :=
  BitVec.ofNat 128 (ofLe (blake2s 16 (le 32 salt.toNat) (le 16 parent.toNat ++ pad 64 tokens ++ le 8 tag.toNat)))

/-- The keys of a chain of token blocks from a parent key (R349, R351). -/
def chainKeys (salt : BitVec 256) (tag : BitVec 64) : BitVec 128 → List (List Byte) → List (BitVec 128)
  | _, [] => []
  | k, b :: bs =>
    let k' := prefixKey salt k b tag
    k' :: chainKeys salt tag k' bs

/-- The entry of a key in its namespace (R352). -/
def State.keyEntry (s : State) (ns : Nat) (k : BitVec 128) : Option (Nat × PfxEnt) :=
  s.pfx.index.find? fun x => x.2.ns == ns && x.2.key == k

/-- The LIVE entry of a key. -/
def State.keyLive (s : State) (ns : Nat) (k : BitVec 128) : Option (Nat × PfxEnt) :=
  (s.keyEntry ns k).filter fun x => x.2.live

def State.modPfxEnt (s : State) (e : Nat) (f : PfxEnt → PfxEnt) : State := s.modPfx fun x => { x with index := tmod x.index e f }

/-- A reference added to or taken from an entry (R371, R376). -/
def State.addRef (s : State) (e : Nat) : State := s.modPfxEnt e fun x => { x with refs := x.refs + 1 }
def State.dropRef (s : State) (e : Nat) : State := s.modPfxEnt e fun x => { x with refs := x.refs - 1 }

/-- An entry and its slot freed; its parent has one child less (R367, R373). -/
def State.freeEntry (s : State) (e : Nat) : State :=
  match tget s.pfx.index e with
  | none => s
  | some x =>
    let s := s.modPfx fun p => { p with index := tdel p.index e }
    if x.parent == Config.noHandle then s else s.modPfxEnt x.parent fun y => { y with children := y.children - 1 }

/-- The next entry of the namespace that eviction takes (R373). -/
def State.victim (s : State) (ns : Nat) : Option Nat :=
  let before := fun (a b : Nat × PfxEnt) =>
    a.2.lastUse < b.2.lastUse || (a.2.lastUse == b.2.lastUse && (b.2.depth < a.2.depth || (a.2.depth == b.2.depth && a.1 < b.1)))
  ((s.pfx.index.filter fun x => x.2.ns == ns && x.2.live && x.2.refs == 0 && x.2.children == 0).foldl
    (fun (b : Option (Nat × PfxEnt)) x => match b with
      | none => some x
      | some y => if before x y then some x else some y) none).map (·.1)

/-- An entry evicted from the namespace, where there is a candidate (R373). -/
def State.evictOne (s : State) (ns : Nat) : Option State :=
  (s.victim ns).map fun e => (s.freeEntry e).modNs ns fun x => { x with evictions := x.evictions + 1 }

/-- Eviction until USED has come down to the quota or no candidate remains (R356). -/
def State.evictTo : Nat → Nat → State → State
  | 0, _, s => s
  | k + 1, ns, s =>
    if (s.ns ns).quota < s.nsUsed ns then
      match s.evictOne ns with
      | none => s
      | some s => State.evictTo k ns s
    else s

/-- A number below `n` that a list does not use; which one is open (notes/assumptions/8). -/
def State.unused (s : State) (n : Nat) (used : List Nat) : Option Nat × State :=
  let (k, s) := s.choose n
  if k < n && !used.contains k then (some k, s) else ((List.range n).find? fun i => !used.contains i, s)

/-- A free slot of a namespace's store (R346). -/
def State.freeSlot (s : State) (ns : Nat) : Option Nat × State :=
  let x := s.ns ns
  s.unused (s.nsCapacity x) ((s.pfx.index.filter fun e => e.2.ns == ns).map fun e => e.2.offset / max 1 x.slotSize)

/-- A free way of a key's bucket, as an entry index (R352). -/
def State.freeWay (s : State) (k : BitVec 128) : Option Nat × State :=
  let b := k.toNat % 2 ^ 23
  s.pick (((List.range 8).filter fun w => (tget s.pfx.index (8 * b + w)).isNone).map fun w => 8 * b + w)

/-! ## Holds (R371) -/

def holdHandle (i gen : Nat) : Nat := i + 2 ^ 20 * (gen % 4096)

/-- The hold a handle names. -/
def State.holdOf (s : State) (ns h : Nat) : Option Nat :=
  let i := h % 2 ^ 20
  match tget s.pfx.holds i with
  | some x => if x.live && x.ns == ns && x.gen % 4096 == h / 2 ^ 20 then some i else none
  | none => none

/-- A hold record that is free. -/
def State.freeHold (s : State) : Option Nat × State :=
  s.unused 1048576 ((s.pfx.holds.filter fun x => x.2.live).map (·.1))

/-- A hold created on an entry: its handle, or none when no record is free (R362). -/
def State.makeHold (s : State) (ns e : Nat) : Nat × State :=
  match s.freeHold with
  | (none, s) => (Config.noHandle, s)
  | (some i, s) =>
    let lease := (s.ns ns).leaseS
    let g := (tgetD s.pfx.holds i {}).gen
    let h : Hold := { gen := g, live := true, entry := e, ns := ns, leaseS := lease, expiry := s.now + lease * 1000000000 }
    (holdHandle i g, (s.modPfx fun x => { x with holds := tset x.holds i h }).addRef e)

/-- A hold ends: its entry has one reference less (R371). -/
def State.endHold (s : State) (i : Nat) : State :=
  match tget s.pfx.holds i with
  | some x =>
    if x.live then (s.modPfx fun p => { p with holds := tset p.holds i { x with live := false, gen := x.gen + 1 } }).dropRef x.entry else s
  | none => s

/-- Every hold of a namespace ends. -/
def State.endHolds (s : State) (ns : Nat) : State :=
  ((s.pfx.holds.filter fun h => h.2.live && h.2.ns == ns).map (·.1)).foldl (fun s i => s.endHold i) s

/-- Every entry of a namespace is freed. -/
def State.freeEntries (s : State) (ns : Nat) : State := s.modPfx fun x => { x with index := x.index.filter fun e => e.2.ns != ns }

/-- A namespace's checks for a prefix job (R358): it is served, or the job stops. -/
def State.nsFor (s : State) (plat h : Nat) : Nat × Option JobStatus :=
  match s.namedNs h with
  | none => (0, some .badDescriptor)
  | some i =>
    if (s.ns i).ctx != (s.plat plat).context then (i, some .rightsFault)
    else if (s.ns i).st == .destroying then (i, some .badDescriptor)
    else (i, none)

end Sys2Proof.Machine
end

