-- ==== Sys2Proof/Machine/Tiles.lean ====
section
/-! DEFINITION. What a pump does with memory: how a job stops, the reads of a tile, the write queue, and host lines over
CXL.cache and CXL.io (05 R136 to R140, R143; 07 R186 to R188; 08 R227 to R236; 13 R396 to R399; 14 R432; 17 R513 to R516). -/
namespace Sys2Proof.Machine

/-! ## Descriptors (11 R324, R325) -/

def Job.par (j : Job) (off n : Nat) : Nat := num j.desc off n

/-- Operand `k`; 7 is the seal's. -/
def Job.op (j : Job) (k : Nat) : Nat := if k == 7 then j.par 0x10 8 else j.par (0x20 + 8 * k) 8

def Job.sealEn (j : Job) : Bool := nbit (j.par 1 1) 0
def Job.irq (j : Job) : Bool := nbit (j.par 1 1) 1
def Job.scope (j : Job) : Nat := j.par 2 1 % 4
def Job.dieHint (j : Job) : Nat := j.par 2 1 / 4 % 8

/-- A job's descriptor names a station in an operand or in its seal address. -/
def Job.names (j : Job) (n : Nat) : Bool :=
  (List.range 8).any fun k => opSpace (j.op k) == 1 && opStation (j.op k) == n

/-! ## The ring region (R308, R309) -/

/-- The data and mask of a piece of a line. -/
def pieceLine (a : Nat) (bytes : List Byte) : Line := bytesLine (zeros (a % 64) ++ bytes)

/-- Indices count modulo 2^24 (R308). -/
def idxMod (n : Nat) : Nat := n % 2 ^ 24
def idxSub (a b : Nat) : Nat := (a + 2 ^ 24 - b) % 2 ^ 24

def Platform.slots (x : Platform) : Nat := 2 ^ x.slotsLog2


def Platform.descOff (x : Platform) (i : Nat) : Nat := x.ringOff + 64 + 128 * (i % x.slots)
def Platform.cplOff (x : Platform) (i : Nat) : Nat := x.ringOff + 64 + 128 * x.slots + 32 * (i % x.slots)

/-- Bytes of a ring region. -/
def ringBytes (slotsLog2 : Nat) : Nat := 64 + 160 * 2 ^ slotsLog2

/-- The ring well's index while it is there. -/
def State.ringIdx (s : State) (x : Platform) : Option Nat := if x.ringLost then none else s.named x.ringWell

/-- Bytes inside one line of the ring well written by the block. -/
def State.ringWrite (s : State) (p off : Nat) (bs : List Byte) (org : Origin) : State :=
  match s.ringIdx (s.plat p) with
  | none => s
  | some i =>
    s.submit { org := org, kind := .swaWr, well := i, gen := (s.well i).gen, off := lineOf off, data := pieceLine off bs,
               mask := spanMask (off % 64) bs.length }

/-- The ring header is written after each change (R309). -/
def State.writeHeader (s : State) (p : Nat) : State := s.ringWrite p (s.plat p).ringOff (s.plat p).header .own

/-- A platform changed, with its header. -/
def State.setPlat (s : State) (p : Nat) (f : Platform → Platform) : State := (s.modPlat p f).writeHeader p

/-! ## How a job stops (R339, R340) -/

/-- What the record says of a failure on a pump; 16 is the prefix unit. -/
def State.pumpFail (s : State) (p opnd step addrKind addr : Nat) : Fail :=
  if p < 16 then { unit := p, opnd := opnd, step := step, addrKind := addrKind, addr := addr, temp := s.tempOf 3 p, rail := s.railOf 3 p, time := s.now }
  else { unit := 0xC0, opnd := opnd, step := step, addrKind := addrKind, addr := addr, temp := s.tempOf 0 0, rail := s.railOf 0 0, time := s.now }

/-- A failure at a station. -/
def State.stnFail (s : State) (n opnd step addrKind addr : Nat) : Fail :=
  { unit := 0x40 + n, opnd := opnd, step := step, addrKind := addrKind, addr := addr, temp := s.tempOf 4 n, rail := s.railOf 4 n, time := s.now }

/-- The first failure or replay keeps UNIT, STEP, TEMP, RAIL_MV and TIME; the operand and the address are those of what
stopped the job (R337). -/
def Fail.after (f : Fail) (old : Option Fail) : Fail :=
  match old with
  | none => f
  | some g => { g with opnd := f.opnd, addrKind := f.addrKind, addr := f.addr }

/-- The record of a job ended with a station names the station; the time of an earlier replay stays (R337, R622). -/
def Fail.lost (f : Fail) (old : Option Fail) : Fail :=
  match old with
  | none => f
  | some g => { f with time := g.time }

/-- The reads a job has outstanding are forgotten: their answers serve no tile. -/
def State.dropReads (s : State) (id : Nat) : State :=
  let mine := fun (r : Req) => match r.org with | .tile j .. => j == id | .desc j _ => j == id | _ => false
  let s := s.modHome fun h =>
    { h with waitq := h.waitq.filter (fun x => !mine x.2), retry := h.retry.filter (fun r => !mine r), held := h.held.filter fun r => !mine r }
  let s := s.modJobs fun x =>
    { x with devOut := x.devOut.map fun o => match o.kind with
        | .read _ => if o.job == some id then { o with job := none } else o
        | _ => o }
  let s := s.modTwin fun t => { t with fwdOut := t.fwdOut.filter fun f => match f.tile, f.req with
    | some (j, _, _), _ => j != id
    | none, some r => !mine r
    | none, none => true }
  (List.range 48).foldl (fun s n =>
    if (s.stnAt n).atsReqs.any (·.job == id) || (s.stnAt n).atsFailed.any (·.1 == id) then
      s.modStn n fun t => { t with atsReqs := t.atsReqs.filter (·.job != id), atsFailed := t.atsFailed.filter (·.1 != id) }
    else s) s

/-- Atomic operations of a job that its homes have not begun are withdrawn. -/
def State.dropAtoms (s : State) (id : Nat) : State :=
  let mine := fun (r : Req) => match r.org with | .atom j _ => j == id | _ => false
  let gone := (s.home.waitq.map (·.2) ++ s.home.retry ++ s.home.held).filter mine
  let nos := gone.filterMap fun r => match r.org with | .atom _ i => some i | _ => none
  let s := s.modHome fun h =>
    { h with waitq := h.waitq.filter (fun x => !mine x.2), retry := h.retry.filter (fun r => !mine r), held := h.held.filter fun r => !mine r }
  s.modJob id fun j =>
    { j with poolOut := j.poolOut - gone.length,
             wTiles := j.wTiles.filter fun t => match t.atom with | some i => !nos.contains i | none => true }

/-- A job leaves every pump and queue it is on. -/
def State.leavePumps (s : State) (id : Nat) : State :=
  (List.range 16).foldl (fun s p =>
    let x := s.pumpAt p
    if x.job == some id then s.modPump p fun x => { x with job := none, waking := false, since := s.now, queue := x.queue.filter (· != id) }
    else if x.queue.contains id then s.modPump p fun x => { x with queue := x.queue.filter (· != id) } else s) s

/-- The token a third execution on another pump holds goes (R314). -/
def State.endThird (s : State) (id : Nat) : State :=
  match s.job id with
  | some j => match j.replay with
    | .third _ q => if q != j.lastPump then s.setPlat j.plat fun x => { x with held := x.held - 1 } else s
    | _ => s
  | none => s

/-- A PREFIX_INSERT that stops frees the entry it was making (12 R367). -/
def State.abandonPending (s : State) (id : Nat) : State :=
  match (s.job id).bind (·.ins) with
  | some x => match x.pend with
    | some e => (s.freeEntry e).modJob id fun j => { j with ins := some { x with pend := none, refd := x.refd.filter (· != e), outs := x.outs ++ [(4, Config.noHandle)] } }
    | none => s
  | none => s

/-- A job's work ends: it leaves its pump, with the status of the first event (R340). What earlier steps have left for the write queue is
written whatever the status (R339; 09 R273; 13 R398). -/
def State.stopJob (s : State) (id : Nat) (st : JobStatus) (f : Option Fail) (lost : Bool := false) : State :=
  match s.job id with
  | none => s
  | some j =>
    if j.status.isSome then s
    else
      -- a descriptor that is still being read is awaited for the record
      let s := if j.stage == .peek then s else (s.endThird id).dropReads id
      let s := (s.dropAtoms id).leavePumps id
      let s := s.abandonPending id
      s.modJob id fun j =>
        { j with status := some st, stage := .stopped, tiles := [], replay := .none,
                 fail := match f with | some f => some (if lost then f.lost j.fail else f.after j.fail) | none => j.fail }

/-- The DPA of an access of a job that translates to an unbacked address: a byte of SPACE 0x2 that no scratchpad holds, or a TWIN entry
while this module is unpaired (02 R22, R23; 13 R399); zero where no fill has told the well's place. -/
def State.unbackedDpa (s : State) (j : Job) (k a : Nat) : Option Nat :=
  if opSpace (j.op k) == 2 then if s.backed a then none else some a
  else if opSpace (j.op k) != 0 || s.isPaired || s.gapNow then none
  else match s.rangeAt (s.jobCtx j) a with
    | some (i, r) => if !r.twin then none
      else some (match s.rcOf j.lastPump (s.jobCtx j) i with | some e => Config.twinBase + e.start + r.offset + (a - r.vbase) | none => 0)
    | none => none

/-- An access of a job that ends in a translation fault is logged where its address is unbacked (02 R22). -/
def State.noteUnbacked (s : State) (p : Nat) (j : Job) (k a : Nat) (st : JobStatus) : State :=
  match s.unbackedDpa j k a with
  | some d => if st == .xlateFault then s.unbackedBy (if p < 16 then 3 else 0) (if p < 16 then p else 0) d else s
  | none => s

/-- An access of a job that may not move stops it (13 R397). -/
def State.xlateStop (s : State) (id p k step : Nat) (st : JobStatus) (a : Nat) : State :=
  let s := match s.job id with | some j => s.noteUnbacked p j k a st | none => s
  s.stopJob id st (some (s.pumpFail p k step 1 a))

/-- A job has done all its work (R339, R340). -/
def State.finishJob (s : State) (id : Nat) : State :=
  match s.job id with
  | none => s
  | some j =>
    let st : JobStatus := if j.sat != 0 || j.nf != 0 then .saturated else if j.replays != 0 then .doneReplayed else .done
    s.stopJob id st none

/-! ## Host lines in the device cache (05 R136 to R140) -/

/-- The bytes that an access at a station writes. -/
def DevKind.mask : DevKind → Option (BitVec 64)
  | .write m _ | .rdOwn m | .merge m | .ioWrite m => some m
  | _ => none

/-- A CXL.io Memory Write: a later zero-length read through its station acknowledges it (14 R432). -/
def DevKind.posted : DevKind → Bool
  | .ioWrite _ => true
  | _ => false

/-- A station has 256 CXL.io reads outstanding, and gets no more (14 R432). -/
def State.ioFull (s : State) (n : Nat) : Bool :=
  !(s.stnAt n).cacheEn &&
    Config.ioReads ≤ (s.jobs.devOut.filter fun o => o.stn == n && (match o.kind with | .read _ | .flush => true | _ => false)).length

/-- Stations whose latest CXL.io write no flushing read has followed yet get one, once there is room for it (14 R432). -/
def State.ioFlush (s : State) : State :=
  let due := fun (n : Nat) =>
    let last := ((s.jobs.devOut.filter fun o => o.stn == n && o.kind.posted).map (·.id)).foldl (fun a x => max a (x + 1)) 0
    last != 0 && !s.ioFull n && !(s.jobs.devOut.any fun o => o.stn == n && o.kind == .flush && last ≤ o.id)
  (((s.jobs.devOut.filter (·.kind.posted)).map (·.stn)).eraseDups.filter due).foldl (fun s n =>
    match (s.jobs.devOut.filter fun o => o.stn == n && o.kind.posted).getLast? with
    | some o => s.device n .flushRead .flush o.hpa 0 false none o.opnd o.addr
    | none => s) s

/-- An access that moves its line into the device cache or out of it. -/
def DevKind.moves : DevKind → Bool
  | .rdOwn _ | .evict | .read true | .write _ true => true
  | _ => false

/-- The line is in transfer (R138 to R140). -/
def State.inMotion (s : State) (n hpa : Nat) : Bool := s.jobs.devOut.any fun o => o.stn == n && o.hpa == hpa && o.kind.moves

/-- A way for a host line that is about to come, where its slice allocates (R136, R139). -/
def State.hostWay (s : State) (n hpa : Nat) : Option (Nat × Nat × Nat) × State :=
  let d := hostSlice n hpa
  let set := hostSet n hpa
  if !s.allocates d then (none, s)
  else match s.takeWay d set with
    | (some w, s) => (some (d, set, w), s)
    | (none, s) => (none, s)

/-- A request to a station whose answer goes into a way, where one was to be had. -/
def State.deviceInto (s : State) (way : Option (Nat × Nat × Nat)) (n : Nat) (what : D2H) (kind : DevKind) (hpa : Nat) (d : Line) (pois : Bool)
    (job : Option Nat) (opnd addr : Nat) (mask : BitVec 64 := fullMask) : State :=
  let id := s.jobs.nextDev
  let s := s.device n what kind hpa d pois job opnd addr mask
  match way with
  | some (die, set, w) => s.inTransfer id die set w
  | none => s

/-- The way that an access was moving a line through is free of it. -/
def State.wayDone (s : State) (id : Nat) : State :=
  { s with cache := { s.cache with moving := s.cache.moving.filter (·.1 != id) } }

/-- A line placed in the way its access has kept for it; none where there was none, or its slice has stopped allocating. -/
def State.putMoving (s : State) (id : Nat) (c : CLine) : Option State :=
  match s.cache.moving.find? (·.1 == id) with
  | none => none
  | some (_, d, set, w) =>
    if !s.allocates d then none
    else
      let s := (s.wayDone id).dropLine c.key
      some ((s.setLines ({ c with die := d, set := set, way := w } :: s.cache.lines)).touchLine c.key)

/-- A job has left a host line in M (07 R198). -/
def State.keepM (s : State) (job : Option Nat) (n hpa : Nat) : State :=
  match job with
  | some id => s.modJob id fun j => { j with mLines := if j.mLines.contains (n, hpa) then j.mLines else j.mLines ++ [(n, hpa)] }
  | none => s

/-- A write to a host line that is not in transfer: into a line owned here, as a request for ownership, or past the cache (R136,
R137, R139, R143). -/
def State.hostWriteNow (s : State) (job : Option Nat) (n hpa : Nat) (d : Line) (mask : BitVec 64) (pois : Bool) (opnd addr : Nat) : State :=
  let die := hostSlice n hpa
  let p := ((job.bind s.job).map (·.lastPump)).getD 0
  let whole := decide (mask = fullMask)
  let (streaming, s) := if whole then s.stream die (.pump p) true (hpa / 64) else (false, s)
  let own := fun (s : State) (way : Option (Nat × Nat × Nat)) =>
    s.deviceInto way n (if whole then .itoMWr else .rdOwn) (.rdOwn mask) hpa d pois job opnd addr mask
  let past := fun (s : State) => s.device n .wrInv (.write fullMask false) hpa d pois job opnd addr mask
  match s.cached (.host n hpa) with
  | some c =>
    if c.hst == .s then own s (some (c.die, c.set, c.way))
    else
      let (m, q) := mergePois c.data d mask c.pois pois
      ((s.modLine (.host n hpa) fun c => { c with data := m, pois := q, hst := .m }).touchLine (.host n hpa)).keepM job n hpa
  | none =>
    if whole && streaming then past s
    else match s.hostWay n hpa with
      | (none, s) => if whole then past s else own s none
      | (way, s) => own s way

/-- A write to a host line, as the device cache or CXL.io carries it (R136, R143; 14 R432); one to a line in transfer is merged
when the transfer ends. -/
def State.hostWrite (s : State) (job : Option Nat) (n hpa : Nat) (d : Line) (mask : BitVec 64) (pois : Bool) (opnd addr : Nat) : State :=
  if !(s.stnAt n).cacheEn then s.device n .ioWrite (.ioWrite mask) hpa d pois job opnd addr mask
  else if s.inMotion n hpa then
    let id := s.jobs.nextDev
    let o : DevOut := ⟨id, n, hpa, .merge mask, d, job, opnd, addr, 0, pois, s.pumpOfJob job⟩
    s.modJobs fun x => { x with devOut := x.devOut ++ [o], nextDev := id + 1 }
  else s.hostWriteNow job n hpa d mask pois opnd addr

/-- A line that its host has taken back is no longer in M for any job. -/
def State.forgetM (s : State) (n hpa : Nat) : State :=
  s.modJobs fun x => { x with jobs := x.jobs.map fun j => { j with mLines := j.mLines.filter (· != (n, hpa)) } }

/-- A host's snoop of a line answered as the device cache holds it (R140). -/
def State.snoopAnswer (s : State) (n a : Nat) (k : H2D) : State :=
  let out := fun (s : State) (r : D2H) (d : Line) (p : Bool) => s.emit (.d2h n 0 r a d 0 p)
  match s.cached (.host n a) with
  | none => out s .rspMiss 0 false
  | some c =>
    match k, c.hst with
    | .cur, .m => out s .rspFwdM c.data c.pois
    | .cur, _ => out s .rspSHit 0 false
    | .data, .m => out ((s.modLine (.host n a) fun c => { c with hst := .s }).forgetM n a) .rspFwdM c.data c.pois
    | .data, _ => out (s.modLine (.host n a) fun c => { c with hst := .s }) .rspSHit 0 false
    | .inv, .m => out ((s.dropLine (.host n a)).forgetM n a) .rspFwdM c.data c.pois
    | .inv, _ => out (s.dropLine (.host n a)) .rspIHit 0 false

/-- A host line's transfer has ended: the writes that waited for it are merged where the line is owned now, the host's snoops of
it are answered, and writes that still find no owned line ask for it anew (R136, R140). -/
def State.lineFree (s : State) (n hpa : Nat) : State :=
  let here := fun (o : DevOut) => o.stn == n && o.hpa == hpa && (match o.kind with | .merge _ => true | _ => false)
  let later := s.jobs.devOut.filter here
  let s := s.modJobs fun x => { x with devOut := x.devOut.filter fun o => !here o }
  let again := fun (s : State) => later.foldl (fun s o => s.hostWrite o.job n hpa o.data (o.kind.mask.getD 0) o.pois o.opnd o.addr) s
  let asked := s.cache.snoops.filter fun x => x.1 == n && x.2.1 == hpa
  let answer := fun (s : State) =>
    asked.foldl (fun s x => s.snoopAnswer n hpa x.2.2) { s with cache := { s.cache with snoops := s.cache.snoops.filter fun x => !(x.1 == n && x.2.1 == hpa) } }
  match s.cached (.host n hpa) with
  | some c => if c.hst == .s then again (answer s) else answer (again s)
  | none => again (answer s)

/-- A host's snoop of a line the device cache may hold: one to a line in transfer is answered when the transfer ends (R140). -/
def State.hostSnoop (s : State) (n hpa : Nat) (k : H2D) : State :=
  let a := lineOf hpa
  if !(s.stnAt n).up then s
  else if s.inMotion n a then { s with cache := { s.cache with snoops := s.cache.snoops ++ [(n, a, k)] } }
  else s.snoopAnswer n a k

/-! ## The write queue's lines (08 R233, R235, R236) -/

/-- Requests that no home has ordered (07 R186): those that wait to be presented or are on their way to the primary's home and, on a
standby, those that wait here for their line (16 R495). -/
def State.unordered (s : State) : List Req :=
  let away := fun (r : Req) => !(s.well r.well).isHome
  let fwd := s.twin.fwdOut.filterMap (·.req)
  let here := s.home.waitq.map (·.2) ++ s.home.txns.filterMap fun t => match t.purpose with | .serve r => some r | _ => none
  s.home.retry ++ s.home.held ++ fwd ++ here.filter fun r => away r && !fwd.contains r

/-- Requests of a job that no home has ordered. -/
def State.unaccepted (s : State) (id : Nat) : Bool :=
  s.unordered.any fun r => match r.org with
    | .jobWrite k .. => k == id
    | .atom k _ => k == id
    | _ => false

/-- Requests of a pump's write queue that no home has ordered. -/
def State.unacceptedOf (s : State) (p : Nat) : List Req :=
  s.unordered.filter fun r => match r.org with | .jobWrite _ q _ => q == p | _ => false

/-- The writes to hosts and to the twin's wells that a pump has outstanding. -/
def State.hostWrites (s : State) (p : Nat) : List DevOut := s.jobs.devOut.filter fun o => o.pump == p && o.kind.mask.isSome
def State.twinWrites (s : State) (p : Nat) : List FwdOut := s.twin.fwdOut.filter fun f => f.pump == p && f.wr.isSome

/-- The lines in a pump's write queue (R214, R235). -/
def State.queueLines (s : State) (p : Nat) : List Target :=
  (s.unacceptedOf p).map (fun r => .pool r.well (lineOf r.off)) ++ (s.hostWrites p).map (fun o => .host o.stn o.hpa) ++
    (s.twinWrites p).map fun f => .twin f.dpa

/-- The line that follows. -/
def Target.next : Target → Target
  | .pool w x => .pool w (x + 64)
  | .twin d => .twin (d + 64)
  | .scratch d => .scratch (d + 64)
  | .host n a => .host n (a + 64)

/-- Ranges that the range tracker holds for a pump: its tiles in flight, and the runs of lines in its write queue (R235). -/
def State.trackerUse (s : State) (p : Nat) (tiles : Nat) : Nat :=
  let l := s.queueLines p
  tiles + (l.filter fun t => !(l.any fun u => u.next == t)).length

/-- A write of the sequencer of a job to host memory or to the twin: its own, or one that a PUMP release has covered (R236). -/
def State.sameSequencer (s : State) (j : Job) (job : Option Nat) : Bool :=
  match job with
  | some k => k == j.id || (s.pumpAt j.lastPump).covered.contains k
  | none => false

/-- What a read of wanted bytes finds among the sequencer's outstanding writes to its line, the latest that meets them first:
their data where it covers all of them, or a wait (R235). -/
inductive Fwded where
  | data (d : Line) (p : Bool)
  | wait
  | no

def forwardFrom (want : BitVec 64) (ws : List (Line × BitVec 64 × Bool)) : Fwded :=
  match ws.reverse.find? fun w => w.2.1 &&& want != 0 with
  | some (d, m, p) => if m &&& want = want then .data d p else .wait
  | none => .no

/-! ## The reads of a tile -/

/-- The line of memory that an access goes to. -/
def Target.line : Target → Target
  | .pool w x => .pool w (lineOf x)
  | .twin d => .twin (lineOf d)
  | .scratch d => .scratch (lineOf d)
  | .host n a => .host n (lineOf a)

/-- The operand of an ADDRESS with its space and station. -/
def lineAddr (a : Nat) : Nat := a / 64 * 64

/-- A write that waits for a transfer of its line. -/
def DevKind.isMerge : DevKind → Bool
  | .merge _ => true
  | _ => false

/-- A read of a host line: from the sequencer's writes on their way out, those that wait for a transfer last, and the job's `later`
ones; from the cache; or asked of the host (R136; 08 R235). `mark` notes that its answer is awaited. -/
def State.hostRead (s : State) (j : Job) (tile i n hpa opnd : Nat) (r : LineRd) (later : List (Line × BitVec 64 × Bool)) (mark : State → State) : State :=
  let out := s.jobs.devOut.filter fun o => o.stn == n && o.hpa == hpa
  let mine := out.filter fun o => s.sameSequencer j o.job
  let inOrder := mine.filter (fun o => !o.kind.isMerge) ++ mine.filter fun o => o.kind.isMerge
  match forwardFrom (spanMask (r.addr % 64) r.len) ((inOrder.filterMap fun o => o.kind.mask.map fun m => (o.data, m, o.pois)) ++ later) with
  | .data d p => s.fillTile j.id tile i d p
  | .wait => s
  | .no =>
    match s.cached (.host n hpa) with
    | some c => (s.touchLine (.host n hpa)).fillTile j.id tile i c.data c.pois
    | none =>
      if out.any fun o => o.job == some j.id && (match o.kind with | .read _ => true | _ => false) then mark s
      else if out.any (·.kind.moves) then s
      else if !(s.stnAt n).cacheEn then
        if s.ioFull n then s else (mark s).device n .ioRead (.read false) hpa 0 false (some j.id) opnd r.addr
      else match s.hostWay n hpa with
        | (none, s) => (mark s).device n .rdCurr (.read false) hpa 0 false (some j.id) opnd r.addr
        | (way, s) => (mark s).deviceInto way n .rdShared (.read true) hpa 0 false (some j.id) opnd r.addr

/-- A message to the twin leaves, or waits for the end of a switchover gap (02 R23). -/
def State.sendFwd (s : State) (f : FwdOut) : State :=
  if f.unsent then s
  else match f.wr with
    | some (d, m, p) => s.emit (.xo (.write f.id f.dpa d m p))
    | none => s.emit (.xo (.read f.id f.dpa))

/-- A locale-0x1 access is on its way; in a switchover gap, or unpaired, it does not leave (02 R23). -/
def State.fwdTwin (s : State) (f : FwdOut) : State :=
  let id := s.twin.nextId
  let f := { f with id := id, unsent := s.gapNow || !s.isPaired, pump := s.pumpOfJob f.job }
  (s.modTwin fun t => { t with nextId := id + 1, fwdOut := t.fwdOut ++ [f] }).sendFwd f

/-- A host line of a job's access as the station translates it when it is issued: an entry that an Invalidate Request has taken
since is asked for again (13 R405). -/
def State.hostNow (s : State) (j : Job) (opnd a : Nat) (acc : Acc) (t : Target) : Option Target × State :=
  match t with
  | .host n _ =>
    if !(s.stnAt n).ats then (some t, s)
    else
      let step := if acc == .w then 6 else 5
      match s.xlate j j.lastPump (j.op opnd) a acc with
      | .ok u _ => (some u, s)
      | .ats n page =>
        (none, s.atsAsk n { page := page, job := j.id, opnd := opnd, addr := a, step := step, deadline := s.now + (s.stnAt n).ctoUs * 1000 })
      | .fault st =>
        (none, if j.status.isSome then s.modJob j.id fun j => { j with wq := j.wq.drop 1 }
          else s.stopJob j.id st (some (s.pumpFail j.lastPump opnd step 1 a)))
      | .stall => (none, s)
  | _ => (some t, s)

/-- Line read `i` of a tile is issued to where it goes, once it need not wait for a write of its own sequencer (08 R235). -/
def State.issueRead (s : State) (j : Job) (t : Tile) (i : Nat) (r : LineRd) : State :=
  let want := spanMask (r.addr % 64) r.len
  match s.hostNow j t.opnd r.addr .r r.tgt with
  | (none, s) => s
  | (some tgt, s) =>
  let sent := fun (s : State) => s.modJob j.id fun j =>
    { j with tiles := j.tiles.map fun u => if u.id == t.id then { u with reads := u.reads.modify i fun r => { r with sent := true, tgt := tgt } } else u }
  -- lines of the job that have still to enter the write queue are its latest writes (07 R188)
  let later := (j.wq.filter fun q => q.tgt.line == tgt.line).map fun q => (pieceLine q.addr q.bytes, spanMask (q.addr % 64) q.bytes.length, q.pois)
  match tgt with
  | .pool w x =>
    let ws := ((s.unacceptedOf j.lastPump).filter fun q => q.well == w && lineOf q.off == lineOf x).mergeSort fun a b => a.seq ≤ b.seq
    match forwardFrom want (ws.map (fun q => (q.data, q.mask, q.pois)) ++ later) with
    | .data d p => s.fillTile j.id t.id i d p
    | .wait => s
    | .no => (sent s).submit { org := .tile j.id t.id i, kind := .swaRd, well := w, gen := (s.well w).gen, off := lineOf x }
  | .scratch d =>
    match forwardFrom want later with
    | .data d p => s.fillTile j.id t.id i d p
    | .wait => s
    | .no => s.fillTile j.id t.id i (s.dram (lineOf d)) (s.poison.contains (lineOf d))
  | .twin d =>
    match forwardFrom want ((s.twin.fwdOut.filter fun f => f.dpa == lineOf d && s.sameSequencer j f.job).filterMap (·.wr) ++ later) with
    | .data d p => s.fillTile j.id t.id i d p
    | .wait => s
    | .no => (sent s).fwdTwin { id := 0, tile := some (j.id, t.id, i), dpa := lineOf d }
  | .host n a => s.hostRead j t.id i n (lineOf a) t.opnd r later sent

/-- Reads of a job's tiles that have not been issued are. -/
def State.issueReads (s : State) (id : Nat) : State :=
  match s.job id with
  | none => s
  | some j => j.tiles.foldl (fun s t => t.reads.zipIdx.foldl (fun s (r, i) =>
      if r.sent || r.got.isSome then s
      else match s.job id with
        | some j => s.issueRead j t i r
        | none => s) s) s

/-- The answer to a read of a host line: it is cached where it has a way, and goes to the tiles of its job that wait for it. -/
def State.hostAnswer (s : State) (o : DevOut) (d : Line) (p : Bool) : State :=
  let s := s.modJobs fun x => { x with devOut := x.devOut.filter (·.id != o.id) }
  -- poisoned data of a CXL.io completion is a Poisoned TLP Received (14 R415, R432)
  let s := if p && !(s.stnAt o.stn).cacheEn then s.aerUc o.stn .poisonedTlp else s
  let s := match o.job.bind s.job with
    | none => s
    | some j => j.tiles.foldl (fun s t => t.reads.zipIdx.foldl (fun s (x, i) => match x.tgt, x.got with
        | .host n a, none => if x.sent && n == o.stn && lineOf a == o.hpa then s.fillTile j.id t.id i d p else s
        | _, _ => s) s) s
  match o.kind with
  | .read true =>
    let s := match s.putMoving o.id { key := .host o.stn o.hpa, die := 0, set := 0, way := 0, data := d, pois := p, hst := .s } with
      | some s => s
      | none => (s.wayDone o.id).emit (.d2h o.stn 0 .cleanEvict o.hpa 0 0 false)
    s.lineFree o.stn o.hpa
  | _ => s

/-- The data hosts return for a job's reads, in the order in which these were issued. -/
def State.giveHost (s : State) (id : Nat) (host : List (Line × Bool)) : State :=
  let asked := s.jobs.devOut.filter fun o => o.job == some id && (match o.kind with | .read _ => true | _ => false)
  (asked.zip host).foldl (fun s (o, d, p) => s.hostAnswer o d p) s

/-- The data or GO of a device write, an eviction, a flush or a read has come (05 R136 to R140; 07 R186). -/
def State.deviceGo (s : State) (n id : Nat) (data : Line) : State :=
  match s.jobs.devOut.find? fun o => o.id == id && o.stn == n with
  | none => s
  | some o =>
    let gone := s.modJobs fun x => { x with devOut := x.devOut.filter (·.id != id) }
    match o.kind with
    | .read _ => s.hostAnswer o data false
    | .rdOwn mask =>
      let d := mergeLine data o.data mask
      match gone.putMoving id { key := .host n o.hpa, die := 0, set := 0, way := 0, data := d, pois := o.pois, hst := .m } with
      | some s => (s.keepM o.job n o.hpa).lineFree n o.hpa
      | none => ((gone.wayDone id).dropLine (.host n o.hpa)).device n .dirtyEvict (.write fullMask true) o.hpa d o.pois o.job o.opnd o.addr
    | .evict | .write _ true => (gone.wayDone id).lineFree n o.hpa
    | .merge _ | .ioWrite _ => s
    | .flush => gone.modJobs fun x => { x with devOut := x.devOut.filter fun w => !(w.stn == n && w.id < id && w.kind.posted) }
    | _ => gone

/-- The bytes of a tile whose reads have all come, with the spans of its poisoned lines. -/
def Tile.buf (t : Tile) : Option Buf :=
  if t.reads.all (·.got.isSome) then
    some (t.reads.foldl (fun b r => match r.got with
      | some (d, p) =>
        { b with bytes := b.bytes ++ Machine.slice (lineBytes d) (r.addr % 64) r.len,
                 bad := if p then b.bad ++ [(b.bytes.length, r.len)] else b.bad }
      | none => b) {})
  else none

def Tile.len (t : Tile) : Nat := sumOf (·.len) t.reads

/-- What a phase of an operator loads: bytes of an operand. A `stream` load takes one tile of at most `len` bytes, and an `ahead`
load is worked on tile by tile while the next ones come; no tile of it crosses a multiple of `unit` bytes of its operand, where
`unit` is not 0. Poison in a `carry` load goes on with its bytes. -/
structure Load where
  opnd : Nat
  off : Nat
  len : Nat
  stream : Bool := false
  ahead : Bool := false
  unit : Nat := 0
  carry : Bool := false
  deriving DecidableEq, Repr

def Buf.append (a b : Buf) : Buf :=
  { bytes := a.bytes ++ b.bytes, bad := a.bad ++ b.bad.map (fun (o, n) => (a.bytes.length + o, n)),
    tiles := a.tiles ++ b.tiles.map fun p => { p with pos := a.bytes.length + p.pos } }

/-- Where a buffer is cut behind its first tile. -/
def Buf.firstLen (b : Buf) : Nat := match b.tiles with | t :: _ => t.len | [] => b.bytes.length

def Buf.upTo (b : Buf) (n : Nat) : Buf := { bytes := b.bytes.take n, bad := b.bad.filter (·.1 < n), tiles := b.tiles.filter (·.pos < n) }

def Buf.past (b : Buf) (n : Nat) : Buf :=
  { bytes := b.bytes.drop n, bad := (b.bad.filter (n ≤ ·.1)).map (fun (o, k) => (o - n, k)),
    tiles := (b.tiles.filter (n ≤ ·.pos)).map fun t => { t with pos := t.pos - n } }

/-- The first poisoned line of a tile, by operand address. -/
def Tile.firstBad (t : Tile) : Option Nat :=
  (t.reads.find? fun r => match r.got with | some (_, p) => p | none => false).map fun r => lineAddr r.addr

/-- Every request on its way to a home or at one. -/
def State.mapReqs (s : State) (f : Req → Req) : State :=
  let s := s.modHome fun h =>
    { h with held := h.held.map f, retry := h.retry.map f, waitq := h.waitq.map fun x => (x.1, f x.2)
             txns := h.txns.map fun t => match t.purpose with | .serve r => { t with purpose := .serve (f r) } | _ => t }
  s.modTwin fun t => { t with fwdOut := t.fwdOut.map fun x => { x with req := x.req.map f }, mirOut := t.mirOut.map fun m => { m with req := f m.req } }

/-! ## Writes -/

/-- A write an operator makes: into an operand, or straight into a well (12 R366). `bad` are the poisoned spans of its
bytes. -/
structure Wr where
  opnd : Nat
  off : Nat
  bytes : List Byte
  bad : List (Nat × Nat) := []
  direct : Option (Nat × Nat) := none
  deriving DecidableEq, Repr

/-- A write of at most 256 KiB cut from a longer one. -/
def cutWr : Nat → Wr → List Wr
  | 0, w => [w]
  | k + 1, w =>
    if w.bytes.length ≤ 262144 then [w]
    else
      { w with bytes := w.bytes.take 262144 } ::
        cutWr k { w with off := w.off + 262144, bytes := w.bytes.drop 262144,
                         bad := (w.bad.filter fun (o, n) => 262144 < o + n).map fun (o, n) => (o - 262144, n - (262144 - o)),
                         direct := w.direct.map fun (i, x) => (i, x + 262144) }

/-- One line of a write of a job leaves for its destination (07 R186). -/
def State.issueLine (s : State) (id : Nat) (q : QLine) (org : Origin) : State :=
  let d := pieceLine q.addr q.bytes
  let mask := spanMask (q.addr % 64) q.bytes.length
  match q.tgt with
  | .pool w x => s.submit { org := org, kind := .swaWr, well := w, gen := (s.well w).gen, off := lineOf x, data := d, mask := mask, pois := q.pois }
  | .scratch x =>
    let k := lineOf x
    let s := if mask = fullMask then s.writeDram k d q.pois else s.setMem k (lineBytes (mergeLine (s.dram k) d mask))
    if q.pois then s.poisonLine k 4 else s
  | .twin x =>
    let id_ := s.twin.nextId
    let s := s.fwdTwin { id := 0, job := some id, dpa := lineOf x, wr := some (d, mask, q.pois), wtile := q.tile, opnd := q.opnd, addr := q.addr }
    s.modJob id fun j => { j with twinOut := j.twinOut ++ [id_], twinLast := some (lineOf x) }
  | .host n x =>
    let s := s.modJob id fun j => { j with hostWrote := tset j.hostWrote n (lineOf x) }
    s.hostWrite (some id) n (lineOf x) d mask q.pois q.opnd q.addr

/-- A line of the job leaves the sequencer for the write queue of its pump (08 R233). -/
def State.queueLine (s : State) (id p : Nat) (q : QLine) : State :=
  let s := match q.tgt with | .pool _ _ => s.modJob id fun j => { j with poolOut := j.poolOut + 1 } | _ => s
  s.issueLine id q (.jobWrite id p q.tile)

/-- The write queue of a pump has room for a line, and the range tracker an entry (R214, R235); the prefix unit has its own. A
write of bytes that a read of the job still waits for waits too. -/
def State.queueRoom (s : State) (j : Job) (p : Nat) (q : QLine) : Bool :=
  16 ≤ p || ((s.queueLines p).length < 512 && s.trackerUse p j.tiles.length < 64 &&
    !(j.tiles.any fun t => t.reads.any fun r => r.sent && r.got.isNone && r.tgt.line == q.tgt.line))

/-- Lines that wait enter the write queue in order, while it has room. -/
def State.pushLines : Nat → State → Nat → Nat → State
  | 0, s, _, _ => s
  | k + 1, s, id, p =>
    match s.job id with
    | none => s
    | some j => match j.wq with
      | [] => s
      | q :: rest =>
        if !s.queueRoom j p q then s
        else match s.hostNow j q.opnd q.addr .w q.tgt with
          | (none, s) => s
          | (some t, s) => State.pushLines k ((s.modJob id fun j => { j with wq := rest }).queueLine id p { q with tgt := t }) id p

def State.pushQueue (s : State) (id : Nat) : State :=
  match s.job id with
  | some j => State.pushLines j.wq.length s id j.lastPump
  | none => s

/-- A write tile taken by the sequencer: its lines wait for the write queue. -/
def State.addWTile (s : State) (id opnd a : Nat) (w : Wr) (ls : List (Nat × Nat × Target)) (entries : List Nat) : State :=
  s.modJob id fun j =>
    let line := fun (x : Nat × Nat × Target) =>
      let o := x.1 - a
      let pois := w.bad.any fun (y, k) => y < o + x.2.1 && o < y + k
      ({ tile := j.nextTile, opnd := opnd, addr := x.1, tgt := x.2.2, bytes := Machine.slice w.bytes o x.2.1, pois := pois } : QLine)
    { j with nextTile := j.nextTile + 1, wTiles := j.wTiles ++ [{ id := j.nextTile, opnd := opnd, addr := a, entries := entries }],
             wq := j.wq ++ ls.map line }

/-- A write tile: translated whole (13 R397). -/
def State.writeTile (s : State) (id p : Nat) (w : Wr) : State :=
  match s.job id with
  | none => s
  | some j =>
    match w.direct with
    | some (i, x) => s.addWTile id w.opnd x w ((cutLines x w.bytes.length).map fun (a, n) => (a, n, Target.pool i a)) []
    | none =>
      let o := j.op w.opnd
      let a := opAddr o + w.off
      match s.xlateTile j p o w.opnd a w.bytes.length .w 6 with
      | .fault st x => s.xlateStop j.id p w.opnd 6 st x
      | .wait s => s
      | .ok ls es => (s.xlateUsed j p es ls o).addWTile id w.opnd a w ls es

/-- The state in which a step waits for a translation of what it will write; none where nothing is waited for. -/
def State.writesWait (s : State) (j : Job) (p : Nat) (ws : List Wr) : Option State :=
  ws.findSome? fun w =>
    if w.direct.isSome then none
    else match s.xlateTile j p (j.op w.opnd) w.opnd (opAddr (j.op w.opnd) + w.off) w.bytes.length .w 6 with
      | .wait s => some s
      | _ => none

/-- The writes of a step in order, up to one that stops the job. -/
def State.writeAll (s : State) (id p : Nat) (ws : List Wr) : State :=
  ((ws.flatMap (cutWr 8)).foldl (fun s w => if ((s.job id).bind (·.status)).isSome then s else s.writeTile id p w) s).pushQueue id

/-- The writes a job still makes as it ends. -/
def State.writeEnding (s : State) (id p : Nat) (ws : List Wr) : State := ((ws.flatMap (cutWr 8)).foldl (fun s w => s.writeTile id p w) s).pushQueue id

/-- Lines of some write tiles of a job that no home has ordered yet, and that have not left for the twin, are withdrawn (13 R389). -/
def State.dropTileLines (s : State) (id : Nat) (tiles : List Nat) : State :=
  let mine := fun (r : Req) => match r.org with | .jobWrite k _ t => k == id && tiles.contains t | _ => false
  let gone := (s.home.waitq.map (·.2) ++ s.home.retry ++ s.home.held).filter mine
  let far := (s.twin.fwdOut.filter fun f => f.unsent && f.job == some id && f.wr.isSome && tiles.contains f.wtile).map (·.id)
  let s := s.modHome fun h =>
    { h with waitq := h.waitq.filter (fun x => !mine x.2), retry := h.retry.filter (fun r => !mine r), held := h.held.filter fun r => !mine r }
  (s.modTwin fun t => { t with fwdOut := t.fwdOut.filter fun f => !far.contains f.id }).modJob id fun j =>
    { j with poolOut := j.poolOut - gone.length, twinOut := j.twinOut.filter (fun i => !far.contains i),
             wq := j.wq.filter (fun q => !tiles.contains q.tile), wTiles := j.wTiles.filter fun t => !tiles.contains t.id }

/-- Lines of a write tile are outstanding: they wait for the queue, for their commit, or for the twin. -/
def State.wTileOut (s : State) (j : Job) (t : WTile) : Bool :=
  let mine := fun (r : Req) => match r.org with | .jobWrite k _ w => k == j.id && w == t.id | _ => false
  match t.atom with
  | some i => !(j.work.atoms.any fun a => a.1 == i)
  | none =>
    j.wq.any (·.tile == t.id) || s.home.waitq.any (fun x => mine x.2) || s.home.retry.any mine || s.home.held.any mine ||
      (s.home.txns.any fun x => match x.purpose with | .serve r => mine r | _ => false) || (s.twin.mirOut.any fun m => mine m.req) ||
      s.twin.fwdOut.any fun f => (match f.req with | some r => mine r | none => false) || (f.job == some j.id && f.wr.isSome && f.wtile == t.id)

/-- Write tiles that have all been committed or acknowledged are done, and so are writes that a PUMP release has covered. -/
def State.writesMoved (s : State) : State :=
  let s := s.jobs.jobs.foldl (fun s j => if j.wq.isEmpty then s else s.pushQueue j.id) s
  let s := s.modJobs fun x =>
    { x with jobs := x.jobs.map fun j => if j.wTiles.isEmpty then j else { j with wTiles := j.wTiles.filter (s.wTileOut j) } }
  (List.range 16).foldl (fun s p =>
    if (s.pumpAt p).covered.isEmpty then s
    else
      let out := fun (k : Nat) =>
        ((s.unacceptedOf p).any fun r => r.org.ofJob == some k) || s.jobs.devOut.any (fun o => o.job == some k && o.kind.mask.isSome) ||
          s.twin.fwdOut.any fun f => f.job == some k && f.wr.isSome
      s.modPump p fun x => { x with covered := x.covered.filter out }) s

end Sys2Proof.Machine
end

