-- ==== Sys2Proof/Machine/Operands.lean ====
section
/-! DEFINITION. The job descriptor's checks: what each opcode's row allows of its operands and parameters, and which
field a refused descriptor names (11 R324 to R327, R331, R618; 08 R221; 13 R401). -/
namespace Sys2Proof.Machine

/-- What an opcode's row asks of an operand: unused, required or optional, with the spaces it may have and its
alignment. -/
inductive OpUse where
  | no
  | req (spaces : List Nat) (align : Nat)
  | opt (spaces : List Nat) (align : Nat)
  deriving DecidableEq, Repr

/-- Any space. -/
def anySp : List Nat := [0, 1, 2]

/-- Head widths (09 R267). -/
def headW (w : Nat) : Nat := 64 * (w + 1)

/-- Finite FP32. -/
def finite32 (v : Nat) : Bool := field v 30 23 != 255

/-- The rows of the operator table (R327, 12 R359): the operands. DEDUCED: an NKV out of its range leaves no KV operand used or
unused. -/
def opUses (j : Job) : List OpUse :=
  let r := OpUse.req anySp 1
  match j.opcode with
  | 0x01 | 0x02 =>
    let nkv := j.par 0x5A 1
    [.req anySp 64, .req anySp 8, .req anySp 64] ++ (List.range 4).map fun i =>
      if nkv == 0 || 4 < nkv then .opt anySp 1 else if i < nkv then r else .no
  | 0x03 => [.req anySp 64, .req anySp 64]
  | 0x10 => [r, r, .req [0] 1]
  | 0x11 => [r, r, r]
  | 0x20 => [r, r]
  | 0x21 => [r]
  | 0x22 | 0x23 => [r, r, r]
  | 0x24 => [r, .req [0] (max 1 (j.par 0x59 1)), .opt anySp 1]
  | 0x30 => [.req [0, 2] 1, .req [0, 2] 1, r, .opt [0, 2] 1]
  | 0x31 => [r, .req [0, 2] 1, .req [0, 2] 1, r]
  | 0x40 => [r, r]
  | 0x50 => [r, r]
  | 0x51 => [r, r, r]
  | 0x52 => [r, r]
  | _ => []

/-- A parameter: its offset, its size and its range. -/
structure Param where
  off : Nat
  size : Nat
  ok : Nat → Bool

def pr (off size : Nat) (ok : Nat → Bool) : Param := ⟨off, size, ok⟩
def between (a b v : Nat) : Bool := a ≤ v && v ≤ b

/-- The rows of the operator table: the parameters. LOWRANK takes the formats of its row of 11 R327, which leaves INT8 out (09 R250;
DEDUCED, notes/assumptions/182). -/
def opParams (j : Job) : List Param :=
  let any := fun (_ : Nat) => true
  match j.opcode with
  | 0x01 | 0x02 =>
    let mode := j.par 0x5B 1
    [pr 0x58 1 (between 1 64), pr 0x59 1 (between 0 3), pr 0x5A 1 (between 1 4),
     pr 0x5B 1 (fun v => if j.opcode == 2 then v == 1 else v ≤ 3), pr 0x5C 1 (between 1 3), pr 0x5D 1 (between 1 8),
     pr 0x5E 1 (between 1 2), pr 0x60 4 (fun v => finite32 v && v != 0 && v < 2 ^ 31),
     pr 0x64 4 (fun v => if mode == 2 then v != 0 else v == 0), pr 0x68 2 any]
  | 0x03 =>
    [pr 0x58 1 (between 2 64), pr 0x59 1 (between 0 3), pr 0x5A 1 (between 0 1), pr 0x5C 2 (between 1 1024),
     pr 0x60 8 (fun v => v % 64 == 0 && j.par 0x5C 2 * (4 * headW (j.par 0x59 1) + 8) ≤ v)]
  | 0x10 =>
    [pr 0x58 1 (between 0 3), pr 0x59 1 (between 1 3), pr 0x5A 1 (between 1 8), pr 0x5B 1 (between 1 16), pr 0x5C 4 (between 1 1048576)]
  | 0x11 => [pr 0x58 1 (between 0 3), pr 0x59 1 (between 1 8), pr 0x5A 1 (between 1 3), pr 0x5C 4 (between 1 1048576)]
  | 0x20 => [pr 0x60 8 (between 1 (2 ^ 40))]
  | 0x21 => [pr 0x60 8 (between 1 (2 ^ 40)), pr 0x68 8 any]
  | 0x22 | 0x23 => [pr 0x5C 4 (between 1 1048576), pr 0x60 4 (fun v => between 64 262144 v && v % 64 == 0)]
  | 0x24 => [pr 0x58 1 (between 0 9), pr 0x59 1 (fun v => v == 4 || v == 8), pr 0x5C 4 (between 1 65536)]
  | 0x30 =>
    [pr 0x58 1 (between 1 9), pr 0x59 1 (fun v => between 1 9 v && (v == 9) == (j.par 0x58 1 == 9)), pr 0x5A 1 (fun v => v == 1 || v == 10),
     pr 0x5C 2 (between 1 16384), pr 0x5E 2 (between 1 16384), pr 0x60 4 (fun v => between 32 65536 v && v % 32 == 0)]
  | 0x31 =>
    [pr 0x58 1 (between 1 3), pr 0x59 1 (between 1 8), pr 0x5A 1 (fun v => v == 1 || v == 10), pr 0x5B 1 (between 1 2),
     pr 0x5C 2 (between 1 4096), pr 0x5E 2 (fun v => between 8 256 v && v % 8 == 0), pr 0x60 4 (fun v => between 256 32768 v && v % 32 == 0),
     pr 0x64 4 (fun v => between 256 32768 v && v % 32 == 0), pr 0x68 4 finite32]
  | 0x40 =>
    [pr 0x58 1 (between 12 30), pr 0x60 8 (fun v => v != 0 && v ≤ 2 ^ 40 && v % 2 ^ (j.par 0x58 1) == 0)]
  | 0x50 =>
    let keys := j.par 0x58 1 == 0
    [pr 0x58 1 (between 0 1), pr 0x59 1 (between 0 3), pr 0x5C 4 any, pr 0x60 4 (between 1 8192),
     pr 0x68 8 (fun v => !keys || v == 0), pr 0x70 16 (fun v => !keys || v == 0)]
  | 0x51 => [pr 0x59 1 (between 0 1), pr 0x5C 4 any, pr 0x60 4 (between 1 1024), pr 0x68 8 any, pr 0x70 16 any]
  | 0x52 => [pr 0x58 1 (between 0 1), pr 0x5C 4 any, pr 0x60 4 (between 1 4096)]
  | _ => []

/-- The opcodes of R327. -/
def opcodes : List Nat := [0, 1, 2, 3, 0x10, 0x11, 0x20, 0x21, 0x22, 0x23, 0x24, 0x30, 0x31, 0x40, 0x50, 0x51, 0x52]

/-- An operand's own shape: null with nothing else set, no station outside SPACE 0x1, and a station that the platform may
use, with an HPA where its mode is DIRECT (R325; 13 R401). -/
def State.opShape (s : State) (j : Job) (o : Nat) : Bool :=
  match opSpace o with
  | 3 => o == nullOp
  | 1 =>
    let n := opStation o
    n < 48 && (n == (s.plat j.plat).station || (s.plat j.plat).mask.getLsbD n) && ((s.stnAt n).ats || opAddr o < 2 ^ 52)
  | _ => opStation o == 0

/-- An operand refused by its use. -/
def State.opBad (s : State) (j : Job) (u : OpUse) (o : Nat) : Bool :=
  !s.opShape j o || (match u with
    | .no => o != nullOp
    | .req sp al => o == nullOp || !sp.contains (opSpace o) || opAddr o % al != 0
    | .opt sp al => o != nullOp && (!sp.contains (opSpace o) || opAddr o % al != 0))

/-- The seal refused (R326); a DPA of locale 0x1 is refused with it (07 R194). -/
def State.sealBad (s : State) (j : Job) : Bool :=
  let o := j.op 7
  if j.sealEn then !s.opShape j o || o == nullOp || opAddr o % 8 != 0 || (opSpace o == 2 && opAddr o / 2 ^ 44 == 1) else o != nullOp

/-- The first reserved byte of PARAMS that is not zero, or the first parameter out of its range. -/
def paramBad (j : Job) : Option Nat :=
  let ps := opParams j
  (List.range 40).findSome? fun i =>
    let off := 0x58 + i
    match ps.find? fun p => p.off == off with
    | some p => if p.ok (j.par off p.size) then none else some off
    | none => if ps.any (fun p => p.off < off && off < p.off + p.size) then none else if j.par off 1 == 0 then none else some off

/-- The first failing check in descriptor byte order: OPND and the byte offset (R326, R618). -/
def State.descBad (s : State) (j : Job) : Option (Nat × Nat) :=
  if !opcodes.contains j.opcode then some (0, 0)
  else if j.par 1 1 / 8 != 0 then some (0, 1)
  else if 4 < j.dieHint || j.par 2 1 / 32 != 0 then some (0, 2)
  else match (List.range 5).find? fun i => j.par (3 + i) 1 != 0 with
    | some i => some (0, 3 + i)
    | none =>
      if s.sealBad j then some (7, 0x10)
      else
        let uses := opUses j
        match (List.range 7).find? fun k => s.opBad j (uses.getD k .no) (j.op k) with
        | some k => some (k, 0x20 + 8 * k)
        | none => (paramBad j).map fun off => (0, off)

/-- The bytes an operator's parameters alone say it touches: operand, offset and length. -/
def extents (j : Job) : List (Nat × Nat × Nat) :=
  let n := j.par 0x5C 4
  match j.opcode with
  | 0x01 | 0x02 => [(0, 0, 32 * j.par 0x58 1), (2, 0, 1)]
  | 0x03 =>
    let size := j.par 0x5C 2 * (4 * headW (j.par 0x59 1) + 8)
    [(0, 0, (j.par 0x58 1 - 1) * j.par 0x60 8 + size), (1, 0, size)]
  | 0x10 => [(0, 0, n * 2 * j.par 0x5B 1 * headW (j.par 0x58 1) * (if j.par 0x59 1 == 1 then 2 else 1)), (1, 0, 16 * n)]
  | 0x11 => [(0, 0, 8 * n), (2, 0, n * kvbSize (j.par 0x5A 1) (j.par 0x58 1))]
  | 0x20 => [(0, 0, j.par 0x60 8), (1, 0, j.par 0x60 8)]
  | 0x21 => [(0, 0, j.par 0x60 8)]
  | 0x22 => [(0, 0, 8 * n), (2, 0, n * j.par 0x60 4)]
  | 0x23 => [(0, 0, 8 * n), (1, 0, n * j.par 0x60 4)]
  | 0x24 => [(0, 0, 24 * n), (2, 0, 8 * n)]
  | 0x30 =>
    let (m, c, k) := (j.par 0x5C 2, j.par 0x5E 2, j.par 0x60 4)
    let (a, b) := (j.par 0x58 1, j.par 0x59 1)
    [(0, 0, m * (rowBytes a k + scaleBytes a k)), (1, 0, c * (rowBytes b k + scaleBytes b k)), (2, 0, m * c * (if j.par 0x5A 1 == 1 then 2 else 4)),
     (3, 0, 4 * m * c)]
  | 0x31 =>
    let (t, r, di, do_) := (j.par 0x5C 2, j.par 0x5E 2, j.par 0x60 4, j.par 0x64 4)
    let ab := j.par 0x59 1
    [(0, 0, t * rowBytes (j.par 0x58 1) di), (1, 0, r * (rowBytes ab di + scaleBytes ab di)), (2, 0, do_ * (rowBytes ab r + scaleBytes ab r)),
     (3, 0, t * do_ * (if j.par 0x5A 1 == 1 then 2 else 4))]
  | 0x40 => [(0, 0, j.par 0x60 8), (1, 0, 16 * (j.par 0x60 8 / 2 ^ (j.par 0x58 1)))]
  | 0x50 => [(0, 0, j.par 0x60 4 * (if j.par 0x58 1 == 0 then 16 else 64)), (1, 0, if j.par 0x58 1 == 1 then 64 + 32 * j.par 0x60 4 else 64)]
  | 0x51 => [(0, 0, 64 * j.par 0x60 4), (2, 0, 8 + 8 * j.par 0x60 4)]
  | 0x52 => [(0, 0, 4 * j.par 0x60 4), (1, 0, j.par 0x60 4)]
  | _ => []

/-- The operands an operator writes. -/
def writesOpnd (op k : Nat) : Bool :=
  match op with
  | 0x01 | 0x02 | 0x10 | 0x11 | 0x22 | 0x23 | 0x24 | 0x30 | 0x51 => k == 2
  | 0x31 => k == 3
  | 0x21 => k == 0
  | _ => k == 1

/-- The first addresses of the backed spans, ascending, with those of the pumps' exchange areas (02 R21; 08 R220). -/
def spanStarts : List Nat :=
  [0, Config.twinBase] ++
    (List.range 16).flatMap (fun p => [Config.scratchBase + p * Config.scratchStride, Config.scratchBase + p * Config.scratchStride + 0x1000000]) ++
    [Config.aliasBase, Config.controlBase]

/-- The first backed byte named in SPACE 0x2 outside the exchange areas of the partition (08 R221): the operand and the byte. An unbacked
one stops the job where its tile is translated (02 R22). -/
def State.scratchBad (s : State) (j : Job) : Option (Nat × Nat) :=
  let part := (s.plat j.plat).partition
  -- an insert's source blocks are slots of its namespace (12 R365)
  let slots := if j.opcode == 0x51 then (match s.namedNs (j.par 0x5C 4) with | some i => [(1, 0, j.par 0x60 4 * (s.ns i).slotSize)] | none => []) else []
  let known := extents j ++ slots
  -- an operand whose bytes other operands or lists give still names the byte at its own address
  let bases := ((List.range 7).filter fun k => !known.any (·.1 == k)).map fun k => (k, 0, 1)
  (known ++ bases ++ (if j.sealEn then [(7, 0, 8)] else [])).findSome? fun (k, off, len) =>
    let o := j.op k
    if opSpace o != 2 || len == 0 then none
    else
      let a := opAddr o + off
      ((a :: spanStarts.filter fun b => a < b && b < a + len).find? fun b => s.backed b && !s.exchange part b).map fun b => (k, b)

/-- Two ranges given in one space, and for SPACE 0x1 through one station, overlap (R331). -/
def rangesMeet (o1 off1 n1 o2 off2 n2 : Nat) : Bool :=
  let a := opAddr o1 + off1
  let b := opAddr o2 + off2
  opSpace o1 == opSpace o2 && (opSpace o1 != 1 || opStation o1 == opStation o2) && a < b + n2 && b < a + n1

end Sys2Proof.Machine
end

