-- ==== Sys2Proof/Machine/Operators.lean ====
section
/-! DEFINITION. The Kaileva operators other than Draw, MERGE and the prefix jobs: what each loads, checks, computes and
writes, phase by phase (11 R327 to R335, R619; 09 R261 to R276). -/
namespace Sys2Proof.Machine

/-- Why an operator stops. -/
structure Stop where
  st : JobStatus
  opnd : Nat := 0
  step : Nat := 0
  kind : Nat := 0
  addr : Nat := 0
  deriving DecidableEq, Repr

/-- What a step leaves: writes, the operator's progress, and conversion events; or a stop. -/
inductive Fired where
  | stop (x : Stop)
  | go (ws : List Wr) (w : Work) (sat nf : Nat)

/-- The next phase with nothing loaded. -/
def Work.to (w : Work) (phase : Nat) : Work := { w with phase := phase, bufs := [] }

def Work.bufAt (w : Work) (i : Nat) : Buf := w.bufs.getD i {}
def Work.buf (w : Work) (i : Nat) : List Byte := (w.bufAt i).bytes
def Work.bad (w : Work) (i : Nat) : List (Nat × Nat) := (w.bufAt i).bad
def Work.keepBuf (w : Work) (i : Nat) : Buf := w.kept.getD i {}
def Work.keep (w : Work) (i : Nat) : List Byte := (w.keepBuf i).bytes

/-- Entries of `z` bytes that the last tile of load `k` has completed, which began at byte `lo`, and that no poison touches
(R340). -/
def Work.entsOf (w : Work) (k z lo : Nat) : List Nat :=
  (List.range ((w.buf k).length / z)).filter fun i =>
    lo < z * (i + 1) && !((w.bad k).any fun (o, n) => o < z * (i + 1) && z * i < o + n)

/-- The operand address of a byte. -/
def Job.at_ (j : Job) (k off : Nat) : Nat := opAddr (j.op k) + off

/-- A list entry that may not stand: the operand, the tile load, the entry's address. -/
def Job.badEntry (j : Job) (k off : Nat) : Stop := { st := .badDescriptor, opnd := k, step := 5, kind := 1, addr := j.at_ k off }

/-- A loader or register count cut to the steps it makes. -/
def tileMax : Nat := 262144

/-! ## KVB16 blocks (09 R266 to R273) -/

def xorBytes (bs : List Byte) : Byte := bs.foldl (· ^^^ ·) 0

/-- Element bytes, scale bytes and region size of a block (R266). -/
def blkE (fmt w : Nat) : Nat := rowBytes fmt (headW w)
def blkC (fmt w : Nat) : Nat := scaleBytes fmt (headW w)
def blkZ (fmt w : Nat) : Nat := (16 * (blkE fmt w + blkC fmt w) + 63) / 64 * 64

def hdrEmpty (h : List Byte) : Bool := h.all (· == 0)

/-- A malformed header (R268, R273). -/
def hdrMalformed (h : List Byte) : Bool :=
  !hdrEmpty h && (num h 0 1 == 0 || 8 < num h 0 1 || 4 ≤ num h 1 1 || num h 2 1 == 0 || 16 < num h 2 1 || 4 ≤ num h 3 1 || num h 0x0B 1 != 0 ||
    (slice h 0x18 39).any (· != 0))

def hdrParity (h : List Byte) : Bool := xorBytes (h.take 63) == h.getD 63 0

/-- A header with its parity (R267). -/
def hdrSeal (h : List Byte) : List Byte := h.take 63 ++ [xorBytes (h.take 63)]

/-- A header's fields. -/
def mkHdr (fmt w valid flags firstPos layer head sat : Nat) (key : Nat) : List Byte :=
  hdrSeal (le 1 fmt ++ le 1 w ++ le 1 valid ++ le 1 flags ++ le 4 firstPos ++ le 2 layer ++ le 1 head ++ zeros 1 ++ le 4 sat ++
    le 8 key ++ zeros 40)

/-- How the record names a block: its well and offset, or its operand address where it lies in no well (R273; 11 R337). -/
def State.blockAt (s : State) (j : Job) (k a : Nat) : Nat × Nat :=
  if opSpace (j.op k) != 0 then (1, a)
  else match s.rangeAt (s.jobCtx j) a with
    | some (_, r) => (2, r.well % 65536 * 2 ^ 48 + (r.offset + (a - r.vbase)))
    | none => (1, a)

def State.blockStop (s : State) (j : Job) (k a : Nat) (st : JobStatus) : Stop :=
  let (kind, addr) := s.blockAt j k a
  { st := st, opnd := k, step := 4, kind := kind, addr := addr }

/-- The checks every read of a block makes of its header (R273), a wrong one reported before wrong parity (11 R340). -/
def State.hdrStop (s : State) (j : Job) (k a : Nat) (h : List Byte) (same : Bool) : Option Stop :=
  if hdrEmpty h || hdrMalformed h || !same then some (s.blockStop j k a .badDescriptor)
  else if !hdrParity h then some (s.blockStop j k a .poison)
  else none

/-- Row `t` of the K region or the V region of a block. -/
def blkRow (b : List Byte) (fmt w : Nat) (v : Bool) (t : Nat) : Row :=
  let base := 64 + (if v then blkZ fmt w else 0)
  { code := fmt, elems := slice b (base + t * blkE fmt w) (blkE fmt w),
    scales := slice b (base + 16 * blkE fmt w + t * blkC fmt w) (blkC fmt w) }

/-! ## Streams: COPY, FILL, CHECKSUM, GATHER, SCATTER -/

def copyLoads (j : Job) : List Load :=
  [{ opnd := 0, off := j.work.pos, len := j.par 0x60 8 - j.work.pos, ahead := true, carry := true }]

def copyFire (j : Job) : Fired :=
  let w := j.work
  let n := (w.bufAt 0).firstLen
  let b := (w.bufAt 0).upTo n
  .go [{ opnd := 1, off := w.pos, bytes := b.bytes, bad := b.bad }]
    { w with bufs := [(w.bufAt 0).past n], pos := w.pos + n, finished := j.par 0x60 8 ≤ w.pos + n } 0 0

/-- Byte `i` of a FILL (R619). -/
def fillByte (pattern i : Nat) : Byte := BitVec.ofNat 8 (pattern / 2 ^ (8 * (i % 8)))

def fillFire (j : Job) : Fired :=
  let w := j.work
  let n := min tileMax (j.par 0x60 8 - w.pos)
  .go [{ opnd := 0, off := w.pos, bytes := (List.range n).map fun i => fillByte (j.par 0x68 8) (w.pos + i) }]
    { w.to 0 with pos := w.pos + n, finished := j.par 0x60 8 ≤ w.pos + n } 0 0

/-- CHECKSUM takes its chunk a tile at a time (R334). -/
def sumLoads (j : Job) : List Load :=
  [{ opnd := 0, off := j.work.pos, len := j.par 0x60 8 - j.work.pos, ahead := true, unit := 2 ^ (j.par 0x58 1), carry := true }]

/-- The bytes of a buffer with its poisoned lines as 0xFF. -/
def ffBytes (b : List Byte) (bad : List (Nat × Nat)) : List Byte :=
  bad.foldl (fun b (o, n) => patch b o (List.replicate (min n (b.length - o)) 0xFF)) b

/-- `aux` holds the running CRC, the count of poisoned lines, and the last one counted plus 1. -/
def sumFire (j : Job) : Fired :=
  let w := j.work
  let chunk := 2 ^ (j.par 0x58 1)
  let first := w.pos % chunk == 0
  let (crc, cnt, last) := if first then (2 ^ 64 - 1, 0, 0) else (w.aux.getD 0 0, w.aux.getD 1 0, w.aux.getD 2 0)
  let n := (w.bufAt 0).firstLen
  let b := (w.bufAt 0).upTo n
  let crc := crcBytes crc (ffBytes b.bytes b.bad)
  let lines := b.bad.map fun (o, _) => (j.at_ 0 w.pos + o) / 64 + 1
  let cnt := cnt + (lines.filter (· != last)).length
  let last := (lines.getLast?).getD last
  let pos := w.pos + n
  let w' := { w with bufs := [(w.bufAt 0).past n], pos := pos, aux := [crc, cnt, last], finished := j.par 0x60 8 ≤ pos }
  if pos % chunk == 0 then
    .go [{ opnd := 1, off := 16 * (pos / chunk - 1), bytes := le 8 (crc ^^^ (2 ^ 64 - 1)) ++ le 4 cnt ++ zeros 4 }] w' 0 0
  else .go [] w' 0 0

/-- GATHER and SCATTER: phase 0 reads a tile of the index, phase 1 moves its elements one by one. `idx` counts the
elements of earlier tiles, `pos` those of this one. -/
def gatherOff (j : Job) : Nat := num (j.work.keep 0) (8 * j.work.pos) 8

def gatherLoads (j : Job) (scatter : Bool) : List Load :=
  let w := j.work
  let elem := j.par 0x60 4
  if w.phase == 0 then [{ opnd := 0, off := 8 * w.idx, len := 8 * (j.par 0x5C 4 - w.idx), stream := true }]
  else if scatter then [{ opnd := 1, off := (w.idx + w.pos) * elem, len := elem, carry := true }]
  else [{ opnd := 1, off := gatherOff j, len := elem, carry := true }]

/-- The checks of an index tile (11 R331, R333). An overlapping SCATTER names operand 2 at the destination's address, STEP 5 and
ADDR_KIND 1 (DESIGN CHOICE, notes/assumptions/184). -/
def gatherCheck (j : Job) (scatter : Bool) (lo : Nat) : Option Stop :=
  let w := j.work
  if w.phase != 0 then none
  else
    let b := w.buf 0
    let ents := w.entsOf 0 8 lo
    let elem := j.par 0x60 4
    match ents.find? fun i => num b (8 * i) 8 % 64 != 0 || 2 ^ 44 ≤ num b (8 * i) 8 with
    | some i => some (j.badEntry 0 (8 * (w.idx + i)))
    | none =>
      if scatter then
        match ents.find? fun i => rangesMeet (j.op 1) 0 (j.par 0x5C 4 * elem) (j.op 2) (num b (8 * i) 8) elem with
        | some i => some { st := .badDescriptor, opnd := 2, step := 5, kind := 1, addr := j.at_ 2 (num b (8 * i) 8) }
        | none => none
      else none

def gatherFire (j : Job) (scatter : Bool) : Fired :=
  let w := j.work
  let elem := j.par 0x60 4
  let wr : Wr := { opnd := 2, off := if scatter then gatherOff j else (w.idx + w.pos) * elem, bytes := w.buf 0, bad := w.bad 0 }
  let n := (w.keep 0).length / 8
  if w.pos + 1 < n then .go [wr] { w.to 1 with pos := w.pos + 1 } 0 0
  else .go [wr] { w.to 0 with pos := 0, idx := w.idx + n, kept := [], finished := j.par 0x5C 4 ≤ w.idx + n } 0 0

/-! ## ENCODE (R328; 09 R264, R274 to R276) -/

def encIn (j : Job) : Nat := if j.par 0x59 1 == 1 then 2 else 1
def encEntry (j : Job) : List Byte := slice (j.work.keep 0) (16 * j.work.pos) 16

def encLoads (j : Job) : List Load :=
  let w := j.work
  let n := 2 * j.par 0x5B 1 * headW (j.par 0x58 1) * encIn j
  match w.phase with
  | 0 => [{ opnd := 1, off := 16 * w.idx, len := 16 * (j.par 0x5C 4 - w.idx), stream := true }]
  | 1 => [{ opnd := 2, off := num (encEntry j) 0 8, len := 64 }, { opnd := 0, off := (w.idx + w.pos) * n, len := n }]
  | _ => []

/-- The destination of a block translates to a well tagged KVB16 (R328): for a twin's well, as the fill of the range cache has told
it. -/
def State.kvbTagged (s : State) (j : Job) (a : Nat) : Bool :=
  match s.rangeAt (s.jobCtx j) a with
  | some (i, r) => if r.twin then ((s.rcOf j.lastPump (s.jobCtx j) i).map (·.kvb)).getD true else match s.named r.well with | some i => (s.well i).kvb16 | none => false
  | none => false

/-- The destination of a block translates to a well known not to be tagged KVB16 (R328), which comes before what its header tile
meets (11 R340). -/
def State.untagged (s : State) (j : Job) (opnd a : Nat) : Bool :=
  j.opcode == 0x10 && opnd == 2 && (match s.rangeAt (s.jobCtx j) a with
    | some (i, r) =>
      if r.twin then ((s.rcOf j.lastPump (s.jobCtx j) i).map (·.kvb)) == some false
      else (match s.named r.well with | some i => !(s.well i).kvb16 | none => false)
    | none => false)

/-- The header of the block an ENCODE entry names, checked against the entry (R274). -/
def encCheck (s : State) (j : Job) (k lo : Nat) : Option Stop :=
  let w := j.work
  if w.phase == 0 then
    let b := w.buf 0
    match (w.entsOf 0 16 lo).find? fun i =>
        num b (16 * i) 8 % 64 != 0 || 2 ^ 44 ≤ num b (16 * i) 8 || 2 ≤ num b (16 * i + 15) 1 with
    | some i => some (j.badEntry 1 (16 * (w.idx + i)))
    | none => none
  else if w.phase == 1 && k == 0 && !(w.entsOf 0 64 lo).isEmpty then
    let e := encEntry j
    let h := w.buf 0
    let a := j.at_ 2 (num e 0 8)
    if !s.kvbTagged j a then some (s.blockStop j 2 a .badDescriptor)
    else if hdrEmpty h then none
    else
      let same := num h 0 1 == j.par 0x5A 1 && num h 1 1 % 4 == j.par 0x58 1 && num h 8 2 == num e 12 2 && num h 10 1 == num e 14 1
      let fits := num h 2 1 + j.par 0x5B 1 ≤ 16 && num e 8 4 == num h 4 4 + num h 2 1
      if hdrMalformed h || num h 3 1 != 0 || !same || !fits then some (s.blockStop j 2 a .badDescriptor)
      else if !hdrParity h then some (s.blockStop j 2 a .poison)
      else none
  else none

/-- The rows of one region after an ENCODE entry: element planes and scale planes from row `v` on, with zeros above the new
rows (R274), and the events. -/
def encRegion (fmt w v rows : Nat) (ins : List (List FV)) : List Byte × List Byte × Nat × Nat :=
  let rs := ins.map (encodeRow fmt)
  (rs.flatMap (fun r => packRow fmt r.1) ++ zeros ((16 - v - rows) * blkE fmt w),
   rs.flatMap (fun r => r.2.1.map fun c => BitVec.ofNat 8 c) ++
     zeros (blkZ fmt w - 16 * blkE fmt w - (v + rows) * blkC fmt w),
   sumOf (·.2.2.1) rs, sumOf (·.2.2.2) rs)

def encFire (j : Job) : Fired :=
  let w := j.work
  let e := encEntry j
  let off := num e 0 8
  let (fmt, wc, rows) := (j.par 0x5A 1, j.par 0x58 1, j.par 0x5B 1)
  if w.phase == 1 then
    let h := w.buf 0
    let v := num h 2 1
    let rowLen := headW wc * encIn j
    let rowAt := fun i => (List.range (headW wc)).map fun x => elemVal (j.par 0x59 1) (slice (w.buf 1) (i * rowLen) rowLen) x
    let (ke, ks, sat1, nf1) := encRegion fmt wc v rows ((List.range rows).map rowAt)
    let (ve, vs, sat2, nf2) := encRegion fmt wc v rows ((List.range rows).map fun i => rowAt (rows + i))
    let (eb, cb, z) := (blkE fmt wc, blkC fmt wc, blkZ fmt wc)
    let put := fun (x : Nat) (bs : List Byte) => ({ opnd := 2, off := off + x, bytes := bs } : Wr)
    let ws := [put (64 + v * eb) ke, put (64 + 16 * eb + v * cb) ks, put (64 + z + v * eb) ve, put (64 + z + 16 * eb + v * cb) vs]
    let valid := v + rows
    let sealed := bit (valid == 16 || nbit (num e 15 1) 0)
    let pos := if hdrEmpty h then num e 8 4 else num h 4 4
    let hdr := mkHdr fmt wc valid sealed pos (num e 12 2) (num e 14 1) (sat 32 (num h 12 4 + sat1 + sat2)) 0
    .go (ws.filter fun x => !x.bytes.isEmpty) { w.to 2 with kept := [w.keepBuf 0, { bytes := hdr }] } (sat1 + sat2) (nf1 + nf2)
  else
    let wr : Wr := { opnd := 2, off := off, bytes := w.keep 1 }
    let n := (w.keep 0).length / 16
    if w.pos + 1 < n then .go [wr] { w.to 1 with pos := w.pos + 1, kept := [w.keepBuf 0] } 0 0
    else .go [wr] { w.to 0 with pos := 0, idx := w.idx + n, kept := [], finished := j.par 0x5C 4 ≤ w.idx + n } 0 0

/-! ## FETCH (R329; 09 R263) -/

def fetchOff (j : Job) : Nat := num (j.work.keep 0) (8 * j.work.pos) 8

def fetchLoads (j : Job) : List Load :=
  let w := j.work
  if w.phase == 0 then [{ opnd := 0, off := 8 * w.idx, len := 8 * (j.par 0x5C 4 - w.idx), stream := true }]
  else [{ opnd := 1, off := fetchOff j, len := 64 }, { opnd := 1, off := fetchOff j + 64, len := kvbSize (j.par 0x59 1) (j.par 0x58 1) - 64 }]

def fetchCheck (s : State) (j : Job) (k lo : Nat) : Option Stop :=
  let w := j.work
  if w.phase == 0 then
    let b := w.buf 0
    match (w.entsOf 0 8 lo).find? fun i => num b (8 * i) 8 % 64 != 0 || 2 ^ 44 ≤ num b (8 * i) 8 with
    | some i => some (j.badEntry 0 (8 * (w.idx + i)))
    | none => none
  else if k == 0 && !(w.entsOf 0 64 lo).isEmpty then
    let h := w.buf 0
    s.hdrStop j 1 (j.at_ 1 (fetchOff j)) h (num h 0 1 == j.par 0x59 1 && num h 1 1 % 4 == j.par 0x58 1)
  else none

/-- One stored row expanded to a plain format: its bytes and the events (09 R263). -/
def expandRow (r : Row) (n out : Nat) : List Byte × Nat × Nat :=
  let cs := (List.range n).map fun i =>
    let sc := r.scale (i / 32)
    (fmtOf out).convert (if sc == 0xFF then .nan else (elemVal r.code r.elems i).scale ((sc : Int) - 127))
  (packRow out (cs.map (·.1)), sumOf (·.2.1) cs, sumOf (·.2.2) cs)

/-- A block expanded to another format (R329). -/
def expandBlock (b : List Byte) (fmt w out : Nat) : List Byte × Nat × Nat :=
  let valid := num b 2 1
  let region := fun (v : Bool) =>
    let rs := (List.range valid).map fun t => expandRow (blkRow b fmt w v t) (headW w) out
    (pad (blkZ out w) (rs.flatMap (·.1)), sumOf (·.2.1) rs, sumOf (·.2.2) rs)
  let (k, s1, n1) := region false
  let (v, s2, n2) := region true
  let h := le 1 out ++ slice b 1 2 ++ le 1 (num b 3 1 % 2) ++ slice b 4 12 ++ zeros 8 ++ slice b 0x18 39
  (hdrSeal h ++ k ++ v, s1 + s2, n1 + n2)

def fetchFire (j : Job) : Fired :=
  let w := j.work
  let (fmt, wc, out) := (j.par 0x59 1, j.par 0x58 1, j.par 0x5A 1)
  let (bs, st, nf) := expandBlock (w.buf 0 ++ w.buf 1) fmt wc out
  let wr : Wr := { opnd := 2, off := (w.idx + w.pos) * kvbSize out wc, bytes := bs }
  let n := (w.keep 0).length / 8
  if w.pos + 1 < n then .go [wr] { w.to 1 with pos := w.pos + 1 } st nf
  else .go [wr] { w.to 0 with pos := 0, idx := w.idx + n, kept := [], finished := j.par 0x5C 4 ≤ w.idx + n } st nf

/-! ## GEMM and LOWRANK (R332, R333) -/

/-- A load left out where it has no bytes. -/
def someLoads (l : List Load) : List Load := l.filter fun x => x.len != 0

/-- The operand bytes that a phase of these operators keeps at hand (R227: tile buffers hold 8 MiB). -/
def blockBytes : Nat := 4194304

/-- How many rows of `n` bytes are loaded at a time. -/
def rowsAtOnce (n : Nat) : Nat := max 1 (blockBytes / max 1 n)

/-- The loads of rows `i` to `i + k - 1` of a matrix of `m` rows of `n` elements: the elements, then the scales (R332). -/
def matLoads (opnd code n m i k : Nat) : List Load :=
  someLoads [{ opnd := opnd, off := i * rowBytes code n, len := k * rowBytes code n },
    { opnd := opnd, off := m * rowBytes code n + i * scaleBytes code n, len := k * scaleBytes code n }]

/-- Row `i` of a matrix of `n` columns held as element bytes and scale bytes. -/
def matRow (code n : Nat) (el sc : List Byte) (i : Nat) : Row :=
  { code := code, elems := slice el (i * rowBytes code n) (rowBytes code n), scales := slice sc (i * scaleBytes code n) (scaleBytes code n) }

/-- GEMM takes the rows of B in groups, and goes through the rows of A for each: `idx` is the first row of the group, `pos` the
row of A. -/
def gemmCols (j : Job) : Nat := rowsAtOnce (rowBytes (j.par 0x59 1) (j.par 0x60 4) + scaleBytes (j.par 0x59 1) (j.par 0x60 4))

def gemmLoads (j : Job) : List Load :=
  let (m, c, k) := (j.par 0x5C 2, j.par 0x5E 2, j.par 0x60 4)
  let w := j.work
  let n := min (gemmCols j) (c - w.idx)
  if w.phase == 0 then matLoads 1 (j.par 0x59 1) k c w.idx n
  else matLoads 0 (j.par 0x58 1) k m w.pos 1 ++
    someLoads [{ opnd := 3, off := 4 * (w.pos * c + w.idx), len := if j.op 3 == nullOp then 0 else 4 * n }]

/-- One row of a GEMM's block of columns. The four bytes of C_IN start an INT8 accumulation as a two's-complement number (DESIGN CHOICE: 11 R332
gives C_IN in FP32 and does not say how it starts an integer accumulator; notes/assumptions/169). -/
def gemmFire (j : Job) : Fired :=
  let w := j.work
  let (m, c, k) := (j.par 0x5C 2, j.par 0x5E 2, j.par 0x60 4)
  let (a, b, out) := (j.par 0x58 1, j.par 0x59 1, j.par 0x5A 1)
  let n := min (gemmCols j) (c - w.idx)
  let arow : Row := { code := a, elems := w.buf 0, scales := if isMx a then w.buf 1 else [] }
  let cin := if j.op 3 == nullOp then [] else w.buf (if isMx a then 2 else 1)
  let cs := (List.range n).map fun i =>
    let brow := matRow b k (w.keep 0) (w.keep 1) i
    let c0 := num cin (4 * i) 4
    if a == 9 then
      let v := dotInt arow brow k c0
      if out == 0x0A then (v, 0, 0) else convertTo out (ofInt32 v)
    else convertTo out (dot arow brow k (of32 (BitVec.ofNat 32 c0)))
  let size := if out == 1 then 2 else 4
  let wr : Wr := { opnd := 2, off := (w.pos * c + w.idx) * size, bytes := cs.flatMap fun x => le size x.1 }
  let next := if w.pos + 1 < m then { w.to 1 with pos := w.pos + 1 }
    else { w.to 0 with pos := 0, idx := w.idx + n, kept := [], finished := c ≤ w.idx + n }
  .go [wr] next (sumOf (·.2.1) cs) (sumOf (·.2.2) cs)

/-- LOWRANK: phases 0 and 1 go through the rows of A in groups and the tokens of X, and keep H in `acc`; phases 2 and 3 go through
the rows of B in groups and the tokens. -/
def lowrankRows (j : Job) (b : Bool) : Nat :=
  let n := if b then j.par 0x5E 2 else j.par 0x60 4
  rowsAtOnce (rowBytes (j.par 0x59 1) n + scaleBytes (j.par 0x59 1) n)

/-- The rows of the group that is at hand. -/
def lowrankGroup (j : Job) : Nat :=
  let b := decide (2 ≤ j.work.phase)
  min (lowrankRows j b) ((if b then j.par 0x64 4 else j.par 0x5E 2) - j.work.idx)

def lowrankLoads (j : Job) : List Load :=
  let (r, di, do_) := (j.par 0x5E 2, j.par 0x60 4, j.par 0x64 4)
  let (x, ab) := (j.par 0x58 1, j.par 0x59 1)
  let w := j.work
  match w.phase with
  | 0 => matLoads 1 ab di r w.idx (lowrankGroup j)
  | 1 => [{ opnd := 0, off := w.pos * rowBytes x di, len := rowBytes x di }]
  | 2 => matLoads 2 ab r do_ w.idx (lowrankGroup j)
  | _ => []

/-- Element `i` of H for a token, where `acc` holds the groups one after another, each token by token. -/
def lowrankH (j : Job) (t i : Nat) : Nat :=
  let (n, g) := (j.par 0x5C 2, lowrankRows j false)
  let b := i / g
  let width := min g (j.par 0x5E 2 - b * g)
  (j.work.acc.getD (b * g * n + t * width + i % g) 0).toNat

def lowrankFire (j : Job) : Fired :=
  let w := j.work
  let (t, r, di, do_) := (j.par 0x5C 2, j.par 0x5E 2, j.par 0x60 4, j.par 0x64 4)
  let (x, ab, yf, hf) := (j.par 0x58 1, j.par 0x59 1, j.par 0x5A 1, j.par 0x5B 1)
  let n := lowrankGroup j
  let row := fun (cols i : Nat) => matRow ab cols (w.keep 0) (if isMx ab then w.keep 1 else []) i
  if w.phase == 1 then
    let xrow : Row := { code := x, elems := w.buf 0, scales := [] }
    let hs := (List.range n).map fun i => (fmtOf hf).convert (dot xrow (row di i) di .zero)
    let acc := w.acc ++ hs.map fun h => BitVec.ofNat 32 h.1
    let next := if w.pos + 1 < t then { w.to 1 with pos := w.pos + 1, acc := acc }
      else { w.to (if w.idx + n < r then 0 else 2) with pos := 0, idx := (if w.idx + n < r then w.idx + n else 0), kept := [], acc := acc }
    .go [] next (sumOf (·.2.1) hs) (sumOf (·.2.2) hs)
  else
    let hrow : Row := { code := hf, elems := packRow hf ((List.range r).map (lowrankH j w.pos)), scales := [] }
    let scale := of32 (BitVec.ofNat 32 (j.par 0x68 4))
    let ys := (List.range n).map fun i => convertTo yf ((scale.mul (dot hrow (row r i) r .zero)).r32)
    let size := if yf == 1 then 2 else 4
    let next := if w.pos + 1 < t then { w.to 3 with pos := w.pos + 1 }
      else { w.to 2 with pos := 0, idx := w.idx + n, kept := [], finished := do_ ≤ w.idx + n }
    .go [{ opnd := 3, off := (w.pos * do_ + w.idx) * size, bytes := ys.flatMap fun y => le size y.1 }] next
      (sumOf (·.2.1) ys) (sumOf (·.2.2) ys)

/-! ## ATOMIC (R335) -/

def atomicRec (j : Job) (i : Nat) : List Byte := slice (j.work.keep 0) (24 * i) 24

def atomicLoads (j : Job) : List Load :=
  if j.work.phase == 0 then [{ opnd := 0, off := 0, len := 24 * j.par 0x5C 4 }] else []

/-- Offsets that are no multiple of WIDTH, and high bytes of a 4-byte operation that are not zero. -/
def atomicCheck (j : Job) (lo : Nat) : Option Stop :=
  if j.work.phase != 0 then none
  else
    let b := j.work.buf 0
    let wd := j.par 0x59 1
    match (j.work.entsOf 0 24 lo).find? fun i =>
        num b (24 * i) 8 % max 1 wd != 0 || (wd == 4 && (num b (24 * i + 12) 4 != 0 || num b (24 * i + 20) 4 != 0)) with
    | some i => some (j.badEntry 0 (24 * i))
    | none => none

/-- The old values of the operations applied, as writes to OUT. -/
def atomicOuts (j : Job) : List Wr :=
  if j.op 2 == nullOp then []
  else j.work.atoms.filterMap fun (i, old) => old.map fun v => { opnd := 2, off := 8 * i, bytes := le 8 v }

def atomicFire (j : Job) : Fired := .go (atomicOuts j) { j.work.to 1 with finished := true } 0 0

end Sys2Proof.Machine
end

