-- ==== Sys2Proof/Machine/DrawOp.lean ====
section
/-! DEFINITION. DRAW, DRAW_TREE and MERGE: packets, visibility and the reduction with its fixed order of rounding
(10). -/
namespace Sys2Proof.Machine

/-! ## The reduction (R289, R293) -/

/-- What a segment, or several, give a row: the maximum, the sum and the output. -/
structure Node where
  m : FV
  l : FV
  o : List FV
  deriving DecidableEq, Repr

def negInf : FV := .inf true

def twoSum (x y : FV) : FV × FV :=
  let s := (x.add y).r32
  let yv := (s.add x.neg).r32
  let xv := (s.add yv.neg).r32
  let e := (((x.add xv.neg).r32).add ((y.add yv.neg).r32)).r32
  (s, e)

/-- A slot of a segment as one row sees it: its score, its V row, its group of 32. -/
structure SlotV where
  t : FV
  v : Row
  grp : Nat

/-- A row whose score is NaN or +Inf (R293). -/
def nanNode (w : Nat) : Node := ⟨.nan, .nan, List.replicate w .nan⟩

/-- The value of element `i` of a V row with its shared scale (R257). -/
def vVal (r : Row) (i : Nat) : FV :=
  let sc := r.scale (i / 32)
  if sc == 0xFF then .nan else (elemVal r.code r.elems i).scale ((sc : Int) - 127)

/-- `segment` over the visible slots of a segment, in ascending order. An exponential below the smallest subnormal of P_FORMAT
is rounded to nearest as 09 R261 says (10 R289, R291; DEDUCED, notes/assumptions/183). -/
def segmentNode (w pFmt : Nat) (slots : List SlotV) : Node :=
  if slots.any fun s => s.t.isNan || s.t == .inf false then nanNode w
  else
    let slots := slots.filter fun s => s.t != negInf
    match slots with
    | [] => ⟨negInf, .zero, List.replicate w .zero⟩
    | s0 :: _ =>
      let m := slots.foldl (fun a s => a.max s.t) s0.t
      let ps := slots.map fun s => (s, (fmtOf pFmt).decode ((fmtOf pFmt).convert (exp2 ((s.t.add m.neg).r32))).1)
      let grps := (List.range 32).filter fun g => slots.any fun s => s.grp == g
      let (hi, lo, o) := grps.foldl (fun (acc : FV × FV × List FV) g =>
        let mine := ps.filter fun x => x.1.grp == g
        let gl := (FV.sum (mine.map (·.2))).r32
        let (hi, e) := twoSum acc.1 gl
        let lo := (acc.2.1.add e).r32
        let o := acc.2.2.zipIdx.map fun (x, i) =>
          (x.add ((FV.sum (mine.map fun (s, p) => p.mul (vVal s.v i))).r32)).r32
        (hi, lo, o)) (FV.zero, FV.zero, List.replicate w FV.zero)
      ⟨m, (hi.add lo).r32, o⟩

def combineNodes (a b : Node) : Node :=
  if b.m == negInf then a
  else if a.m == negInf then b
  else
    let m := a.m.max b.m
    let x := exp2 ((a.m.add m.neg).r32)
    let y := exp2 ((b.m.add m.neg).r32)
    let xh := (a.l.mul x).r32
    let xl := fma32 a.l x xh.neg
    let yh := (b.l.mul y).r32
    let yl := fma32 b.l y yh.neg
    let (s, e) := twoSum xh yh
    let l := (s.add ((e.add ((xl.add yl).r32)).r32)).r32
    ⟨m, l, (a.o.zip b.o).map fun (p, q) => fma32 p x ((q.mul y).r32)⟩

def foldPass : List Node → List Node
  | a :: b :: l => combineNodes a b :: foldPass l
  | l => l

/-- The pairwise tree over nodes; `k` passes are enough for 2^k nodes. -/
def foldNodes : Nat → List Node → Node
  | _, [] => ⟨negInf, .zero, []⟩
  | _, [a] => a
  | 0, a :: _ => a
  | k + 1, l => foldNodes k (foldPass l)

def Node.words (n : Node) : List (BitVec 32) := round32 n.m :: round32 n.l :: n.o.map round32

def Node.hasNan (n : Node) : Bool := n.m.isNan || n.l.isNan || n.o.any FV.isNan

/-- The node held in a list of words. -/
def nodeOf (ws : List (BitVec 32)) : Node :=
  match ws with
  | m :: l :: o => ⟨of32 m, of32 l, o.map of32⟩
  | _ => ⟨negInf, .zero, []⟩

/-! ## Packets (R282 to R287) -/

def drawTree (j : Job) : Bool := j.opcode == 2
def drawMode (j : Job) : Nat := j.par 0x5B 1
def drawW (j : Job) : Nat := headW (j.par 0x59 1)
def drawHeads (j : Job) : Nat := j.par 0x58 1

def pad64 (n : Nat) : Nat := (n + 63) / 64 * 64

/-- Head-table entry `i`. -/
def headEnt (j : Job) (i : Nat) : List Byte := slice (j.work.keep 0) (32 * i) 32

def headRows (j : Job) (i : Nat) : Nat := num (headEnt j i) 0x14 2

/-- Rows of the heads before head `i`. -/
def rowsBefore (j : Job) (i : Nat) : Nat := sumOf (headRows j) (List.range i)
def totalRows (j : Job) : Nat := rowsBefore j (drawHeads j)

def headBlks (e : List Byte) : Nat := num e 0x10 4
def headTree (e : List Byte) : Nat := num e 0x18 2

/-- A head-table entry that may not stand (R283, R303). -/
def headBad (j : Job) (e : List Byte) : Bool :=
  let aux := num e 8 8
  let tree := headTree e
  num e 0 8 % 8 != 0 || !between 1 1048576 (headBlks e) || !between 1 256 (num e 0x14 2) || num e 0x17 1 != 0 || num e 0x1A 6 != 0 ||
  (if drawTree j then aux % 2 != 0 || !between 1 256 tree || 16 * headBlks e < tree
   else tree != 0 || (if drawMode j == 3 then aux % 64 != 0 else aux != 0))

/-- The head of a packet row. -/
def headOfRow (j : Job) (g : Nat) : Nat := ((List.range (drawHeads j)).find? fun i => g < rowsBefore j (i + 1)).getD 0

def rowBad (j : Job) (g : Nat) (e : List Byte) : Bool :=
  let node := num e 4 2
  num e 6 2 != 0 || (drawTree j && node != 0xFFFF && headTree (headEnt j (headOfRow j g)) ≤ node)

def qBytes (j : Job) : Nat := drawW j * (if j.par 0x5C 1 == 1 then 2 else 1)

/-- Entries of segment `idx` of the head the job is at. -/
def segLen (j : Job) : Nat := min 64 (headBlks (headEnt j j.work.head) - 64 * j.work.idx)
def segCount (e : List Byte) : Nat := (headBlks e + 63) / 64

def listEnt (j : Job) (i : Nat) : Nat := num (j.work.keep 4) (8 * i) 8

def drawLoads (j : Job) : List Load :=
  let w := j.work
  let e := headEnt j w.head
  match w.phase with
  | 0 => [{ opnd := 0, off := 0, len := 32 * drawHeads j }]
  | 1 => [{ opnd := 0, off := pad64 (32 * drawHeads j), len := 8 * totalRows j }]
  | 5 =>
    let base := pad64 (32 * drawHeads j) + pad64 (8 * totalRows j)
    [{ opnd := 0, off := base + rowsBefore j w.head * qBytes j, len := headRows j w.head * qBytes j }]
  | 2 => [{ opnd := 1, off := num e 8 8, len := 2 * headTree e }]
  | 3 =>
    { opnd := 1, off := num e 0 8 + 512 * w.idx, len := 8 * segLen j } ::
      (if drawMode j == 3 then (List.range (num e 0x14 2)).map fun r =>
        { opnd := 1, off := num e 8 8 + r * 128 * segCount e + 128 * w.idx, len := 128 } else [])
  | _ =>
    (List.range (segLen j)).flatMap fun i =>
      let x := listEnt j i
      let k := 3 + x / 2 ^ 44 % 4
      let off := x % 2 ^ 44
      [{ opnd := k, off := off, len := 64 }, { opnd := k, off := off + 64, len := kvbSize (j.par 0x5D 1) (j.par 0x59 1) - 64 }]

/-- The first tree slot of a head (R301). -/
def treeBase (e : List Byte) : Nat := 16 * headBlks e - 16 * ((headTree e + 15) / 16)

/-- The checks of R303 as what they look at is read: `k` is the load just complete. A packet of more than 1,024 rows is named by operand 0 at its
first byte (DESIGN CHOICE: the spec gives this case no address; notes/assumptions/170). -/
def drawCheck (s : State) (j : Job) (k lo : Nat) : Option Stop :=
  let w := j.work
  let e := headEnt j w.head
  match w.phase with
  | 0 =>
    match (w.entsOf 0 32 lo).find? fun i => headBad j (slice (w.buf 0) (32 * i) 32) with
    | some i => some (j.badEntry 0 (32 * i))
    | none =>
      let heads := (List.range (drawHeads j)).map fun i => slice (w.buf 0) (32 * i) 32
      if 32 * drawHeads j ≤ (w.buf 0).length && (w.bad 0).isEmpty && 1024 < sumOf (fun h => num h 0x14 2) heads then some (j.badEntry 0 0)
      else none
  | 1 =>
    match (w.entsOf 0 8 lo).find? fun g => rowBad j g (slice (w.buf 0) (8 * g) 8) with
      | some g => some (j.badEntry 0 (pad64 (32 * drawHeads j) + 8 * g))
      | none => none
  | 2 =>
    match (w.entsOf 0 2 lo).find? fun n => n ≤ num (w.buf 0) (2 * n) 2 && num (w.buf 0) (2 * n) 2 != 0xFFFF with
    | some n => some (j.badEntry 1 (num e 8 8 + 2 * n))
    | none => none
  | 5 => none
  | 3 =>
    if k != 0 then none
    else match (w.entsOf 0 8 lo).find? fun i =>
        let x := num (w.buf 0) (8 * i) 8
        x % 64 != 0 || 2 ^ 46 ≤ x || j.par 0x5A 1 ≤ x / 2 ^ 44 % 4 with
      | some i => some (j.badEntry 1 (num e 0 8 + 512 * w.idx + 8 * i))
      | none => none
  | _ =>
    if k % 2 != 0 || (w.entsOf k 64 lo).isEmpty then none
    else
      let i := k / 2
      let x := listEnt j i
      let op := 3 + x / 2 ^ 44 % 4
      let a := j.at_ op (x % 2 ^ 44)
      let h := w.buf k
      let same := num h 0 1 == j.par 0x5D 1 && num h 1 1 % 4 == j.par 0x59 1 && num h 8 2 == j.par 0x68 2 && num h 10 1 == num e 0x16 1
      match s.hdrStop j op a h same with
      | some x => some x
      | none =>
        let base := treeBase e
        let slot := 16 * (64 * w.idx + i)
        if drawTree j && base ≤ slot && num h 2 1 < min 16 (headTree e - (slot - base)) then some (s.blockStop j op a .badDescriptor) else none

/-! ## Visibility (R278, R279, R301) -/

/-- A node is another's ancestor or the node itself. -/
def ancestorOf (parents : List Byte) : Nat → Nat → Nat → Bool
  | 0, a, n => a == n
  | k + 1, a, n => a == n || (num parents (2 * n) 2 != 0xFFFF && ancestorOf parents k a (num parents (2 * n) 2))

/-- Slot `u` of the list, at position `pos`, is visible to a row of the head. -/
def slotVisible (j : Job) (e row : List Byte) (r u pos : Nat) (valid : Bool) : Bool :=
  let p := num row 0 4
  valid &&
    (if drawTree j then
      let base := treeBase e
      if base ≤ u && u - base < headTree e then
        num row 4 2 != 0xFFFF && ancestorOf (j.work.keep 3) 256 (u - base) (num row 4 2)
      else pos ≤ p
    else match drawMode j with
      | 0 => true
      | 1 => pos ≤ p
      | 2 => pos ≤ p && p - pos < j.par 0x64 4
      | _ =>
        let v := u - 1024 * j.work.idx
        nbit (num (j.work.keep 5) (128 * r + v / 8) 1) (v % 8))

/-- The segment the job has loaded, for one row. -/
def rowSegment (j : Job) (r : Nat) : Node :=
  let w := j.work
  let e := headEnt j w.head
  let row := slice (w.keep 1) (8 * (rowsBefore j w.head + r)) 8
  let q : Row := { code := j.par 0x5C 1, elems := slice (w.keep 2) (r * qBytes j) (qBytes j), scales := [] }
  let scale := of32 (BitVec.ofNat 32 (j.par 0x60 4))
  let slots := (List.range (segLen j)).flatMap fun i =>
    let b := w.buf (2 * i) ++ w.buf (2 * i + 1)
    (List.range 16).filterMap fun t =>
      let u := 16 * (64 * w.idx + i) + t
      if slotVisible j e row r u (num b 4 4 + t) (t < num b 2 1) then
        let k := blkRow b (j.par 0x5D 1) (j.par 0x59 1) false t
        some { t := ((dot q k (drawW j) .zero).mul scale).r32, v := blkRow b (j.par 0x5D 1) (j.par 0x59 1) true t, grp := (16 * i + t) / 32 : SlotV }
      else none
  segmentNode (drawW j) (j.par 0x5E 1) slots

/-- A head's results from the segments' nodes (R287). -/
def headResults (j : Job) (acc : List (BitVec 32)) : List Node :=
  let n := 2 + drawW j
  let rows := headRows j j.work.head
  (List.range rows).map fun r =>
    foldNodes 32 ((List.range (segCount (headEnt j j.work.head))).map fun k => nodeOf ((acc.drop ((k * rows + r) * n)).take n))

def words (l : List (BitVec 32)) : List Byte := l.flatMap fun x => le 4 x.toNat

/-- The rows of a result written at packet row `g0` of an output of `rt` rows. -/
def resultWrites (opnd w g0 rt : Nat) (ns : List Node) : List Wr :=
  [{ opnd := opnd, off := 4 * w * g0, bytes := ns.flatMap fun n => words (n.o.map round32) },
   { opnd := opnd, off := 4 * w * rt + 4 * g0, bytes := words (ns.map fun n => round32 n.m) },
   { opnd := opnd, off := (4 * w + 4) * rt + 4 * g0, bytes := words (ns.map fun n => round32 n.l) }]

/-- The phase after phase 1 or a finished head: the query rows of the next head. -/
def headStart (w : Work) (head : Nat) : Work := { w.to 5 with head := head, idx := 0, acc := [], kept := w.kept.take 2 }

/-- The phases that only load (their checks have passed): after a head's query rows the parent table of a tree head, else its
first list tile. -/
def drawNext (j : Job) : Work :=
  let w := j.work
  match w.phase with
  | 0 => { w.to 1 with kept := [w.bufAt 0] }
  | 1 => headStart { w with kept := [w.keepBuf 0, w.bufAt 0] } 0
  | 5 => { w.to (if drawTree j then 2 else 3) with kept := w.kept.take 2 ++ [w.bufAt 0] }
  | 2 => { w.to 3 with kept := w.kept.take 3 ++ [w.bufAt 0] }
  | _ =>
    let mask := (w.bufs.drop 1).foldl Buf.append {}
    { w.to 4 with kept := (w.kept ++ [Buf.mk [] [] []]).take 4 ++ [w.bufAt 0, mask] }

/-- A segment computed; the last one of a head writes its results. -/
def drawFire (j : Job) : Fired :=
  let w := j.work
  let e := headEnt j w.head
  let acc := w.acc ++ (List.range (headRows j w.head)).flatMap fun r => (rowSegment j r).words
  if w.idx + 1 < segCount e then .go [] { w.to 3 with idx := w.idx + 1, acc := acc, kept := w.kept.take 4 } 0 0
  else
    let ns := headResults j acc
    let nf := (ns.filter Node.hasNan).length
    let ws := resultWrites 2 (drawW j) (rowsBefore j w.head) (totalRows j) ns
    if w.head + 1 < drawHeads j then .go ws (headStart w (w.head + 1)) 0 nf
    else .go ws { w.to 4 with finished := true } 0 nf

/-! ## MERGE (R297, R298) -/

/-- Rows of all inputs that are loaded at a time (08 R227). -/
def mergeGroup (j : Job) : Nat := min (rowsAtOnce (j.par 0x58 1 * (4 * headW (j.par 0x59 1) + 8))) (j.par 0x5C 2 - j.work.pos)

/-- The O rows, the M words and the L words of each input, for the rows of a group. -/
def mergeLoads (j : Job) : List Load :=
  let (w, rows, n, g) := (headW (j.par 0x59 1), j.par 0x5C 2, mergeGroup j, j.work.pos)
  (List.range (j.par 0x58 1)).flatMap fun k =>
    let base := k * j.par 0x60 8
    [{ opnd := 0, off := base + 4 * w * g, len := 4 * w * n }, { opnd := 0, off := base + 4 * w * rows + 4 * g, len := 4 * n },
     { opnd := 0, off := base + (4 * w + 4) * rows + 4 * g, len := 4 * n }]

/-- Row `g` of a group of an input laid out as R287. -/
def mergeNode (o m l : List Byte) (w g : Nat) : Node :=
  let f := fun b off => of32 (BitVec.ofNat 32 (num b off 4))
  ⟨f m (4 * g), f l (4 * g), (List.range w).map fun i => f o (4 * w * g + 4 * i)⟩

/-- A folded row as it is written. M = -Inf decides before L = NaN, for which R298 gives another O (DESIGN CHOICE, notes/assumptions/171). -/
def mergeRow (final : Bool) (n : Node) : Node :=
  if n.m == negInf then { n with o := n.o.map fun _ => .zero }
  else if n.m.isNan || n.l.isNan then { n with o := n.o.map fun _ => .nan }
  else if final then { n with o := n.o.map fun x => div32 x n.l }
  else n

/-- The rows of a group are folded; all are written once every input has been read. -/
def mergeFire (j : Job) : Fired :=
  let w := j.work
  let (k, hw, rows) := (j.par 0x58 1, headW (j.par 0x59 1), j.par 0x5C 2)
  let ns := (List.range (mergeGroup j)).map fun g =>
    mergeRow (j.par 0x5A 1 == 1) (foldNodes 32 ((List.range k).map fun i => mergeNode (w.buf (3 * i)) (w.buf (3 * i + 1)) (w.buf (3 * i + 2)) hw g))
  let acc := w.acc ++ ns.flatMap Node.words
  let nf := (ns.filter Node.hasNan).length
  if w.pos + mergeGroup j < rows then .go [] { w.to 0 with pos := w.pos + mergeGroup j, acc := acc } 0 nf
  else
    let all := (List.range rows).map fun g => nodeOf ((acc.drop (g * (2 + hw))).take (2 + hw))
    .go (resultWrites 1 hw 0 rows all) { w.to 0 with acc := [], finished := true } 0 nf

end Sys2Proof.Machine
end

