-- ==== Sys2Proof/Machine/Loader.lean ====
section
/-! DEFINITION. The tile loader: what each phase of an operator loads, checks and computes by opcode, the streams with their tiles
in flight and the limits that they share, the prefetcher, tile buffers in the working area, and the loader's turns (08 R214,
R220, R225 to R230, R235; 11 R340; 13 R394 to R398). -/
namespace Sys2Proof.Machine

/-! ## Operators by opcode -/

def insertLoads (s : State) (j : Job) : List Load :=
  match j.ins with
  | none => []
  | some x =>
    let ns := s.ns x.ns
    let b := kvbSize ns.format ns.width
    let off := x.at_ * ns.slotSize + x.blk * b
    match j.work.phase with
    | 0 => [{ opnd := 0, off := 0, len := 64 * j.par 0x60 4 }]
    | 1 => [{ opnd := 1, off := off, len := 64 }, { opnd := 1, off := off + 64, len := b - 64 }]
    | _ => []

/-- The header of a block an insert copies (12 R366). -/
def insertCheck (s : State) (j : Job) (k lo : Nat) : Option Stop :=
  match j.ins with
  | none => none
  | some x =>
    if j.work.phase != 1 || k != 0 || (j.work.entsOf 0 64 lo).isEmpty then none
    else
      let ns := s.ns x.ns
      let h := j.work.buf 0
      let same := num h 0 1 == ns.format && num h 1 1 % 4 == ns.width && num h 8 2 == x.blk / max 1 ns.nkvh && num h 10 1 == x.blk % max 1 ns.nkvh &&
        num h 2 1 == 16 && nbit (num h 3 1) 0 && num h 4 4 == 16 * (x.depth0 + x.at_)
      s.hdrStop j 1 (j.at_ 1 (x.at_ * ns.slotSize + x.blk * kvbSize ns.format ns.width)) h same

/-- The tokens or keys of a PREFIX_LOOKUP (12 R360), and the handles of a PREFIX_RELEASE (R370). -/
def lookupTokens (j : Job) : Bool := j.par 0x58 1 == 1
def prefixLen (j : Job) : Nat := j.par 0x60 4 * (if j.opcode == 0x52 then 4 else if lookupTokens j then 64 else 16)

/-- The loads of the phase a job is in. -/
def jobLoads (s : State) (j : Job) : List Load :=
  match j.opcode with
  | 0x01 | 0x02 => drawLoads j
  | 0x03 => mergeLoads j
  | 0x10 => encLoads j
  | 0x11 => fetchLoads j
  | 0x20 => copyLoads j
  | 0x22 => gatherLoads j false
  | 0x23 => gatherLoads j true
  | 0x24 => atomicLoads j
  | 0x30 => gemmLoads j
  | 0x31 => lowrankLoads j
  | 0x40 => sumLoads j
  | 0x50 | 0x52 => [{ opnd := 0, off := 0, len := prefixLen j }]
  | 0x51 => insertLoads s j
  | _ => []

/-- The checks of what a tile of load `k` has brought, which begins at byte `lo` of its load. -/
def jobCheck (s : State) (j : Job) (k lo : Nat) : Option Stop :=
  match j.opcode with
  | 0x01 | 0x02 => drawCheck s j k lo
  | 0x10 => encCheck s j k lo
  | 0x11 => fetchCheck s j k lo
  | 0x22 => gatherCheck j false lo
  | 0x23 => gatherCheck j true lo
  | 0x24 => atomicCheck j lo
  | 0x51 => insertCheck s j k lo
  | _ => none

/-- A phase that only loads: where the operator goes on (no array or vector step belongs to it). -/
def jobNext (j : Job) : Option Work :=
  let w := j.work
  match j.opcode with
  | 0x01 | 0x02 => if w.phase != 4 then some (drawNext j) else none
  | 0x10 | 0x11 | 0x22 | 0x23 | 0x24 | 0x30 => if w.phase == 0 then some { w.to 1 with pos := 0, kept := w.bufs } else none
  | 0x31 => if w.phase == 0 || w.phase == 2 then some { w.to (w.phase + 1) with pos := 0, kept := w.bufs } else none
  | _ => none

/-- What a step computes. -/
def jobFire (j : Job) : Fired :=
  match j.opcode with
  | 0x01 | 0x02 => drawFire j
  | 0x03 => mergeFire j
  | 0x10 => encFire j
  | 0x11 => fetchFire j
  | 0x20 => copyFire j
  | 0x21 => fillFire j
  | 0x22 => gatherFire j false
  | 0x23 => gatherFire j true
  | 0x24 => atomicFire j
  | 0x30 => gemmFire j
  | 0x31 => lowrankFire j
  | 0x40 => sumFire j
  | _ => .go [] { j.work with finished := true } 0 0

/-- A step that has more to wait for than its loads: a header written after its block's lines (09 R275), and the answers of
atomic operations. -/
def jobWaits (j : Job) : Bool :=
  match j.opcode with
  | 0x10 => j.work.phase == 2 && !(j.poolOut == 0 && j.twinOut.isEmpty)
  | 0x24 => j.work.atoms.length < j.par 0x5C 4
  | 0x51 => j.work.phase == 0 || j.work.phase == 8 || ((j.work.phase == 2 || j.work.phase == 3) && j.poolOut != 0)
  | _ => false

/-- The operation a check in the array belongs to, by operator (R620). -/
def stepCode : StepOp → Nat
  | .qk => 1 | .pv => 2 | .vector => 3 | .format => 4 | .load => 5 | .write => 6 | .product => 7 | .crc => 8

def arrayOp (opcode : Nat) : StepOp :=
  match opcode with
  | 0x01 | 0x02 => .qk
  | 0x30 | 0x31 => .product
  | 0x40 => .crc
  | 0x03 => .vector
  | _ => .format

/-- The phases of Draw that follow, as far as its head table has come: each head's query rows, its tree's parents, and its list by segments. -/
def drawAhead (j : Job) : List Work :=
  let w := j.work
  let heads := fun (h : Nat) => (List.range 5).map (h + ·) |>.filter (· < drawHeads j)
  let segs := fun (h i : Nat) => (List.range 4).filterMap fun k => if i + k < segCount (headEnt j h) then some { w.to 3 with head := h, idx := i + k } else none
  let tree := fun (h : Nat) => if drawTree j then [{ w.to 2 with head := h }] else []
  let whole := fun (h : Nat) => headStart w h :: (tree h ++ segs h 0)
  match w.phase with
  | 0 => []
  | 1 => (heads 0).flatMap whole
  | 5 => tree w.head ++ segs w.head 0 ++ (heads (w.head + 1)).flatMap whole
  | 2 => segs w.head 0 ++ (heads (w.head + 1)).flatMap whole
  | _ => segs w.head (w.idx + 1) ++ (heads (w.head + 1)).flatMap whole

/-- The next four steps of two nested loops: `n` rows for each group of `g` columns below `c`, from row `r` of the group at `i`. -/
def loopAhead (i r n g c : Nat) : List (Nat × Nat) :=
  ((List.range 4).map fun k => (i + g * ((r + k) / max 1 n), (r + k) % max 1 n)).filter (·.1 < c)

/-- The next four groups of `g` columns below `c`, from `i`. -/
def groupsAhead (i g c : Nat) : List Nat := ((List.range 4).map fun k => i + g * k).filter (· < c)

/-- The phases of a GEMM that follow: rows of A for the group of B at hand and the next, and the groups of B. -/
def gemmAhead (j : Job) : List Work :=
  let w := j.work
  let (m, c, g) := (j.par 0x5C 2, j.par 0x5E 2, gemmCols j)
  (loopAhead w.idx (if w.phase == 0 then 0 else w.pos + 1) m g c).map (fun (i, r) => { w.to 1 with idx := i, pos := r }) ++
    (groupsAhead (w.idx + g) g c).map fun i => { w.to 0 with idx := i, pos := 0 }

/-- The phases of a LOWRANK that follow, in its four streams: X, the groups of A, the groups of B, and Y. -/
def lowrankAhead (j : Job) : List Work :=
  let w := j.work
  let (t, r, do_, ga, gb) := (j.par 0x5C 2, j.par 0x5E 2, j.par 0x64 4, lowrankRows j false, lowrankRows j true)
  let y := fun (i k : Nat) => (loopAhead i k t gb do_).map fun (i, k) => { w.to 3 with idx := i, pos := k }
  if w.phase < 2 then
    (loopAhead w.idx (if w.phase == 0 then 0 else w.pos + 1) t ga r).map (fun (i, k) => { w.to 1 with idx := i, pos := k }) ++
      (groupsAhead (w.idx + ga) ga r).map (fun i => { w.to 0 with idx := i, pos := 0 }) ++
      (groupsAhead 0 gb do_).map (fun i => { w.to 2 with idx := i, pos := 0 }) ++ y 0 0
  else (groupsAhead (w.idx + gb) gb do_).map (fun i => { w.to 2 with idx := i, pos := 0 }) ++ y w.idx (if w.phase == 2 then 0 else w.pos + 1)

/-- The elements that follow in the list tile at hand, of entries of `z` bytes, and the next list tile. -/
def listAhead (j : Job) (z : Nat) : List Work :=
  let w := j.work
  let n := (w.keep 0).length / z
  if w.phase == 0 then []
  else ((List.range 4).filterMap fun k => if w.pos + k + 1 < n then some { w.to 1 with pos := w.pos + k + 1, kept := [w.keepBuf 0] } else none) ++
    (if w.idx + n < j.par 0x5C 4 then [{ w.to 0 with pos := 0, idx := w.idx + n, kept := [] }] else [])

/-- The job as it will stand at its next steps, as far as what they depend on has come (13 R394). -/
def jobAhead (s : State) (j : Job) : List Job :=
  let w := j.work
  let at_ := fun (l : List Work) => l.map fun w => { j with work := w }
  match j.opcode with
  | 0x01 | 0x02 => at_ (drawAhead j)
  | 0x03 => at_ ((groupsAhead (w.pos + mergeGroup j) (rowsAtOnce (j.par 0x58 1 * (4 * headW (j.par 0x59 1) + 8))) (j.par 0x5C 2)).map fun p => { w.to 0 with pos := p })
  | 0x10 => at_ (listAhead j 16)
  | 0x11 | 0x22 | 0x23 => at_ (listAhead j 8)
  | 0x30 => at_ (gemmAhead j)
  | 0x31 => at_ (lowrankAhead j)
  | 0x51 => match j.ins with
    | none => []
    | some x =>
      let n := (s.ns x.ns).nlayers * (s.ns x.ns).nkvh
      if w.phase == 0 then [] else (groupsAhead (x.blk + 1) 1 n).map fun b => { j with work := w.to 1, ins := some { x with blk := b } }
  | _ => []

/-- Sources that go on in order whatever a list says: those of SCATTER's elements and of ENCODE's rows. -/
def runAhead (j : Job) : List Load :=
  let w := j.work
  let i := w.idx + (if w.phase == 0 then 0 else w.pos + 1)
  let run := fun (opnd n : Nat) => (groupsAhead i 1 (j.par 0x5C 4)).map fun k => ({ opnd := opnd, off := k * n, len := n } : Load)
  match j.opcode with
  | 0x10 => run 0 (2 * j.par 0x5B 1 * headW (j.par 0x58 1) * encIn j)
  | 0x23 => run 1 (j.par 0x60 4)
  | _ => []

/-- The bytes of an operand that an operator's next results go to: operand, offset and length (13 R394). -/
def jobDest (j : Job) : List (Nat × Nat × Nat) :=
  let w := j.work
  let rest := fun (k off n : Nat) => if off < n then [(k, off, n - off)] else []
  match j.opcode with
  | 0x01 | 0x02 =>
    if w.phase < 2 then []
    else
      let (g, n, d, rt) := (rowsBefore j w.head, headRows j w.head, drawW j, totalRows j)
      [(2, 4 * d * g, 4 * d * n), (2, 4 * d * rt + 4 * g, 4 * n), (2, (4 * d + 4) * rt + 4 * g, 4 * n)]
  | 0x10 => if w.phase == 0 then [] else [(2, num (encEntry j) 0 8, kvbSize (j.par 0x5A 1) (j.par 0x58 1))]
  | 0x23 => if w.phase == 0 then [] else [(2, gatherOff j, j.par 0x60 4)]
  | 0x03 => rest 1 0 (j.par 0x5C 2 * (4 * headW (j.par 0x59 1) + 8))
  | 0x11 =>
    let b := kvbSize (j.par 0x5A 1) (j.par 0x58 1)
    rest 2 ((w.idx + w.pos) * b) (j.par 0x5C 4 * b)
  | 0x20 => rest 1 w.pos (j.par 0x60 8)
  | 0x21 => rest 0 w.pos (j.par 0x60 8)
  | 0x22 => rest 2 ((w.idx + w.pos) * j.par 0x60 4) (j.par 0x5C 4 * j.par 0x60 4)
  | 0x24 => if j.op 2 == nullOp then [] else rest 2 0 (8 * j.par 0x5C 4)
  | 0x30 =>
    let size := if j.par 0x5A 1 == 1 then 2 else 4
    [(2, (w.pos * j.par 0x5E 2 + w.idx) * size, size * min (gemmCols j) (j.par 0x5E 2 - w.idx))]
  | 0x31 =>
    let size := if j.par 0x5A 1 == 1 then 2 else 4
    if w.phase == 3 then [(3, (w.pos * j.par 0x64 4 + w.idx) * size, size * lowrankGroup j)] else []
  | 0x40 => rest 1 (16 * (w.pos / 2 ^ (j.par 0x58 1))) (16 * (j.par 0x60 8 / 2 ^ (j.par 0x58 1)))
  | 0x50 => rest 1 0 (64 + 32 * j.par 0x60 4)
  | 0x51 => rest 2 0 (8 + 8 * j.par 0x60 4)
  | 0x52 => rest 1 0 (j.par 0x60 4)
  | _ => []

/-! ## Tiles of a load (R227, R228; 13 R396) -/

/-- Bytes of load `k` that have come or are on their way. -/
def Job.asked (j : Job) (k : Nat) : Nat :=
  (j.work.buf k).length + sumOf Tile.len (j.tiles.filter fun t => t.load == k && t.again.isNone)

/-- Every tile of a load has been asked for. -/
def Load.allAsked (l : Load) (asked : Nat) : Bool := if l.stream then asked != 0 || l.len == 0 else l.len ≤ asked

/-- A load has come as far as its step needs it. -/
def Load.full (l : Load) (b : Buf) : Bool := if l.stream || l.ahead then !b.tiles.isEmpty || l.len == 0 else l.len ≤ b.bytes.length

/-- The length of the tile that begins `x` bytes into a load, at operand address `a`, with at most `lines` lines. -/
def Load.cut (l : Load) (a x lines : Nat) : Nat :=
  let n := min (l.len - x) (64 * lines - a % 64)
  if l.unit == 0 then n else min n (l.unit - (l.off + x) % l.unit)

/-- The load in which a stream goes on, and how far it has been asked for. -/
def Job.streamAt (j : Job) (loads : List Load) (opnd : Nat) : Option (Nat × Load × Nat) :=
  (loads.zipIdx.find? fun (l, k) => l.opnd == opnd && !l.allAsked (j.asked k)).map fun (l, k) => (k, l, j.asked k)

/-- The loads of the phase have come. -/
def State.loadsFull (s : State) (j : Job) : Bool := (jobLoads s j).zipIdx.all fun (l, k) => l.full (j.work.bufAt k)

/-- Room for the reads of a tile: 8,192 outstanding line reads and the range tracker (R214, R227, R235); the prefix unit has its
own. -/
def State.readRoom (s : State) (j : Job) (p a n : Nat) : Bool :=
  16 ≤ p ||
    (sumOf (fun t => (t.reads.filter (·.got.isNone)).length) j.tiles + (cutLines a n).length ≤ 8192 && s.trackerUse p j.tiles.length < 64)

/-- The limits that the streams share: those of reads, and 8 MiB of tile buffers. -/
def State.tileRoom (s : State) (j : Job) (p a n : Nat) : Bool :=
  16 ≤ p || (s.readRoom j p a n && sumOf (fun b => b.bytes.length) (j.work.bufs ++ j.work.kept) + sumOf Tile.len j.tiles + n ≤ 2 * blockBytes)

/-- A tile is in flight. -/
def State.addTile (s : State) (id load opnd a : Nat) (ls : List (Nat × Nat × Target)) (es : List Nat) (again : Option Placed) : State :=
  s.modJob id fun j =>
    { j with nextTile := j.nextTile + 1,
             tiles := j.tiles ++ [{ id := j.nextTile, load := load, opnd := opnd, addr := a, entries := es, again := again,
                                    reads := ls.map fun (x, n, t) => { addr := x, len := n, tgt := t } }] }

/-- Tiles of a stream are issued, up to four in flight; one that may not move stops the job once it is next to move, with every
tile before it worked on and its results in the write queue (R227; 13 R397, R398), and one that waits for its translation holds up no other stream (R228). -/
def State.streamTurn : Nat → State → Nat → Nat → Nat → Nat → State
  | 0, s, _, _, _, _ => s
  | k + 1, s, id, p, lines, opnd =>
    match s.job id with
    | none => s
    | some j =>
      let mine := j.tiles.filter (·.opnd == opnd)
      match j.streamAt (jobLoads s j) opnd with
      | none => s
      | some (i, l, x) =>
        let a := j.at_ opnd (l.off + x)
        let n := l.cut a x lines
        let isNext := mine.isEmpty && !s.loadsFull j && j.wq.isEmpty
        if j.status.isSome || 4 ≤ mine.length || !s.tileRoom j p a n then s
        else if s.untagged j opnd a then
          (if isNext then let x := s.blockStop j opnd a .badDescriptor; s.stopJob id x.st (some (s.pumpFail p x.opnd x.step x.kind x.addr)) else s)
        else match s.xlateTile j p (j.op opnd) opnd a n .r 5 (!isNext) with
          | .fault st y => if isNext then s.xlateStop id p opnd 5 st y else s
          | .wait s => s
          | .ok ls es => State.streamTurn k ((s.xlateUsed j p es ls (j.op opnd)).addTile id i opnd a ls es none) id p lines opnd

/-- Tiles that a parity error has spoiled are asked for again, within the limits of their stream (R225, R227). -/
def State.reload (s : State) (id p : Nat) : State :=
  match s.job id with
  | none => s
  | some j => j.work.again.foldl (fun s x =>
      let k := (s.job id).getD j
      if 4 ≤ (k.tiles.filter (·.opnd == x.opnd)).length || !s.readRoom k p x.addr x.len then s
      else match s.xlateTile j p (j.op x.opnd) x.opnd x.addr x.len .r 5 with
      | .fault st y => s.xlateStop id p x.opnd 5 st y
      | .wait s => s
      | .ok ls es =>
        let s := s.modJob id fun j => { j with work := { j.work with again := j.work.again.filter (· != x) } }
        (s.xlateUsed j p es ls (j.op x.opnd)).addTile id 0 x.opnd x.addr ls es (some x)) s

/-! ## Tile buffers in the working area (R220, R225) -/

/-- The lowest place of `n` bytes that no tile buffer of the job holds. -/
def Work.place (w : Work) (n : Nat) : Nat :=
  let live := (w.bufs ++ w.kept).flatMap (·.tiles)
  let free := fun (x : Nat) => x + n ≤ 0x1000000 && live.all fun t => t.at_ + t.len ≤ x || x + n ≤ t.at_
  ((0 :: live.map fun t => (t.at_ + t.len + 63) / 64 * 64).filter free).foldl min 0x1000000

/-- The DPA of a byte of pump `p`'s tile buffers; where in the working area they begin is the microcode's. -/
def bufferDpa (p x : Nat) : Nat := Config.scratchBase + p * Config.scratchStride + (64 * Config.bufferBase p + x) % 0x1000000

/-- A tile's bytes stand in the working area. -/
def State.putBuffer (s : State) (p at_ : Nat) (bs : List Byte) : State :=
  if 16 ≤ p then s
  else (List.range ((bs.length + 63) / 64)).foldl (fun s i =>
    let c := Machine.slice bs (64 * i) 64
    let a := bufferDpa p (at_ + 64 * i)
    if c.length == 64 then s.writeDram a (bytesLine c) false else s.setMem a c) s

/-- The tile buffer of the job on a pump that holds a line of its working area. -/
def State.bufferAt (s : State) (line : Nat) : Option (Nat × Job × Placed) :=
  let p := (line - Config.scratchBase) / Config.scratchStride
  match (s.pumpAt p).job.bind s.job with
  | none => none
  | some j =>
    (((j.work.bufs ++ j.work.kept).flatMap (·.tiles)).find? fun t =>
      (List.range ((t.len + 63) / 64)).any fun i => bufferDpa p (t.at_ + 64 * i) == line).map fun t => (p, j, t)

/-! ## Tiles that have come -/

/-- Bytes that have come again replace those of their tile. -/
def Buf.patch (b : Buf) (x : Placed) (new : Buf) : Buf :=
  match b.tiles.find? fun t => t.at_ == x.at_ && t.opnd == x.opnd && t.addr == x.addr with
  | none => b
  | some t =>
    { b with bytes := Machine.patch b.bytes t.pos new.bytes,
             bad := (b.bad.filter fun (o, _) => o < t.pos || t.pos + t.len ≤ o) ++ new.bad.map fun (o, n) => (t.pos + o, n) }

/-- A tile whose reads have all come goes into its buffer: what it brought is checked, and poison stops a job that does not
carry it on (11 R340). -/
def State.endTile (s : State) (id p : Nat) (t : Tile) (b : Buf) : State :=
  let poisoned := fun (s : State) (carry : Bool) =>
    if b.bad.isEmpty || carry then s else s.stopJob id .poison (some (s.pumpFail p t.opnd 5 1 (t.firstBad.getD 0)))
  match s.job id with
  | none => s
  | some j =>
    let s := s.modJob id fun j => { j with tiles := j.tiles.filter (·.id != t.id) }
    match t.again with
    | some x =>
      let s := (s.putBuffer p x.at_ b.bytes).modJob id fun j =>
        { j with work := { j.work with bufs := j.work.bufs.map (·.patch x b), kept := j.work.kept.map (·.patch x b) } }
      poisoned s x.carry
    | none =>
      let carry := (((jobLoads s j)[t.load]?).map (·.carry)).getD false
      let at_ := j.work.place t.len
      let b := { b with tiles := [{ opnd := t.opnd, addr := t.addr, len := t.len, pos := 0, at_ := at_, carry := carry }] }
      let s := (s.putBuffer p at_ b.bytes).modJob id fun j =>
        { j with work := { j.work with bufs := (j.work.bufs ++ List.replicate (t.load + 1 - j.work.bufs.length) (Buf.mk [] [] [])).modify t.load fun a => a.append b } }
      match s.job id with
      | none => s
      | some k => match jobCheck s k t.load (j.work.buf t.load).length with
        | some x => s.stopJob id x.st (some (s.pumpFail p x.opnd x.step x.kind x.addr))
        | none => poisoned s carry

/-- Tiles of a job that have come whole go into their buffers, those of one load in order. -/
def State.endTiles (s : State) (id p : Nat) : State :=
  match s.job id with
  | none => s
  | some j => j.tiles.foldl (fun s t => match s.job id with
      | none => s
      | some j => match j.tiles.find? (·.id == t.id) with
        | none => s
        | some t =>
          let first := (j.tiles.takeWhile (·.id != t.id)).all fun u => u.load != t.load || u.again.isSome
          match t.buf with
          | some b => if first || t.again.isSome then s.endTile id p t b else s
          | none => s) s

/-! ## The prefetcher (R229, R238; 13 R394) -/

/-- The next `n` tiles of a stream, from its loads and how far each has been asked for: first byte and length; the first number
bounds the recursion. -/
def nextTiles (j : Job) (lines : Nat) : Nat → Nat → List (Load × Nat) → List (Nat × Nat)
  | 0, _, _ => []
  | _, 0, _ => []
  | _, _, [] => []
  | f + 1, n + 1, (l, x) :: rest =>
    if l.allAsked x then nextTiles j lines f (n + 1) rest
    else
      let a := j.at_ l.opnd (l.off + x)
      let len := max 1 (l.cut a x lines)
      (a, len) :: nextTiles j lines f n ((l, x + len) :: rest)

/-- What the prefetcher finds to translate is asked of the stations; a fault of a tile that is not next to move has no effect
yet (13 R398). -/
def State.prefetch (s : State) (id p lines : Nat) (tiles : Nat := 4) : State :=
  match s.job id with
  | none => s
  | some j =>
    if j.status.isSome then s
    else
      let look := fun (s : State) (opnd a n : Nat) (acc : Acc) (step : Nat) => match s.xlateTile j p (j.op opnd) opnd a n acc step true with
        | .wait s => s
        | _ => s
      -- ahead of its moves a stream of list tiles is translated like any other
      let plain := fun (l : Load) => { l with stream := false }
      let ahead := jobAhead s j
      let loads := (jobLoads s j).zipIdx.map (fun (l, k) => (plain l, j.asked k)) ++
        ((ahead.flatMap (jobLoads s) ++ runAhead j).map fun l => (plain l, 0)).eraseDups
      let s := (List.range 7).foldl (fun s opnd =>
        (nextTiles j lines (loads.length + 8) tiles (loads.filter fun x => x.1.opnd == opnd)).foldl (fun s (a, n) => look s opnd a n .r 5) s) s
      let dests := ((j :: ahead).flatMap jobDest).eraseDups.map fun (k, off, n) => (({ opnd := k, off := off, len := n } : Load), 0)
      (List.range 7).foldl (fun s opnd =>
        (nextTiles j 4096 (dests.length + 8) tiles (dests.filter fun x => x.1.opnd == opnd)).foldl (fun s (a, n) => look s opnd a n .w 6) s) s

/-! ## A turn of the loader (R227, R228) -/

/-- Tiles of every stream are issued, reads are sent and answered, and tiles that have come go into their buffers. -/
def State.loadTurn (s : State) (id p lines : Nat) (host : List (Line × Bool)) : State :=
  let s := s.reload id p
  let s := (List.range 7).foldl (fun s k => State.streamTurn 4 s id p lines k) s
  let s := ((s.issueReads id).giveHost id host).issueReads id
  (s.endTiles id p).prefetch id p lines

end Sys2Proof.Machine
end

