-- ==== Sys2Proof/Machine/Ring.lean ====
section
/-! DEFINITION. Platforms: the ring region, doorbells and tokens, acceptance, hand-off to pumps, fences, completion
records and seals (07 R190 to R200; 08 R243, R244; 11 R307 to R322, R337 to R343, R622). -/
namespace Sys2Proof.Machine

/-! ## Descriptors (R309, R313; 08 R234, R238) -/

/-- Both lines of a job's descriptor are read, through their home. -/
def State.askSlot (s : State) (id : Nat) : State :=
  match s.job id with
  | none => s
  | some j =>
    let x := s.plat j.plat
    match s.ringIdx x with
    | none => s
    | some w =>
      let s := s.modJob id fun j => { j with slot := [none, none] }
      [0, 1].foldl (fun s k =>
        s.submit { org := .desc id k, kind := .swaRd, well := w, gen := (s.well w).gen, off := x.descOff j.idx + 64 * k }) s

/-- A descriptor that has come: poisoned lines read as zeros, and the well offset of the first is kept. -/
def State.takeSlot (s : State) (id : Nat) : Option State :=
  match s.job id with
  | none => none
  | some j => match j.slot with
    | [some (a, p), some (b, q)] =>
      let bs := (if p then zeros 64 else lineBytes a) ++ (if q then zeros 64 else lineBytes b)
      let off := (s.plat j.plat).descOff j.idx
      some (s.modJob id fun j =>
        { j with desc := bs, opcode := num bs 0 1, tag := BitVec.ofNat 64 (num bs 8 8), slot := [],
                 slotBad := if p then some off else if q then some (off + 64) else none })
    | _ => none

/-- CONSUMED follows the lowest index whose slot has not been read (R309). -/
def advanceRead : Nat → Platform → Platform
  | 0, x => x
  | k + 1, x =>
    if x.readAhead.contains x.consumed then
      advanceRead k { x with consumed := idxMod (x.consumed + 1), readAhead := x.readAhead.filter (· != x.consumed) }
    else x

def State.markRead (s : State) (p i : Nat) : State :=
  s.setPlat p fun x => advanceRead 65537 { x with readAhead := if x.readAhead.contains i then x.readAhead else x.readAhead ++ [i] }

/-! ## Hand-off (08 R243, R244; R315) -/

/-- A job whose completion record is committed. -/
def Job.committed (j : Job) : Bool := j.stage == .recorded || j.stage == .sealing

/-- A FENCE still holds the job (R315). -/
def State.fenced (s : State) (j : Job) : Bool :=
  nbit (j.par 1 1) 2 && s.jobs.jobs.any fun k => k.plat == j.plat && k.id < j.id && !k.committed

/-- A pump takes jobs (08 R242, R244, R249). -/
def Pump.takes (x : Pump) (part : Nat) : Bool :=
  x.part == some part && x.permanent.isNone && x.test.isNone && !x.updating && !x.resetting && x.moving.isNone

/-- A job's die hint, its context's at its acceptance where it gives none (R324; 13 R379, R410). -/
def Job.hintOf (j : Job) : Nat := if j.dieHint == 4 then j.pref else j.dieHint

/-- Jobs the prefix unit serves now (12 R363). A running PREFIX_INSERT is none of the 64 (DESIGN CHOICE, notes/assumptions/187). -/
def State.prefixBusy (s : State) : Nat :=
  (s.jobs.jobs.filter fun j => j.stage == .reading 16 || j.stage == .ready 16 || j.stage == .running 16).length

/-- What runs a job has read its descriptor: the slot counts as read. -/
def State.slotRead (s : State) (id : Nat) : State :=
  match s.job id with
  | none => s
  | some j => (s.modJob id fun j => { j with read := true, early := false }).markRead j.plat j.idx

/-- A job whose descriptor is read on pump `p` awaits its start; a poisoned line stops it, and so does an unlisted opcode (R326,
R621). -/
def State.descReady (s : State) (id p : Nat) : State :=
  let s := s.modJob id fun j => { j with stage := .ready p, lastPump := p }
  match s.job id with
  | none => s
  | some j => match j.slotBad with
    | some off => s.stopJob id .poison (some (s.pumpFail p 0 5 2 ((s.plat j.plat).ringWell % 65536 * 2 ^ 48 + off)))
    | none => if opcodes.contains j.opcode then s else s.stopJob id .badDescriptor (some (s.pumpFail p 0 0 3 0))

/-- A pump, or the prefix unit, reads the descriptor of its job, unless it has been read before (08 R234). -/
def State.readDesc (s : State) (id p : Nat) : State :=
  match s.job id with
  | none => s
  | some j =>
    if j.read then s.descReady id p
    else
      let s := s.modJob id fun j => { j with stage := .reading p, lastPump := p }
      if j.early then s else s.askSlot id

/-- A pump gets a job: a Hot one reads its descriptor, another wakes first (08 R237). -/
def State.giveJob (s : State) (id p : Nat) : State :=
  if (s.pumpAt p).clk == .hot then (s.modPump p fun x => { x with job := some id }).readDesc id p
  else (s.modPump p fun x => { x with job := some id, waking := true }).modJob id fun j => { j with stage := .queued p, lastPump := p }

/-- The pump a job goes to, among some (R243): idle ones by clock state and die, then the shortest queue. -/
def State.choosePump (s : State) (j : Job) (hint : Nat) (among : Nat → Bool) : Option (Nat × Bool) × State :=
  let part := (s.plat j.plat).partition
  let all := (List.range 16).filter fun p => (s.pumpAt p).takes part && among p
  let idle := all.filter fun p => (s.pumpAt p).job.isNone && (s.pumpAt p).queue.isEmpty
  let on := fun (l : List Nat) => l.filter fun p => p / 4 == hint
  let by_ := fun (c : PumpClk) => idle.filter fun p => (s.pumpAt p).clk == c
  let groups := [on (by_ .hot), by_ .hot, on (by_ .warm), by_ .warm, on (by_ .cold), by_ .cold]
  match groups.find? fun g => !g.isEmpty with
  | some g =>
    let (p, s) := s.pick g
    (p.map fun p => (p, true), s)
  | none =>
    let room := all.filter fun p => (s.pumpAt p).queue.length < 16
    let l := if (on room).isEmpty then room else on room
    let shortest := l.foldl (fun a p => min a (s.pumpAt p).queue.length) 16
    let (p, s) := s.pick (l.filter fun p => (s.pumpAt p).queue.length == shortest)
    (p.map fun p => (p, false), s)

/-- A job handed to a pump, to the prefix unit, or left waiting (R313, R315; 12 R363); `die` keeps to the pumps of a die where the
partition has one there that takes the job (08 R244). -/
def State.handOff (s : State) (id : Nat) (die : Option Nat := none) : State :=
  match s.job id with
  | none => s
  | some j =>
    if j.stage != .waiting || s.fenced j then s
    else if j.opcode == 0x50 || j.opcode == 0x52 then
      if s.prefixBusy < 64 then s.readDesc id 16 else s
    else
      let hint := die.getD j.hintOf
      let (own, s) := match die with
        | some d => s.choosePump j hint fun p => p / 4 == d
        | none => (none, s)
      let (dest, s) := if own.isSome then (own, s) else s.choosePump j hint fun _ => true
      match dest with
      | some (p, true) => s.giveJob id p
      | some (p, false) => (s.modPump p fun x => { x with queue := x.queue ++ [id] }).modJob id fun j => { j with stage := .queued p, lastPump := p }
      | none => s

/-- The jobs queued on a pump move to other pumps (08 R242, R244); `die` prefers the pump's own die. -/
def State.requeue (s : State) (p : Nat) (die : Bool) : State :=
  let l := (s.pumpAt p).queue
  let s := s.modPump p fun x => { x with queue := [] }
  l.foldl (fun s id =>
    ((s.dropReads id).modJob id fun j => { j with stage := .waiting, early := false }).handOff id (if die then some (p / 4) else none)) s

/-- Jobs that no pump has are offered again, in order: those a FENCE held and those the prefix unit had no place for. -/
def State.offerJobs (s : State) (f : Job → Bool) : State :=
  ((s.jobs.jobs.filter fun j => j.stage == .waiting && f j).map (·.id)).foldl (fun s id => s.handOff id) s

/-! ## Acceptance (R313) -/

/-- A descriptor is accepted: the signal box reads it for the opcode, the die hint and the FENCE. -/
def State.acceptOne (s : State) (p : Nat) : State :=
  let id := s.jobs.nextId
  let j : Job := { id := id, plat := p, idx := (s.plat p).accepted, stage := .peek, pref := (s.ctx (s.plat p).context).diePref }
  let s := s.modJobs fun x => { x with jobs := x.jobs ++ [j], nextId := id + 1 }
  let s := s.setPlat p fun x => { x with accepted := idxMod (x.accepted + 1), free := x.free - 1, held := x.held + 1 }
  s.askSlot id

def State.acceptFor : Nat → Nat → State → State
  | 0, _, s => s
  | k + 1, p, s =>
    let x := s.plat p
    if x.st == .active && x.free != 0 && x.accepted != x.tail then State.acceptFor k p (s.acceptOne p) else s

/-- Descriptors accepted up to TAIL_SEEN while tokens are free. -/
def State.accept_ (s : State) (p : Nat) : State := State.acceptFor (s.plat p).free p s

/-- The head of the queue of a pump that runs a job reads its descriptor already (08 R234). -/
def State.readEarly (s : State) : State :=
  (List.range 16).foldl (fun s p =>
    let x := s.pumpAt p
    match x.job.bind s.job, x.queue.head?.bind s.job with
    | some k, some j => if k.stage == .running p && j.stage == .queued p && !j.read && !j.early then (s.modJob j.id fun j => { j with early := true }).askSlot j.id else s
    | _, _ => s) s

/-- A descriptor that has come names a station that was lost or reset meanwhile: its job ends with it, unstarted (R341, R622). -/
def State.peeked (s : State) (id : Nat) : State :=
  match s.job id with
  | none => s
  | some j => match j.gone.find? fun x => j.names x.1 with
    | some (n, reset) => s.stopJob id (if reset then .stationReset else .stationLost) (some (s.stnFail n 0 0 0 0)) true
    | none => s.handOff id

/-- Descriptors that have come go to what asked for them; the early one has the first tile of each stream translated. -/
def State.descOnce (s : State) : State :=
  s.readEarly.jobs.jobs.foldl (fun s j => match s.takeSlot j.id with
    | none => s
    | some t => match j.stage with
      | .peek => (t.modJob j.id fun j => { j with stage := .waiting }).peeked j.id
      | .reading p => (t.slotRead j.id).descReady j.id p
      | .queued p => (t.slotRead j.id).prefetch j.id p 4096 1
      -- a job that ended before its descriptor came: its record has TAG and OPCODE from it (R337)
      | .stopped => t
      | _ => s) s.readEarly

def State.descStep (s : State) : State := s.descOnce.descOnce

/-! ## Doorbells (R311, R312, R343; 07 R190) -/

/-- A write that arrived on the station's link before a doorbell: a CXL.mem write not yet committed, or an aperture write not yet
accepted. -/
def State.earlierWrites (s : State) (n seq : Nat) : Bool :=
  let mem := fun (r : Req) => r.seq < seq && r.kind.isWrite && (match r.org with | .host m _ => m == n | _ => false)
  let aper := fun (r : Req) => r.seq < seq && (match r.org with | .aperWrite m _ => m == n | _ => false)
  let either := fun (r : Req) => mem r || aper r
  s.unordered.any either ||
    s.home.waitq.any (fun x => mem x.2) || (s.home.txns.any fun t => match t.purpose with | .serve r => mem r | _ => false) ||
    (s.twin.mirOut.any fun m => mem m.req)

/-- Indices zeroed and the platform ACTIVE again (R343). -/
def State.restartPlat (s : State) (p : Nat) : State :=
  s.setPlat p fun x =>
    { x with st := .active, consumed := 0, accepted := 0, readAhead := [], tail := 0, cqWritten := 0, cqHead := 0 }

/-- Jobs whose record waits for a slot, uncompleted jobs included. -/
def State.dropBell (s : State) (p : Nat) : State := s.setPlat p fun x => { x with dropped := sat 32 (x.dropped + 1) }

/-- A doorbell processed (R312, R318). -/
def State.bell (s : State) (d : Doorbell) : State :=
  let p := d.plat
  let x := s.plat p
  if x.st == .free || x.st == .destroying || x.station != d.stn || d.size != 8 then
    s.logFlt d.stn 6 2 0xFF (0x20000 + 8 * p) Config.noHandle true
  else if d.restart then
    if x.st == .stopped && x.held == 0 && d.tail == 0 && d.head == 0 && d.rsv == 0 then s.restartPlat p else s.dropBell p
  else
    let tailOk := idxSub d.tail x.tail ≤ x.slots && idxSub d.tail x.consumed ≤ x.slots
    let headOk := idxSub d.head x.cqHead ≤ idxSub x.cqWritten x.cqHead
    if (x.st == .active && !tailOk) || !headOk || d.rsv != 0 then s.dropBell p
    else
      let s := s.setPlat p fun x => { x with cqHead := d.head, tail := if x.st == .active then d.tail else x.tail }
      s.accept_ p

/-- Doorbells whose station's earlier writes have been committed are processed, in order. -/
def State.bells (s : State) : State :=
  s.jobs.doorbells.foldl (fun s d =>
    if s.earlierWrites d.stn d.seq then s
    else (s.modJobs fun x => { x with doorbells := x.doorbells.filter (· != d) }).bell d) s

/-- A doorbell arrives at a station. -/
def State.bellIn (s : State) (d : Doorbell) : State :=
  let q := s.home.seq + 1
  (s.modHome fun h => { h with seq := q }).modJobs fun x => { x with doorbells := x.doorbells ++ [{ d with seq := q }] }

/-! ## The end of a job (R315, R337 to R340; 07 R195 to R198) -/

def JobStatus.code : JobStatus → Nat
  | .done => 0 | .doneReplayed => 1 | .xlateFault => 2 | .rightsFault => 3 | .poison => 4 | .stationLost => 5 | .stationReset => 6
  | .stationTimeout => 7 | .domainDown => 8 | .aborted => 9 | .badDescriptor => 0xA | .saturated => 0xB | .unitFault => 0xC

/-- Statuses with which a job has succeeded (R195). -/
def JobStatus.good : JobStatus → Bool
  | .done | .doneReplayed | .saturated => true
  | _ => false

/-- The job writes its seal. -/
def Job.seals (j : Job) : Bool := j.sealEn && (match j.status with | some st => st.good | none => false)

def State.devOf (s : State) (id : Nat) : List DevOut := s.jobs.devOut.filter fun o => o.job == some id

/-- The hold-back of R196. -/
def State.holdBack (s : State) (j : Job) : Bool :=
  if opSpace (j.op 7) == 1 then (s.devOf j.id).all fun o => o.stn != opStation (j.op 7) else j.poolOut == 0

/-- The release of the job's scope has its waits met (07 R184). -/
def State.released (s : State) (j : Job) : Bool :=
  match j.scope with
  | 0 => true
  | 1 => !s.unaccepted j.id
  | 2 => j.poolOut == 0
  | _ => j.poolOut == 0 && (s.devOf j.id).isEmpty && j.twinOut.isEmpty

/-- SEAL_GLOBAL's first steps of its own: M lines to their hosts, and the last twin line read back (07 R198). -/
def State.flushOut (s : State) (j : Job) : State :=
  let s := j.mLines.foldl (fun s (n, a) => match s.cached (.host n a) with
    | some c => if c.hst == .m then s.dirtyEvict c n a (some j.id) 7 a else s
    | none => s) s
  let s := match j.twinLast with
    | some a =>
      let q := s.twin.nextId
      (s.fwdTwin { id := 0, job := some j.id, dpa := a, opnd := 7, addr := a }).modJob j.id fun j => { j with twinOut := j.twinOut ++ [q] }
    | none => s
  s.modJob j.id fun j => { j with flushed := 1 }

/-- The GO of every line that has left M has come; one that timed out is waited for no longer (DESIGN CHOICE,
notes/assumptions/186). -/
def State.evictsDone (s : State) (j : Job) : Bool :=
  !(s.jobs.devOut.any fun o => o.kind.moves && j.mLines.contains (o.stn, o.hpa))

/-- Then a flushing read through each station the job wrote through, once there is room for them (14 R432). -/
def State.flushReads (s : State) (j : Job) : State :=
  if j.hostWrote.any fun x => s.ioFull x.1 then s else
  let s := j.hostWrote.foldl (fun s (n, a) =>
    s.device n (if (s.stnAt n).cacheEn then .rdCurr else .flushRead) .flush a 0 false (some j.id) 7 a) s
  s.modJob j.id fun j => { j with flushed := 2, mLines := [] }

/-- The completion record (R337). -/
def State.cplRecord (s : State) (j : Job) : List Byte :=
  let x := s.plat j.plat
  let st := j.status.getD .done
  let f := match j.fail, j.atEnd with
    | some f, _ => f
    | none, some f => f
    | none, none => s.pumpFail (if j.read then j.lastPump else 16) 0 0 0 0
  let phase := 1 - (x.cqWritten / x.slots) % 2
  le 8 j.tag.toNat ++ le 1 st.code ++ le 1 j.opcode ++ le 1 f.unit ++ le 1 (min 15 j.replays + 16 * f.opnd + 128 * phase) ++ le 1 f.temp ++
    le 1 (f.step + 16 * f.addrKind) ++ le 2 f.rail ++ le 8 f.time ++
    (if st.good then le 4 (sat 32 j.sat) ++ le 4 (sat 32 j.nf) else le 8 f.addr)

/-- A completion slot is free (R317). -/
def Platform.slotFree (x : Platform) : Bool := idxSub x.cqWritten x.cqHead < x.slots

/-- The vector of a finished job (R338). -/
def State.jobIrq (s : State) (j : Job) : State :=
  let x := s.platOf j
  if j.irq && x.vector != Config.noVector then s.raiseVec x.station x.vector else s

/-- A job that has ended XLATE_FAULT or RIGHTS_FAULT counts in its context (13 R379). -/
def State.countEnd (s : State) (id : Nat) : State :=
  match s.job id with
  | none => s
  | some j =>
    let c := s.jobCtx j
    match j.status with
    | some .xlateFault => s.modCtx c fun x => { x with xlateFaults := x.xlateFaults + 1 }
    | some .rightsFault => s.modCtx c fun x => { x with rightsFaults := x.rightsFaults + 1 }
    | _ => s

/-- A job is over: its record is committed, or there is none to write. -/
def State.delJob (s : State) (id : Nat) : State := (s.countEnd id).modJobs fun x => { x with jobs := x.jobs.filter (·.id != id), endOrder := x.endOrder.filter (· != id) }

/-- The record is written into the next slot; CQ_WRITTEN counts it once it is committed (R309). -/
def State.writeRecord (s : State) (j : Job) : State :=
  let x := s.plat j.plat
  let rec_ := s.cplRecord j
  let out := (s.ringIdx x).isSome
  let s := (s.modJobs fun y => { y with endOrder := y.endOrder.filter (· != j.id) }).modJob j.id fun k => { k with status := j.status, fail := j.fail, stage := .recording, lastOut := out }
  s.ringWrite j.plat (x.cplOff x.cqWritten) rec_ (.record j.id)

/-- A record is committed: its token returns, its slot counts as read, and the header follows (R309, R313, R317). -/
def State.recordDone (s : State) (j : Job) : State :=
  let good := (j.status.getD .done).good
  let s := if j.read then s else s.markRead j.plat j.idx
  let s := s.setPlat j.plat fun x =>
    { x with cqWritten := idxMod (x.cqWritten + 1), free := x.free + 1, held := x.held - 1, ok := if good then x.ok + 1 else x.ok, failed := if good then x.failed else x.failed + 1 }
  let s := if j.seals then s.modJob j.id fun j => { j with stage := .recorded }
    else (s.jobIrq j).delJob j.id
  (s.accept_ j.plat).offerJobs fun k => k.plat == j.plat

/-- Records and seals that have been committed or acknowledged (R317, R338; 07 R197). -/
def State.cplStep (s : State) : State :=
  s.jobs.jobs.foldl (fun s k => match s.job k.id with
    | none => s
    | some j =>
      if j.lastOut then s
      else if j.stage == .recording then s.recordDone j
      else if j.stage == .sealing && !((s.devOf j.id).any (·.opnd == 7)) then (s.jobIrq j).delJob j.id
      else s) s

end Sys2Proof.Machine
end

