-- ==== Sys2Proof/Machine/Pump.lean ====
section
/-! DEFINITION. Jobs at work: the start of a job, the loader's turns, tile steps with their checks and replays, the prefix
jobs, the end of a job, and the membership of pumps (08 R219, R237 to R249; 11 R315, R326; 12 R358 to R370). -/
namespace Sys2Proof.Machine

/-! ## What lookups and releases do (12 R360 to R364, R370, R377) -/

/-- The LIVE entry of a key, but for one that was PENDING when the lookup started (R377). -/
def State.keySeen (s : State) (ns : Nat) (pending : List Nat) (k : BitVec 128) : Option (Nat × PfxEnt) :=
  (s.keyLive ns k).filter fun x => !pending.contains x.1

/-- The longest chain of LIVE entries that the keys name, each the parent of the next (R360). -/
def State.chainHits (s : State) (ns : Nat) (pending : List Nat) : Option Nat → List (BitVec 128) → List (Nat × PfxEnt)
  | _, [] => []
  | prev, k :: ks =>
    match s.keySeen ns pending k with
    | none => []
    | some (e, y) =>
      match prev with
      | some q => if y.parent == q then (e, y) :: State.chainHits s ns pending (some e) ks else []
      | none => (e, y) :: State.chainHits s ns pending (some e) ks

/-- The result of a lookup: OUT's bytes and the state it leaves (R360 to R362, R364). -/
def State.lookup (s : State) (j : Job) (ns : Nat) (input : List Byte) : List Byte × State :=
  let n := j.par 0x60 4
  let tok := lookupTokens j
  let dead := (s.ns ns).st == .storeless
  let resume := BitVec.ofNat 128 (j.par 0x70 16)
  let resEnt := if tok && resume != 0 && !dead then s.keySeen ns j.pendAt resume else none
  let miss := tok && resume != 0 && resEnt.isNone
  let keys := if tok then chainKeys (s.ns ns).salt (BitVec.ofNat 64 (j.par 0x68 8)) resume ((List.range n).map fun i => Machine.slice input (64 * i) 64)
    else (List.range n).map fun i => BitVec.ofNat 128 (num input (16 * i) 16)
  let hits := if miss || dead then [] else State.chainHits s ns j.pendAt none keys
  let s := if hits.isEmpty then s
    else (hits.foldl (fun s (e, _) => s.modPfxEnt e fun y => { y with lastUse := s.now }) s).modNs ns fun x => { x with hitBlocks := x.hitBlocks + hits.length }
  let flags := j.par 0x59 1
  let even := j.even.isSome
  let (hold, s) := match nbit flags 0, hits.getLast? with
    | true, some (e, _) => s.makeHold ns e
    | _, _ => (Config.noHandle, s)
  let noHold := nbit flags 0 && !hits.isEmpty && hold == Config.noHandle
  let base := match resEnt with | some (_, y) => y.depth + 1 | none => 0
  let recs := keys.zipIdx.map fun (k, i) => match hits[i]? with
    | some (e, y) => le 16 k.toNat ++ le 8 y.offset ++ le 4 e ++ le 4 y.depth
    | none => le 16 k.toNat ++ le 8 (2 ^ 64 - 1) ++ le 4 Config.noHandle ++ le 4 (if miss then Config.noHandle else base + i)
  let recs := if tok then recs else recs.take hits.length
  let first := if miss || recs.isEmpty then Config.noHandle else match hits.head? with | some (_, y) => y.depth | none => base
  let hdr := le 4 hits.length ++ le 4 hold ++ le 4 first ++ le 4 (bit noHold + 2 * bit miss + 4 * bit even) ++ zeros 48
  (hdr ++ recs.flatten, s)

/-- The outcome of a release or a renewal (R370). -/
def State.release (s : State) (j : Job) (ns : Nat) (input : List Byte) : List Byte × State :=
  (List.range (j.par 0x60 4)).foldl (fun (acc : List Byte × State) i =>
    let (out, s) := acc
    match s.holdOf ns (num input (4 * i) 4) with
    | none => (out ++ [1], s)
    | some h =>
      if j.par 0x58 1 == 0 then (out ++ [0], s.endHold h)
      else
        (out ++ [0], s.modPfx fun p => { p with holds := tmod p.holds h fun x =>
          if x.leaseS == 0 then x else { x with expiry := s.now + x.leaseS * 1000000000 } })) ([], s)

/-- A lookup or a release whose input has come, and whose output can be written, ends. -/
def State.prefixRun (s : State) (j : Job) (ns : Nat) : State :=
  let s := s.loadTurn j.id 16 4096 []
  match s.job j.id with
  | none => s
  | some j =>
    if j.status.isSome || !s.loadsFull j then s
    else
      let (out, s') := if j.opcode == 0x52 then s.release j ns (j.work.buf 0) else s.lookup j ns (j.work.buf 0)
      let ws : List Wr := [{ opnd := 1, off := 0, bytes := out }]
      match s.writesWait j 16 (ws.flatMap (cutWr 8)) with
      | some s => s
      | none => (s'.writeAll j.id 16 ws).finishJob j.id

/-- The work of a lookup or a release that has started. -/
def State.prefixOne (s : State) (id : Nat) : State :=
  match s.job id with
  | some j => if j.status.isSome then s else s.prefixRun j ((s.namedNs (j.par 0x5C 4)).getD 0)
  | none => s

/-- Lookups and releases that started before another prefix job are applied before it, where their input has come (R377). -/
def State.prefixDue (s : State) (before : Nat) : State :=
  let due := (s.jobs.jobs.filter fun j => j.stage == .running 16 && j.status.isNone && j.started < before).mergeSort fun a b => a.started ≤ b.started
  due.foldl (fun s j => s.prefixOne j.id) s

/-- The place of a prefix job that starts now. -/
def State.startPlace (s : State) : Nat := (s.jobs.jobs.map (·.started)).foldl max 0 + 1

/-! ## PREFIX_INSERT (12 R365 to R369) -/

def State.setIns (s : State) (id : Nat) (f : Insert → Insert) : State := s.modJob id fun j => { j with ins := j.ins.map f }

def State.toPhase (s : State) (id phase : Nat) : State := s.modJob id fun j => { j with work := j.work.to phase }

/-- A way and a slot for a new entry, evicting where it must (R366, R373). -/
def State.roomFor : Nat → State → Nat → BitVec 128 → Option (Nat × Nat) × State
  | 0, s, _, _ => (none, s)
  | k + 1, s, ns, key =>
    if (s.ns ns).quota ≤ s.nsUsed ns then
      match s.evictOne ns with
      | some s => State.roomFor k s ns key
      | none => (none, s)
    else match s.freeSlot ns with
      | (none, s) => match s.evictOne ns with
        | some s => State.roomFor k s ns key
        | none => (none, s)
      | (some slot, s) => match s.freeWay key with
        | (some w, s) => (some (w, slot), s)
        | (none, s) => (none, s)

/-- The insert goes through its blocks, in order, to the next that it must copy or wait for (R366). -/
def State.insertRun : Nat → State → Nat → State
  | 0, s, _ => s
  | k + 1, s, id =>
    match s.job id with
    | none => s
    | some j => match j.ins with
      | none => s
      | some x =>
        let n := j.par 0x60 4
        match x.keys[x.at_]? with
        | none => s.toPhase id 9
        | some key => match s.keyEntry x.ns key with
          | some (e, y) =>
            if y.live then
              State.insertRun k ((s.addRef e).setIns id fun x => { x with outs := x.outs ++ [(1, e)], refd := x.refd ++ [e], at_ := x.at_ + 1, waits := false }) id
            else (s.setIns id fun x => { x with waits := true }).toPhase id 8
          | none => match State.roomFor (s.pfx.index.length + 2) s x.ns key with
            | (none, s) =>
              (s.setIns id fun x => { x with outs := x.outs ++ [(2, Config.noHandle)] ++ (List.replicate (n - x.at_ - 1) (3, Config.noHandle)), waits := false }).toPhase id 9
            | (some (e, slot), s) =>
              let ns := s.ns x.ns
              let parent := if x.at_ == 0 then x.parent else (x.outs.getLast?).map (·.2)
              let y : PfxEnt := { key := key, ns := x.ns, live := false, well := ns.store, offset := slot * ns.slotSize, depth := x.depth0 + x.at_,
                                  parent := parent.getD Config.noHandle, refs := 1, children := 0, lastUse := s.now, tag := BitVec.ofNat 64 (j.par 0x68 8) }
              let s := s.modPfx fun p => { p with index := tset p.index e y }
              let s := match parent with | some q => s.modPfxEnt q fun z => { z with children := z.children + 1 } | none => s
              (s.setIns id fun x => { x with pend := some e, refd := x.refd ++ [e], blk := 0, waits := false }).toPhase id 1

/-- The provisional references go (R369, R376). -/
def State.insertEnd (s : State) (id : Nat) : State :=
  match (s.job id).bind (·.ins) with
  | none => s
  | some x =>
    let s := x.refd.foldl (fun s e => s.dropRef e) s
    let s := match x.parent with | some e => s.dropRef e | none => s
    s.modJob id fun j => { j with ins := none }

/-- What OUT receives (R368), with the hold made first (R369): one whose entry the loss of store bytes has freed is none (R357;
notes/assumptions/119). ENTRY of a NO_ROOM, NOT_REACHED or FAILED record is 0xFFFF_FFFF (DESIGN CHOICE: R368 gives it none;
notes/assumptions/174). -/
def State.insertOut (s : State) (j : Job) (x : Insert) : List Wr × State :=
  let n := j.par 0x60 4
  let there := fun (e : Nat) => match tget s.pfx.index e with | some y => y.ns == x.ns && x.keys.contains y.key | none => false
  let deepest := ((x.outs.filter fun o => o.1 ≤ 1).getLast?).filter fun o => there o.2
  let (h, s) := match nbit (j.par 0x59 1) 0, deepest with
    | true, some (_, e) => s.makeHold x.ns e
    | _, _ => (Config.noHandle, s)
  let outs := x.outs ++ List.replicate (n - x.outs.length) (3, Config.noHandle)
  ([{ opnd := 2, off := 0, bytes := le 4 h ++ zeros 4 ++ outs.flatMap fun o => le 1 o.1 ++ zeros 3 ++ le 4 o.2 }], s)

/-- The store of an insert is in a DOWN cistern, or its copy here is FENCED: its next write stops it (06 R167), naming the block's
place. -/
def State.storeDown (s : State) (x : Insert) (p : Nat) : Option Fail :=
  let ns := s.ns x.ns
  match s.named ns.store, x.pend.bind (tget s.pfx.index) with
  | some i, some y =>
    if s.isDown (s.well i) || (s.well i).mirSt == some .fenced then
      some (s.pumpFail p 0 6 2 (ns.store % 65536 * 2 ^ 48 + y.offset + x.blk * kvbSize ns.format ns.width))
    else none
  | _, _ => none

/-- A step of an insert: a block's body, its header after the body, the entry LIVE after its lines, or the end. -/
def State.insertFire (s : State) (j : Job) (p : Nat) : State :=
  match j.ins with
  | none => s
  | some x =>
    let s := s.prefixDue j.started
    let ns := s.ns x.ns
    let b := kvbSize ns.format ns.width
    let put := fun (s : State) (off : Nat) (bs : List Byte) => match s.named ns.store, x.pend.bind (tget s.pfx.index) with
      | some i, some y => s.writeAll j.id p [{ opnd := 6, off := 0, bytes := bs, direct := some (i, y.offset + x.blk * b + off) }]
      | _, _ => s
    if let some f := (if j.work.phase == 1 || j.work.phase == 2 then s.storeDown x p else none) then s.stopJob j.id .domainDown (some f)
    else match j.work.phase with
    | 1 =>
      let h := j.work.buf 0
      let key := ((x.keys[x.at_]?).map (·.toNat)).getD 0
      let h := hdrSeal (Machine.slice h 0 3 ++ le 1 (num h 3 1 % 2 + 2) ++ Machine.slice h 4 12 ++ le 8 (key % 2 ^ 64) ++ Machine.slice h 0x18 39)
      (put s 64 (j.work.buf 1)).modJob j.id fun j => { j with work := { j.work.to 2 with kept := [{ bytes := h }] } }
    | 2 =>
      let s := put s 0 (j.work.keep 0)
      if x.blk + 1 < ns.nlayers * ns.nkvh then (s.setIns j.id fun x => { x with blk := x.blk + 1 }).toPhase j.id 1 else s.toPhase j.id 3
    | 3 =>
      match x.pend with
      | none => s
      | some e =>
        let s := s.modPfxEnt e fun y => { y with live := true, lastUse := s.now }
        let s := s.setIns j.id fun x => { x with pend := none, outs := x.outs ++ [(0, e)], at_ := x.at_ + 1 }
        State.insertRun 1025 s j.id
    | 9 =>
      let (ws, s') := s.insertOut j x
      match s.writesWait j p ws with
      | some s => s
      | none => ((s'.writeAll j.id p ws).insertEnd j.id).modJob j.id fun j => { j with work := { j.work with finished := true } }
    | _ => s

/-- A stop of a descriptor that names no operand. -/
def State.descStop (s : State) (id p opnd off : Nat) (st : JobStatus) : State := s.stopJob id st (some (s.pumpFail p opnd 0 3 off))

/-- The checks of an insert before any effect, and its PARENT's reference (R358, R365, R376). -/
def State.insertStart (s : State) (j : Job) (p : Nat) : State :=
  match s.nsFor j.plat (j.par 0x5C 4) with
  | (_, some st) => s.descStop j.id p 0 0x5C st
  | (ns, none) =>
    if (s.ns ns).st != .live then s.descStop j.id p 0 0x5C .badDescriptor
    else
      let s := s.modJob j.id fun j => { j with started := s.startPlace }
      let parent := BitVec.ofNat 128 (j.par 0x70 16)
      if parent == 0 then s.modJob j.id fun j => { j with ins := some { ns := ns, depth0 := 0, parent := none } }
      else match s.keyLive ns parent with
        | none => s.descStop j.id p 0 0x70 .badDescriptor
        | some (e, y) => (s.addRef e).modJob j.id fun j => { j with ins := some { ns := ns, depth0 := y.depth + 1, parent := some e } }

/-- The keys of an insert, once its tokens have come (R351, R365), and after what started before it (R377). -/
def State.insertKeys (s : State) (id : Nat) : State :=
  match s.job id with
  | none => s
  | some j => match j.ins with
    | none => s
    | some x =>
      let s := s.prefixDue j.started
      let blocks := (List.range (j.par 0x60 4)).map fun i => Machine.slice (j.work.buf 0) (64 * i) 64
      let keys := chainKeys (s.ns x.ns).salt (BitVec.ofNat 64 (j.par 0x68 8)) (BitVec.ofNat 128 (j.par 0x70 16)) blocks
      State.insertRun 1025 (s.setIns id fun x => { x with keys := keys }) id

/-! ## Loader turns and steps -/

/-- Once every load of a phase has come: its step begins, or the operator goes on where the phase only loads. -/
def State.afterLoads (s : State) (id : Nat) (before : Bool) : State :=
  match s.job id with
  | none => s
  | some j =>
    if j.status.isSome || !s.loadsFull j || !j.work.again.isEmpty || j.tiles.any (·.again.isSome) then s
    else
      let s := if before then s else s.modJob id fun j => { j with stepStart := s.now }
      if j.opcode == 0x51 && j.work.phase == 0 then s.insertKeys id
      else match jobNext j with
        | some w => s.modJob id fun j => { j with work := w }
        | none => s

/-- A turn of the loader of pump `p` (R227). -/
def State.turn (s : State) (id p lines : Nat) (host : List (Line × Bool)) : State :=
  match s.job id with
  | none => s
  | some j => (s.loadTurn id p lines host).afterLoads id (s.loadsFull j)

/-- The job that runs on a pump. -/
def State.onPump (s : State) (p : Nat) : Option Job := ((s.pumpAt p).job.bind s.job).filter fun j => j.stage == .running p

/-- What a step works on is in its buffers: no tile of it is to be loaded again. -/
def Job.buffersGood (j : Job) : Bool := j.work.again.isEmpty && j.tiles.all (·.again.isNone)

/-- All loads of the step are in, and it waits for nothing else. -/
def State.stepReady (s : State) (j : Job) : Bool :=
  s.loadsFull j && j.buffersGood && j.wq.isEmpty && (jobNext j).isNone && !jobWaits j && !j.work.finished

/-- A job whose work is done ends once its lines have entered the write queue (07 R184). -/
def State.finishStep (s : State) : State :=
  s.jobs.jobs.foldl (fun s k => match s.job k.id with
    | some j => if j.status.isNone && j.work.finished && j.wq.isEmpty then s.finishJob j.id else s
    | none => s) s

/-- A step whose checks passed: its results enter the write queue (R219, R199). One that consumes spoiled working data stops the
job (R225). -/
def State.fire (s : State) (j : Job) (p : Nat) : State :=
  if j.work.spoiled.isSome then s.stopJob j.id .poison (some (s.pumpFail p 0 (stepCode (arrayOp j.opcode)) 0 0))
  else if j.opcode == 0x51 then (s.insertFire j p).finishStep
  else match jobFire j with
    | .stop x => s.stopJob j.id x.st (some (s.pumpFail p x.opnd x.step x.kind x.addr))
    | .go ws w st nf =>
      match s.writesWait j p (ws.flatMap (cutWr 8)) with
      | some s => s
      | none =>
        let s := s.writeAll j.id p ws
        let s := s.modJob j.id fun j =>
          { j with work := w, sat := sat 32 (j.sat + st), nf := sat 32 (j.nf + nf), stepStart := s.now }
        s.finishStep

/-- A check that failed: the results are discarded and the step is to run again (R245); the record will describe the first
failure. -/
def State.checkFail (s : State) (j : Job) (p : Nat) (op : StepOp) (inj : Bool) : State :=
  let f := s.pumpFail p 0 (stepCode op) 0 0
  s.modJob j.id fun j => { j with replay := .first op, replays := j.replays + 1, injected := inj, fail := some (match j.fail with | some g => g | none => f), stepStart := s.now }

/-- A pump judged permanently faulty (R246, R249). -/
def State.pumpFaulty (s : State) (p : Nat) (inj : Bool) : State := s.record { source := 0x0302, unit := p, permanent := true, injected := inj }

/-- Operators whose steps pass operand bytes through the array (08 R215; 17 R541). -/
def usesArray (opcode : Nat) : Bool := opcode == 0x01 || opcode == 0x02 || opcode == 0x30 || opcode == 0x31

/-- An execution of a step of a job on a pump meets an injected parity or checksum corruption, which it uses up (17 R541). -/
def State.meetInjection (s : State) (j : Job) (p : Nat) : Bool × State :=
  let x := s.pumpAt p
  if !usesArray j.opcode || (x.parityInj == 0 && x.csumInj == 0) then (false, s)
  else (true, s.modPump p fun x => { x with parityInj := 0, csumInj := x.csumInj - 1 })

/-- The job runs its step a third time, on pump `q` (R246), which wakes first where it is not Hot (R237). -/
def State.thirdOn (s : State) (j : Job) (op : StepOp) (p q : Nat) : State :=
  let s := if q == p then s
    else (s.modPump q fun x => { x with job := some j.id, waking := x.clk != .hot }).setPlat j.plat fun x => { x with held := x.held + 1 }
  s.modJob j.id fun j => { j with replay := .third op q, stepStart := s.now }

/-- Another pump of the partition that is idle, on the same die first (R246). -/
def State.idlePump (s : State) (j : Job) (p : Nat) : Option Nat × State :=
  let part := (s.plat j.plat).partition
  let l := (List.range 16).filter fun q => q != p && (s.pumpAt q).takes part && (s.pumpAt q).job.isNone
  s.pick (if (l.filter fun q => q / 4 == p / 4).isEmpty then l else l.filter fun q => q / 4 == p / 4)

/-- A step that waits for another pump gets one that has become idle in time (R246). -/
def State.replayStep (s : State) : State :=
  s.jobs.jobs.foldl (fun s j => match j.replay with
    | .wait op d => if s.now ≤ d then match s.idlePump j j.lastPump with
        | (some q, s) => s.thirdOn j op j.lastPump q
        | (none, s) => s
      else s
    | _ => s) s

/-! ## Starts (R326, R327) -/

/-- The job of a platform's slot in a stage. -/
def State.jobAt (s : State) (plat idx : Nat) (f : Job → Bool) : Option Job := s.jobs.jobs.find? fun j => j.plat == plat && j.idx == idx && f j

/-- The pump on which a job's start row runs. -/
def Job.readyOn (j : Job) : Option Nat :=
  match j.stage with
  | .ready p => some p
  | _ => none

/-- The checks before the first tile, and the start (R326; 08 R221, R223). An overlap comes before a scratchpad byte that the job may not
name (R331, R340; DEDUCED, notes/assumptions/185). -/
def State.begin_ (s : State) (j : Job) (p : Nat) : State :=
  match s.descBad j with
  | some (k, off) => s.descStop j.id p k off .badDescriptor
  | none =>
    if j.opcode == 0x20 && rangesMeet (j.op 0) 0 (j.par 0x60 8) (j.op 1) 0 (j.par 0x60 8) then s.descStop j.id p 1 0x28 .badDescriptor
    else match s.scratchBad j with
      | some (k, a) => s.stopJob j.id .rightsFault (some (s.pumpFail p k (if k == 7 || writesOpnd j.opcode k then 6 else 5) 1 a))
      | none =>
        let s := s.modJob j.id fun j => { j with stage := .running p, stepStart := s.now }
        match j.opcode with
        | 0 => s.finishJob j.id
        | 0x50 | 0x52 => match s.nsFor j.plat (j.par 0x5C 4) with
          | (_, some st) => s.descStop j.id p 0 0x5C st
          | (i, none) =>
            let pending := (s.pfx.index.filter fun x => x.2.ns == i && !x.2.live).map (·.1)
            (s.modJob j.id fun j => { j with pendAt := pending }).prefetch j.id p 4096
        | 0x51 => (s.insertStart j p).prefetch j.id p 4096
        | _ => s.prefetch j.id p 4096

/-- The pump's write queue still holds writes of an earlier job that no PUMP release has covered (R236). -/
def State.queueBusy (s : State) (j : Job) (p : Nat) : Bool :=
  let other := fun (job : Option Nat) => job != some j.id && !((s.pumpAt p).covered.any fun k => job == some k)
  ((s.unacceptedOf p).any fun r => other r.org.ofJob) || ((s.hostWrites p).any fun o => other o.job) || ((s.twinWrites p).any fun f => other f.job) ||
    s.jobs.jobs.any fun k => k.id != j.id && k.lastPump == p && !k.wq.isEmpty

/-- A start row of an opcode. -/
def State.startRow (s : State) (op plat idx : Nat) : State :=
  match s.jobAt plat idx fun j => j.opcode == op && j.readyOn.isSome with
  | some j =>
    let p := j.readyOn.getD 16
    if p < 16 && s.queueBusy j p then s else s.begin_ j p
  | none => s

/-! ## The rows of PREFIX_LOOKUP and PREFIX_RELEASE (12 R358, R363, R364) -/

/-- The bound of R363 in ns from the start. -/
def lookupBound (j : Job) : Nat :=
  let n := j.par 0x60 4
  let inB := n * (if lookupTokens j then 64 else 16)
  let outB := 64 + 32 * n
  4000 + (if lookupTokens j then 20 * n else 0) + (if opSpace (j.op 0) == 1 then (inB + 49) / 50 else 0) +
    (if opSpace (j.op 1) == 1 then (outB + 49) / 50 else 0)

/-- A lookup or a release starts: its namespace is checked, and an EVEN lookup gets its bound (R358, R363, R364). -/
def State.prefixStart (s : State) (j : Job) : State :=
  let h := j.par 0x5C 4
  let even := j.opcode == 0x50 && (nbit (j.par 0x59 1) 1 || (match s.namedNs h with | some i => (s.ns i).even | none => false))
  let s := s.modJob j.id fun j => { j with started := s.startPlace, even := if even then some (s.now + lookupBound j) else none }
  s.begin_ j 16

/-- The row of a lookup or a release: its start where it is ready, and its work. -/
def State.prefixRow (s : State) (op plat idx : Nat) : State :=
  match s.jobAt plat idx fun j => j.opcode == op && (j.stage == .ready 16 || j.stage == .running 16) with
  | none => s
  | some j =>
    let s := if j.stage == .ready 16 then s.prefixStart j else s
    let s := match s.job j.id with | some j => s.prefixDue j.started | none => s
    s.prefixOne j.id

/-! ## The end of a job (R315, R335; 07 R194 to R198) -/

/-- The station through which the last writes of a job would go is the one whose loss or reset has ended it. -/
def Job.outLost (j : Job) (k : Nat) : Bool :=
  opSpace (j.op k) == 1 && (j.status == some .stationLost || j.status == some .stationReset) &&
    (match j.fail with | some f => f.unit == 0x40 + opStation (j.op k) | none => false)

/-- What a job that stopped short still writes: the old values of the atomic operations that were applied, and an insert's
outcomes (R335; 12 R368, R369); none while a translation is awaited. -/
def State.endingWrites (s : State) (j : Job) : Option State :=
  let out := fun (s : State) (ws : List Wr) (k : Nat) =>
    if j.outLost k then some s
    else match s.writesWait j j.lastPump (ws.flatMap (cutWr 8)) with
      | some _ => none
      | none => some (s.writeEnding j.id j.lastPump ws)
  match j.ins with
  | some x =>
    let (ws, s) := s.insertOut j x
    (out s ws 2).map fun s => s.insertEnd j.id
  | none =>
    if j.opcode == 0x24 && !j.work.finished then
      (out s (atomicOuts j) 2).map fun s => s.modJob j.id fun j => { j with work := { j.work with finished := true } }
    else some s

/-- The waits for translations that the last writes of a job need. -/
def State.endingWaits (s : State) (j : Job) : State :=
  let ws := match j.ins with
    | some x => (s.insertOut j x).1
    | none => atomicOuts j
  (s.writesWait j j.lastPump (ws.flatMap (cutWr 8))).getD s

/-- Where the seal goes, or why it is refused (R194, R326). -/
def State.sealTarget (s : State) (j : Job) : Tr :=
  let twin := opSpace (j.op 7) == 0 && (match s.rangeAt (s.jobCtx j) (opAddr (j.op 7)) with | some (_, r) => r.twin | none => false)
  if twin then .fault .badDescriptor else s.xlate j j.lastPump (j.op 7) (opAddr (j.op 7)) .w

/-- A job ends: its record's place is fixed, and writes that a PUMP release has covered stay in the write queue (R315; 08 R236). -/
def State.jobOver (s : State) (j : Job) : State :=
  let f := s.pumpFail (if j.read then j.lastPump else 16) 0 0 0 0
  let s := (s.modJob j.id fun j => { j with stage := .ended, atEnd := some f }).modJobs fun x => { x with endOrder := x.endOrder ++ [j.id] }
  if j.seals && j.lastPump < 16 then s.modPump j.lastPump fun x => { x with covered := x.covered ++ [j.id] } else s

/-- The release at the end of a job that writes a seal, with SEAL_GLOBAL's steps at SYSTEM scope (07 R184, R196, R198). -/
def State.sealRelease (s : State) (j : Job) : State :=
  let now := fun (s : State) (f : State → Job → State) => match s.job j.id with
    | some j => if s.holdBack j && s.released j then f s j else s
    | none => s
  now s fun s j =>
    if j.scope != 3 then s.jobOver j
    else
      let s := if j.flushed == 0 then s.flushOut j else s
      now s fun s j =>
        let s := if j.flushed == 1 && s.evictsDone j then s.flushReads j else s
        now s fun s j => if j.flushed == 2 then s.jobOver j else s

/-- The job's descriptor has not come yet. -/
def Job.unread (j : Job) : Bool := j.desc.isEmpty && !j.slot.isEmpty

/-- A job whose work has stopped ends, in the order that fixes its record's place (R315), once its descriptor has come. -/
def State.endOf (s : State) (id : Nat) : State :=
  match s.job id with
  | none => s
  | some j =>
    if j.stage != .stopped || j.unread || (j.opcode == 0x24 && (j.poolOut != 0 || !j.twinOut.isEmpty) && !j.work.finished) then s
    else match s.endingWrites j with
      | none => s.endingWaits j
      | some s => match s.job id with
        | none => s
        | some j =>
          let refused := fun (s : State) (st : JobStatus) (f : Fail) =>
            let j := { j with status := some st, fail := some (f.after j.fail) }
            (s.modJob id fun _ => j).jobOver j
          if !j.wq.isEmpty then s
          else if j.noRecord then s.delJob id
          else if !j.seals then s.jobOver j
          else match s.sealTarget j with
            | .stall => s
            | .ats n page => s.atsAsk n { page := page, job := id, opnd := 7, addr := opAddr (j.op 7), step := 6, deadline := s.now + (s.stnAt n).ctoUs * 1000 }
            | .fault .badDescriptor => refused s .badDescriptor (s.pumpFail j.lastPump 7 0 3 0x10)
            | .fault st => refused (s.noteUnbacked j.lastPump j 7 (opAddr (j.op 7)) st) st (s.pumpFail j.lastPump 7 6 1 (opAddr (j.op 7)))
            | .ok _ _ => s.sealRelease j

/-- The ended job of a platform whose record is next: the first in order, once the record before it is committed (R309, R315). -/
def State.firstEnded (s : State) (p : Nat) : Option Job :=
  if s.jobs.jobs.any fun j => j.plat == p && j.stage == .recording then none else s.jobs.endOrder.findSome? fun id => (s.job id).filter fun j => j.plat == p

/-- The seal issued as the job's last write (07 R197). -/
def State.writeSeal (s : State) (j : Job) : State :=
  match s.sealTarget j with
  | .ok t _ =>
    let s := s.modJob j.id fun j => { j with stage := .sealing, lastOut := match t with | .pool _ _ => true | _ => false }
    s.issueLine j.id { tile := 0, opnd := 7, addr := opAddr (j.op 7), tgt := t, bytes := le 8 (j.par 0x18 8), pois := false } (.seal j.id)
  | .fault _ => (s.jobIrq j).delJob j.id
  | _ => s

/-! ## Pumps in and out (08 R242 to R244, R249) -/

/-- The exchange area of a pump reads zero (08 R224). -/
def State.zeroExchange (s : State) (p : Nat) : State :=
  s.zeroRun (Config.scratchBase + p * Config.scratchStride + 0x1000000) 0x800000

/-- Pumps that wait to change partition do so once they are idle; waiting jobs follow (08 R242). -/
def State.moveStep (s : State) : State :=
  let s := (List.range 16).foldl (fun s p =>
    let x := s.pumpAt p
    match x.moving with
    | some dst =>
      if x.job.isNone then (s.zeroExchange p).modPump p fun x => { x with moving := none, part := dst, rcache := [] } else s
    | none => s) s
  (s.jobs.partRuns.filter fun r => (List.range 16).all fun p => (s.pumpAt p).moving.isNone ||
      !(r.pumps.contains p || (s.pumpAt p).part == some r.part)).foldl (fun s r =>
    (s.modJobs fun x => { x with partRuns := x.partRuns.filter (· != r) }).ready r.wb .ok []) s

/-- An operation of an ATOMIC job that found its line poisoned ends the job (R335). -/
def State.atomStep (s : State) : State :=
  s.jobs.jobs.foldl (fun s j =>
    if j.status.isNone && j.opcode == 0x24 then
      match j.work.atoms.find? fun x => x.2.isNone with
      | some (i, _) =>
        let f := s.pumpFail j.lastPump 1 6 1 (lineAddr (j.at_ 1 (num (atomicRec j i) 0 8)))
        s.stopJob j.id .poison (some f)
      | none => s
    else s) s

/-- A hang or another reaction resets a pump's block: the running job ends UNIT_FAULT (17 R521). -/
def State.pumpReset (s : State) (p : Nat) : State :=
  match (s.pumpAt p).job.bind s.job with
  | some j => s.stopJob j.id .unitFault (some (s.pumpFail p 0 0 0 0))
  | none => s

/-- A running job's inserts that waited for another's entry go on (12 R366). -/
def State.insertWaiting (s : State) (j : Job) : Bool :=
  match j.ins with
  | some x => x.waits && (match (x.keys[x.at_]?).bind (s.keyEntry x.ns) with | some (_, y) => y.live | none => true)
  | none => false

end Sys2Proof.Machine
end

