-- ==== Sys2Proof/Machine/Drains.lean ====
section
/-! DEFINITION. Jobs that end with a station, a ring or a platform: lost stations, aborts, lost rings, drains and destroys (07 R200;
11 R319 to R322, R341, R622). -/
namespace Sys2Proof.Machine

/-! ## Lost stations (R341, R622) -/

/-- The accesses of a job through a station that are outstanding or not yet sent, in the order of their issue: operand, step and
address; the seal of a job whose work is done comes last. -/
def State.lostAccesses (s : State) (j : Job) (n : Nat) : List (Nat × Nat × Nat) :=
  let at_ := fun (t : Target) => match t with | .host m _ => m == n | _ => false
  let isRead := fun (k : DevKind) => match k with | .read _ => true | _ => false
  ((s.devOf j.id).filter fun o => o.stn == n && o.kind != .evict && o.kind != .flush).map (fun o => (o.opnd, if isRead o.kind then 5 else 6, o.addr)) ++
    (j.tiles.flatMap fun t => (t.reads.filter fun r => at_ r.tgt && r.got.isNone).map fun r => (t.opnd, 5, r.addr)) ++
    (j.wq.filter fun q => at_ q.tgt).map (fun q => (q.opnd, 6, q.addr)) ++
    ((s.stnAt n).atsReqs.filter fun q => q.job == j.id && !q.ahead).map (fun q => (q.opnd, q.step, q.addr)) ++
    (if j.seals && opSpace (j.op 7) == 1 && opStation (j.op 7) == n then [(7, 6, opAddr (j.op 7))] else [])

/-- What the record of a job ended with a station says (R622). -/
def State.lostFail (s : State) (j : Job) (n : Nat) : Fail :=
  match s.lostAccesses j n with
  | (k, step, a) :: _ => s.stnFail n k step 1 (lineAddr a)
  | [] => s.stnFail n 0 0 0 0

/-- A job ended by something that is not its own: also one whose work is done and whose record is not yet written (07 R200). Once its record is
being written, an access that times out leaves the record's status and its seal as they are, and a seal that itself times out counts as
acknowledged (DESIGN CHOICE: 11 R342 does not say, 07 R200 settles it for a reset and DL_Down alone; notes/assumptions/173). -/
def State.endJob (s : State) (j : Job) (st : JobStatus) (f : Option Fail) (lost : Bool := false) : State :=
  match j.status with
  | none => s.stopJob j.id st f lost
  | some old =>
    if old.good && (j.stage == .stopped || j.stage == .ended) then
      s.modJob j.id fun j => { j with status := some st, fail := match f with | some f => some (if lost then f.lost j.fail else f.after j.fail) | none => j.fail }
    else s

/-- A job whose record is written and not yet committed ends otherwise: another record takes the place of that one (07 R200; R341). -/
def State.rerecord (s : State) (j : Job) (st : JobStatus) (f : Fail) : State :=
  let swap := fun (r : Req) => if r.org == .record j.id then { r with org := .own } else r
  (s.mapReqs swap).writeRecord { j with status := some st, fail := some (f.lost j.fail) }

/-- Writes of a job through a station are discarded (07 R200). -/
def State.writesLost (s : State) (j : Job) (n : Nat) : Bool := (s.devOf j.id).any fun o => o.stn == n && o.kind.mask.isSome

/-- A station is reset or lost: the jobs that use it, its writes in flight, its host lines and its platforms (R341). A job whose
record is committed keeps it, and writes no seal where writes of it, or the seal itself, go with the station (07 R200). -/
def State.stationJobs (s : State) (n : Nat) (reset : Bool) : State :=
  let st : JobStatus := if reset then .stationReset else .stationLost
  let s := s.jobs.jobs.foldl (fun s k => match s.job k.id with
    | none => s
    | some j =>
      let sealHere := j.seals && opSpace (j.op 7) == 1 && opStation (j.op 7) == n
      let s := s.modJob j.id fun j => { j with wq := j.wq.filter fun q => match q.tgt with | .host m _ => m != n | _ => true }
      if j.committed then
        if sealHere then s.delJob j.id
        else if j.stage == .recorded && s.writesLost j n then (s.jobIrq j).delJob j.id
        else s
      else if (s.plat j.plat).station == n || j.names n || s.writesLost j n then
        if j.stage != .recording then s.endJob j st (some (s.lostFail j n)) true
        else if (j.status.map (·.good)) == some true then s.rerecord j st (s.lostFail j n)
        else s
      else if j.stage == .peek then s.modJob j.id fun j => { j with gone := j.gone ++ [(n, reset)] }
      else s) s
  let s := s.modJobs fun x => { x with devOut := x.devOut.filter (·.stn != n) }
  let ids := s.jobs.devOut.map (·.id)
  let s := { s with cache := { s.cache with moving := s.cache.moving.filter (fun m => ids.contains m.1),
                                            snoops := s.cache.snoops.filter (·.1 != n) } }
  let s := s.setLines (s.cache.lines.filter fun c => match c.key with | .host m _ => m != n | .pool _ => true)
  ((s.jobs.plats.filter fun x => x.2.station == n && x.2.st != .free).map (·.1)).foldl
    (fun s p => s.setPlat p fun x => { x with st := if x.st == .destroying then .destroying else .stopped }) s

/-! ## Aborts (R322) -/

/-- Uncompleted jobs of a platform. -/
def State.jobsOf (s : State) (p : Nat) : List Job := s.jobs.jobs.filter fun j => j.plat == p && !j.committed && !j.noRecord

/-- ABORT: every accepted job ends ABORTED_BY_DRAIN, a running one before its next tile (R322). -/
def State.abortPlat (s : State) (p : Nat) : State :=
  (s.jobsOf p).foldl (fun s j =>
    s.stopJob j.id .aborted (if j.read then some (s.pumpFail j.lastPump 0 0 0 0) else none)) s

/-! ## Lost rings (R319) -/

/-- A job that still has something to write ends without a record once that is done; any other is gone. -/
def State.dropJob (s : State) (j : Job) : State :=
  match s.job j.id with
  | some j =>
    if j.ins.isSome || !j.wq.isEmpty || (j.opcode == 0x24 && j.stage == .stopped && !j.work.finished) then
      s.modJob j.id fun k => { k with noRecord := true, was := some (s.plat j.plat) }
    else s.delJob j.id
  | none => s

/-- The ring is lost: every job ends as under ABORT, without a record. A PLATFORM_DESTROY that runs counts the records it could
not write, and ends (R319, R321). -/
def State.loseRing (s : State) (p : Nat) : State :=
  let s := s.abortPlat p
  let lost := s.jobsOf p
  let s := lost.foldl (fun s j => s.dropJob j) s
  let wb := (s.plat p).wb
  let early := (s.plat p).earlier
  let s := s.modPlat p fun x =>
    { x with earlier := [], st := if x.st == .destroying then .destroying else .drained, ringLost := true, free := x.allot, held := 0,
             abandoned := if x.st == .destroying then x.abandoned + lost.length else x.abandoned }
  let s := s.record { source := 0x0703, object := p }
  let s := early.foldl (fun s w => s.ready w .ok []) s
  match wb with
  | some w => if (s.plat p).st == .destroying then s else (s.modPlat p fun x => { x with wb := none }).ready w .ok []
  | none => s

/-- Platforms whose ring lies in a well at or beyond an offset lose it (R319). -/
def State.ringsLost (s : State) (well frm : Nat) : State :=
  ((s.jobs.plats.filter fun x =>
    x.2.st != .free && !x.2.ringLost && s.named x.2.ringWell == some well && frm < x.2.ringOff + ringBytes x.2.slotsLog2).map (·.1)).foldl
    (fun s p => s.loseRing p) s

/-! ## Lost stores (12 R357) -/

/-- An insert whose namespace loses bytes of its store: its references and its block went with the entries. With the store gone it
stops; otherwise it makes no further entry (notes/assumptions/119). -/
def State.breakInsert (s : State) (id : Nat) (gone : Bool) : State :=
  match s.job id with
  | none => s
  | some j =>
    let s := s.setIns id fun x => { x with refd := [], parent := none, pend := none, waits := false }
    if j.status.isSome || j.ins.isNone || (j.work.phase == 9 && !gone) then s
    else if gone then s.stopJob id .badDescriptor (some (s.pumpFail j.lastPump 0 0 3 0x5C))
    else
      let store := (j.wq.filter fun q => q.opnd == 6).map (·.tile)
      ((s.dropReads id).modJob id fun j =>
        { j with tiles := [], wq := j.wq.filter (fun q => q.opnd != 6), wTiles := j.wTiles.filter fun t => !store.contains t.id }).toPhase id 9

/-- The store of a namespace loses bytes: its holds end and its entries go, and its inserts lose them; a destroyed store leaves it
STORELESS (R357). -/
def State.storeLost (s : State) (well : Nat) (destroyed : Bool) : State :=
  ((s.pfx.nss.filter fun x => (x.2.st == .live || x.2.st == .destroying) && x.2.store % 65536 == well).map (·.1)).foldl (fun s i =>
    let s := (s.endHolds i).freeEntries i
    let s := if destroyed then s.modNs i fun x => { x with st := if x.st == .live then .storeless else x.st, store := Config.noHandle } else s
    (s.jobs.jobs.filter fun j => match j.ins with | some x => x.ns == i | none => false).foldl (fun s j => s.breakInsert j.id destroyed) s) s

/-! ## Drains and destroys (R321, R322) -/

/-- Records of a platform being destroyed that find no slot are abandoned with their tokens (R321). -/
def State.abandon (s : State) (p : Nat) : State :=
  let x := s.plat p
  if x.st != .destroying || x.slotFree then s
  else
    let l := (s.jobsOf p).filter fun j => j.stage == .ended
    l.foldl (fun s j => (s.delJob j.id).setPlat p fun x => { x with free := x.free + 1, held := x.held - 1, abandoned := x.abandoned + 1 }) s

/-- A platform is FREE; a seal of it that is still to be written, or to be acknowledged, goes on as the platform stood. -/
def State.endPlat (s : State) (p : Nat) : State :=
  let s := s.setPlat p fun x => { x with st := .free }
  let x := s.plat p
  let s := s.modJobs fun y => { y with jobs := y.jobs.map fun j => if j.plat == p && j.was.isNone then { j with was := some x } else j }
  s.modPlat p fun _ => {}

/-- Drains and destroys whose last token has returned complete (R321, R322). -/
def State.platStep (s : State) : State :=
  (s.jobs.plats.filter fun x => x.2.st == .draining || x.2.st == .destroying || (x.2.st == .stopped && (x.2.wb.isSome || !x.2.earlier.isEmpty))).foldl (fun s (p, _) =>
    let s := s.abandon p
    let x := s.plat p
    if x.held != 0 then s
    else
      let s := x.earlier.foldl (fun s w => s.ready w .ok []) (s.modPlat p fun x => { x with earlier := [] })
      match x.st with
      | .draining => ((s.setPlat p fun x => { x with st := .drained, wb := none })).readyOpt x.wb .ok []
      | .stopped => (s.modPlat p fun x => { x with wb := none }).readyOpt x.wb .ok []
      | .destroying => (s.endPlat p).readyOpt x.wb .ok (le 4 x.abandoned)
      | _ => s) s

end Sys2Proof.Machine
end

