-- ==== Sys2Proof/Machine/Wells.lean ====
section
/-! DEFINITION. Wells and cisterns: placement and release of bytes, the byte books, the ends of revocations, migration of
chunks, and recoveries (02 R25 to R28; 03 R47 to R96; 06 R169 to R176). -/
namespace Sys2Proof.Machine

/-! ## Placement (02 R25 to R28; 03 R47, R66) -/

/-- Bytes a well takes from the pool, those of a resize in progress included. -/
def Well.span (w : Well) : Nat := max w.length ((w.resize.map (·.newLen)).getD 0)

/-- Runs (DPA, length) that hold bytes of a well or of a migration's target. -/
def State.spans (s : State) : List (Nat × Nat) :=
  s.pool.wells.flatMap fun (_, w) =>
    if w.st == .free then []
    else (w.start, w.span) :: (match w.mig with | some m => [(m.start, w.length)] | none => [])

def overlaps (a n : Nat) (r : Nat × Nat) : Bool := a < r.1 + r.2 && r.1 < a + n

/-- The first pool quarter-frame of a die (02 R26). -/
def firstQuarter (d : Nat) : Nat := if d == 0 then 88 else 56

/-- Quarter-frames of a die in use. -/
def State.quartersUsed (s : State) (d : Nat) : List Nat :=
  s.pool.granules.flatMap fun (_, g) =>
    match g.place with
    | .free => []
    | .loc e => if e.val == d then [g.q0, g.q0 + 1, g.q0 + 2, g.q0 + 3] else []
    | .spread => [[g.q0, g.q1, g.q2, g.q3].getD d 0]

/-- Free quarter-frames of a die. -/
def State.freeQuarters (s : State) (d : Nat) : List Nat :=
  let used := s.quartersUsed d
  (List.range 3072).filter fun q => firstQuarter d ≤ q && !used.contains q

/-- First quarter-frames of the free frames of a die. -/
def State.freeFrames (s : State) (d : Nat) : List Nat :=
  let used := s.quartersUsed d
  ((List.range 768).map (4 * ·)).filter fun q => firstQuarter d ≤ q && (List.range 4).all fun k => !used.contains (q + k)

/-- How many more granules can take a placement. -/
def State.framesFor (s : State) (p : Place) : Nat :=
  match p with
  | .free => 0
  | .loc d => (s.freeFrames d.val).length
  | .spread => (List.range 4).foldl (fun a d => min a (s.freeQuarters d).length) 3072

/-- The granules a run touches. -/
def granulesOf (a n : Nat) : List Nat :=
  if n == 0 then [] else (List.range ((a + n - 1) / Config.gib - a / Config.gib + 1)).map (· + a / Config.gib)

/-- A run of free bytes that can take a placement (R25, R48). -/
def State.runFits (s : State) (p : Place) (spans : List (Nat × Nat)) (frames a n : Nat) : Bool :=
  let gs := granulesOf a n
  a % 65536 == 0 && a + n ≤ Config.poolEnd && !spans.any (overlaps a n) &&
    gs.all (fun g => (s.granule g).place == p || (s.granule g).place == .free) &&
    (gs.filter fun g => (s.granule g).place == .free).length ≤ frames

/-- Where a run could start or end: the edges of runs in use and of granules. -/
def edges (spans : List (Nat × Nat)) : List Nat :=
  (List.range 3009).map (· * Config.gib) ++ spans.map (·.1) ++ spans.map fun r => r.1 + r.2

/-- A free run of `n` bytes for a placement: the one the module proposes, where it fits, else the first that does
(notes/assumptions/8). -/
def State.findRun (s : State) (p : Place) (n : Nat) : Option Nat × State :=
  let spans := s.spans
  let frames := s.framesFor p
  let (k, s) := s.choose (Config.poolEnd / 65536)
  if s.runFits p spans frames (k * 65536) n then (some (k * 65536), s)
  else
    let es := edges spans
    (((es ++ (es.filter (n ≤ ·)).map (· - n)).find? fun a => s.runFits p spans frames a n), s)

/-- A granule given a placement and its frames. -/
def State.setGranule (s : State) (g : Nat) (x : Granule) : State := s.modPool fun p => { p with granules := tset p.granules g x }

def State.placeGranule (s : State) (p : Place) (g : Nat) : State :=
  if (s.granule g).place != .free then s
  else match p with
    | .free => s
    | .loc d =>
      let (q, s) := s.pick (s.freeFrames d.val)
      s.setGranule g { place := p, q0 := q.getD 0 }
    | .spread =>
      let (q0, s) := s.pick (s.freeQuarters 0)
      let (q1, s) := s.pick (s.freeQuarters 1)
      let (q2, s) := s.pick (s.freeQuarters 2)
      let (q3, s) := s.pick (s.freeQuarters 3)
      s.setGranule g { place := p, q0 := q0.getD 0, q1 := q1.getD 0, q2 := q2.getD 0, q3 := q3.getD 0 }

/-- The dies a placement uses. -/
def Place.dies : Place → List Nat
  | .free => []
  | .loc d => [d.val]
  | .spread => [0, 1, 2, 3]

/-- Granules that a migration in progress has as its target (02 R28 MIG). -/
def State.markMig (s : State) : State :=
  let ts := s.pool.wells.flatMap fun (_, w) => match w.mig with
    | some m => if w.st == .migrating then granulesOf m.start w.length else []
    | none => []
  s.modPool fun p => { p with granules := p.granules.map fun (g, x) => (g, { x with mig := ts.contains g }) }

/-- Bytes taken for a placement: their granules, and dormant dies woken (18 R560). -/
def State.takeRun (s : State) (p : Place) (a n : Nat) : State :=
  p.dies.foldl (fun s d => s.wakeDie d) ((granulesOf a n).foldl (fun s g => s.placeGranule p g) s)

/-- Granules that hold no byte any more are free (R25). -/
def State.tidyGranules (s : State) : State :=
  let spans := s.spans
  (s.modPool fun p => { p with granules := p.granules.filter fun (g, _) => spans.any (overlaps (g * Config.gib) Config.gib) }).markMig

/-- Bytes released to free: no cached line and no mirror bit names them, and they await zeroing (R66; 16 R496). -/
def State.releaseRun (s : State) (a n : Nat) : State :=
  if n == 0 then s
  else
    let s := (s.forgetRun a n).modTwin fun t => { t with bitmap := t.bitmap.filter fun p => !(a ≤ p * 4096 && p * 4096 < a + n) }
    s.modPool fun p => { p with dirtyRuns := p.dirtyRuns ++ [(a, n)] }

/-- A run taken out of a list of runs. -/
def cutRun (a n : Nat) (l : List (Nat × Nat)) : List (Nat × Nat) :=
  l.flatMap fun (b, m) =>
    if b + m ≤ a || a + n ≤ b then [(b, m)]
    else (if b < a then [(b, a - b)] else []) ++ (if a + n < b + m then [(a + n, b + m - (a + n))] else [])

/-- A run's bytes read zero. -/
def State.zeroed (s : State) (a n : Nat) : State :=
  ((s.forgetRun a n).zeroRun a n).modPool fun p => { p with dirtyRuns := cutRun a n p.dirtyRuns }

/-- The part of a run of which a run in the background is zeroed: what of it is free and awaits zeroing (R66). -/
def State.zeroFree (s : State) (a n : Nat) : State :=
  (s.pool.dirtyRuns.filter fun r => overlaps a n r).foldl (fun s (b, m) =>
    let lo := max a b
    let hi := min (a + n) (b + m)
    if (s.spans.any (overlaps lo (hi - lo))) then s else s.zeroed lo (hi - lo)) s

/-- The furthest byte that a run from `x` can reach within a number of new granules. -/
def State.reach (s : State) (p : Place) (spans : List (Nat × Nat)) : Nat → Nat → Nat → Nat
  | 0, x, _ => x
  | k + 1, x, frames =>
    let g := x / Config.gib
    let pl := (s.granule g).place
    if Config.poolEnd ≤ x || !(pl == p || (pl == .free && 0 < frames)) || spans.any (fun r => r.1 ≤ x && x < r.1 + r.2) then x
    else
      let stop := spans.foldl (fun a r => if x ≤ r.1 then min a r.1 else a) ((g + 1) * Config.gib)
      if stop < (g + 1) * Config.gib then stop
      else State.reach s p spans k stop (if pl == .free then frames - 1 else frames)

/-- The longest well of each placement (R47). -/
def maxLength : Place → Nat
  | .free => 0
  | .spread => 2984 * Config.gib
  | .loc d => if d.val == 0 then 746 * Config.gib else 754 * Config.gib

/-- LARGEST_RUN of a placement (R75). -/
def State.largestRun (s : State) (p : Place) : Nat :=
  let spans := s.spans
  let frames := s.framesFor p
  let best := (edges spans).foldl (fun b x => max b (State.reach s p spans 3009 x frames - x)) 0
  min best (maxLength p)

/-! ## The byte books (R75, R95, R96) -/

def Well.live (w : Well) : Nat :=
  match w.st with
  | .free | .destroying => 0
  | .resizing => (w.resize.map (·.newLen)).getD w.length
  | _ => w.length

def Well.revoking (w : Well) : Nat :=
  match w.st with
  | .destroying => w.span
  | .resizing => w.length - (w.resize.map (·.newLen)).getD w.length
  | _ => 0

def Well.migrating (w : Well) : Nat := if w.mig.isSome then w.length else 0

def State.liveBytes (s : State) : Nat := sumOf (fun x => x.2.live) s.pool.wells
def State.revokingBytes (s : State) : Nat := sumOf (fun x => x.2.revoking) s.pool.wells
def State.migratingBytes (s : State) : Nat := sumOf (fun x => x.2.migrating) s.pool.wells
def State.freeBytes (s : State) : Nat := Config.poolEnd - s.liveBytes - s.revokingBytes - s.migratingBytes
def State.wellCount (s : State) : Nat := (s.pool.wells.filter fun x => x.2.st != .free).length

/-- The pool summary (R75). -/
def State.poolSummary (s : State) : List Byte :=
  le 8 s.liveBytes ++ le 8 s.freeBytes ++ le 8 s.revokingBytes ++ le 8 s.migratingBytes ++ le 8 Config.reserveBytes ++ le 4 s.wellCount ++
  zeros 4 ++ le 8 (s.largestRun .spread) ++ (List.finRange 4).flatMap fun d => le 8 (s.largestRun (.loc d))

/-! ## Twin membership and relayed commands (R53; 15 R445) -/

/-- The twin belongs to a cistern while it holds a MIRRORED well and the module is paired. -/
def State.cisTwin (s : State) (c : Nat) : State :=
  let t := s.isPaired && (s.wellsOf c).any fun i => (s.well i).mirror.isSome
  s.modCis c fun x => { x with twin := t }

/-- The twin's share of a command. -/
def State.relay (s : State) (wb opcode : Nat) : State := if s.isPaired then s.emit (.xo (.mail wb opcode)) else s

/-- The twin drops what it has translated from a well here, which is awaited (13 R391, R392). -/
def State.twinDrop (s : State) (i : Nat) : State :=
  if s.isPaired then
    let id := s.twin.nextId
    (s.modTwin fun t => { t with nextId := id + 1, fwdOut := t.fwdOut ++ [({ id := id, drop := some i } : FwdOut)] }).emit
      (.xo (.rangeDrop id (s.wellHandle i)))
  else s

/-- The twin clears its entries that name a well here, at or beyond an offset, and drains what it has translated (13 R391). -/
def State.twinClear (s : State) (i frm : Nat) : State :=
  (if s.isPaired then s.emit (.xo (.rangeClear (s.wellHandle i) frm)) else s).twinDrop i

/-- A command completes at once, without waiting for its own moment. -/
def State.completeNow (s : State) (wb : Nat) (st : Status) (result : List Byte) : State :=
  match s.mbx.asyncs.find? fun a => a.wb == wb && a.ready.isNone with
  | some a => s.completeAsync a st result
  | none => s

/-! ## Requests and holders of a well -/

/-- The request is for a byte of the well at or beyond an offset. -/
def Req.inWell (r : Req) (i frm : Nat) : Bool := r.well == i && frm ≤ r.off

/-- Requests that no home has answered. -/
def State.openReqs (s : State) : List Req :=
  (s.home.txns.filterMap fun t => match t.purpose with | .serve r => some r | _ => none) ++ s.home.waitq.map (·.2) ++ s.home.retry ++
  s.home.held ++ s.twin.mirOut.map (·.req) ++ s.twin.fwdOut.filterMap (·.req)

/-- A line of the well at or beyond an offset. -/
def State.lineIn (s : State) (i frm key : Nat) : Bool :=
  match s.wellAt key with
  | some (j, off) => j == i && frm ≤ off
  | none => false

/-- Requests whose sender is the station. -/
def Req.ofStn (r : Req) (n : Nat) : Bool :=
  match r.org with
  | .host m _ | .aperRead m _ _ | .aperWrite m _ => m == n
  | _ => false

/-- Nothing of the well at or beyond an offset is held, snooped, requested or translated. -/
def State.wellQuiet (s : State) (i frm : Nat) : Bool :=
  s.wellSwitched i && !(s.openReqs.any fun r => r.inWell i frm) &&
    !(s.home.dir.any fun e => !e.record && s.lineIn i frm e.key) && !(s.home.txns.any fun t => s.lineIn i frm t.key)

/-- A grant to a request that ends otherwise awaits no record any more: what its record told the twin is taken back (06 R178). -/
def State.dropAsks (s : State) (mine : Req → Bool) : State :=
  let asked := fun (f : FwdOut) => (f.grant.bind s.txnOf).bind fun t => match t.purpose with
    | .serve r => if mine r then some (t.key, r.sender.getD 0) else none
    | _ => none
  (s.twin.fwdOut.filterMap asked).foldl (fun s (k, n) => s.grantRecord k n false false)
    (s.modTwin fun t => { t with fwdOut := t.fwdOut.filter fun f => (asked f).isNone })

/-- Requests answered as refused wherever they wait; transactions that served them only recall (R83). -/
def State.refuseReqs (s : State) (mine : Req → Bool) (kind : Nat) : State :=
  let out := s.openReqs.filter mine
  let s := s.dropAsks mine
  let s := s.modHome fun h =>
    { h with
      waitq := h.waitq.filter fun x => !mine x.2
      retry := h.retry.filter fun r => !mine r
      held := h.held.filter fun r => !mine r
      txns := h.txns.map fun t => match t.purpose with
        | .serve r => if mine r then { t with purpose := .recall } else t
        | _ => t }
  let s := s.modTwin fun t =>
    { t with mirOut := t.mirOut.filter fun m => !mine m.req
             fwdOut := t.fwdOut.filter fun f => match f.req with | some r => !mine r | none => true }
  let s := out.foldl (fun s r => s.refuseReq r kind) s
  -- a transaction that waits for no holder has nothing left to do
  (s.home.txns.filter fun t => t.purpose == .recall && t.wait.isEmpty).foldl (fun s t => s.finishTxn t) s

/-- Lines of a well that the twin still holds are recalled from it, once their hold and what waits for them have ended. -/
def State.recallTwin (s : State) (i frm : Nat) : State :=
  (s.home.dir.filter fun e => !e.record && e.holders.contains twinHolder && !s.isB e.key && !(e.excl != .none && e.heldAt s.now) &&
      !s.noSnoop e.key && s.lineIn i frm e.key).foldl
    (fun s e => s.startTxn e.key .recall [twinHolder] .inv) s

/-- Grant records of the twin for lines of a well go. -/
def State.dropRecords (s : State) (i frm : Nat) : State :=
  s.modHome fun h => { h with dir := h.dir.filter fun e => !(e.record && s.lineIn i frm e.key) }

/-! ## Revocations (R81 to R88) -/

/-- A grant that is not NONE. -/
def State.grantAt (s : State) (i n : Nat) : Option Grant := tget (s.well i).grants n

/-- The decoder of a station loses its well, staying committed unless an uncommit waits for that (02 R37). -/
def State.unbind (s : State) (n i : Nat) : State :=
  s.modStn n fun t => { t with decoders := t.decoders.map fun (k, d) => (k, if d.well == some i then { d with well := none, committed := d.committed && !d.uncommit, uncommit := false } else d) }

/-- Every grant of a well revoked from an offset. -/
def State.revokeAll (s : State) (i frm : Nat) (cause : RevCause) : State :=
  (s.well i).grants.foldl (fun s (n, _) =>
    s.startRev { well := i, station := n, frm := frm, start := s.now, cause := cause }) s

/-- The command whose revocation this is. -/
def State.revWb (s : State) (v : Rev) : Option Nat :=
  match v.cause with
  | .revoke wb | .leave wb | .unpair wb => some wb
  | .destroy => (s.well v.well).wb
  | .shrink => (s.well v.well).resize.map (·.wb)
  | _ => none

/-- Every request of the station to the revoked bytes has ended, and it holds none of their lines. -/
def State.revDrained (s : State) (v : Rev) : Bool :=
  let w := s.well v.well
  !(s.openReqs.any fun r => r.ofStn v.station && r.inWell v.well v.frm) &&
    (!w.coh ||
      (!(s.home.dir.any fun e => !e.record && e.holders.contains v.station && s.lineIn v.well v.frm e.key) &&
        !(s.home.snoops.any fun p => p.holder == v.station && s.lineIn v.well v.frm p.key)))

/-- A revocation reaches unmap: the decoder is unbound and the grant is NONE; a shrink leaves both (R81). -/
def State.endRev (s : State) (v : Rev) : State :=
  let s := s.modPool fun p => { p with revs := p.revs.erase v }
  let s := match s.revWb v with
    | some wb => if v.deadHost then s.modMbx fun x => { x with asyncs := x.asyncs.map fun a => if a.wb == wb then { a with down := true } else a } else s
    | none => s
  let s := if v.frm == 0 then (s.unbind v.station v.well).modWell v.well fun w => { w with grants := tdel w.grants v.station } else s
  match v.cause with
  | .revoke wb => s.ready wb .ok []
  | _ => s

/-- The fault of a station that did not answer a snoop of a sequence (R85) is noted where the cistern is declared; here a
request outstanding at 50 us ends as a late one (R83). -/
def State.drainOut (s : State) (v : Rev) : State := s.refuseReqs (fun r => r.ofStn v.station && r.inWell v.well v.frm) 1

/-! ## The ends of destroys, shrinks and migrations -/

/-- Nothing is left to copy, or to copy back. -/
def Mig.ended (m : Mig) (length : Nat) : Bool := if m.back then m.point == 0 else length ≤ m.point

/-- The Start that a translation of the well is filled with: once the last chunk of a MIGRATE is committed that of the target, so that no
translation of the source outlives it (13 R392). -/
def Well.startNow (w : Well) : Nat :=
  match w.mig with
  | some m => if !m.back && !m.transit && m.ended w.length then m.start else w.start
  | none => w.start

/-- A resize has completed: the well is LIVE at its new length, which the twin learns (R69; 13 R385). -/
def State.resized (s : State) (i newLen : Nat) : State :=
  let s := s.modWell i fun w => { w with st := .live, length := newLen, resize := none }
  if s.isPaired then s.emit (.xo (.wellLength (s.wellHandle i) newLen)) else s

/-- A migration that has nothing more to copy ends (R93); the twin learns where its copy's other side lies now (16 R501). -/
def State.endMigrate (s : State) (i : Nat) : State :=
  let w := s.well i
  match w.mig with
  | none => s
  | some m =>
    let s := s.releaseRun w.start w.length
    let s := s.modWell i fun w => { w with st := .live, start := m.start, place := m.place, mig := none }
    let s := if w.mirror.isSome && s.isPaired then s.emit (.xo (.copied (s.wellHandle i) (some m.start))) else s
    s.tidyGranules.ready m.wb .ok [0]

/-- A well becomes FREE: its bytes are released and its generation counts on (R51, R67). -/
def State.freeWell (s : State) (i : Nat) : State :=
  let w := s.well i
  let c := w.cistern
  let s := (s.dropRecords i 0).releaseRun w.start w.span
  let s := s.setWell i { gen := (w.gen + 1) % 65536 }
  let s := (match c with | some c => s.cisTwin c | none => s).tidyGranules
  let out := fun (l : Tab KeySlot) => l.map fun (k, y) => (k, { y with wells := y.wells.filter (· != i) })
  s.modSec fun x => { x with keys := out x.keys, twinKeys := (out x.twinKeys).filter fun y => !y.2.wells.isEmpty }

/-- One well's progress. -/
def State.wellProgress (s : State) (i : Nat) : State :=
  let w := s.well i
  match w.st with
  | .destroying =>
    let s := s.recallTwin i 0
    if w.grants.isEmpty && !(s.pool.revs.any (·.well == i)) && s.wellQuiet i 0 then (s.freeWell i).readyOpt w.wb .ok [] else s
  | .resizing =>
    match w.resize with
    | some r =>
      if r.newLen < w.length then
        let s := s.recallTwin i r.newLen
        if !(s.pool.revs.any (·.well == i)) && s.wellQuiet i r.newLen then
          let s := ((s.storeLost i false).dropRecords i r.newLen).releaseRun (w.start + r.newLen) (w.length - r.newLen)
          (s.resized i r.newLen).tidyGranules.ready r.wb .ok []
        else s
      else s
    | none => s
  | .migrating =>
    match w.mig with
    | some m => if m.cancel.isNone && w.length ≤ m.point && !m.transit && s.wellSwitched i && !s.isDown w then s.endMigrate i else s
    | none => s
  | _ => s

/-! ## Cisterns (R78, R79; 06 R172 to R176) -/

/-- Leaves revoke what their station holds, a grant made since their acceptance too, and complete once its last grant has ended
(R78). -/
def State.leaveProgress (s : State) (c : Nat) : State :=
  (s.cis c).leaving.foldl (fun s (n, wb) =>
    let s := (s.wellsOf c).foldl (fun s i => s.startRev { well := i, station := n, start := s.now, cause := .leave wb }) s
    if (s.wellsOf c).any fun i => (s.grantAt i n).isSome || s.pool.revs.any (fun v => v.well == i && v.station == n) then s
    else (s.modCis c fun x => { x with members := x.members.filter (· != n), leaving := x.leaving.filter (· != (n, wb)) }).ready wb .ok []) s

/-- Wells and cisterns go on where nothing holds them any more. -/
def State.wellStep (s : State) : State :=
  let s := (s.pool.wells.map (·.1)).foldl (fun s i => s.wellProgress i) s
  ((s.pool.cisterns.filter fun x => !x.2.leaving.isEmpty).map (·.1)).foldl (fun s c => s.leaveProgress c) s

/-- A KEY_BIND of the well that runs ends without it (notes/assumptions/26). -/
def State.unkey (s : State) (i : Nat) : State :=
  s.sec.keys.foldl (fun s (k, x) =>
    match x.binding.find? fun b => b.1 == i with
    | some (_, wb) =>
      (s.modSec fun y => { y with keys := tset y.keys k { x with binding := x.binding.filter fun b => b.1 != i } }).ready wb .stateConflict []
    | none => s) s

/-! ## Wells bound to a key slot (19 R582) -/

/-- The two keys of a bound well. -/
def State.keysOf (s : State) (i : Nat) : Option (BitVec 512) := (s.slots.find? fun x => x.2.wells.contains i).map (·.2.keys)

/-- The tweak of a line of a well: its offset in lines, its index and its generation. -/
def Well.tweak (w : Well) (i off : Nat) : Nat := off / 64 + 2 ^ 96 * i + 2 ^ 112 * w.gen

/-- A line of a well as the stacks hold it, and back: AES-256-XTS where the well is bound. -/
def State.sealLine (s : State) (i off : Nat) (d : Line) : Line :=
  match s.keysOf i with | some k => xtsSeal k ((s.well i).tweak i off) d | none => d
def State.openLine (s : State) (i off : Nat) (d : Line) : Line :=
  match s.keysOf i with | some k => xtsOpen k ((s.well i).tweak i off) d | none => d

/-- A line of the pool as it is stored in the stacks: what `mem` holds, encrypted where its well is bound. -/
def State.stored (s : State) (a : Nat) : Line :=
  match s.wellAt a with | some (i, off) => s.sealLine i off (s.dram a) | none => s.dram a

/-! ## Lines that change place (R91; 06 R169) -/

/-- A line address moved with its chunk. -/
def moveKey (src dst n k : Nat) : Nat := if src ≤ k && k < src + n then k - src + dst else k

/-- Entries of the lines of a run. -/
def State.entsIn (s : State) (src n : Nat) : List DirEnt := s.home.dir.filter fun e => src ≤ e.key && e.key < src + n

/-- Room for `need` ways in a set: victims leave for what is missing (R91; 04 R126). -/
def State.spaceFor (s : State) (die set need own : Nat) : Bool × State :=
  let lacks := fun (s : State) => decide ((s.freeWays die set).length < need)
  let s := (List.range 16).foldl (fun s _ => if lacks s then (match s.evictWay die set own with | some (_, s) => s | none => s) else s) s
  (!lacks s, s)

/-- Room for every entry of a run at its new place; the entries that come to lie in one set need their ways together. One beyond the
sixteen of its set is recalled where it lies (04 R104; DEDUCED, notes/assumptions/190). -/
def State.chunkRoom (s : State) (src dst n : Nat) : Bool × State :=
  let r := (s.entsIn src n).foldl (fun ((ok, used, s) : Bool × List (Nat × Nat × Nat) × State) e =>
    match s.homeOf (moveKey src dst n e.key), s.home.dir.contains e with
    | some (die, a), true =>
      let set := dirSetOf a
      let need := e.ways.length + sumOf (fun u => u.2.2) (used.filter fun u => u.1 == die && u.2.1 == set)
      if 16 < need then
        (false, used, if s.isB e.key || e.heldAt s.now || s.noSnoop e.key || 32 ≤ s.evicting e.die then s else s.evictEnt e)
      else
        let (one, s) := s.spaceFor die set need (moveKey src dst n e.key)
        (ok && one, (die, set, e.ways.length) :: used, s)
    | _, _ => (ok, used, s)) (true, [], s)
  (r.1, r.2.2)

/-- The directory's entry of a line passes to the home of its new place, with as many ways as it had (R91). -/
def State.moveEnt (s : State) (e : DirEnt) (key : Nat) : State :=
  match s.homeOf key with
  | none => s
  | some (die, a) =>
    let set := dirSetOf a
    let s := s.modHome fun h => { h with dir := h.dir.erase e }
    s.modHome fun h =>
      { h with dir := h.dir ++ [{ e with key := key, die := die, set := set, ways := (s.freeWays die set).take e.ways.length }] }

/-- The lines of a chunk, their directory entries, transactions, cached copies and mirror bits go to another place. -/
def State.moveChunk (s : State) (src dst n : Nat) : State :=
  let mv := moveKey src dst n
  let inn := fun k => src ≤ k && k < src + n
  let cached := s.cache.lines.filter fun c => match c.key with | .pool k => inn k && !c.retained | .host _ _ => false
  let s := (s.forgetRun src n).forgetRun dst n
  let s := (s.copyRun src dst n).zeroRun src n
  let s := cached.foldl (fun s c => match c.key with
    | .pool k =>
      if c.dirty then match s.place { c with key := .pool (mv k) } with
        | some s => s
        | none => s.writeDram (mv k) c.data c.pois
      else s
    | .host _ _ => s) s
  let s := (s.entsIn src n).foldl (fun s e => s.moveEnt e (mv e.key)) s
  let s := s.modHome fun h =>
    { h with
      txns := h.txns.map fun t => { t with key := mv t.key, evicted := t.evicted.map fun e => { e with key := mv e.key } }
      snoops := h.snoops.map fun p => { p with key := mv p.key, hpa := if p.holder == twinHolder then mv p.hpa else p.hpa }
      rsps := h.rsps.map fun a => if a.1 == twinHolder then (a.1, mv a.2.1, a.2.2) else a }
  let kept := s.cache.reserved.filterMap fun r => if inn r.2.2.2 then some r.2.2.2 else none
  let s := kept.foldl (fun s k => (s.unreserve k).reserveWay (mv k)) s
  let s := s.modPool fun p =>
    { p with cisterns := p.cisterns.map fun (c, x) => (c, { x with lost := x.lost.map mv, expectWb := x.expectWb.map fun (k, m) => (mv k, m) }) }
  s.modTwin fun t =>
    { t with
      snoops := t.snoops.map fun x => { x with key := mv x.key }
      grants := t.grants.map fun (id, k, m) => (id, mv k, m)
      walk := t.walk.map mv
      fwdOut := t.fwdOut.map fun f => { f with snoop := f.snoop.map mv, grant := f.grant.map mv }
      bitmap := (t.bitmap.filter fun p => inn (p * 4096)).foldl (fun l p => lineIns l (mv (p * 4096) / 4096))
        (t.bitmap.filter fun p => !inn (p * 4096)) }

/-- A MIGRATE ended by the end of its well: its target is released without copying back (06 R169). -/
def State.dropMigrate (s : State) (i : Nat) (m : Mig) (st : Status) : State :=
  let w := s.well i
  -- the lines of what has moved are again known at the source, from which the well is about to be destroyed
  let s := (s.moveChunk m.start w.start m.point).releaseRun m.start w.length
  let s := s.modWell i fun w => { w with st := .live, mig := none }
  let s := match m.cancel with | some c => s.ready c st [] | none => s
  s.tidyGranules.ready m.wb st [2]

/-! ## Destroys -/

/-- WELL_DESTROY's effect on an accepted well that does not migrate (R67, R616; 11 R319; 12 R357; 13 R391). A resize that runs
ends, and the bytes a grow added stay in the well's books until their release (R95). -/
def State.destroyNow (s : State) (i : Nat) (wb : Option Nat) : State :=
  let w := s.well i
  let s := match w.resize with | some r => s.ready r.wb .stateConflict [] | none => s
  let s := s.modWell i fun w => { w with st := .destroying, wb := wb, doomed := false }
  let s := match w.st, w.wb with
    | .creating, some cw => s.completeNow cw .stateConflict (le 4 (s.wellHandle i) ++ le 8 w.start ++ [5])
    | _, _ => s
  let s := s.unkey i
  let s := s.revokeAll i 0 .destroy
  let s := ((s.clearRanges (fun r => r.names i) (.well i)).storeLost i true).ringsLost i 0
  s.twinClear i 0

/-- A well is destroyed; one whose end its own command does not await (a dissolve, an unpairing, the twin's destroy) first ends its
MIGRATE (06 R169), once the source's directory sets have room for the entries of what has moved (R91). -/
def State.destroyWell (s : State) (i : Nat) (wb : Option Nat) : State :=
  let w := s.well i
  match w.mig with
  | some m =>
    let st : Status := if (w.cistern.map fun c => (s.cis c).st) == some .dissolving then .domainDown else .stateConflict
    match s.chunkRoom m.start w.start m.point with
    | (true, s) => (s.dropMigrate i m st).destroyNow i wb
    | (false, s) => s.modWell i fun w => { w with doomed := true }
  | none => s.destroyNow i wb

/-- Destroys that waited for their MIGRATE to end. -/
def State.doomStep (s : State) : State :=
  ((s.pool.wells.filter fun x => x.2.doomed).map (·.1)).foldl (fun s i => s.destroyWell i none) s

/-! ## Resizes (R69) -/

/-- A LENGTH that a placement can have (R66). -/
def wellLenOk (p : Place) (n : Nat) : Bool := 65536 ≤ n && n % 65536 == 0 && n ≤ maxLength p

/-- A grow finds its bytes after the well. -/
def State.growFits (s : State) (i newLen : Nat) : Bool :=
  let w := s.well i
  s.runFits w.place s.spans (s.framesFor w.place) (w.start + w.length) (newLen - w.length)

/-- A shrink: the tail is revoked, and what names its bytes ends (R69; 11 R319; 13 R391); the holds and entries of a store end as
the bytes go (12 R357). -/
def State.shrinkWell (s : State) (i newLen wb : Nat) : State :=
  let s := s.modWell i fun w => { w with st := .resizing, resize := some ⟨newLen, wb⟩ }
  let s := s.revokeAll i newLen .shrink
  ((s.clearRanges (fun r => r.names i && newLen ≤ r.offset) (.well i)).ringsLost i newLen).twinClear i newLen

def State.growWell (s : State) (i newLen wb : Nat) : State :=
  let w := s.well i
  (s.takeRun w.place (w.start + w.length) (newLen - w.length)).modWell i fun w => { w with st := .resizing, resize := some ⟨newLen, wb⟩ }

/-! ## Migration of chunks (R90 to R94) -/

/-- A dissolve destroys every well of the cistern (R79). -/
def State.dissolve (s : State) (c : Nat) : State :=
  (s.wellsOf c).foldl (fun s i =>
    let w := s.well i
    if w.st == .destroying || w.doomed then s else s.destroyWell i none) s

/-- A recovery begins; a dissolve destroys the wells once no down walk runs (R79; 06 R172). -/
def State.recoverStart (s : State) (c : Nat) (mode : RecMode) (wb : Option Nat) : State :=
  let s := s.modCis c fun x =>
    let x := if x.st == .live then { x with dead := [], lost := [], lostCount := 0, sweptWb := 0, droppedWr := 0 } else x
    { x with st := if mode == .dissolve then .dissolving else .recovering, recover := some (mode, wb) }
  if mode == .dissolve && !(s.cis c).walking then s.dissolve c else s

/-- The 32 bytes of a recovery's completion (06 R176). -/
def Cistern.result (x : Cistern) : List Byte := le 8 (maskOf x.dead) ++ le 8 x.lostCount ++ le 8 x.sweptWb ++ le 8 x.droppedWr

/-- Pages that the other copy of a well does not hold as they are here: every one of them (16 R496). -/
def State.markPages (s : State) (i : Nat) : State :=
  let pages := (List.range ((s.well i).length / 4096)).map fun k => (s.well i).dpa (4096 * k) / 4096
  s.modTwin fun t => { t with bitmap := pages.foldl lineIns t.bitmap }

/-- Every byte of a well reads zero, at the copy that holds each line. -/
def State.zeroWell (s : State) (i : Nat) : State :=
  let w := s.well i
  let s := s.zeroed w.start w.length
  match w.mig with
  | some m => s.zeroed m.start (min m.point w.length)
  | none => s

/-- A ZERO recovery zeroes the wells of which this module is the home, and has the twin zero its copies (06 R175); a copy that
no twin holds is out of step. -/
def State.zeroHomes (s : State) (c : Nat) : State :=
  ((s.wellsOf c).filter fun i => (s.well i).isHome && !(s.cis c).zeroed.contains i).foldl (fun s i =>
    let s := (s.zeroWell i).modCis c fun x => { x with zeroed := i :: x.zeroed }
    if (s.well i).mirror.isNone then s
    else if !s.isPaired then s.markPages i
    else
      let id := s.twin.nextId
      (s.modTwin fun t => { t with nextId := id + 1, fwdOut := t.fwdOut ++ [({ id := id, zero := some (c, i) } : FwdOut)] }).emit
        (.xo (.zero id (s.wellHandle i)))) s

/-- Every copy of the cistern's wells is zero (06 R175). -/
def State.zeroOver (s : State) (c : Nat) : Bool :=
  (s.wellsOf c).all (fun i => (s.cis c).zeroed.contains i) && !(s.twin.fwdOut.any fun f => match f.zero with | some (d, _) => d == c | none => false)

/-- A copy whose zeroing the lost twin has not acknowledged is out of step. -/
def State.dropZeros (s : State) : State :=
  let out := s.twin.fwdOut.filterMap (·.zero)
  out.foldl (fun s x => s.markPages x.2) (s.modTwin fun t => { t with fwdOut := t.fwdOut.filter (·.zero.isNone) })

/-- The grants a dead station has been given since its declaration end too (R79; 06 R174). -/
def State.endDead (s : State) (c : Nat) : State :=
  (s.wellsOf c).foldl (fun s i => ((s.cis c).dead.filter (· < 48)).foldl (fun s n =>
    s.startRev { well := i, station := n, start := s.now, snoops := false, cause := .dead }) s) s

/-- A recovery completes (R173 to R176). -/
def State.recoverDone (s : State) (c : Nat) : State :=
  let x := s.cis c
  match x.recover with
  | none => s
  | some (mode, wb) =>
    if x.walking then s
    else if mode == .dissolve then
      if (s.wellsOf c).isEmpty then (s.setCis c { gen := (x.gen + 1) % 65536 }).readyOpt wb .ok x.result else s
    else
    let s := s.endDead c
    if s.pool.revs.any (fun v => (v.cause == .dead || x.dead.contains v.station) && (s.wellsOf c).contains v.well) then s
    else
      let s := if mode == .zero then s.zeroHomes c else s
      if mode == .zero && !s.zeroOver c then s
      else
      let s := s.modCis c fun x =>
        { x with st := .live, zeroed := [], members := x.members.filter fun n => !x.dead.contains n, recover := none, downCause := 0, downStation := 0xFF,
                 downTime := 0, expectWb := [] }
      ((s.cisTwin c).readyOpt wb .ok x.result)

/-- Where the chunk that a migration moves next lies, and where it goes (R90, R94). -/
def Well.chunkEnds (w : Well) (m : Mig) : Nat × Nat :=
  ((if m.back then m.start else w.start) + m.chunk, (if m.back then w.start else m.start) + m.chunk)

/-- The chunk in transit is committed (R90, R94), once the directory has room for its entries at their new place. -/
def State.commitChunk (s : State) (i : Nat) : State :=
  let w := s.well i
  match w.mig with
  | none => s
  | some m =>
    let back := m.back
    let off := m.chunk
    let (src, dst) := w.chunkEnds m
    if !m.transit then s
    else match s.chunkRoom src dst 65536 with
      | (false, s) => s
      | (true, s) =>
        (s.moveChunk src dst 65536).modWell i fun w => { w with mig := some { m with point := if back then off else off + 65536, transit := false, turning := false } }

/-- The next chunk is in transit, unless the cistern's state stops the copy (06 R169). -/
def State.startChunk (s : State) (i : Nat) : State :=
  let w := s.well i
  match w.mig with
  | none => s
  | some m =>
    let more := if m.cancel.isSome then 0 < m.point else m.point < w.length
    if m.transit || !more || w.doomed || s.isDown w then s else s.modWell i fun w => { w with mig := some { m with transit := true } }

/-- Once the last chunk is committed, translations that name the well are dropped before a copy is released (13 R392). -/
def State.dropWellRanges (s : State) (i : Nat) : State := (s.dropRanges (fun r => r.names i) (.well i)).twinDrop i

end Sys2Proof.Machine
end

