-- ==== Sys2Proof/Machine/Stations.lean ====
section
/-! DEFINITION. Stations: receive slots, CXL.mem requests and answers, the inspection aperture, registers that are written,
HDM decoders, resets and losses of a link, and the host's side of CXL.cache and ATS (02 R32 to R44; 13 R402 to R406; 14). -/
namespace Sys2Proof.Machine

/-! ## Receive slots (14 R433 to R436) -/

def Stn.reqFree (t : Stn) : Nat := 1024 - t.reqInUse - t.reqReturning
def Stn.rwdFree (t : Stn) : Nat := 512 - t.rwdInUse - t.rwdReturning
def Stn.rspFree (t : Stn) : Nat := 256 - t.rspInUse - t.rspReturning

/-- The slot counts of a link that starts anew: all slots free (R436). -/
def Stn.freshSlots (t : Stn) : Stn :=
  { t with reqInUse := 0, rwdInUse := 0, rspInUse := 0, reqSent := 0, rwdSent := 0, rspSent := 0, reqReturning := 0, rwdReturning := 0,
           rspReturning := 0, reqHeld := 0, rwdHeld := 0, rspHeld := 0, recovery := false }

/-- A BIRsp's slot: taken and returned at once (R433). -/
def State.rspSlot (s : State) (n : Nat) : State :=
  s.modStn n fun t =>
    let t := { t with rspInUse := t.rspInUse + 1 }
    if t.recovery then { t with rspHeld := t.rspHeld + 1 } else { t with rspSent := t.rspSent + 1 }

/-- Acknowledged credit returns free returning slots first, then slots in use (R434, R435). -/
def ackSlots (k inUse sent returning : Nat) : Nat × Nat × Nat :=
  let a := min k returning
  let b := min (k - a) sent
  (inUse - b, sent - b, returning - a)

def Stn.ack (t : Stn) (req rwd rsp : Nat) : Stn :=
  let (a, b, c) := ackSlots req t.reqInUse t.reqSent t.reqReturning
  let (d, e, f) := ackSlots rwd t.rwdInUse t.rwdSent t.rwdReturning
  let (g, h, i) := ackSlots rsp t.rspInUse t.rspSent t.rspReturning
  { t with reqInUse := a, reqSent := b, reqReturning := c, rwdInUse := d, rwdSent := e, rwdReturning := f, rspInUse := g, rspSent := h,
           rspReturning := i }

/-- The link enters Recovery: slots whose credit return is not acknowledged count as returning (R435). -/
def Stn.toRecovery (t : Stn) : Stn :=
  { t with recovery := true, reqReturning := t.reqReturning + t.reqSent, reqInUse := t.reqInUse - t.reqSent, reqSent := 0,
           rwdReturning := t.rwdReturning + t.rwdSent, rwdInUse := t.rwdInUse - t.rwdSent, rwdSent := 0,
           rspReturning := t.rspReturning + t.rspSent, rspInUse := t.rspInUse - t.rspSent, rspSent := 0 }

/-- A Recovery that ends without DL_Down: held credit returns leave (R435, R441). -/
def Stn.fromRecovery (t : Stn) : Stn :=
  { t with recovery := false, retrains := sat 16 (t.retrains + 1), reqSent := t.reqSent + t.reqHeld, reqHeld := 0,
           rwdSent := t.rwdSent + t.rwdHeld, rwdHeld := 0, rspSent := t.rspSent + t.rspHeld, rspHeld := 0 }

/-! ## CXL.mem requests (02 R34, R35; 03 R72, R81, R82; 04 R100, R109; 14 R413, R417) -/

def Decoder.covers (d : Decoder) (hpa : Nat) : Bool := d.committed && d.base ≤ hpa && hpa < d.base + d.size

/-- A CXL.mem request that is not served: a read is poisoned, a write dropped and logged; `logRead` logs a read too. -/
def State.refuseMem (s : State) (n hpa : Nat) (kind : ReqKind) (code dec handle : Nat) (logRead : Bool) : State :=
  let s := if kind.isWrite || logRead then s.logFlt n code 0 dec hpa handle kind.isWrite else s
  match kind with
  | .invOwn | .drop => (s.emit (.mem n hpa .cmp none)).slotDone n false
  | k =>
    if k.isWrite then (s.emit (.mem n hpa .cmp none)).slotDone n true
    else ((s.emit (.mem n hpa .cmp (some (onesLine, true)))).slotDone n false).countPoisoned n

/-- The station is the recorded E or M holder of a line, whose modified data a fence still takes back (03 R81; 04 R111). -/
def State.ownsLine (s : State) (n key : Nat) : Bool :=
  let owns := fun (e : DirEnt) => e.excl != .none && e.holders == [n]
  (match s.ent key with | some e => owns e | none => false) || (match (s.txnOf key).bind (·.evicted) with | some e => owns e | none => false)

/-- The offset lies in the tail that a shrink removes (03 R81). -/
def Well.tail (w : Well) (off : Nat) : Bool :=
  match w.resize with
  | some r => w.st == .resizing && r.newLen < w.length && r.newLen ≤ off
  | none => false

/-- A request whose slot is taken. -/
def State.hostMemAt (s : State) (n hpa : Nat) (kind : ReqKind) (d : Line) (mask : BitVec 64) : State :=
  let t := s.stnAt n
  let h := Config.noHandle
  if !t.memActive then s.refuseMem n hpa kind 7 0xFF h false
  else match t.decoders.find? fun x => x.2.covers hpa with
    | none => (s.refuseMem n hpa kind 8 0xFF h true).record { source := 0x0403, unit := n, address := hpa }
    | some (k, dec) => match dec.well with
      | none => s.refuseMem n hpa kind 2 k h false
      | some i =>
        let w := s.well i
        let off := hpa - dec.base
        if w.length ≤ off then s.refuseMem n hpa kind 2 k (s.wellHandle i) false
        else match tget w.grants n with
          | none => s.refuseMem n hpa kind 2 k (s.wellHandle i) false
          | some g =>
            let back := (kind == .wb || kind == .wbS) && w.coh && s.ownsLine n (w.dpa off)
            if (g.fenced || w.tail off) && !back then s.refuseMem n hpa kind 1 k (s.wellHandle i) false
            else if kind.isWrite && !g.w then s.refuseMem n hpa kind 3 k (s.wellHandle i) false
            else if w.coh && (t.flit == 0 || !t.biEn) then s.refuseMem n hpa kind 4 k (s.wellHandle i) true
            else
              let kind := if !w.coh then kind else match kind with | .plainRd => .rdCur | .plainWr => .ucWr | k => k
              s.submit { org := .host n hpa, kind := kind, well := i, gen := w.gen, off := lineOf off, data := d, mask := mask }

/-- A CXL.mem request arrives: it takes a slot, which the link's credits have kept free (R433). -/
def State.hostMem (s : State) (n hpa : Nat) (kind : ReqKind) (d : Line := 0) (mask : BitVec 64 := fullMask) : State :=
  let t := s.stnAt n
  if !t.up || (if kind.isRwd then t.rwdFree else t.reqFree) == 0 then s
  else
    let s := s.modStn n fun t => if kind.isRwd then { t with rwdInUse := t.rwdInUse + 1 } else { t with reqInUse := t.reqInUse + 1 }
    s.hostMemAt n (lineOf hpa) kind d mask

/-- A hint: its slot returns, and nothing else happens (04 R109). -/
def State.hostHint (s : State) (n : Nat) : State :=
  let t := s.stnAt n
  if !t.up || t.reqFree == 0 then s else (s.modStn n fun t => { t with reqInUse := t.reqInUse + 1 }).slotDone n false

/-! ## Answers to snoops (04 R111, R119) -/

/-- An answer arrives on a link that is up, for which the link's credits have kept one of the 256 slots free (14 R433). -/
def State.takesRsp (s : State) (n : Nat) : Bool := (s.stnAt n).up && (s.stnAt n).rspFree != 0

def State.hostRsp (s : State) (n hpa : Nat) (rsp : BiRsp) : State := if !s.takesRsp n then s else (s.rspSlot n).hostAnswered n hpa rsp

/-- BIConflict: the acknowledgement leaves; completions already sent are ahead of it (R119). -/
def State.hostConflict (s : State) (n hpa : Nat) : State :=
  if !s.takesRsp n then s
  else
    let s := s.rspSlot n
    match s.snoopAt n hpa with
    | none => s
    | some _ => s.emit (.conflictAck n (lineOf hpa))

/-! ## The inspection aperture (02 R38 to R44, R615) -/

/-- 64 MiB. -/
def windowSize : Nat := 0x4000000

/-- What a line of the aperture reaches. -/
inductive Aper where
  | deny | fenced (well : Nat) | pool (well off : Nat) | mem (dpa : Nat) | twin (dpa : Nat) | unbacked (dpa : Nat) | reserveView (off : Nat)
  | control (off : Nat)
  deriving DecidableEq, Repr

def State.sessionOf (s : State) (n : Nat) : Role := (s.mbx.stn.toArray.toList.getD n {}).session

/-- Pump `p` belongs to the partition of a platform created from the station (R41). -/
def State.scratchFor (s : State) (n p : Nat) : Bool :=
  match (s.pumpAt p).home with
  | none => false
  | some q => s.jobs.plats.any fun x => x.2.st != .free && x.2.station == n && x.2.partition == q

/-- The case of R41 for the line of a DPA; a working-area write is dropped and counted (08 R222). -/
def State.aperAt (s : State) (n dpa : Nat) (write : Bool) : Aper :=
  let role := s.sessionOf n
  if dpa < Config.poolEnd then
    match s.wellAt dpa with
    | none => .deny
    | some (i, off) =>
      let w := s.well i
      if w.dpa off != dpa then .deny
      else match tget w.grants n with
        | none => .deny
        | some g => if g.fenced || w.tail off then .fenced i else if write && !g.w then .deny else .pool i off
  else if Config.twinBase ≤ dpa && dpa < Config.twinBase + Config.poolEnd then
    if write || !(role == .installer || role == .maker) then .deny
    else if s.isPaired || s.inGap then .twin dpa else .unbacked dpa
  else if Config.scratchBase ≤ dpa && dpa < Config.scratchBase + 16 * Config.scratchStride then
    let x := dpa - Config.scratchBase
    let o := x % Config.scratchStride
    if o < Config.scratchSize && s.scratchFor n (x / Config.scratchStride) && !(write && o < 0x1000000) then .mem dpa else .deny
  else if Config.aliasBase ≤ dpa && dpa < Config.aliasBase + Config.aliasSize then
    if write || role == .none then .deny else .reserveView (dpa - Config.aliasBase)
  else if Config.controlBase ≤ dpa && dpa < Config.controlBase + Config.controlSize then
    if s.mod.phase == .factory && role == .maker then .control (dpa - Config.controlBase) else .deny
  else .deny

def State.countDeny (s : State) (n : Nat) : State := s.modStn n fun t => { t with winDeny := sat 32 (t.winDeny + 1) }

/-- A locale-0x1 access of a station that is not backed (02 R22, R23). -/
def State.unbackedAper (s : State) (n id i off dpa : Nat) : State :=
  ((s.logFlt n 8 1 0xFF off Config.noHandle false).record { source := 0x0403, unit := n, address := dpa }).fillRead n id i onesLine true

/-- A line of an aperture read of DPA `dpa`. -/
def State.aperLine (s : State) (n id i off dpa : Nat) : State :=
  match s.aperAt n dpa false with
  | .deny => (s.countDeny n).fillRead n id i onesLine false
  | .fenced _ => s.fillRead n id i onesLine true
  | .pool w x => s.submit { org := .aperRead n id i, kind := .swaRd, well := w, gen := (s.well w).gen, off := x }
  | .mem a =>
    let (d, p, s) := s.readDram a
    s.fillRead n id i d p
  | .twin a =>
    let x := s.twin.nextId
    let f : FwdOut := { id := x, dpa := a, aper := some (n, id, i), unsent := s.gapNow }
    let s := s.modTwin fun t => { t with nextId := x + 1, fwdOut := t.fwdOut ++ [f] }
    if s.gapNow then s else s.emit (.xo (.read x a))
  | .unbacked a => s.unbackedAper n id i off a
  | .reserveView o =>
    let d := s.reserveLine o
    let (_, p, s) := s.readDram (Config.poolEnd + o)
    s.fillRead n id i d p
  | .control o =>
    let d := bytesLine ((List.range 64).map fun k => Config.controlSpace s.freeCtr (o + k))
    ({ s with freeCtr := s.freeCtr + 1 }).fillRead n id i d false

/-- The lines of an access inside the window. -/
def aperLines (off len : Nat) : List (Nat × Nat) := cutLines off (min len (windowSize - off))

def State.aperRead (s : State) (n off size : Nat) : State :=
  let size := min (min size 4096) (windowSize - off)
  if !s.barsUp n then s.noBar n
  else if size == 0 then s
  else if !(s.stnAt n).winEnable then s.ioData n off (List.replicate size 0xFF) false
  else
    let ls := aperLines off size
    let id := (s.stnAt n).nextRead
    let s := s.modStn n fun t => { t with nextRead := id + 1, reads := t.reads ++ [⟨id, off, size, List.replicate ls.length none⟩] }
    let base := (s.stnAt n).winBase
    ls.zipIdx.foldl (fun s ((a, _), i) => s.aperLine n id i (lineOf a) (base + lineOf a)) s

/-- A line of an aperture write. -/
def State.aperPut (s : State) (n off dpa : Nat) (bytes : List Byte) : State :=
  let k := lineOf dpa
  let d := pieceLine dpa bytes
  let mask := spanMask (dpa % 64) bytes.length
  if !(s.stnAt n).winWrite then s.countDeny n
  else match s.aperAt n k true with
    | .fenced i => s.logFlt n 9 1 0xFF off (s.wellHandle i) true
    | .pool w x => s.submit { org := .aperWrite n (lineOf off), kind := .swaWr, well := w, gen := (s.well w).gen, off := x, data := d, mask := mask }
    | .mem a => if mask = fullMask then s.writeDram a d false else s.setMem dpa bytes
    | .control _ => { s with freeCtr := s.freeCtr + 1 }
    | _ => s.countDeny n

def State.aperWrite (s : State) (n off : Nat) (data : List Byte) : State :=
  if !s.barsUp n then s.noBar n
  else if !(s.stnAt n).winEnable then s
  else
    let base := (s.stnAt n).winBase
    (aperLines off data.length).foldl (fun s (a, k) => s.aperPut n a (base + a) (Machine.slice data (a - off) k)) s

/-! ## Registers that are written (00 R7; 02 R39; 14 R424; 15 R466) -/

/-- A 64-bit register with the halves a write names. -/
def halfSet (old : Nat) (h : Half) (v : Nat) : Nat :=
  match h with
  | .full => v
  | .lo => old / 2 ^ 32 * 2 ^ 32 + v % 2 ^ 32
  | .hi => v % 2 ^ 32 * 2 ^ 32 + old % 2 ^ 32

/-- Bits that a write of one clears (W1C), in the halves it names. -/
def halfClear (old : Nat) (h : Half) (v : Nat) : Nat :=
  let m := match h with
    | .full => v
    | .lo => v % 2 ^ 32
    | .hi => v % 2 ^ 32 * 2 ^ 32
  old - (old &&& m)

/-- The region names no byte that a window may not hold (R39). -/
def State.regionBacked (s : State) (b : Nat) : Bool :=
  b + windowSize ≤ Config.poolEnd ||
  (Config.twinBase ≤ b && b + windowSize ≤ Config.twinBase + Config.poolEnd && (s.isPaired || s.inGap)) ||
  (Config.scratchBase ≤ b && b + windowSize ≤ Config.scratchBase + 16 * Config.scratchStride) ||
  (Config.aliasBase ≤ b && b + windowSize ≤ Config.aliasBase + Config.aliasSize) ||
  (Config.controlBase ≤ b && b + windowSize ≤ Config.controlBase + Config.controlSize)

/-- The region's locale is permitted now (R39, R41). -/
def State.regionAllowed (s : State) (n b : Nat) : Bool :=
  let role := s.sessionOf n
  if b < Config.poolEnd then true
  else if b < Config.scratchBase then role == .installer || role == .maker
  else if b < Config.aliasBase then
    let p := (b - Config.scratchBase) / Config.scratchStride
    s.scratchFor n p || s.scratchFor n (p + 1)
  else if b < Config.controlBase then role != .none
  else s.mod.phase == .factory && role == .maker

/-- A WIN_BASE write (R39). -/
def State.winBaseSet (s : State) (n : Nat) (h : Half) (v : Nat) : State :=
  let b := halfSet (s.stnAt n).winBase h v % 2 ^ 48 / windowSize * windowSize
  s.modStn n fun t =>
    if !s.regionBacked b then { t with winRefuse := 1 }
    else if !s.regionAllowed n b then { t with winRefuse := 2 }
    else { t with winRefuse := 0, winBase := b }

/-- Vector 3 where the backlog is at or above the threshold (R466). -/
def State.jnlCheck (s : State) (n : Nat) : State :=
  let t := s.stnAt n
  if t.jnlThreshold != 0 && t.jnlThreshold ≤ s.mbx.next - 1 - t.jnlMark then s.raiseVec n 3 else s

def State.jnlMarkSet (s : State) (n : Nat) (h : Half) (v : Nat) : State :=
  (s.modStn n fun t => { t with jnlMark := halfSet t.jnlMark h v }).jnlCheck n

/-- A THRESHOLD that is not listed leaves the field as it was (00 R11; 15 R465). -/
def State.jnlThresholdSet (s : State) (n v : Nat) : State :=
  (s.modStn n fun t => { t with jnlThreshold := if v % 2 ^ 21 ≤ Config.journalRing then v % 2 ^ 21 else t.jnlThreshold }).jnlCheck n

/-- A vector's entry of the MSI-X table (14 R428). -/
def Vec.enc (x : Vec) : List Byte := le 8 x.addr.toNat ++ le 4 x.data.toNat ++ le 4 (bit x.mask)

def State.vecWrite (s : State) (n off : Nat) (bs : List Byte) : State :=
  let v := off / 16
  let x := s.vec n v
  let e := patch x.enc (off % 16) bs
  (s.setVec n v { x with addr := BitVec.ofNat 64 (num e 0 8), data := BitVec.ofNat 32 (num e 8 4), mask := nbit (num e 12 4) 0 }).sendVec n v

/-- A doorbell's fields (11 R311). -/
def bellOf (n plat size v : Nat) : Doorbell :=
  ⟨n, plat, size, field v 23 0, field v 47 24, field v 62 48, nbit v 63, 0⟩

/-- Whether a write names both halves, the low one or the high one. -/
def halfOf (off size : Nat) : Half := if size == 8 then .full else if off % 8 == 0 then .lo else .hi

/-- The header that the command area of a station's mailbox holds (15 R446). -/
def State.areaHdr (s : State) (n : Station) : CmdHdr :=
  let hdr := memRead (s.mb (.stn n)).area 0 64
  { mbx := .stn n, ver := BitVec.ofNat 8 (num hdr 2 1), flags := BitVec.ofNat 8 (num hdr 3 1), len := BitVec.ofNat 16 (num hdr 4 2),
    tag := BitVec.ofNat 64 (num hdr 8 8), seq := BitVec.ofNat 32 (num hdr 0x10 4)
    rsvHdr := BitVec.ofNat 368 (num hdr 6 2 + 2 ^ 16 * num hdr 0x14 44) }

/-- GO: the mailbox holds the command of its command area. A code that "Reference maps" does not list is answered at once, with
BUSY or BAD_OPCODE, and a selecting byte that no row lists with BAD_ARGUMENT where no earlier check refuses it (00 R11); any other
command is answered by its own row. While a command is held, a further GO is discarded and
counted (15 R451, R452, R457; notes/assumptions/27). -/
def State.go (s : State) (n : Station) : State :=
  let x := s.mb (.stn n)
  let h := s.areaHdr n
  let code := num (memRead x.area 0 64) 0 2
  let pay := memRead x.area 64 h.len.toNat
  if x.checking then s.modMb (.stn n) fun x => { x with rejectCount := sat 32 (x.rejectCount + 1) }
  else if mailboxCodes.contains code then
    match unlisted code pay with
    | some c =>
      let h := { h with extra := pay.drop (segsLen c.segs) }
      s.reject h c ((s.refusal h c fun _ => bad).getD ⟨.badArgument, [], 0⟩)
    | none => s.modMb (.stn n) fun x => { x with checking := true }
  else
    let st := if s.mailboxBusy (.stn n) false then .busy else .badOpcode
    s.reject h { opcode := code, roles := anyRole } ⟨st, [], 0⟩

/-- A write of the command area (15 R451). -/
def State.areaWrite (s : State) (n : Station) (off : Nat) (bs : List Byte) : State :=
  s.modMb (.stn n) fun x => { x with area := memWrite x.area off bs }

/-- A write to a register of the control aperture that has a field to set or clear; every other write is discarded. -/
def State.regWrite (s : State) (n : Station) (off size v : Nat) : State :=
  let h := halfOf off size
  let v := v % 2 ^ (8 * size)
  let base := off / 8 * 8
  if !s.barsUp n.val then s.noBar n.val
  else if 0x20000 ≤ off && off < 0x28000 then
    if off % 8 == 0 || size != 8 then s.bellIn (bellOf n.val ((off - 0x20000) / 8) size v) else s
  else if !((size == 4 || size == 8) && off % size == 0) then s
  else if 0x30000 ≤ off && off < 0x38000 then s.vecWrite n.val (off - 0x30000) (le size v)
  else if 0x10000 ≤ off && off < 0x11000 then s.areaWrite n (off - 0x10000) (le size v)
  else if base == 0x11800 then (if off % 8 == 0 && nbit v 0 && s.answers then s.go n else s)
  else if base == 0x2000 then s.winBaseSet n.val h v
  else if base == 0x40010 then s.jnlMarkSet n.val h v
  else if base == 0x40018 then (if off % 8 == 0 then s.jnlThresholdSet n.val v else s)
  else if base == 0x1818 || base == 0x2010 then s
  else if base == 0x1010 then
    if off % 8 != 0 then s
    else s.modStn n.val fun t =>
      let x := halfClear (t.retrains + 2 ^ 16 * t.dlDowns) .lo v
      { t with retrains := x % 2 ^ 16, dlDowns := x / 2 ^ 16 % 2 ^ 16 }
  else if base == 0x2008 then (if off % 8 == 0 then s.modStn n.val fun t => { t with winEnable := nbit v 0, winWrite := nbit v 1 } else s)
  else if base == 0x2018 then (if off % 8 == 0 then s.modStn n.val fun t => { t with winDeny := halfClear t.winDeny .lo v } else s)
  else if base == 0x3010 then
    s.modStn n.val fun t =>
      let x := halfClear (t.fltDropped + 2 ^ 32 * t.fltPoisoned) h v
      { t with fltDropped := x % 2 ^ 32, fltPoisoned := x / 2 ^ 32 }
  else if base == 0x11808 then
    s.modMb (.stn n) fun x => { x with cplLost := halfClear (x.cplLost * 2 ^ 48) h v / 2 ^ 48 }
  else if base == 0x11810 then (if off % 8 == 0 then s.modMb (.stn n) fun x => { x with rejectCount := halfClear x.rejectCount .lo v } else s)
  else if base == 0x11818 then (if off % 8 == 0 then s.modMb (.stn n) fun x => { x with cplAck := v % 2 ^ 16 } else s)
  else s

/-! ## HDM decoders (02 R32, R37) -/

/-- 256 MiB. -/
def hdmUnit : Nat := 0x10000000

def State.hdmCommit (s : State) (n k base size ways : Nat) : State :=
  s.modStn n fun t =>
    let d := tgetD t.decoders k {}
    if d.committed then t
    else if ways == 1 && base % hdmUnit == 0 && size % hdmUnit == 0 && size != 0 then
      { t with decoders := tset t.decoders k { base := base, size := size, committed := true } }
    else { t with decoders := tset t.decoders k { d with base := base, size := size, notCommitted := true } }

/-- An uncommit ends a bound grant first and completes with its revocation. -/
def State.hdmUncommit (s : State) (n k : Nat) : State :=
  let d := tgetD (s.stnAt n).decoders k {}
  if !d.committed then s
  else match d.well with
    | none => s.modStn n fun t => { t with decoders := tset t.decoders k { d with committed := false } }
    | some i =>
      let s := s.modStn n fun t => { t with decoders := tset t.decoders k { d with uncommit := true } }
      (s.startRev { well := i, station := n, start := s.now, cause := .uncommit })

/-! ## Resets and losses of a link (14 R436 to R442; 06 R155; 11 R341) -/

/-- What happens to a station. -/
inductive Loss where
  | down | perst | hot | flr | block
  deriving DecidableEq, Repr

def Loss.detail : Loss → Nat
  | .down | .flr => 0
  | .perst => 1
  | .hot => 2
  | .block => 3

/-- Requests the station sent: those at a home finish there for nobody (R436), the rest and the responses are discarded (R437). -/
def State.orphan (s : State) (n : Nat) : State :=
  let mine := fun (r : Req) => r.ofStn n
  let own := fun (r : Req) => if mine r then { r with org := .own } else r
  let asked := s.home.txns.filter fun t => s.twin.fwdOut.any (·.grant == some t.key) && match t.purpose with | .serve r => mine r | _ => false
  let s := s.dropAsks mine
  let s := s.modHome fun h =>
    { h with
      waitq := h.waitq.map fun (d, r) => (d, own r)
      retry := h.retry.filter fun r => !mine r
      held := h.held.map own
      txns := h.txns.map fun t => match t.purpose with
        | .serve r => { t with purpose := .serve (own r) }
        | _ => t }
  let s := s.modTwin fun t =>
    { t with
      mirOut := t.mirOut.map fun m => { m with req := own m.req }
      fwdOut := (t.fwdOut.filter fun f => match f.aper with | some (m, _, _) => m != n | none => true).map fun f => { f with req := f.req.map own } }
  let s := s.modJobs fun x => { x with doorbells := x.doorbells.filter fun d => d.stn != n }
  let s := s.modStn n fun t => { t with reads := [] }
  asked.foldl (fun s t => match s.txnOf t.key with | some t => s.finishTxn t | none => s) s

/-- Grants of key-bound wells that rest on the station's IDE stream or SPDM session end (19 R584). -/
def State.revokeIde (s : State) (n : Nat) : State :=
  let is := (s.slots.filter fun x => x.2.peer != 0 && x.2.station == n).flatMap fun x => x.2.wells
  (is.foldl (fun s i => s.startRev { well := i, station := n, start := s.now, cause := .ide }) s)

/-- A record that Utvanan writes of an event without a command. -/
def State.auditOwn (s : State) (kind detail : Nat) : State :=
  s.auditRec { seq := 0, time := 0, origin := 0, boot := 0, kind := kind, source := 0x3F, role := 0, detail := BitVec.ofNat 192 detail }

/-- DETAIL of an SPDM record: the port, whether the session is established (1) or ended (2), and its requester's digest (19 R576). -/
def spdmDetail (n how : Nat) (peer : BitVec 384) : Nat := (if n < 48 then n else 0x32) + 256 * how + 2 ^ 64 * (peer.toNat % 2 ^ 128)

/-- A stream is active. -/
def Stn.hasIde (t : Stn) : IdeKind → Bool
  | .cxl => t.ide
  | .pcie k => t.pcieIde.contains k

/-- An IDE stream of a station ends or fails, with its audit record (19 R576). -/
def State.ideEnded (s : State) (n : Nat) (k : IdeKind) (how : Nat) : State :=
  if !(s.stnAt n).hasIde k then s
  else
    (s.auditOwn 8 (n + 256 * how)).modStn n fun t => match k with
      | .cxl => { t with ide := false }
      | .pcie i => { t with pcieIde := t.pcieIde.filter (· != i) }

/-- Every IDE stream of a station ends. -/
def State.idesEnded (s : State) (n : Nat) : State :=
  [IdeKind.cxl, .pcie 0, .pcie 1, .pcie 2].foldl (fun s k => s.ideEnded n k 2) s

/-- Every secured session of a port ends. -/
def State.spdmEnded (s : State) (n : Nat) : State :=
  let s := s.modStn n fun t => { t with spdm := false, idePeer := 0 }
  (tgetD s.sec.spdm n []).foldl (fun s x => s.auditOwn 9 (spdmDetail n 2 x.2)) (s.modSec fun x => { x with spdm := tdel x.spdm n })

/-- The effects of every reset and loss of a station (R437, R440). -/
def State.stationGone (s : State) (n : Nat) (why : Loss) : State :=
  let t := s.stnAt n
  let s := (s.idesEnded n).spdmEnded n
  let reset := why != .down
  let s := s.orphan n
  -- events of one moment are recorded in the order of their codes (17 R522)
  let s :=
    if why == .flr then s
    else
      let s := s.modStn n fun t => { t.freshSlots with up := false, speed := 0, width := 0, flit := 0, ide := false, spdm := false, idePeer := 0 }
      if t.up then
        (s.modStn n fun t => { t with dlDowns := sat 16 (t.dlDowns + 1) }).record { source := 0x0402, unit := n, detail := why.detail }
      else s
  let s := s.loseHolder n (if reset then 3 else 2)
  let s := (s.pool.wells.map (·.1)).foldl (fun s i =>
    s.startRev { well := i, station := n, start := s.now, snoops := false, cause := .reset }) s
  let s := s.stationJobs n reset
  let s := s.modStn n fun t => { t with atc := [], atsReqs := [], atsFailed := [], atsInv := [] }
  if why == .flr then s.modStn n fun t => { t with reqSent := t.reqInUse - t.reqHeld, rwdSent := t.rwdInUse - t.rwdHeld } else s

/-- What only a reset clears (R437; 15 R455; 13 R400). -/
def State.stationReset (s : State) (n : Station) (why : Loss) : State :=
  let s := s.stationGone n.val why
  let s := s.endSession (.stn n) 3
  let s := if s.fw.handover then { s with fw := { s.fw with resetIn := n.val :: s.fw.resetIn } } else s
  let s := s.modMb (.stn n) fun x =>
    { ({} : Mailbox) with area := x.area, challenge := x.challenge, failures := x.failures, lockUntil := x.lockUntil }
  let s := s.modMbx fun x => { x with asyncs := x.asyncs.map fun a => if a.mbx == some (.stn n) then { a with mbx := none } else a }
  s.modStn n.val fun t =>
    { t with
      decoders := [], msixEnable := false, msixMask := false, vecs := [], cacheEn := false, memEn := false, biEn := false, atsEnable := false
      ats := false, barsSet := false, maxPayload := 128, ctoUs := 40000, winBase := 0, winEnable := false, winWrite := false, winRefuse := 0, winDeny := 0, jnlMark := 0
      jnlThreshold := 0, aer := if why == .hot || why == .flr then t.aer else [], d3hot := false, memActive := false, memReturn := true, ide := false, spdm := false, idePeer := 0 }

/-- The station stays held in reset while PERST_N is low or R539 holds it. -/
def State.heldDown (s : State) (n : Nat) : Bool := (s.stnAt n).perst || s.flt.stnOut.contains n

/-- The completion timeout of a field value, in µs (14 R419). -/
def ctoOf (v : Nat) : Nat :=
  match v with
  | 1 => 90
  | 2 => 9000
  | 5 => 50000
  | 6 => 200000
  | 9 => 850000
  | 0xA => 3300000
  | _ => 40000

/-- A mode the link can train to (14 R411). -/
def modeOk (m : LinkMode) : Bool :=
  m.speed != 0 && (m.width == 1 || m.width == 2 || m.width == 4 || m.width == 8) && m.flit.toNat < 3 && (m.flit != 0 || m.speed == 2)

/-- What host firmware writes into the function's configuration space: BARs and Memory Space Enable, Max_Payload_Size of at most 512 B, the
cache, memory and BI enables, ATS Enable and Completion Timeout Value (14 R413, R415, R416, R419; notes/assumptions/161). -/
def Stn.configure (t : Stn) (m : LinkMode) (cacheEn memEn biEn atsEn : Bool) (cto : Nat) : Stn :=
  { t with barsSet := true, maxPayload := 128 * 2 ^ min 2 m.payload.toNat, cacheEn := cacheEn, memEn := memEn, biEn := biEn, atsEnable := atsEn
           ctoUs := ctoOf cto }

/-- The link comes up; host firmware configures a function that a reset has left unconfigured, and one whose link went down without a reset
keeps its configuration (14 R412, R416, R426, R436, R442). On a link that is up already host firmware writes the configuration alone. -/
def State.linkUp (s : State) (n : Nat) (m : LinkMode) (cacheEn memEn biEn atsEn : Bool) (cto : Nat) : State :=
  if (s.stnAt n).up then s.modStn n fun t => t.configure m cacheEn memEn biEn atsEn cto
  else if s.heldDown n || !modeOk m || !s.answers || (s.mod.phase == .bringUp && s.mod.stage == .sb) then s
  else
    let s := s.modStn n fun t =>
      let t := { t.freshSlots with up := true, speed := m.speed.toNat, width := m.width.toNat, flit := m.flit.toNat }
      if t.barsSet then t else t.configure m cacheEn memEn biEn atsEn cto
    let s := { s with mod := { s.mod with memInfoValid := true } }
    let s := if m.width != 8 || m.speed != 3 then s.record { source := 0x0401, unit := n } else s
    s.sendVecs n

/-! ## ATS (13 R402 to R406) -/

/-- The translation a completion gives, cut to the 1 GiB piece where it is larger (R402). -/
def atcEntry (addr : Nat) (x : AtsAnswer) : AtcEnt :=
  let k := x.k.toNat
  let size := 4096 * 2 ^ k
  let piece := 4096 * 2 ^ min k 18
  let base := addr / piece * piece
  { base := base, k := min k 18, hpa := x.hpa.toNat / size * size + (base - addr / size * size), r := x.read, w := x.write }

/-- A Translation Request without a completion ends its job (R403; 11 R342). -/
def State.atsTimeout (s : State) (n : Nat) (q : AtsReq) : State :=
  match s.job q.job with
  | none => s
  | some j => s.endJob j .stationTimeout (some (s.stnFail n q.opnd q.step 1 (lineAddr q.addr)))

/-- A page of a tile that is next to move has no translation: once nothing of a tile to be loaded is awaited, the job stops at its first byte
without one; a write finds it where its step ends (R397, R398, R403). -/
def State.atsStop (s : State) (q : AtsReq) : State :=
  match s.job q.job, q.tile with
  | some j, some (a, len) =>
    if q.step != 5 || q.ahead || !((List.range 48).any fun n => (s.stnAt n).atsFailed.any (·.1 == j.id)) then s
    else match s.xlateTile j j.lastPump (j.op q.opnd) q.opnd a len .r 5 with
      | .fault st y => s.xlateStop j.id j.lastPump q.opnd 5 st y
      | .wait s => s
      | .ok _ _ => s
  | _, _ => s

/-- Two spans meet. -/
def meets (a n b m : Nat) : Bool := a < b + m && b < a + n

/-- A Translation Completion: cached, unless an Invalidate Request that has overtaken its request covers some of it, in which case
the translation is asked for again (R403, R405). -/
def State.atsAnswer (s : State) (n addr : Nat) (x : AtsAnswer) : State :=
  let page := addr / 4096
  match (s.stnAt n).atsReqs.find? (·.page == page) with
  | none => s
  | some q =>
  if !(s.stnAt n).up then s
  else
    let s := s.modStn n fun t => { t with atsReqs := t.atsReqs.erase q }
    let none_ := !x.ok || (!x.read && !x.write)
    let e := atcEntry (page * 4096) x
    let (base, size) := if none_ then (page * 4096, 4096) else (e.base, 4096 * 2 ^ e.k)
    if q.inv.any fun (b, m) => meets b m base size then s.atsAsk n { q with inv := [], deadline := s.now + (s.stnAt n).ctoUs * 1000 }
    else if none_ then
      (if q.ahead then s else (s.modStn n fun t => { t with atsFailed := t.atsFailed ++ [(q.job, page)] }).atsStop q)
    else (s.modStn n fun t => { t with atc := e :: (t.atc.filter fun y => !(y.base == e.base && y.k == e.k)).take 4095 }).atsStop q

/-- Steps 1 and 4 of R405; the others follow once no access that used an entry is out. -/
def State.atsInvalidate (s : State) (n addr k : Nat) : State :=
  let size := 4096 * 2 ^ k
  let base := addr / size * size
  if !(s.stnAt n).up then s
  else
    let hit := fun (e : AtcEnt) => meets base size e.base (4096 * 2 ^ e.k)
    s.modStn n fun t =>
      { t with atc := t.atc.filter fun e => !hit e
               atsFailed := t.atsFailed.filter fun x => !meets base size (4096 * x.2) 4096
               atsReqs := t.atsReqs.map fun q => { q with inv := q.inv ++ [(base, size)] }
               atsInv := t.atsInv ++ [{ base := base, k := k, spans := (t.atc.filter hit).map fun e => (e.hpa, 4096 * 2 ^ e.k) }] }

/-- An Invalidate Request goes on once every access through the station to its spans has been answered: its host lines leave the
cache, and once they have left it completes (R405). -/
def State.atsOne (s : State) (n : Nat) (v : AtsInv) : State :=
  let inSpan := fun (a : Nat) => v.spans.any fun (b, m) => b ≤ a && a < b + m
  let out := fun (s : State) => s.jobs.devOut.any fun o => o.stn == n && inSpan o.hpa
  if out s then s
  else
    let s := if v.cleaned then s
      else (s.cache.lines.filter fun c => match c.key with | .host m a => m == n && inSpan a && !c.retained | .pool _ => false).foldl
        (fun s c => s.evict c) s
    if out s then s.modStn n fun t => { t with atsInv := t.atsInv.map fun w => if w == v then { w with cleaned := true } else w }
    else (s.modStn n fun t => { t with atsInv := t.atsInv.erase v }).emit (.atsInvalidated n v.base v.k)

/-- Invalidations in progress. -/
def State.atsStep (s : State) : State :=
  (List.range 48).foldl (fun s n => (s.stnAt n).atsInv.foldl (fun s v => s.atsOne n v) s) s

/-! ## The walk of a slice (05 R149 to R153) -/

/-- FLUSH's treatment of a slice: dirty lines are written back; host lines in M leave (R149). -/
def State.flushSlice (s : State) (d : Nat) : State :=
  (s.cache.lines.filter fun c => c.die == d && !c.retained).foldl (fun s c =>
    match c.key with
    | .pool dpa => if c.dirty then (s.writeDram dpa c.data c.pois).modLine c.key fun c => { c with dirty := false } else s
    | .host _ _ => if c.hst == .m then s.evict c else s) s

/-- Every line of a slice leaves, retained ones too, and STALE ends (R148, R149, R152). -/
def State.dropSlice (s : State) (d : Nat) : State :=
  let s := (s.cache.lines.filter fun c => c.die == d && !c.retained).foldl (fun s c => s.evict c) s
  (s.setLines (s.cache.lines.filter fun c => c.die != d)).modSlice d fun x => { x with stale := false }

/-- The walk of a slice ends (R146, R149, R150). -/
def State.walkDone (s : State) (d : Nat) : State :=
  let x := s.slice d
  let s := match x.st with
    | .flushing => (s.flushSlice d).modSlice d fun x => { x with st := .enabled, wb := none }
    | .invalidating => (s.dropSlice d).modSlice d fun x => { x with st := x.frm, opens := false, wb := none }
    | .disabling =>
      let s := s.flushSlice d
      let s := (s.cache.lines.filter fun c => c.die == d && !c.retained && (match c.key with | .host _ _ => true | .pool _ => false)).foldl (fun s c => s.evict c) s
      let tag := fun (k : CKey) => match k with | .pool a => (s.homeOf a).map (·.2) | .host _ _ => none
      let s := (s.setLines (s.cache.lines.map fun c => if c.die == d then { c with retained := true, tagAt := tag c.key } else c)).modSlice d fun x => { x with st := .disabled, wb := none }
      { s with cache := { s.cache with reserved := s.cache.reserved.filter fun r => r.1 != d } }
    | _ => s
  match x.wb with
  | some wb => if (List.range 4).any fun e => (s.slice e).wb == some wb then s else s.ready wb .ok []
  | none => s

end Sys2Proof.Machine
end

