-- ==== Sys2Proof/Machine/Twin.lean ====
section
/-! DEFINITION. Twin operation: pairing and unpairing, mirrored writes and forwarded requests, resync and audit, health
reports, switchovers and fencing (15 R467 to R469; 16; 06 R178 to R182). -/
namespace Sys2Proof.Machine

/-! ## What the pair is -/
/-- MIRRORED wells. -/
def State.mirrored (s : State) : List Nat := (s.pool.wells.filter fun x => x.2.st != .free && x.2.mirror.isSome).map (·.1)

def State.modMirror (s : State) (i : Nat) (f : Mirror → Mirror) : State := s.modWell i fun w => { w with mirror := w.mirror.map f }

/-- The pages of a well in the mirror bitmap, by page of the well (R496). -/
def State.wellPage (s : State) (i k : Nat) : Nat := (s.well i).dpa (4096 * k) / 4096
def State.pagesOut (s : State) (i : Nat) : Nat :=
  (s.twin.bitmap.filter fun p => match s.wellAt (p * 4096) with | some (j, off) => j == i && (s.well i).dpa off == p * 4096 | none => false).length

/-- The index of a MIRRORED well that a handle names. -/
def State.namedMir (s : State) (h : Nat) : Option Nat := (s.named h).filter fun i => (s.well i).mirror.isSome

/-- The pages that two spans of a well's bytes touch are marked, where the other copy may not hold what they hold (R496). -/
def State.markSpan (s : State) (i frm to_ : Nat) : State :=
  let ps := (List.range ((to_ + 4095) / 4096 - frm / 4096)).map fun k => s.wellPage i (frm / 4096 + k)
  s.modTwin fun t => { t with bitmap := ps.foldl lineIns t.bitmap }

/-- Every page of a well marked; the pages lie in two runs while it migrates. -/
def State.markWell (s : State) (i : Nat) : State := s.markPages i

/-- A well whose last page is copied is IN_STEP (R509). -/
def State.resyncEnd (s : State) (i : Nat) : State :=
  if (s.well i).mirSt == some .resync && s.pagesOut i == 0 then s.modMirror i fun m => { m with st := .sync } else s

/-- Every cistern with a MIRRORED well has the twin as a member, or none has (R489, R491; 03 R53). -/
def State.cisTwins (s : State) : State := (s.pool.cisterns.map (·.1)).foldl (fun s c => s.cisTwin c) s

/-! ## Locale 0x1 and forwarded requests that end without the twin (02 R22, R23) -/

def State.dropFwd (s : State) (id : Nat) : State := s.modTwin fun t => { t with fwdOut := t.fwdOut.filter (·.id != id) }

/-- A locale-0x1 access that no twin answers is one to an unbacked address: its job stops, or its aperture line is poisoned. -/
def State.unbackedFwd (s : State) (f : FwdOut) : State :=
  let s := s.dropFwd f.id
  match f.aper with
  | some (n, id, i) =>
    let off := match (s.stnAt n).reads.find? (·.id == id) with | some a => lineOf a.offset + 64 * i | none => 0
    s.unbackedAper n id i off f.dpa
  | none =>
    let logged := fun (j : Job) => if j.lastPump < 16 then s.unbackedBy 3 j.lastPump f.dpa else s.unbackedBy 0 0 f.dpa
    match f.tile with
    | some (id, t, i) => match (s.job id).bind fun j => ((j.tiles.find? (·.id == t)).bind fun t => (t.reads[i]?).map fun r => (j, t.opnd, r.addr)) with
      | some (j, k, a) => (logged j).stopJob id .xlateFault (some (s.pumpFail j.lastPump k 5 1 a))
      | none => s.unbackedBy 0 0 f.dpa
    | none => match f.job.bind s.job with
      | some j => ((logged j).modJob j.id fun j => { j with twinOut := j.twinOut.filter (· != f.id) }).endJob j .xlateFault
          (some (s.pumpFail j.lastPump f.opnd (if f.wr.isNone && f.atom.isNone then 5 else 6) 1 f.addr))
      | none => if f.pump < 16 then s.unbackedBy 3 f.pump f.dpa else s.unbackedBy 0 0 f.dpa

/-- Every locale-0x1 access outstanding ends as one to an unbacked address. -/
def State.endLocale1 (s : State) : State :=
  (s.twin.fwdOut.filter fun f => f.tile.isSome || f.job.isSome || f.aper.isSome).foldl (fun s f => s.unbackedFwd f) s

/-- A locale-0x1 access issued while this module is unpaired finds an unbacked address (02 R22, R23). -/
def State.locale1Step (s : State) : State := if s.isPaired || s.gapNow then s else s.endLocale1

/-- The transaction of a request that waits for the twin only ends. -/
def State.unwait (s : State) (r : Req) : State :=
  let key := s.keyOf r
  match s.txnOf key with
  | some t => if t.purpose == Purpose.serve r then (s.answerAsks key).endTxn key else s
  | none => s

/-- A request that waits for the twin only is presented to this module's home anew. -/
def State.represent (s : State) (r : Req) : State := (s.unwait r).present r

/-- Requests whose grant awaits the acknowledgement of its record, which no twin will send (06 R178). -/
def State.unasked (s : State) : List Req :=
  s.twin.fwdOut.filterMap fun f => (f.grant.bind s.txnOf).bind fun t => match t.purpose with | .serve r => some r | _ => none

/-- What the twin will not answer any more: snoops, drops and records of grants; copies it has not zeroed are out of step. -/
def State.dropTwinWaits (s : State) : State :=
  (s.dropZeros).modTwin fun t =>
    { t with fwdOut := t.fwdOut.filter (fun f => f.snoop.isNone && f.drop.isNone && f.grant.isNone), snoops := [], grants := [] }

/-- The primary's answer completes a forwarded request (R495). -/
def State.fwdDone (s : State) (r : Req) (d : Line) (p : Bool) : State :=
  let key := s.keyOf r
  match s.txnOf key with
  | some t =>
    if t.purpose == Purpose.serve r then
      s.completeServe r key (some (d, p))
    else s.respond r .cmp (if r.kind.isWrite then none else some (d, p))
  | none => match r.kind, r.org with
    | .atomic _ width _ _ _, .atom j i =>
      ((s.atomDone j i (if p then none else some (d.toNat % 2 ^ (8 * width)))).respond r .cmp none)
    | k, _ => (s.respond r .cmp (if k.isWrite then none else some (d, p)))

/-- A response of the twin arrives: it answers whatever waits under its number (R495; 13 R392, R408; 04 R125); one that comes from a
well of a DOWN cistern stops its job (06 R167). -/
def State.twinAnswer (s : State) (id : Nat) (d : Line) (p down : Bool) : State :=
  match s.twin.fwdOut.find? (·.id == id) with
  | none => s
  | some f =>
    let s := s.dropFwd id
    match f.req with
    | some r => s.fwdDone r d p
    | none => match f.snoop with
      | some key => s.hostAnswered twinHolder key .i
      | none => match f.grant with
      | some key => s.grantAcked key
      | none => match f.aper with
        | some (n, rd, i) => s.fillRead n rd i d p
        | none => match f.tile with
          | some (j, t, i) =>
            match if down then (s.job j).bind fun j => (j.tiles.find? (·.id == t)).bind fun t => (t.reads[i]?).map fun r => (j.lastPump, t.opnd, r.addr) else none with
            | some (p, k, a) => s.stopJob j .domainDown (some (s.pumpFail p k 5 1 a))
            | none => s.fillTile j t i d p
          | none => match f.job with
            | some j =>
              let s := s.modJob j fun j => { j with twinOut := j.twinOut.filter (· != id) }
              let s := match f.atom with
                | some i => if down then s.modJob j fun j => { j with work := { j.work with issued := min j.work.issued i } }
                  else s.atomDone j i (if p then none else some d.toNat)
                | none => s
              match if down then s.job j else none with
              | some k => s.endJob k .domainDown (some (s.pumpFail k.lastPump f.opnd (if f.wr.isNone && f.atom.isNone then 5 else 6) 1 f.addr))
              | none => s
            | none => s

/-! ## The journal of a pair (15 R467 to R469) -/

/-- VOID entries for waybills below NEXT that the ring should hold and does not, one that the lost twin was given among them (R469). -/
def State.fillVoids (s : State) : State :=
  let held := s.mbx.journal.map (·.waybill)
  let top := max (held.foldl max 0) (s.mbx.next - 1)
  let low := max 1 (s.mbx.next - Config.journalRing)
  let missing := (List.range (top + 1 - low)).map (· + low) |>.filter fun w => !held.contains w
  let void := fun w => ({ waybill := w, opcode := 0xFF00, source := 0x3F, st := .void, status := .internalError, acceptTime := s.now, finishTime := s.now,
                          origin := s.mod.serial, boot := s.mod.boot } : JEntry)
  s.modMbx fun x => { x with journal := (x.journal ++ missing.map void).mergeSort fun a b => b.waybill ≤ a.waybill, next := top + 1 }

/-- Whether this module holds all that a command of the lost twin names (R505): WELL_GRANT, WELL_REVOKE, CISTERN_JOIN and CISTERN_LEAVE
name a station of the lost module; RANGE_INVALIDATE names a context or a well, and RANGE_TABLE_SET the wells of its entries. -/
def State.holdsObject (s : State) (e : JEntry) : Bool :=
  let op := e.opcode
  let mir := fun (h : Nat) => (s.namedMir h).isSome
  let ctx := e.object < 4096 && (s.ctx e.object).st == .live
  if [0x0103, 0x0104, 0x0111, 0x0112].contains op then false
  else if op / 256 == 1 then (if op / 16 % 16 == 1 then (s.namedCis e.object).isSome else mir e.object)
  else if op == 0x0203 then ctx || mir e.object
  else if op / 256 == 2 then op != 0x0205 && ctx && e.names.all mir
  else op / 256 == 6

/-- A RUNNING command of the lost twin is completed or failed (R469, R505). What a command does on both modules came here as its share (15
R445) and runs on; of a WELL_DESTROY whose share has not come, this module's copy of the well goes now, and a CONTEXT_DESTROY ends this
module's context of that number, unless something here still needs it (13 R382). -/
def State.finishTwinEntry (s : State) (e : JEntry) : State :=
  let ok := s.holdsObject e
  let end_ := fun (x : JEntry) (st : Status) => { x with st := if st == .ok then .done else .failed, status := st, bySurvivor := true, finishTime := s.now }
  let fin := fun (s : State) (st : Status) => s.modMbx fun x => { x with journal := x.journal.map fun x => if x.waybill == e.waybill then end_ x st else x }
  if !ok then fin s .notPaired
  else if e.opcode == 0x0101 then
    match s.namedMir e.object with
    | some i => if (s.well i).st == .destroying then fin s .ok else (fin s .ok).destroyWell i none
    | none => fin s .ok
  else if e.opcode == 0x0201 then
    if s.ctxInUse e.object then fin s .stateConflict else (fin s .ok).endCtx e.object e.waybill
  else fin s .ok

def State.finishTwinEntries (s : State) : State :=
  (s.mbx.journal.filter fun e => e.st == .running && e.origin == s.twin.serial).foldl (fun s e => s.finishTwinEntry e) s

/-! ## The switchover gap (16 R502 to R507) -/

/-- Commands of this module that needed the twin end without it (15 R469). -/
def State.lostCommands (s : State) : State :=
  let s := match s.twin.swo with | some x => s.readyOpt x.wb .notPaired [] | none => s
  match s.twin.unpairing with | some wb => s.readyOpt wb .notPaired [] | none => s

/-- Writes applied here that the twin will not acknowledge any more are committed, and their pages marked (R496, R504). -/
def State.commitUnacked (s : State) : State :=
  let outs := s.twin.mirOut
  outs.foldl (fun s m => (s.markSpan m.well m.off (m.off + 64)).respond m.req .cmp m.ans) (s.modTwin fun t => { t with mirOut := [] })

/-- Forwarded writes whose copy the primary had applied here are committed (R504). -/
def State.commitApplied (s : State) : State :=
  s.twin.fwdOut.foldl (fun s f => match f.applied, f.req with
    | some old, some r =>
      let d := match r.kind with | .atomic _ width pos _ _ => BitVec.ofNat 512 (num (lineBytes old) pos width) | _ => 0
      (s.dropFwd f.id).fwdDone r d false
    | _, _ => s) s

/-- The gap begins at detection: the twin's losses, the writes it has not acknowledged, and the reads under way to it
(R504 steps 1 to 5). -/
def State.startGap (s : State) (cause : Nat) (wb : Option Nat := none) : State :=
  let s := (if cause == 3 then s.emit (.xo .fence) else s).lostCommands
  let asked := s.unasked
  -- what the loss ends waits for no answer of the twin
  let s := s.dropTwinWaits.modTwin fun t => { t with st := .gap }
  let s := (s.loseHolder twinHolder 4).record { source := 0x0506, detail := cause }
  let s := s.modTwin fun t =>
    { t with gapCause := cause, presenceWait := false, swo := wb.map fun w => ⟨some w, [], s.mirrored, true⟩, swoNext := [], unpairing := none }
  let s := s.twinEvent.commitUnacked.commitApplied
  let reads := s.twin.fwdOut.filter fun f => match f.req with | some r => !r.kind.gapHolds && !r.kind.isWrite | none => false
  let s := reads.foldl (fun s f => match f.req with
    | some r => (s.dropFwd f.id).represent r
    | none => s) s
  let s := (asked.filter s.openReqs.contains).foldl (fun s r => s.represent r) s
  let s := (s.modMbx fun x => { x with keeper := true, filling := true }).fillVoids.numberAll
  s.ownEntry 0xFF02 0 [BitVec.ofNat 8 cause]

/-- The gap of causes 0x1 to 0x4, or of a takeover, ends (R504 steps 5 to 7; 06 R181). -/
def State.endGap (s : State) : State :=
  let cause := s.twin.gapCause
  let wb := match s.twin.swo with | some x => x.wb | none => none
  let s := s.finishTwinEntries
  let s := s.modMbx fun x => { x with filling := false, shared := false }
  -- the pages that a resync had not copied here yet, fenced since or not
  let lost := s.twin.bitmap.filter fun p => match s.wellAt (p * 4096) with
    | some (i, off) => !(s.well i).isHome && (s.well i).dpa off == p * 4096
    | none => false
  let s := lost.foldl (fun s p => (List.range 64).foldl (fun s k =>
    let a := p * 4096 + 64 * k
    ((s.dropLine (.pool a)).setPoison a)) s) s
  let s := s.mirrored.foldl (fun s i => s.modMirror i fun m => { m with primary := true, st := .degraded, twinStart := 0 }) s
  let s := (s.rcDropTwin fun _ => true).modTwin fun t =>
    { t with st := .unpaired, version := 0, pairedSince := 0, report := none, switchovers := t.switchovers + 1, lastCause := cause, swo := none }
  let s := (s.cisTwins).endLocale1.twinEvent
  -- requests that waited for the twin are served after the recall of their line
  -- in the order in which they left for it, an owner's write-back before what it made way for, and then those held in the gap
  let kept := (s.twin.fwdOut.filterMap (·.req)) ++ s.home.held.mergeSort fun a b => a.seq ≤ b.seq
  let s := (s.modTwin fun t => { t with fwdOut := t.fwdOut.filter (·.req.isNone) }).modHome fun h => { h with held := [] }
  let s := kept.foldl (fun s r => s.unwait r) s
  let walk := (s.home.dir.filter fun e => !e.record && (match s.wellAt e.key with
    | some (i, _) => (match (s.well i).cistern with | some c => (s.cis c).st == .live && (s.wellsOf c).any fun j => (s.well j).mirror.isSome | none => false)
    | none => false)).mergeSort fun a b => a.set ≤ b.set
  -- a line that a transaction of before the gap still holds is recalled when that ends
  let s := (s.modTwin fun t => { t with walk := walk.map (·.key) }).gapWalk
  let s := kept.foldl (fun s r => s.present r) s
  let s := s.readyOpt wb .ok []
  let s := s.applyHeld
  s

/-- A commanded switchover: wells whose recall is under way (06 R182). Lines that this module's stations hold in S are recalled with those in
E or M, as the next primary's directory does not know them (07 R205; DESIGN CHOICE, notes/assumptions/68). -/
def State.swoStep (s : State) : State :=
  match s.twin.swo with
  | none => s
  | some x =>
    if x.gap then s
    else
      let own := s.home.dir.filter fun e => !e.record && e.holders.any (· < 48) && (match s.wellAt e.key with
        | some (i, _) => x.out.contains i
        | none => false)
      let granting := fun (t : Txn) => match t.purpose with
        | .serve r => r.kind.grants
        | .recall => true
        | _ => t.evicted.isSome
      if own.isEmpty && !(s.home.txns.any fun t => granting t && x.out.any fun i => s.lineIn i 0 t.key) then
        (s.modTwin fun t => { t with swo := some { x with gap := true } }).twinEvent
      else (own.filter fun e => !s.isB e.key && !e.heldAt s.now && !s.noSnoop e.key).foldl (fun s e => s.startTxn e.key .recall (e.holders.filter (· < 48)) .inv) s

/-- Locale-0x1 accesses that the gap held back leave for the twin, which remains paired (02 R23). -/
def State.sendUnsent (s : State) : State :=
  (s.twin.fwdOut.filter (·.unsent)).foldl (fun s f => s.sendFwd { f with unsent := false })
    (s.modTwin fun t => { t with fwdOut := t.fwdOut.map fun f => { f with unsent := false } })

/-- The gap of a commanded switchover ends: primacy has moved (R507). -/
def State.endSwo (s : State) (x : Swo) : State :=
  let s := x.out.foldl (fun s i => s.modMirror i fun m => { m with primary := false }) s
  let s := x.gain.foldl (fun s i => s.modMirror i fun m => { m with primary := true }) s
  let away := (s.home.dir.filter fun e => e.holders.contains twinHolder && (match s.wellAt e.key with | some (i, _) => x.out.contains i | none => false)).map (·.key)
  let s := away.foldl (fun s k => s.dropHolder k twinHolder) s
  let s := x.gain.foldl (fun s i => s.dropRecords i 0) s
  let next := s.twin.swoNext.head?.map fun y =>
    { y with out := y.out.filter fun i => (s.well i).isHome, gain := y.gain.filter fun i => !(s.well i).isHome }
  let s := s.modTwin fun t => { t with swo := next, swoNext := t.swoNext.tail, switchovers := t.switchovers + 1, lastCause := 5 }
  (((s.twinEvent).readyOpt x.wb .ok []).sendUnsent).releaseHeld

/-- The wells that a TWIN_SWITCHOVER moves: from this module, and to it. -/
def State.swoWells (s : State) (toThis origin : Bool) : List Nat × List Nat :=
  let side := fun (m : Mirror) => if origin then m.origin else toThis
  let pick := fun (f : Mirror → Bool) => s.mirrored.filter fun i => match (s.well i).mirror with | some m => f m | none => false
  (pick fun m => m.primary && !side m, pick fun m => !m.primary && side m)

/-! ## Fencing (R503) -/

def State.fenceSelf (s : State) : State :=
  let s := s.lostCommands.dropTwinWaits.modTwin fun t => { t with st := .fenced, presenceWait := false, unpairing := none, swo := none, swoNext := [] }
  let s := s.loseHolder twinHolder 4
  let ws := s.mirrored
  let s := ws.foldl (fun s i => s.modMirror i fun m => { m with st := .fenced }) s
  let cs := (ws.filterMap fun i => (s.well i).cistern).eraseDups
  let s := cs.foldl (fun s c => if (s.cis c).st == .live then s.declare c 4 twinHolder else s) s
  let inWs := fun (t : Target) => match t with | .pool w _ => ws.contains w | _ => false
  let open_ := s.openReqs.filter fun r => ws.contains r.well
  -- a job touches such a well by a read of a tile, a line still to be written, or a write or atomic operation under way
  let touch := fun (j : Job) => match j.tiles.findSome? fun t => (t.reads.find? fun r => inWs r.tgt).map fun r => (t.opnd, 5, r.addr) with
    | some x => some x
    | none => match (j.wq.find? fun q => inWs q.tgt).map fun q => (q.opnd, 6, q.addr) with
      | some x => some x
      | none => open_.findSome? fun r => match r.org with
        | .jobWrite k _ t => if k == j.id then some (((j.wTiles.find? (·.id == t)).map fun t => (t.opnd, 6, t.addr)).getD (7, 6, 0)) else none
        | .atom k i => if k == j.id then some (((j.wTiles.find? (·.atom == some i)).map fun t => (t.opnd, 6, t.addr)).getD (7, 6, 0)) else none
        | _ => none
  let s := s.jobs.jobs.foldl (fun s j => match touch j with
    | some (k, step, a) => s.endJob j .domainDown (some (s.pumpFail j.lastPump k step 1 a))
    | none => s) s
  let (k, s) := s.choose 256
  let s := s.refuseReqs (fun r => ws.contains r.well) k
  let s := s.modTwin fun t => { t with st := .fenced, version := 0, pairedSince := 0, report := none }
  let s := (s.modMbx fun x => { x with shared := false, keeper := false }).numberAll
  let s := s.cisTwins.endLocale1
  ((s.record { source := 0x0505 }).twinEvent)

/-! ## Pairing (R488 to R490) -/

/-- The versions two modules share, and the highest of them (R485). -/
def sharedVersions (a b : BitVec 32) : Nat := (a &&& b).toNat
def topVersion (v : Nat) : Nat := (List.range 32).foldl (fun m i => if v.testBit i then i + 1 else m) 0

/-- The twin's copy of a well, as it told it. -/
def peerCopy (info : PeerInfo) (h : Nat) : Option PeerWell := info.wells.find? fun w => w.handle.toNat == h

/-- This module can hold a copy of every well of which the twin's copy is primary and it has none, all at once: the index of each is FREE and its
bytes fit (R488). -/
def State.copiesFit (s : State) (info : PeerInfo) : Bool :=
  ((info.wells.filter fun w => w.primary && (s.namedMir w.handle.toNat).isNone).foldl (fun (ok, s) w =>
    match Place.ofCode w.place.toNat with
    | some p =>
      if !ok || (s.well (w.handle.toNat % 65536)).st != .free then (false, s)
      else match s.findRun p w.length.toNat with
        | (some a, s) => (true, (s.takeRun p a w.length.toNat).setWell (w.handle.toNat % 65536) { st := .live, place := p, start := a, length := w.length.toNat })
        | (none, s) => (false, s)
    | none => (false, s)) (true, s)).1

/-- The checks of R488 against what the twin tells. -/
def State.pairRefusal (s : State) (info : PeerInfo) : Option Status :=
  let t := s.twin
  if t.st == .paired || t.st == .pairing || t.st == .gap || s.mod.phase != .service || !info.ready || !t.present || s.xoUp.isEmpty then some .stateConflict
  else if sharedVersions t.localVersions info.versions == 0 then some .versionMismatch
  else if !info.room || !s.copiesFit info then some .noResource
  else none

/-- A refusal of R488 is known on the management network and by vector 2 (R428, R488, R490, R501); after bring-up every refusal
raises the record. DEDUCED: a state that allows no pairing is no refused pairing of a command, nor of a module that pairs already
(notes/assumptions/120). -/
def State.pairRefused (s : State) (info : PeerInfo) (st : Status) (auto : Bool) : State :=
  let auto := auto && s.twin.st != .paired && s.twin.st != .pairing && s.twin.st != .gap
  if st == .stateConflict && !auto then s else
  let s := if st == .versionMismatch || auto then s.record { source := 0x0503, detail := s.twin.localVersions.toNat + 2 ^ 32 * info.versions.toNat } else s
  let s := if s.twin.st == .unpaired then s.modTwin fun t => { t with st := .refused, twinVersions := info.versions } else s
  s.twinEvent

def State.pairBegin (s : State) (info : PeerInfo) (rate : Nat) (wb : Option Nat) : State :=
  s.modTwin fun t => { t with st := .pairing, pairWb := wb, pairInfo := some info, rate := if rate == 0 then 256 else rate }

/-- This module is the keeper of the pair journal (15 R467). -/
def State.keeps (s : State) (info : PeerInfo) : Bool :=
  info.next.toNat < s.mbx.next || (info.next.toNat == s.mbx.next && s.mod.serial.toNat < info.serial.toNat)

/-- A key slot goes to the twin with the MIRRORED wells bound to it (19 R582; 20 R610). -/
def State.sendKey (s : State) (k : Nat) (x : KeySlot) : State :=
  let ws := x.wells.filter fun i => (s.well i).mirror.isSome
  if ws.isEmpty || !s.isPaired then s else s.emit (.xo (.keySlot k x.station x.context x.peer x.keys (ws.map s.wellHandle)))

/-- The pair journal is formed: a PAIR entry names the other module, and the keeper's ring overwrites that module's (R489; 15 R468). -/
def State.joinJournals (s : State) (info : PeerInfo) (keeper : Bool) : State :=
  if keeper then
    let s := (s.ownEntry 0xFF01 info.serial.toNat (le 8 (info.next.toNat - 1))).modMbx fun x => { x with shared := true, keeper := true }
    s.mbx.journal.reverse.foldl (fun s e => s.emit (.xo (.entry e))) s
  else
    let last := s.mbx.next - 1
    let s := (s.crossThresholds info.next.toNat).modMbx fun x => { x with journal := [], next := info.next.toNat }
    ((s.ownEntry 0xFF01 s.mod.serial.toNat (le 8 last)).modMbx fun x => { x with shared := true, keeper := false }).emit (.xo .settled)

/-- A copy that only this module holds: its context and its cistern are created on the twin, then the copy (R489, R509; 20 R609). The two
sides are recorded by position, so that the twin's is the origin's where this one is not. -/
def State.sendCopy (s : State) (i : Nat) : State :=
  let w := s.well i
  let s := s.emit (.xo (.context w.owner (s.ctx w.owner).name))
  let cis := s.cisHandle w.cistern
  let s := match w.cistern with | some c => s.emit (.xo (.cistern cis (s.cis c).name (s.cis c).tBi)) | none => s
  s.emit (.xo (.wellCopy (s.wellHandle i) w.length w.place.code (bit w.coh + 2 + 4 * bit w.kvb16) w.owner cis w.start true
    (!((w.mirror.map (·.origin)) == some true))))

/-- This module's copy is one that serves as primary. -/
def State.serves (s : State) (i : Nat) : Bool := (s.well i).isHome && (s.well i).mirSt != some .fenced

/-- A module reset has left this module's copy without its contents (20 R600). -/
def State.emptied (s : State) (i : Nat) : Bool := match (s.well i).mirror with | some m => m.restored | none => false

/-- Both modules serve as primary for the well, from contents of their own or both without (R508; 20 R600). -/
def State.diverges (s : State) (info : PeerInfo) (i : Nat) : Bool :=
  match peerCopy info (s.wellHandle i) with
  | some w => s.serves i && w.primary && s.emptied i == w.restored
  | none => false

/-- This module's copy stands at pairing: the primary is the module that kept serving, and of two primaries the keeper's copy stands (R508;
20 R600). -/
def State.stands (s : State) (info : PeerInfo) (keeper : Bool) (i : Nat) : Bool :=
  match peerCopy info (s.wellHandle i) with
  | none => true
  | some w =>
    if s.serves i && w.primary then (if s.emptied i == w.restored then keeper else w.restored)
    else if s.serves i then true
    else !w.primary && keeper

/-- A copy whose well the twin that kept serving no longer holds is released (20 R600); of two modules that were both reset, the keeper's copies
stand. -/
def State.outlived (s : State) (info : PeerInfo) (keeper same : Bool) (i : Nat) : Bool :=
  same && (peerCopy info (s.wellHandle i)).isNone && (!s.serves i || (s.emptied i && !(keeper && info.wells.any (·.restored))))

/-- This module's copy takes the primary's length (03 R69; 20 R600), once it is LIVE; one that finds no bytes for it is released, and the twin is
told that it has none (notes/assumptions/194). -/
def State.resizeIn (s : State) (i newLen : Nat) : State :=
  let w := s.well i
  if w.st == .destroying || newLen == w.length || !wellLenOk w.place newLen then s
  else if w.st != .live then s.modMirror i fun m => { m with want := some newLen }
  else
    let s := s.modMirror i fun m => { m with want := none }
    if newLen < w.length then s.shrinkWell i newLen 0
    else if s.growFits i newLen then s.growWell i newLen 0
    else (s.destroyWell i none).emit (.xo (.copied (s.wellHandle i) none))

/-- Copies that waited to be LIVE take the length they await. -/
def State.wantStep (s : State) : State :=
  s.mirrored.foldl (fun s i => match ((s.well i).mirror).bind (·.want) with
    | some n => if (s.well i).st == .live then
        (if n == (s.well i).length then s.modMirror i fun m => { m with want := none } else s.resizeIn i n) else s
    | none => s) s

/-- What pairing makes of a MIRRORED well here (R489, R495, R501, R508; 20 R600): the copy that stands is primary, keeps its marked pages
for a copy that the twin has kept and not served as primary, and sends the twin its bitmap; the other takes the primary's length, and awaits every page until that bitmap
comes. -/
def State.pairWell (s : State) (info : PeerInfo) (keeper same : Bool) (i : Nat) : State :=
  let copy := peerCopy info (s.wellHandle i)
  let start := (copy.map (·.start.toNat)).getD 0
  if s.outlived info keeper same i then s.destroyWell i none
  else if s.stands info keeper i then
    let s := s.modMirror i fun m => { m with primary := true, st := .resync, restored := false, twinStart := start }
    let s := if same && (copy.map (·.restored)) == some false && !s.diverges info i then s else s.markWell i
    let s := if copy.isNone then s.sendCopy i else s
    let pages := (List.range ((s.well i).length / 4096)).filter fun k => s.twin.bitmap.contains (s.wellPage i k)
    let s := s.emit (.xo (.bitmap (s.wellHandle i) pages))
    if copy.isSome then s.resyncEnd i else s
  else
    let s := s.modMirror i fun m => { m with primary := false, st := .resync, restored := false, twinStart := start }
    (s.markWell i).resizeIn i ((copy.map (·.length.toNat)).getD (s.well i).length)

/-- The pair is formed (R489; 15 R468; 19 R577; 20 R600). -/
def State.pairForm (s : State) (info : PeerInfo) : State :=
  let keeper := s.keeps info
  let same := s.twin.recorded == info.serial && info.serial != 0
  let wb := s.twin.pairWb
  let v := topVersion (sharedVersions s.twin.localVersions info.versions)
  let s := s.joinJournals info keeper
  let s := (s.rcDropTwin fun _ => true).modTwin fun t =>
    { t with st := .paired, version := v, twinVersions := info.versions, serial := info.serial, recorded := info.serial, keeper := keeper,
             pairedSince := s.now, report := none, pairWb := none, pairInfo := none }
  let diverged := s.mirrored.filter fun i => s.diverges info i
  let s := (s.mirrored.mergeSort fun a b => s.wellHandle a ≤ s.wellHandle b).foldl (fun s i => s.pairWell info keeper same i) s
  let s := s.cisTwins
  let left := s.mirrored.filter fun i => (s.well i).mirSt == some .resync && (s.well i).isHome
  let bytes := sumOf (fun i => 4096 * s.pagesOut i) left
  let s := s.twinEvent
  let s := match wb with | some w => s.relay w 0x0600 | none => s
  let s := s.sec.keys.foldl (fun s (k, x) => s.sendKey k x) s
  let s := (s.sec.own.filter fun a => info.auditSeq.toNat < a.seq).reverse.foldl (fun s a => s.emit (.xo (.audit a))) s
  s.readyOpt wb .ok (le 1 v ++ le 1 (bit !keeper) ++ zeros 2 ++ le 4 (left.length + info.resyncWells.toNat) ++ le 8 (bytes + info.resyncBytes.toNat) ++
    le 4 diverged.length)

/-- Pairing goes on once no entry of the module that does not keep is RUNNING; the TWIN_PAIR itself is not waited for (15
R468). -/
def State.pairStep (s : State) : State :=
  match s.twin.st, s.twin.pairInfo with
  | .pairing, some info =>
    if s.keeps info then (if info.running then s else s.pairForm info)
    else if s.mbx.asyncs.any (fun a => some a.wb != s.twin.pairWb) then s else s.pairForm info
  | _, _ => s

/-- Pairing that its presence or its last link has left fails. -/
def State.pairFail (s : State) : State :=
  let wb := s.twin.pairWb
  (s.modTwin fun t => { t with st := .unpaired, pairWb := none, pairInfo := none }).readyOpt wb .stateConflict []

/-! ## Unpairing (R491) -/

def State.unpairBegin (s : State) (split : Bool) (wb : Option Nat) : State :=
  let s := s.modTwin fun t => { t with unpairing := some wb }
  if !split then s
  else
    s.mirrored.foldl (fun s i =>
      if (s.well i).isHome then s.modMirror i fun m => { m with st := .degraded } else s.destroyWell i none) s

/-- The copies to be released are gone: the pair ends. -/
def State.unpairStep (s : State) : State :=
  match s.twin.unpairing with
  | none => s
  | some wb =>
    if s.twin.swo.isSome || s.mirrored.any fun i => !(s.well i).isHome then s
    else
      let s := s.commitUnacked
      let asked := s.unasked
      let s := s.mirrored.foldl (fun s i => s.modMirror i fun m => { m with twinStart := 0 }) s
      let s := (s.rcDropTwin fun _ => true).dropTwinWaits.modTwin fun t =>
        { t with st := .unpaired, unpairing := none, version := 0, serial := 0, recorded := 0, pairedSince := 0, report := none, twinVersions := 0 }
      let s := s.forgetHolder twinHolder
      let s := asked.foldl (fun s r => s.represent r) s
      let s := (s.modMbx fun x => { x with shared := false, keeper := false }).numberAll
      ((s.cisTwins.endLocale1).twinEvent.readyOpt wb .ok [])

/-! ## Mirrored writes, resync and audit (R494 to R498, R509) -/

/-- A copy of a write that this module forwarded is known by what it makes of the line: the write it belongs to is applied here, and is no
write to be repeated after a gap (R504; DEDUCED, notes/assumptions/165). -/
def State.noteApplied (s : State) (i off : Nat) (new : Line) : State :=
  let key := (s.well i).dpa off
  let old := (s.peekLine key).1
  let makes := fun (r : Req) => match r.kind with
    | .atomic aop width pos a b =>
      mergeLine old (bytesLine (zeros pos ++ le width (atomicNew aop width (num (lineBytes old) pos width) a b))) (spanMask pos width)
    | _ => mergeLine old r.data r.mask
  let hit := fun (f : FwdOut) => f.applied.isNone && (match f.req with
    | some r => r.well == i && r.off == off && r.kind.isWrite && makes r == new
    | none => false)
  match s.twin.fwdOut.find? hit with
  | some f => s.modTwin fun t => { t with fwdOut := t.fwdOut.map fun g => if g.id == f.id then { g with applied := some old } else g }
  | none => s

/-- The standby applies a copy of a write in the primary's order. -/
def State.mirrorIn (s : State) (id h off : Nat) (d : Line) (mask : BitVec 64) (pois : Bool) : State :=
  match s.namedMir h with
  | none => s
  | some i =>
    if !s.isPaired || (s.well i).isHome || (s.well i).length ≤ off then s
    else
      let key := (s.well i).dpa (lineOf off)
      if s.asleep key then (s.wakeDie (s.dieOf key)).modTwin fun t => { t with mirHeld := t.mirHeld ++ [(id, h, off, d, mask, pois)] }
      else
      let s := s.noteApplied i (lineOf off) (mergeLine (s.peekLine key).1 d mask)
      (s.homeWrite key d mask pois .xo).emit (.xo (.mirrorAck id))

def State.mirrorAcked (s : State) (id : Nat) : State :=
  match s.twin.mirOut.find? (·.id == id) with
  | none => s
  | some m => ((s.modTwin fun t => { t with mirOut := t.mirOut.filter (·.id != id) }).respond m.req .cmp m.ans)

/-- Bytes of one page with their poison, as the home holds them. -/
def pageKeys (w : Well) (k : Nat) : List Nat := (List.range 64).map fun l => w.dpa (4096 * k + 64 * l)

def State.pageOf (s : State) (i k : Nat) : PageImage := (pageKeys (s.well i) k).map s.peekLine

def State.putLine (s : State) (a : Nat) (d : Line) (p : Bool) : State := (s.dropLine (.pool a)).writeDram a d p

/-- The next page a resync copies: wells by handle, pages by offset (R509). -/
def State.resyncNext (s : State) : Option (Nat × Nat) :=
  let ws := (s.mirrored.filter fun i => (s.well i).mirSt == some .resync && (s.well i).isHome).mergeSort fun a b => s.wellHandle a ≤ s.wellHandle b
  let offs := fun i => (s.twin.bitmap.filterMap fun p => match s.wellAt (p * 4096) with
    | some (j, off) => if j == i && (s.well i).dpa off == p * 4096 then some (off / 4096) else none
    | none => none).mergeSort fun a b => a ≤ b
  ws.findSome? fun i => (offs i).head?.map fun k => (i, k)

/-- The page as the stacks hold it, which a resync copies unchanged (19 R582). -/
def State.pageStored (s : State) (i k : Nat) : PageImage :=
  (s.pageOf i k).zipIdx.map fun ((d, p), l) => (s.sealLine i (4096 * k + 64 * l) d, p)

/-- A marked page is copied: sent by the primary, or received by the other copy, as the stacks hold it (19 R582); a dormant die is woken first
(18 R560). -/
def State.resyncPage (s : State) (h k : Nat) (image : PageImage) : State :=
  match s.namedMir h with
  | none => s
  | some i =>
    let clear := fun (s : State) => (s.modTwin fun t => { t with bitmap := t.bitmap.filter (· != s.wellPage i k) }).resyncEnd i
    if !s.isPaired || (s.well i).mirSt != some .resync || (s.well i).length ≤ 4096 * k then s
    else if !(s.well i).isHome || s.resyncNext == some (i, k) then
      let (awake, s) := s.stacksReady (pageKeys (s.well i) k)
      if !awake then s
      else if (s.well i).isHome then clear (s.emit (.xo (.page h k (s.pageStored i k))))
      else clear ((image.take 64).zipIdx.foldl (fun s ((d, p), l) =>
        let off := 4096 * k + 64 * l
        s.putLine ((s.well i).dpa off) (s.openLine i off d) p) s)
    else s

/-- The CRC-64 of a page (R497). -/
def pageCrc (p : PageImage) : Nat := crc64 (p.flatMap fun x => lineBytes x.1)

/-- The next page of the audit of this module's standby copies: page after page of a well, one well after another by handle, without end
(R497). -/
def State.auditNext (s : State) : Option (Nat × Nat) :=
  let ws := ((s.mirrored.filter fun i => (s.well i).mirSt == some .sync && !(s.well i).isHome).map fun i => (s.wellHandle i, (s.well i).length / 4096)).mergeSort
    fun a b => a.1 ≤ b.1
  match s.twin.auditLast with
  | none => ws.head?.map fun w => (w.1, 0)
  | some (h, k) =>
    if ws.any fun w => w.1 == h && k + 1 < w.2 then some (h, k + 1)
    else match ws.find? fun w => h < w.1 with
      | some w => some (w.1, 0)
      | none => ws.head?.map fun w => (w.1, 0)

/-- The audit compares a page with the other module's copy of it (R497, R498). The standby audits: it takes the pages in order, counts them
and reports what differs. Each home sends its record of the page, and the primary its part of a repair. -/
def State.auditPage (s : State) (h k : Nat) (other : PageImage) : State :=
  match s.namedMir h with
  | none => s
  | some i =>
    if !s.isPaired || (s.well i).mirSt != some .sync || (s.well i).length ≤ 4096 * k then s
    else if !(s.well i).isHome && s.auditNext != some (h, k) then s
    else
      let (awake, s) := s.stacksReady (pageKeys (s.well i) k)
      if !awake then s
      else
      let mine := s.pageOf i k
      let home := (s.well i).isHome
      let last := (s.well i).length ≤ 4096 * (k + 1)
      let s := s.emit (.xo (.crc h k (pageCrc mine)))
      let s := if home then s else s.modTwin fun t =>
        { t with auditPages := t.auditPages + 1, auditTime := if last then tset t.auditTime i s.now else t.auditTime, auditLast := some (h, k) }
      let other := other.take 64
      if pageCrc mine == pageCrc other && mine.map (·.2) == other.map (·.2) then s
      else
        let s := (mine.zip other).zipIdx.foldl (fun s (((d, p), (e, q)), l) =>
          let a := (s.well i).dpa (4096 * k + 64 * l)
          if home then (if p && !q then s.putLine a e false else s)
          else if q && !p then s
          else if (d, p) != (e, q) then s.putLine a e q else s) s
        let s := s.emit (.xo (.page h k (s.pageOf i k)))
        if home then s
        else (s.modTwin fun t => { t with auditMismatch := t.auditMismatch + 1 }).record { source := 0x0507, object := h, address := k }

/-- The twin's grant records that wait take their ways, and are acknowledged (06 R178). -/
def State.grantStep (s : State) : State :=
  s.twin.grants.foldl (fun s (id, key, modified) =>
    match s.homeOf key with
    | none => s
    | some (die, a) =>
      match s.dirWay die (dirSetOf a) key with
      | none => s
      | some (w, s) =>
        let e : DirEnt := { key := key, die := die, set := dirSetOf a, ways := [w], excl := if modified then .m else .e, holders := [twinHolder], record := true }
        ((s.modHome fun x => { x with dir := x.dir ++ [e] }).modTwin fun t => { t with grants := t.grants.filter (·.1 != id) }).emit
          (.xo (.response id 0 false))) s

/-- The twin's record of an exclusive grant of a line of which it is primary, or of the line's return (06 R178). -/
def State.grantIn (s : State) (id h off : Nat) (granted modified : Bool) : State :=
  match s.namedMir h with
  | none => s
  | some i =>
    let key := (s.well i).dpa (lineOf off)
    if !s.isPaired || (s.well i).isHome || !(s.well i).coh || (s.well i).length ≤ off then s
    else
      let s := (s.modHome fun x => { x with dir := x.dir.filter fun e => !(e.record && e.key == key) }).modTwin fun t =>
        { t with grants := t.grants.filter (·.2.1 != key) }
      if granted then (s.modTwin fun t => { t with grants := t.grants ++ [(id, key, modified)] }).grantStep else s

/-! ## Requests of the twin (R495; 13 R392, R393, R408) -/

/-- A locale-0x1 access of the twin to a byte of this module's pool area. -/
def State.twinPool (s : State) (id dpa : Nat) (kind : ReqKind) (d : Line) (mask : BitVec 64) (pois : Bool) : State :=
  let a := lineOf (dpa % 2 ^ 44)
  match s.wellAt a with
  | some (i, off) =>
    -- an address at the well's Start reaches the copy that holds its byte (03 R90)
    if (s.well i).dpa off == a || (s.well i).start + off == a then
      s.submit { org := .twin id, kind := kind, well := i, gen := (s.well i).gen, off := off, data := d, mask := mask, pois := pois }
    else (s.unbackedBy 0 0 a).emit (.xo (.response id onesLine true))
  | none => (s.unbackedBy 0 0 a).emit (.xo (.response id onesLine true))

/-- An access forwarded by the standby. -/
def State.twinWell (s : State) (id h off : Nat) (kind : ReqKind) (d : Line) (mask : BitVec 64) (pois : Bool) : State :=
  match s.namedMir h with
  | some i =>
    if off < (s.well i).length then
      s.submit { org := .twin id, kind := kind, well := i, gen := (s.well i).gen, off := lineOf off, data := d, mask := mask, pois := pois }
    else s.emit (.xo (.response id onesLine true))
  | none => s.emit (.xo (.response id onesLine true))

/-- The primary's ZERO recovery zeroes the copy of a well here (06 R175). -/
def State.zeroIn (s : State) (id h : Nat) : State :=
  let s := match (s.namedMir h).filter fun i => !(s.well i).isHome with
    | some i => match (s.well i).cistern with
      | some c => (s.zeroWell i).modCis c fun x => { x with zeroed := i :: x.zeroed }
      | none => s
    | none => s
  s.emit (.xo (.response id 0 false))

/-- The twin asks that translations of a well of its own be dropped: what an earlier clearing of its entries still awaits is
awaited with them (13 R391, R392). -/
def State.rangeDropIn (s : State) (id h : Nat) : State :=
  let s := s.dropRanges (fun r => r.twin && r.well == h) (.twin id)
  let old := s.xl.switches.filter fun w => w.cause == .gone h
  s.modXl fun x => { x with switches := x.switches.map fun w =>
    if w.cause == SwCause.twin id then { w with tiles := w.tiles ++ old.flatMap (·.tiles), writes := w.writes ++ old.flatMap (·.writes) } else w }

def State.twinAccess (s : State) (a : TwinAccess) : State :=
  if !s.isPaired then s
  else match a with
    | .fwdRead id h off own =>
      let plain := match s.named h.toNat with | some i => !(s.well i).coh | none => true
      s.twinWell id.toNat h.toNat off.toNat (if plain then .swaRd else if own then .rdOwn else .rdS) 0 fullMask false
    | .fwdWrite id h off d mask p => s.twinWell id.toNat h.toNat off.toNat .wb d mask p
    | .read id dpa => s.twinPool id.toNat dpa.toNat .swaRd 0 fullMask false
    | .write id dpa d mask p => s.twinPool id.toNat dpa.toNat .swaWr d mask p
    | .fwdAtomic id h off aop width x c =>
      s.twinWell id.toNat h.toNat off.toNat (.atomic aop.toNat width.toNat (off.toNat % 64) x.toNat c.toNat) 0 fullMask false
    | .atomic id dpa aop width x c =>
      s.twinPool id.toNat dpa.toNat (.atomic aop.toNat width.toNat (dpa.toNat % 64) x.toNat c.toNat) 0 fullMask false
    | .rangeFill id h => match s.named h.toNat with
      | some i => s.emit (.xo (.rangeInfo id.toNat (s.well i).startNow (s.well i).length (s.well i).kvb16))
      | none => s.emit (.xo (.rangeInfo id.toNat 0 0 false))
    | .zero id h => s.zeroIn id.toNat h.toNat
    | .rangeDrop id h => s.rangeDropIn id.toNat h.toNat

/-- A snoop of the twin for a line whose own request is at the primary: that request waits there behind the snoop, so what this
module's stations hold is recalled meanwhile (04 R125; 16 R495). -/
def State.twinAsk (s : State) (x : TwinSnoop) : State :=
  match s.txnOf x.key with
  | some t =>
    let sent := t.wait.isEmpty && s.twin.fwdOut.any fun f => match f.req with | some r => t.purpose == .serve r | none => false
    let held := ((s.ent x.key).map (·.holders)).getD []
    if !sent || s.noSnoop x.key || ((s.ent x.key).map fun e => e.excl != .none && e.heldAt s.now) == some true then s
    else
      let s := s.modTwin fun y => { y with snoops := y.snoops.erase x }
      if held.isEmpty then s.emit (.xo (.snoopRsp x.id))
      else held.foldl (fun s n => s.sendSnoop x.key .inv n) (s.modTxn x.key fun t => { t with wait := held, asks := t.asks ++ [x.id] })
  | none => s

/-- Snoops of the twin's directory that find their line free start to recall it from this module's stations (04 R125). -/
def State.twinSnoopStep (s : State) : State :=
  s.twin.snoops.foldl (fun s x =>
    if s.busy x.key then s.twinAsk x
    else if s.isB x.key || s.noSnoop x.key then s
    else match s.ent x.key with
      | none => (s.modTwin fun t => { t with snoops := t.snoops.erase x }).emit (.xo (.snoopRsp x.id))
      | some e =>
        if e.excl != .none && e.heldAt s.now then s
        else
          let s := s.modTwin fun t => { t with snoops := t.snoops.erase x }
          s.startTxn x.key (.twinSnoop x.id) e.holders .inv) s

def State.twinSnoopIn (s : State) (id h off : Nat) : State :=
  match s.namedMir h with
  | none => s.emit (.xo (.snoopRsp id))
  | some i =>
    if !s.isPaired then s
    else s.modTwin fun t => { t with snoops := t.snoops ++ [⟨id, (s.well i).dpa (lineOf off)⟩] }

/-- The twin's declaration takes this side of the cistern DOWN (06 R165). -/
def State.declareIn (s : State) (h cause : Nat) : State :=
  match s.namedCis h with
  | none => s
  | some c => if (s.cis c).st == .live then (s.declare c cause twinHolder true) else s

/-! ## Messages of the crossover mailbox (15 R445) -/

/-- An entry of the pair journal from the twin. -/
def State.entryIn (s : State) (w : JWords) : State :=
  let e : JEntry :=
    { waybill := w.waybill.toNat, tag := w.tag, opcode := w.opcode.toNat, source := w.source.toNat, role := Role.ofCode w.role.toNat,
      st := JSt.ofCode w.state.toNat, status := Status.ofCode w.status.toNat, forced := w.flags.getLsbD 0, staleReuse := w.flags.getLsbD 1,
      bySurvivor := w.flags.getLsbD 2, cred := w.credId, digest := w.digest, acceptTime := w.acceptTime.toNat, finishTime := w.finishTime.toNat,
      origin := w.origin, boot := w.boot.toNat, object := w.object.toNat, result := w.result.take 32, names := w.names.map (·.toNat) }
  if (s.entryOf e.waybill).isSome then s.modMbx fun x => { x with journal := x.journal.map fun f => if f.waybill == e.waybill then e else f }
  else
    let s := if s.mbx.next ≤ e.waybill then s.crossThresholds (e.waybill + 1) else s
    s.modMbx fun x =>
      { x with journal := ((e :: x.journal).mergeSort fun a b => b.waybill ≤ a.waybill).take Config.journalRing, next := max x.next (e.waybill + 1) }

/-- What the twin asks over the crossover mailbox is refused: the mailbox counts it, and its reject history holds it (15 R444, R458). -/
def State.xoRejected (s : State) (op : Nat) (st : Status) (bytes : List Byte := []) : State :=
  s.modMbx fun x => { x with xo := { x.xo with rejectCount := sat 32 (x.xo.rejectCount + 1), rejects := ⟨s.now, 0, op, st, bytes.headD 0⟩ :: x.xo.rejects.take 63 } }

/-- The keeper assigns a waybill to an entry of the twin: NEXT passes it, and the entry follows (15 R467). -/
def State.assignWaybill (s : State) : State :=
  let wb := s.mbx.next
  ((s.crossThresholds (wb + 1)).modMbx fun x => { x with next := wb + 1 }).emit (.xo (.waybill wb))

/-- This module's share of the twin's RANGE_TABLE_SET: it checks its own wells by the rules of 13 R387. -/
def State.rangeShare (s : State) (id c : Nat) (es : List RangeWords) : State :=
  let es := es.filter RangeWords.isTwin
  let bad := es.any fun e => match s.named e.well.toNat with
    | none => true
    | some i => (s.well i).length < e.offset.toNat + e.length.toNat
  let shut := (es.filterMap fun e => s.named e.well.toNat).find? fun i => s.rwShut c i
  let (st, bytes) : Status × List Byte := if bad then (.badArgument, []) else match shut with
    | some i => (.stateConflict, le 1 (s.well i).st.code)
    | none => (.ok, [])
  let s := if st == .ok then s else s.xoRejected 0x0202 st bytes
  s.emit (.xo (.share id st.code bytes))

/-- The mirror bitmap of a well of which the twin is primary: the pages it names are to come, every other page is here (R495). -/
def State.bitmapIn (s : State) (i : Nat) (pages : List Nat) : State :=
  let have_ := ((List.range ((s.well i).length / 4096)).filter fun k => !pages.contains k).map (s.wellPage i)
  (s.modTwin fun t => { t with bitmap := t.bitmap.filter fun p => !have_.contains p }).resyncEnd i

/-- This module's copy of a MIRRORED well of the twin (R489, R492, R509; 20 R609). -/
def State.copyIn (s : State) (h length place flags owner cistern twinStart : Nat) (resync origin : Bool) : State :=
  let i := h % 65536
  let refused := fun (s : State) => (s.xoRejected 0x0100 .noResource).emit (.xo (.copied h none))
  match s.namedMir h, Place.ofCode place with
  | some j, _ => s.emit (.xo (.copied h (some (s.well j).start)))
  | none, none => refused s
  | none, some p =>
    if (s.well i).st != .free || length == 0 then refused s
    else match s.findRun p length with
      | (none, s) => refused s
      | (some a, s) =>
        let s := s.takeRun p a length
        let w : Well :=
          { gen := h / 65536, st := .live, place := p, coh := nbit flags 0, kvb16 := nbit flags 2, owner := owner,
            cistern := if nbit flags 0 then s.namedCis cistern else none, start := a, length := length,
            mirror := some ⟨false, origin, if resync then .resync else .sync, twinStart, false, none⟩ }
        let s := (((s.setWell i w).zeroed a length).cisTwins).emit (.xo (.copied h (some a)))
        if resync then s.markWell i else s

/-- The pair renegotiates its crossover version from both masks (R485). -/
def State.negotiate (s : State) : State :=
  if s.isPaired then s.modTwin fun t => { t with version := topVersion (sharedVersions t.localVersions t.twinVersions) } else s

/-- PAIR_STATE as clients see it (R501). -/
def State.pairCode (s : State) : Nat := if s.gapNow then 3 else s.twin.st.code

/-- A key slot of the twin with its MIRRORED wells (19 R582; 20 R610): it becomes the slot of that number here, or joins it where that holds the
same keys; beside a slot of other keys it is held apart, and no binding of this module ends (R583). A well of which this module is the primary and
which is bound here stays as it is bound. -/
def State.keyIn (s : State) (k : Nat) (x : KeySlot) : State :=
  let is := x.wells.filter fun i => !((s.well i).isHome && s.slots.any fun y => y.2.wells.contains i)
  let drop := fun (y : KeySlot) => { y with wells := y.wells.filter fun i => !is.contains i }
  let x := { x with wells := is }
  let s := s.modSec fun y => { y with keys := y.keys.map fun z => (z.1, drop z.2), twinKeys := y.twinKeys.map fun z => (z.1, drop z.2) }
  s.modSec fun y => match tget y.keys k with
    | none => { y with keys := tset y.keys k x }
    | some o =>
      if o.keys == x.keys then { y with keys := tset y.keys k { o with wells := o.wells ++ is } }
      else { y with twinKeys := tset y.twinKeys k x }

def State.mailIn (s : State) (m : XMsg) : State :=
  match m with
  | .entry e => if s.isPaired then s.entryIn e else s
  | .askWaybill => if s.isPaired && s.mbx.keeper then s.assignWaybill else s
  | .waybill wb => if s.asksWaybill then s.numberEntry wb.toNat else s
  | .settled => s.modTwin fun t => { t with pairInfo := t.pairInfo.map fun i => { i with running := false } }
  | .copied h start => match s.namedMir h.toNat, start with
    | some i, some a => s.modMirror i fun m => { m with twinStart := a.toNat }
    | some i, none => s.modMirror i fun m => { m with twinStart := 0, st := if m.st == .fenced then .fenced else .degraded }
    | none, _ => s
  | .bitmap h pages => match s.namedMir h.toNat with
    | some i => if s.isPaired && !(s.well i).isHome && (s.well i).mirSt == some .resync then s.bitmapIn i (pages.map (·.toNat)) else s
    | none => s
  | .rangeSet id c es => if s.isPaired then s.rangeShare id.toNat c.toNat es else s
  | .wellCopy h len place flags owner cis start re origin =>
    if s.isPaired then s.copyIn h.toNat len.toNat place.toNat flags.toNat owner.toNat cis.toNat start.toNat re origin else s
  | .wellGone h => match s.namedMir h.toNat with
    | some i => if s.isPaired && (s.well i).st != .destroying then s.destroyWell i none else s
    | none => s
  | .wellResize h n =>
    if !s.isPaired then s
    else
      -- what the caches hold of the well's length is out of date (13 R385)
      let s := (s.rcDropTwin fun r => r.well == h.toNat).clearRanges (fun r => r.twin && r.well == h.toNat && n.toNat ≤ r.offset) (.gone h.toNat)
      match s.namedMir h.toNat with
      | some i => s.resizeIn i n.toNat
      | none => s
  | .rangeClear h frm =>
    if s.isPaired then s.clearRanges (fun r => r.twin && r.well == h.toNat && frm.toNat ≤ r.offset) (.gone h.toNat) else s
  -- a fill after this asks for the length anew
  | .wellLength h _ => if s.isPaired then s.rcDropTwin fun r => r.well == h.toNat else s
  | .recover h mode => match s.namedCis h.toNat with
    | some c =>
      let x := s.cis c
      match mode.toNat with
      | 0 => if x.st == .down then s.recoverStart c .zero none else s
      | 1 => if x.st == .down then s.recoverStart c .keep none else s
      | 2 => if x.st == .live || x.st == .down then s.recoverStart c .dissolve none else s
      | _ => s
    | none => s
  | .context c name =>
    if s.isPaired && c.toNat < 4096 && (s.ctx c.toNat).st == .free then s.modCtx c.toNat fun _ => { st := .live, name := name } else s
  | .cistern h name tbi =>
    let c := h.toNat % 65536
    if s.isPaired && c < 4096 && (s.cis c).st == .free then
      s.setCis c { gen := h.toNat / 65536, st := .live, name := name, tBi := tbi.toNat } else s
  -- after bring-up a module pairs with the twin of the recorded serial number alone, at the default rate (R490)
  | .pair info rate auto =>
    if auto && (info.serial != s.twin.recorded || info.serial == 0) then s
    else match s.pairRefusal info with
      | some st => (s.xoRejected 0x0600 st (if st == .stateConflict then [BitVec.ofNat 8 s.pairCode] else [])).pairRefused info st auto
      | none => s.pairBegin info (if auto then 0 else rate.toNat) none
  | .unpair split => if s.isPaired then s.unpairBegin split none else s
  | .primacy away here =>
    let out := (away.filterMap fun h => s.namedMir h.toNat).filter fun i => (s.well i).isHome
    let gain := (here.filterMap fun h => s.namedMir h.toNat).filter fun i => !(s.well i).isHome
    if !s.isPaired || (out.isEmpty && gain.isEmpty) then s
    else
      let x : Swo := ⟨none, out, gain, false⟩
      s.modTwin fun t => if t.swo.isSome then { t with swoNext := t.swoNext ++ [x] } else { t with swo := some x }
  | .versions mask => if s.isPaired then (s.modTwin fun t => { t with twinVersions := mask }).negotiate else s
  | .keySlot k stn ctx peer keys ws =>
    if s.isPaired && k.toNat < 4096 then
      s.keyIn k.toNat { keys := keys, station := stn.toNat, context := ctx.toNat, peer := peer, wells := ws.filterMap fun h => s.namedMir h.toNat }
    else s

/-! ## Links, presence and reports (R482 to R484, R499, R500, R502) -/

/-- No crossover link, or no flit on any: the presence is awaited. -/
def State.xoSilent (s : State) : State :=
  if s.twin.st == .pairing then s.pairFail
  else if s.isPaired then s.modTwin fun t => { t with presenceWait := true } else s

def State.xoDown (s : State) (k : Nat) : State :=
  if !(s.xoUp.contains k) then s
  else
    let s := s.modTwin fun t => { t with links := t.links.setIfInBounds k false }
    let s := if s.isPaired then s.record { source := 0x0501, unit := k } else s
    if s.xoUp.isEmpty then s.xoSilent else s

/-- Three link-ups in a row at which one lane failed retire the link (17 R532, R533). Every failure has its entry in the unit history, and
every verdict: transient once the lane comes up, permanent on the module that raises no record too (R535). -/
def State.xoLink (s : State) (k : Nat) (fail : Option Nat) (localPass peerPass : Bool) : State :=
  if s.twin.retired.toArray.toList.getD k false then s
  else
    let old := s.twin.laneFails.toArray.toList.getD k []
    let hist := match fail with | some l => (l :: old).take 3 | none => []
    let s := s.modTwin fun t => { t with laneFails := t.laneFails.setIfInBounds k hist }
    if hist.length == 3 && hist.all (some · == fail) then
      let s := (s.xoDown k).modTwin fun t => { t with retired := t.retired.setIfInBounds k true }
      let lane := 2 ^ fail.getD 0
      if !localPass then s.record { source := 0x0502, unit := k, address := lane, permanent := true }
      else if peerPass then s.record { source := 0x0502, unit := k, address := lane, detail := 1 }
      else s.addHist 0x0502 5 k lane 1 2 false
    else
      let s := match fail, old with
        | some l, _ => s.addHist 0x0501 5 k (2 ^ l) 1 0 false
        | none, l :: _ => s.addHist 0x0501 5 k (2 ^ l) 1 1 false
        | none, [] => s
      s.modTwin fun t => { t with links := t.links.setIfInBounds k true }

/-- The hottest die (R499). -/
def State.tempMax (s : State) : BitVec 8 := (s.pwr.temps.toArray.toList ++ s.pwr.stackTemps.toArray.toList).foldl (fun a b => if a.slt b then b else a) (BitVec.ofInt 8 (-128))

def State.openRecords (s : State) : Nat := (s.flt.records.filter fun r => !r.acked).length

def State.degradedWells (s : State) : Nat := (s.mirrored.filter fun i => (s.well i).mirSt != some .sync).length

def State.resyncLeft (s : State) : Nat := sumOf (fun i => if (s.well i).mirSt == some .resync then 4096 * s.pagesOut i else 0) s.mirrored

/-- The health report (R499). -/
def State.healthBytes (s : State) : List Byte :=
  let t := s.twin
  le 8 s.mod.serial.toNat ++ le 8 s.now ++ le 4 (t.reportSeq + 1) ++ le 1 s.mod.phase.code ++ le 1 (if s.gapNow then 3 else t.st.code) ++
  le 1 (maskOf s.xoUp) ++ [s.tempMax] ++ le 2 s.pwr.inW ++ le 2 (sat 16 s.openRecords) ++ le 2 (sat 16 t.katPass) ++ le 2 (sat 16 t.katFail) ++
  le 8 t.scrubPages ++ le 8 t.auditPages ++ le 4 t.auditMismatch ++ le 4 s.degradedWells ++ le 8 s.resyncLeft

def State.sendHealth (s : State) : State :=
  let b := s.healthBytes
  let s := if s.isPaired then s.emit (.xo (.report b)) else s
  (s.emit (.health b)).modTwin fun t =>
    { t with reportSeq := t.reportSeq + 1, katPass := 0, katFail := 0, scrubPages := 0, auditPages := 0, auditMismatch := 0 }

end Sys2Proof.Machine
end

