-- ==== Sys2Proof/Machine/Boot.lean ====
section
/-! DEFINITION. The module as a whole: what flash keeps and a module reset leaves, bring-up, recovery, the drain and the
power-down sequence, and the spans spared (20; 14 R416; 15 R475; 17 R521 to R523, R539; 18 R545). -/
namespace Sys2Proof.Machine

def State.modMod (s : State) (f : Mod → Mod) : State := { s with mod := f s.mod }
def State.modFlt (s : State) (f : Flt → Flt) : State := { s with flt := f s.flt }
def State.modPwr (s : State) (f : Pwr → Pwr) : State := { s with pwr := f s.pwr }
def State.modFw (s : State) (f : Fw → Fw) : State := { s with fw := f s.fw }

/-! ## The metadata log (R597) -/

/-- Bring-up has read the log, so that what the module holds is what the log would say. -/
def BootStage.restored? (x : BootStage) : Bool := x == .restored || x == .filled || x == .done

/-- The changes completed so far, as the log holds them. -/
def State.metaNow (s : State) : MetaLog :=
  { wells := s.pool.wells, granules := s.pool.granules, cisterns := s.pool.cisterns, ctxs := s.xl.ctxs, plats := s.jobs.plats, nss := s.pfx.nss,
    parts := s.jobs.parts.toList.map fun p => (p.lwait, p.quota), pumps := s.jobs.pumps.toList.map (·.part), audit := s.sec.own }

def State.flushLog (s : State) : State :=
  if s.mod.stage.restored? then s.modMod fun m => { m with mlog := s.metaNow }
  else if s.sec.resumed then s.modMod fun m => { m with mlog := { m.mlog with audit := s.sec.own } }
  else s

/-! ## A module reset (R592, R598) -/

/-- Sessions that are open, for the records of the next bring-up (19 R576). -/
def State.openSessions (s : State) : List (Nat × Nat × BitVec 64) :=
  allMbx.filterMap fun m =>
    let x := s.mb m
    if x.session == .none then none else some (mbxSource m, x.session.code, x.cred)

/-- A retired crossover link stays retired where the unit history judges it (17 R532, R533). -/
def State.linkRetired (s : State) (k : Nat) : Bool := s.flt.history.any fun e => e.unitKind == 5 && e.unit == k && e.verdict == 2

/-- A pump stays out where the unit history judges it, other than through injection (08 R249; 17 R541). -/
def State.pumpJudged (s : State) (p : Nat) : Bool :=
  s.flt.history.any fun e => e.unitKind == 3 && e.unit == p && e.verdict == 2 && !e.injected

/-- The module right after a module reset: what flash and the pins keep, and nothing else; numbers under which other agents
answer go on. A pump judged permanently faulty stays out by its history, unless the judgement rests on an injected event
(08 R249; 17 R541). -/
def State.afterReset (s : State) : State :=
  { pending := s.pending, out := s.out, freeCtr := s.freeCtr
    stn := Vector.ofFn fun n => { perst := s.stn[n].perst }
    home := { seq := s.home.seq }
    jobs := { nextDev := s.jobs.nextDev
              pumps := Vector.ofFn fun p => { permanent := if s.pumpJudged p.val then some false else none } }
    fw := { s.fw with run := none, staging := none, handover := false }
    sec := { creds := s.sec.creds, keys := s.sec.keys.map fun (k, x) => (k, { x with binding := [] }), twinKeys := s.sec.twinKeys
             nextSeq := s.sec.mark + 1, mark := s.sec.mark, endedByReset := s.sec.endedByReset ++ s.openSessions }
    twin := { recorded := s.twin.recorded, localVersions := s.twin.localVersions, present := s.twin.present, nextId := s.twin.nextId
              retired := Vector.ofFn fun k => s.linkRetired k.val
              laneFails := Vector.ofFn fun k => if s.twin.retired[k] then [] else s.twin.laneFails[k] }
    flt := { policies := s.flt.policies, drainDelay := s.flt.drainDelay, history := s.flt.history, replaceFlag := s.flt.replaceFlag
             katEn := s.flt.katEn, scrubEn := s.flt.scrubEn, intervalS := s.flt.intervalS, maxOutUs := s.flt.maxOutUs, scrubH := s.flt.scrubH
             rows := s.flt.rows, uncorr := s.flt.uncorr, scrubPass := s.flt.scrubPass, scrubAt := s.flt.scrubAt }
    pwr := { s.pwr with inW := 0, inW1 := 0, wHist := [], energyMj := 0, energyRem := 0, duty := 16, memStep := 16, thermDuty := Vector.replicate 4 16
                        thermMem := Vector.replicate 4 16, below := 0, unmet := false, dormant := Vector.replicate 4 false
                        waking := Vector.replicate 4 false, lastReq := Vector.replicate 4 0, updating := false, powerDown := false
                        warned := [], critical := [], emptySince := Vector.replicate 4 (some 0), conv := s.pwr.conv.map fun x => if x == 3 then 1 else x }
    mod := { serial := s.mod.serial, boot := (s.mod.boot + 1) % 2 ^ 32, spares := s.mod.spares.map fun x => { x with wb := none }, mlog := s.mod.mlog } }

/-- A MODULE_RESET reaction: announced to a twin first (17 R523). -/
def State.moduleReset (s : State) : State :=
  (if s.isPaired then s.emit (.xo (.announce .moduleReset)) else s).afterReset

/-! ## What bring-up restores (R598, R599) -/

def Well.restore (w : Well) : Well :=
  let mirror := w.mirror.map fun m => { m with primary := true, st := .degraded, restored := true }
  let base := { w with grants := [], mig := none, resize := none, wb := none, mirror := mirror }
  match w.st with
  | .free => { gen := w.gen }
  | .creating => base
  | .destroying => { gen := (w.gen + 1) % 65536 }
  | .resizing => { base with st := .live, length := match w.resize with | some r => min w.length r.newLen | none => w.length, toFill := true }
  | _ => { base with st := .live, toFill := true }

def Cistern.restore (x : Cistern) : Cistern :=
  { x with twin := false, walking := false, recover := x.recover.map fun r => (r.1, none), leaving := [], expectWb := [], zeroed := [] }

def Platform.restore (x : Platform) : Platform :=
  match x.st with
  | .free | .destroying => {}
  | _ =>
    { x with st := .stopped, free := x.allot, held := 0, accepted := 0, consumed := 0, readAhead := [], tail := 0, cqWritten := 0, cqHead := 0,
             dropped := 0, ok := 0, failed := 0, wb := none, earlier := [], abandoned := 0 }

def Ns.restore (x : Ns) : Ns :=
  match x.st with
  | .free => x
  | .destroying => { gen := (x.gen + 1) % 65536 }
  | _ => { x with hitBlocks := 0, evictions := 0, wb := none }

def Ctx.restore (x : Ctx) : Ctx := if x.st == .destroying then {} else { x with wb := none }

/-- Key slots name only wells that are there (19 R583). -/
def State.tidyKeys (s : State) : State :=
  let tidy := fun (l : Tab KeySlot) => l.map fun (k, y) => (k, { y with wells := y.wells.filter fun i => (s.well i).st != .free })
  s.modSec fun x => { x with keys := tidy x.keys, twinKeys := (tidy x.twinKeys).filter fun y => !y.2.wells.isEmpty }

/-- The state the log gives each object; recoveries that ran start again. -/
def State.restore (s : State) : State :=
  let m := s.mod.mlog
  let s := s.modPool fun p =>
    { p with wells := m.wells.map fun (i, w) => (i, w.restore), granules := m.granules, cisterns := m.cisterns.map fun (c, x) => (c, x.restore), revs := [] }
  let s := s.modXl fun x => { x with ctxs := m.ctxs.map fun (c, x) => (c, x.restore), switches := [] }
  let s := s.modJobs fun x =>
    { x with
      plats := m.plats.map fun (p, x) => (p, x.restore)
      parts := if m.parts.isEmpty then x.parts else Vector.ofFn fun i => match m.parts[i.val]? with | some (l, q) => ⟨l, q⟩ | none => {}
      pumps := if m.pumps.isEmpty then x.pumps else Vector.ofFn fun i => { x.pumps[i] with part := (m.pumps[i.val]?).getD none } }
  let s := s.modPfx fun x => { x with nss := m.nss.map fun (i, x) => (i, x.restore), index := [], holds := [] }
  let s := s.tidyGranules.tidyKeys
  ((s.pool.cisterns.filter fun x => x.2.st == .dissolving).map (·.1)).foldl (fun s c => s.dissolve c) s

/-- Every line of a run reads as poison, without records (R599). -/
def State.poisonRun (s : State) (a n : Nat) : State :=
  { s with poison := s.poison.filter (· < a) ++ (List.range (n / 64)).map (fun k => a + 64 * k) ++ s.poison.filter (a + n ≤ ·) }

/-- Restored LIVE wells are filled, and the ring headers written again (R594, R598, R599). -/
def State.fillRestored (s : State) : State :=
  let ws := (s.pool.wells.filter fun x => x.2.toFill && x.2.st != .free).map (·.1)
  let s := ws.foldl (fun s i => (s.poisonRun (s.well i).start (s.well i).length).modWell i fun w => { w with toFill := false }) s
  ((s.jobs.plats.filter fun x => x.2.st != .free).map (·.1)).foldl (fun s p => s.writeHeader p) s

/-! ## Service and recovery (R594 to R596) -/

/-- Memory_Active of every station (14 R416). -/
def State.memoryActive (s : State) (b : Bool) : State :=
  (List.range 48).foldl (fun s n => s.modStn n fun t => { t with memActive := b, memReturn := false }) s

def State.enterRecovery (s : State) (byLog : Bool) : State :=
  s.modMod fun m => { m with phase := .recovery, metaBad := m.metaBad || byLog, otherBad := m.otherBad || !byLog }

def State.enterService (s : State) : State :=
  let s := ((s.modMod fun m => { m with phase := .service, stage := .done }).memoryActive true).bootEntry
  if s.flt.replaceFlag then { s with todo := s.todo ++ [.replace] } else s

/-- The versions that run. -/
def Comp.active (c : Comp) : BitVec 32 := if c.bank = 0 then c.ver0 else c.ver1
def Comp.passes (c : Comp) : Bool := if c.bank = 0 then c.ok0 else c.ok1
def Comp.swap (c : Comp) : Comp := { c with bank := 1 - c.bank }
def versionsOf (l : List (BitVec 32)) : Versions := ⟨l.getD 0 0, l.getD 1 0, l.getD 2 0, l.getD 3 0, l.getD 4 0⟩
def versionList (v : Versions) : List (BitVec 32) := [v.sb, v.pm, v.lk, v.ms, v.pw]
/-- The crossover versions of a combination (16 R485; notes/assumptions/18). -/
def xoMask (combo : List (BitVec 32)) : BitVec 32 :=
  if combo == [0x01000000, 0x01000000, 0x01000000, 0x01000000, 0x01000000] then 1 else Config.crossoverVersions combo
def State.running (s : State) : List (BitVec 32) := s.fw.comps.toList.map Comp.active

/-- A component whose active image fails runs its other bank (R595). -/
def Comp.checked (c : Comp) (p0 p1 : Bool) : Comp :=
  let c := { c with ok0 := p0, ok1 := p1 }
  if c.passes then c else if c.swap.passes then c.swap else c

/-! ## Spared rows (R607, R608; 17 R534) -/

/-- A row's entries become spared. -/
def State.sparedRow (s : State) (stack loc : Nat) : State :=
  s.modFlt fun f => { f with history := f.history.map fun e =>
    if e.source == 0x0103 && e.unitKind == 2 && e.unit == stack && e.verdict == 2 && e.location.toNat == loc then { e with verdict := 3 } else e }

/-- A SPARE_ACTIVATE whose spans are all copied completes. -/
def State.spareEnd (s : State) (wb stack : Nat) : State :=
  if s.mod.spares.any fun x => x.wb == some wb && !x.done then s
  else
    let n := sumOf (·.rows) (s.mod.spares.filter fun x => x.wb == some wb)
    (s.modMod fun m => { m with spares := m.spares.map fun x => if x.wb == some wb then { x with wb := none } else x }).ready wb .ok
      (le 2 n ++ le 2 (s.spansLeft (stack / 6)))

/-! ## The drain and the power-down sequence (R604 to R606) -/

/-- A command of the module's own, journaled with SOURCE 0x3F, that runs (R603; 17 R539). -/
def State.ownCommand (s : State) (opcode : Nat) : Nat × State :=
  let s := s.bootEntry
  let wb := s.mbx.next
  let s := s.writeEntry { waybill := wb, opcode := opcode, source := 0x3F, st := .running, status := .accepted, acceptTime := s.now,
                          origin := s.mod.serial, boot := s.mod.boot }
  (wb, s.modMbx fun x => { x with asyncs := x.asyncs ++ [{ wb := wb, mbx := none, opcode := opcode }] })

/-- A drain begins: from recovery or drained it goes on with the log and the power-down. -/
def State.drainBegin (s : State) (wb : Nat) (off : Bool) : State :=
  s.modMod fun m => { m with drain := some ⟨some wb, off, if m.phase == .service then 0 else 6⟩ }

/-- The drains that the module starts by itself (R603; 17 R539). -/
def State.autoDrain (s : State) (off : Bool) : State :=
  if s.mod.drain.isSome then s
  else
    let (wb, s) := s.ownCommand 0x0B00
    s.drainBegin wb off

/-- Primacy of every MIRRORED well leaves this module (R605; 17 R539). -/
def State.yieldPrimacy (s : State) : State :=
  let runs := s.twin.swo.toList ++ s.twin.swoNext
  let out := s.mirrored.filter fun i => (s.well i).isHome || runs.any (·.gain.contains i)
  let x : Swo := ⟨none, out, [], false⟩
  if out.isEmpty then s else s.modTwin fun t => if t.swo.isSome then { t with swoNext := t.swoNext ++ [x] } else { t with swo := some x }

/-- Doorbells that a drained module drops (R605; 17 R528). -/
def State.dropBells (s : State) : State :=
  let l := s.jobs.doorbells
  l.foldl (fun s d => s.logFlt d.stn 6 2 0xFF (0x20000 + 8 * d.plat) Config.noHandle true) (s.modJobs fun x => { x with doorbells := [] })

/-- The announced module serves no mirrored well any more; the twin does (R605; 16 R502). -/
def State.partTwin (s : State) : State :=
  if !s.isPaired then s
  else
    let s := (s.emit (.xo (.announce .drain))).lostCommands
    let s := s.commitUnacked
    let s := s.mirrored.foldl (fun s i => s.modMirror i fun m => { m with primary := false, st := .degraded }) s
    let s := s.modTwin fun t =>
      { t with st := .unpaired, version := 0, pairedSince := 0, report := none, unpairing := none
               fwdOut := t.fwdOut.filter fun f => f.drop.isNone && f.snoop.isNone }
    let s := ((s.forgetHolder twinHolder).modMbx fun x => { x with shared := false, keeper := false }).numberAll
    (s.cisTwins.endLocale1).twinEvent

/-- A platform has nothing left to end, or its ring has no place for a record (11 R317). -/
def State.platQuiet (s : State) (p : Nat) (x : Platform) : Bool :=
  x.held == 0 || (!x.slotFree && (s.jobsOf p).all fun j => j.stage == .ended)

def setStep (k : Nat) (s : State) : State := s.modMod fun m => { m with drain := m.drain.map fun d => { d with step := k } }

/-- One step of a drain, where what it waits for has come (R605, R606). -/
def State.drainOnce (s : State) : State :=
  match s.mod.drain with
  | none => s
  | some d => match d.step with
    | 0 => if s.twinHealthy && s.twin.swo.isSome then s else setStep 1 (if s.twinHealthy then s.yieldPrimacy else s)
    | 1 =>
      if s.twin.swo.isSome || s.gapNow then s
      else
        let ps := (s.jobs.plats.filter fun x => x.2.st != .free && x.2.st != .destroying).map (·.1)
        setStep 2 (ps.foldl (fun s p =>
          let s := s.abortPlat p
          if (s.plat p).st == .stopped then s else s.setPlat p fun x => { x with st := if x.st == .drained then .drained else .draining }) s)
    | 2 =>
      if s.jobs.plats.all fun (p, x) => x.st == .free || s.platQuiet p x then
        setStep 3 ((s.pool.wells.map (·.1)).foldl (fun s i => s.revokeAll i 0 .drain) s) else s
    | 3 =>
      if s.pool.wells.all fun x => x.2.grants.isEmpty then setStep 4 ((s.memoryActive false).dropBells) else s
    | 4 => setStep 5 s.partTwin
    | 5 => setStep 6 s.flushLog
    | 6 =>
      let s := (if s.mod.phase == .service then s else s.flushLog).modMod fun m => { m with phase := .drained }
      let s := s.readyOpt d.wb .ok []
      if d.off then setStep 7 s else s.modMod fun m => { m with drain := none }
    | 7 => match d.wb with
      | some wb => if s.mbx.asyncs.any (·.wb == wb) then s else setStep 8 s
      | none => setStep 8 s
    | _ => s

/-- A drain goes as far as it can. -/
def State.drainStep (s : State) : State := (List.range 9).foldl (fun s _ => s.drainOnce) s

/-- The power-down sequence starts: links go down (R606). -/
def State.powerDownStart (s : State) : State :=
  let s := s.modPwr fun p => { p with powerDown := true }
  let s := (List.range 48).foldl (fun s n => if (s.stnAt n).up then s.stationGone n .down else s) s
  s.modTwin fun t => { t with links := Vector.replicate 4 false }

/-- Its end: the rails go down and the hot-swap controller opens and stays open (R606). -/
def State.powerDownEnd (s : State) : State :=
  let s := s.flushLog.afterReset
  (s.modPwr fun p => { p with hotSwap := .open_, holdOpen := 1, inputGood := false, limiting := false }).modMod fun m => { m with poweredDown := true }

end Sys2Proof.Machine
end

