-- ==== Sys2Proof/Machine/Power.lean ====
section
/-! DEFINITION. The 64 V input and its hot-swap controller, rails, the input limit, temperatures, stack dormancy and the
pumps' clocks (18; 20 R606). -/
namespace Sys2Proof.Machine

/-! ## The 64 V input (R542 to R545) -/

/-- What has to come before the hot-swap controller closes again: nothing (0), a pin event or VIN_64 below 40 V (1), VIN_64
below 54 V (2), or the next try (4). -/
def State.openSwap (s : State) (hold : Nat) : State :=
  (s.afterReset).modPwr fun p => { p with hotSwap := .open_, holdOpen := hold, inputGood := false, limiting := false, mv := 0, ma := 0 }

/-- An input fail: power good falls, and nothing is announced (R545). A limiting trip counts among the tries (R544). -/
def State.inputFail (s : State) (hold : Nat) : State :=
  if s.pwr.hotSwap == .open_ then s else s.openSwap hold

/-- A current limit that lasts opens the controller; after three failed tries it stays open (R544). -/
def State.limitTrip (s : State) : State := if s.pwr.limiting then s.inputFail (if 3 ≤ s.pwr.tries then 2 else 4) else s

/-- VIN_64 is below 54 V: an input fail, or the end of a stay that waits for it (R542, R544). -/
def State.inputLow (s : State) : State :=
  if s.pwr.hotSwap == .open_ then
    s.modPwr fun p => if p.holdOpen == 2 then { p with holdOpen := 0, tries := 0 } else p
  else s.inputFail 0

/-- A stay that waits for a pin event ends (20 R606). -/
def State.pinRelease (s : State) : State := s.modPwr fun p => if p.holdOpen == 1 then { p with holdOpen := 0 } else p

/-- Input energy in mJ: mV times mA over 10 us is a count of 10^-8 mJ (R555). -/
def Pwr.addEnergy (p : Pwr) (mv ma : Nat) : Pwr :=
  let e := p.energyRem + mv * ma
  { p with energyMj := p.energyMj + e / 100000000, energyRem := e % 100000000 }

/-! ## Rails (R547) -/

/-- A rail's nominal voltage in mV. -/
def railNominal (r : Nat) : Nat :=
  if r < 0x10 then [750, 750, 1050, 400].getD (r % 4) 0
  else if r == 0x12 || r == 0x13 then 850 else 750

def railBad (r mv : Nat) : Bool := mv * 100 < railNominal r * 95 || railNominal r * 105 < mv * 100

/-! ## The input limit (R550 to R554) -/

def State.converters (s : State) : Nat := (s.pwr.conv.toList.filter fun c => c == 1 || c == 3).length

def State.effectiveW (s : State) : Nat :=
  min (min s.pwr.limitW (600 * s.converters)) (if s.pwr.updating then 1800 else 2 ^ 16)

/-- A step down: the duty first, then the memory step, to their floors. -/
def stepDown (duty mem : Nat) : Nat × Nat := if 2 < duty then (duty - 1, mem) else if 6 < mem then (duty, mem - 1) else (duty, mem)

/-- A step up: the memory step first, then the duty. -/
def stepUp (duty mem : Nat) : Nat × Nat := if mem < 16 then (duty, mem + 1) else if duty < 16 then (duty + 1, mem) else (duty, mem)

/-- The power core is in block reset, so that the steps of R552 hold (17 R521). -/
def State.powerHeld (s : State) : Bool := s.flt.busy.any fun x => x.1 == 6 && x.2.1 == 5

/-- One comparison of the power manager. -/
def State.powerStep (s : State) (w : Nat) : State :=
  let h := (w :: s.pwr.wHist).take 10
  let s := s.modPwr fun p => { p with inW := w, wHist := h, inW1 := h.foldl (· + ·) 0 / h.length }
  if s.powerHeld then s
  else
    let eff := s.effectiveW
    let p := s.pwr
    if eff < w then
      let floor := p.duty ≤ 2 && p.memStep ≤ 6
      let (d, m) := stepDown p.duty p.memStep
      let s := s.modPwr fun p => { p with duty := d, memStep := m, below := 0, unmet := p.unmet || floor }
      if floor && !p.unmet then s.emit (.mgmt .limitUnmet) else s
    else
      let below := if w + 50 ≤ eff then p.below + 1 else 0
      let (d, m) := if 10 ≤ below then stepUp p.duty p.memStep else (p.duty, p.memStep)
      s.modPwr fun p => { p with duty := d, memStep := m, below := below, unmet := false }

/-! ## Temperature (R561 to R564) -/

/-- Warning and critical limits of sensor `i`: 0 to 6, and the stacks from 7. -/
def warnOf (i : Nat) : Int := if i < 6 then 100 else if i == 6 then 95 else 85
def critOf (i : Nat) : Int := if i < 6 then 115 else if i == 6 then 110 else 95

/-- The number a record gives a sensor. -/
def sensorNo (i : Nat) : Nat := if i < 7 then i else 0x10 + (i - 7)

/-- The home die a record names. -/
def sensorDie (i : Nat) : Nat := if i < 4 then i else if i < 7 then 0 else (i - 7) / 6

/-- The sensor acts on the duty of a die: its own, or every die for the station dies and the signal box. -/
def sensorOn (i d : Nat) : Bool := if i < 4 then i == d else if i < 7 then true else (i - 7) / 6 == d

/-- The temperatures of all 31 sensors. -/
def State.allTemps (s : State) : List Int := (s.pwr.temps.toList ++ s.pwr.stackTemps.toList).map BitVec.toInt

/-- A sensor that reaches a limit raises its record, warnings before critical ones (R561; 17 R522). -/
def State.thermRecords (s : State) : State :=
  let at_ := fun (lim : Nat → Int) => (s.allTemps.zipIdx.filter fun x => lim x.2 ≤ x.1).map (·.2)
  let warn := (at_ warnOf).filter fun i => !s.pwr.warned.contains i
  let crit := (at_ critOf).filter fun i => !s.pwr.critical.contains i
  let s := s.modPwr fun p => { p with warned := at_ warnOf, critical := at_ critOf }
  let rec_ := fun (source : Nat) (s : State) (i : Nat) => s.record { source := source, unit := sensorDie i, detail := sensorNo i }
  crit.foldl (rec_ 0x0606) (warn.foldl (rec_ 0x0605) s)

/-- The duty and memory step of a die one step on. -/
def State.thermDie (s : State) (d : Nat) : State :=
  let mine := s.allTemps.zipIdx.filter fun x => sensorOn x.2 d
  let duty := s.pwr.thermDuty.toList.getD d 16
  let mem := s.pwr.thermMem.toList.getD d 16
  let (a, b) := if mine.any fun x => warnOf x.2 ≤ x.1 then stepDown duty mem
    else if mine.all fun x => x.1 + 2 ≤ warnOf x.2 then stepUp duty mem else (duty, mem)
  s.modPwr fun p => { p with thermDuty := p.thermDuty.setIfInBounds d a, thermMem := p.thermMem.setIfInBounds d b }

/-- Sensors are read (R561); a stay that waits for cool sensors ends when all are below their warning limits (R564). -/
def State.thermStep (s : State) (sensors dram : List Byte) : State :=
  let s := s.modPwr fun p => { p with temps := Vector.ofFn fun i => sensors.getD i.val p.temps[i], stackTemps := Vector.ofFn fun i => dram.getD i.val p.stackTemps[i] }
  let ts := s.allTemps.zipIdx
  let s := if ts.all fun x => x.1 < warnOf x.2 then s.modPwr fun p => { p with hot := false } else s
  if !s.answers then s
  else
    let s := s.modPwr fun p =>
      { p with therm := if ts.any fun x => warnOf x.2 ≤ x.1 then true else if ts.all fun x => x.1 + 5 ≤ warnOf x.2 then false else p.therm }
    let s := (List.range 4).foldl (fun s d => s.thermDie d) s
    s.thermRecords

/-! ## Stack dormancy (R559, R560) -/

def State.dieDormant (s : State) (d : Nat) : Bool := s.pwr.dormant.toList.getD d false

/-- The moments since when dies have held no placed byte (R559). -/
def State.emptyStep (s : State) : State :=
  s.modPwr fun p => { p with emptySince := Vector.ofFn fun d =>
    if (s.quartersUsed d.val).isEmpty then some (p.emptySince[d].getD s.now) else none }

/-- Dormancy of a die begins: it has held no placed byte for 10 ms, or no request has reached it for the idle delay. -/
def State.dormantEntry (s : State) (d : Nat) : State :=
  let sleep := fun (s : State) => s.modPwr fun p => { p with dormant := p.dormant.setIfInBounds d true, waking := p.waking.setIfInBounds d false }
  if d == 0 || s.dieDormant d || !s.answers then s
  else
    let empty := if (s.quartersUsed d).isEmpty then some ((s.pwr.emptySince.toList.getD d none).getD s.now + 10000000) else none
    let idle := s.pwr.dormantMs.map fun ms => s.pwr.lastReq.toList.getD d 0 + ms * 1000000
    match empty, idle with
    | some a, some b => sleep (s.until (min a b))
    | some t, none | none, some t => sleep (s.until t)
    | none, none => s

def State.wakeDone (s : State) (d : Nat) : State :=
  if !s.pwr.waking.toList.getD d false then s
  else
    let s := s.modPwr fun p => { p with dormant := p.dormant.setIfInBounds d false, waking := p.waking.setIfInBounds d false, lastReq := p.lastReq.setIfInBounds d s.now }
    let l := s.twin.mirHeld
    l.foldl (fun s (id, h, off, d, mask, pois) => s.mirrorIn id h off d mask pois) ((s.modTwin fun t => { t with mirHeld := [] }).releaseHeld)

/-! ## Pump clocks (R557, R558; 08 R237) -/

def Pump.idle (x : Pump) : Bool := x.job.isNone && x.queue.isEmpty && !x.waking && x.test.isNone

def State.pumpWarm (s : State) (p : Nat) : State :=
  let x := s.pumpAt p
  if x.clk == .hot && x.idle then
    let s := s.until (x.since + s.pwr.hotIdleUs * 1000)
    s.modPump p fun x => { x with clk := .warm, since := s.now }
  else s

def State.pumpCold (s : State) (p : Nat) : State :=
  let x := s.pumpAt p
  match s.pwr.warmIdleUs with
  | some us =>
    if x.clk == .warm && x.idle then
      let s := s.until (x.since + us * 1000)
      s.modPump p fun x => { x with clk := .cold, since := s.now }
    else s
  | none => s

/-- A woken pump starts the job it was given. -/
def State.pumpWoken (s : State) (p : Nat) : State :=
  let x := s.pumpAt p
  if !x.waking then s
  else
    let s := s.modPump p fun x => { x with clk := .hot, waking := false, since := s.now }
    match x.job.bind s.job with
    | some j => if j.stage == .queued p then s.readDesc j.id p else s
    | none => s

/-- Pumps that the power manager holds Cold (R558); one judged permanently faulty has left its partition (08 R249). -/
def State.coldStep (s : State) : State :=
  let all := s.mod.phase == .bringUp || s.mod.phase == .drained
  s.modJobs fun x => { x with pumps := x.pumps.map fun p =>
    if p.job.isNone && (all || p.part.isNone || p.permanent.isSome || p.updating) then { p with clk := .cold, waking := false } else p }

end Sys2Proof.Machine
end

