-- ==== Sys2Proof/Machine/Settle.lean ====
section
/-! DEFINITION. What follows any command within its own step: work whose waits have been met, the reactions that were raised
(17 R521 to R524, R539), the drain (20 R605), and the levels of the pins (16 R484; 17 R525; 18 R562; 20 R602). -/
namespace Sys2Proof.Machine

/-! ## Work whose waits have been met -/

/-- Doorbells are dropped by a drained module, and latched during an SB hand-over (20 R605; 15 R480). -/
def State.bellStep (s : State) : State :=
  let drained := s.mod.phase == .drained || (match s.mod.drain with | some d => 4 ≤ d.step && s.mod.phase == .service | none => false)
  if drained then s.dropBells else if s.fw.handover then s else s.bells

/-- A prefix job that names the namespace runs, or an insert of it has not ended yet. -/
def State.nsJobs (s : State) (i : Nat) : Bool :=
  s.jobs.jobs.any fun j => (j.opcode == 0x50 || j.opcode == 0x51 || j.opcode == 0x52) &&
    ((match j.ins with | some x => x.ns == i | none => false) ||
      (s.namedNs (j.par 0x5C 4) == some i && (match j.stage with | .running _ => true | _ => false)))

/-- Namespaces being destroyed end once no prefix job of theirs runs: holds, entries and the salt go (12 R347, R355). -/
def State.nsStep (s : State) : State :=
  ((s.pfx.nss.filter fun x => x.2.st == .destroying).map (·.1)).foldl (fun s i =>
    if s.nsJobs i then s
    else
      let x := s.ns i
      (((s.endHolds i).freeEntries i).modNs i fun _ => { gen := (x.gen + 1) % 65536 }).readyOpt x.wb .ok []) s

def State.steps (s : State) : State :=
  let s := s.locale1Step.homeStep.writesMoved.finishStep.ioFlush.atomStep.cplStep
  let s := s.switchStep.wellStep.wantStep.doomStep.platStep.moveStep
  let s := s.replayStep.atsStep.twinSnoopStep.grantStep
  let s := s.swoStep.pairStep.unpairStep.bellStep.nsStep
  (s.offerJobs fun _ => true).descStep.drainStep.coldStep.emptyStep

/-! ## Reactions (17 R521, R539) -/

def State.markBusy (s : State) (kind unit : Nat) (block : Bool) : State :=
  s.modFlt fun f => { f with busy := if f.busy.contains (kind, unit, block) then f.busy else f.busy ++ [(kind, unit, block)] }

def State.clearBusy (s : State) (kind unit : Nat) (block : Bool) : State :=
  s.modFlt fun f => { f with busy := f.busy.filter (· != (kind, unit, block)) }

/-- The capture of a unit's state in the unit history (R521, R535). -/
def State.capture (s : State) (kind unit : Nat) : State :=
  match s.flt.records.find? fun r => r.unitKind == kind && r.unit == unit with
  | some r => s.addHist r.source kind unit r.address.toNat 1 0 r.injected
  | none => s

/-- The mailboxes a control core serves (R521). -/
def coreMbx (c : Nat) : List Mbx :=
  if c < 4 then (List.finRange 48).filterMap fun n => if n.val / 12 == c then some (.stn n) else none
  else if c == 4 then [.eth, .i3c] else []

def State.setHandover (s : State) (l : List Mbx) (b : Bool) : State := l.foldl (fun s m => s.modMb m fun x => { x with handover := b }) s

/-- A unit's block reset (R521). -/
def State.blockReset (s : State) (kind unit : Nat) : State :=
  let s := s.markBusy kind unit true
  match kind with
  | 3 =>
    let s := (s.pumpReset unit).modPump unit fun x => { x with resetting := true, rcache := [] }
    s.zeroRun (Config.scratchBase + unit * Config.scratchStride) 0x1000000
  | 4 => if h : unit < 48 then s.stationReset ⟨unit, h⟩ .block else s
  | 5 => s.xoDown unit
  | 6 => s.setHandover (coreMbx unit) true
  | _ => s

/-- Steps 2 and 3 of the replacement sequence (R539). -/
def State.replaceUnit (s : State) : State :=
  let s := s.modFlt fun f => { f with replaceFlag := true }
  if s.twinHealthy && s.mod.phase == .service then
    (s.modFlt fun f => { f with flaggedAt := some (f.flaggedAt.getD s.now) }).yieldPrimacy
  else s

def State.takeTodo (s : State) (t : Todo) : State :=
  match t with
  | .nmi kind unit => s.markBusy kind unit false
  | .block kind unit => s.blockReset kind unit
  | .moduleReset => (s.flt.busy.foldl (fun s (k, u, b) => if b then s else s.capture k u) s).moduleReset
  | .replace => s.replaceUnit
  | .pumpOut p => s.requeue p true
  | .stationOut n =>
    let s := s.modFlt fun f => { f with stnOut := if f.stnOut.contains n then f.stnOut else f.stnOut ++ [n] }
    if h : n < 48 then s.stationReset ⟨n, h⟩ .block else s
  | .revokeIde n => s.revokeIde n

/-- Reactions in the order in which they were raised, those that a reaction raises included. -/
def State.settleFor : Nat → State → State
  | 0, s => s
  | k + 1, s =>
    match s.todo with
    | [] => s
    | t :: rest => State.settleFor k ({ s with todo := rest }.takeTodo t)

def State.settle (s : State) : State := s.settleFor (s.todo.length + 4096)

/-! ## Pins -/

/-- A record that stops the alive toggle (17 R525). -/
def State.toggleStopped (s : State) : Bool := s.flt.records.any fun r => !r.acked && (r.cls == 2 || r.cls == 4 || r.cls == 5 || r.pin)

/-- The firmware-held level is low (17 R525). -/
def State.pinOpen (s : State) : Bool := s.flt.records.any fun r => !r.acked && r.pin

/-- The toggle runs (17 R525). -/
def State.toggles (s : State) : Bool := s.mod.phase == .bringUp || s.mod.phase == .factory || s.mod.phase == .recovery

/-- MOD_ERR_N is low (17 R525); a module without power drives nothing. The pin is a level and no register: its value at reset is the
phase's, whatever the Reset column of 14 R427 gives the bit that shows it (DEDUCED, notes/assumptions/160). -/
def State.errLow (s : State) : Bool :=
  if s.pwr.hotSwap != .closed then false
  else if !s.answers || s.mod.errForced then true
  else if s.toggles then s.mod.toggleHeld || s.mod.toggleLow || s.toggleStopped
  else s.mod.oneShot || s.pinOpen

/-- A drain, a power-down or a button action is under way (20 R602). -/
def State.leaving (s : State) : Bool := s.mod.drain.isSome || s.pwr.powerDown || s.mod.attnUntil.isSome

def State.pwrLed (s : State) : Led :=
  if !s.pwr.standby || s.mod.poweredDown then .off
  else if s.mod.stage == .stopped || s.mod.phase == .bringUp || s.mod.phase == .recovery || s.leaving then .blink
  else .on

def State.attnLed (s : State) : Led :=
  if !s.pwr.standby then .off
  else if s.mod.poweredDown then .on
  else if s.mod.stage == .stopped || (s.flt.replaceFlag && s.mod.phase != .drained) then .blink
  else if s.mod.phase == .bringUp || s.mod.phase == .recovery || s.leaving then .off
  else if s.mod.phase == .drained then .on
  else .off

/-- The levels of the output pins in a state. -/
def pinsOf (s : State) : Pins :=
  { modErrLow := s.errLow, thermLow := s.pwr.therm && s.pwr.hotSwap == .closed, attnLed := s.attnLed, pwrLed := s.pwrLed
    presenceLow := s.answers && !s.mod.errForced && s.pwr.hotSwap == .closed }

/-! ## The end of every command -/

/-- The power-down sequence starts once the drain that leads to it has completed, and ends with the next command or tick. -/
def State.powerSeq (s : State) : State :=
  if s.pwr.powerDown then s.powerDownEnd
  else match s.mod.drain with
    | some d => if d.step == 8 then s.powerDownStart else s
    | none => s

def finish (s : State) : State :=
  let s := s.steps.settle.steps.settle.powerSeq
  let s := { s with todo := [] }
  { s with pins := pinsOf s }

/-- What every meaning answers with: the state its command leaves. -/
def done (s : State) : Out := .next (finish s)

/-- What an empty queue leaves to time: signal-box time advances by its 10 ns step while power is good (15 R475; 18 R556), and a power-down
sequence under way ends (20 R606). -/
def State.idle (s : State) : State :=
  let s := if s.pwr.inputGood then { s with now := s.now + 10 } else s
  if s.pwr.powerDown then finish s else s

end Sys2Proof.Machine
end

