-- ==== Sys2Proof/Machine/Flags.lean ====
section
/-! DEFINITION. The status words and flags that clients read: the registers of the control aperture as values of the state
(00 R9; 02 R38; 14 R424 to R428; 15 R449, R450, R465; 17 R527, R528). A read of a register is no command of the table:
nothing here changes the state. -/
namespace Sys2Proof.Machine

/-- A field of a register: its lowest bit and its value. -/
def bits (l : List (Nat × Nat)) : Nat := l.foldl (fun a x => a + x.2 * 2 ^ x.1) 0

/-! ## ID and STN (14 R425, R426) -/

def idDevice : Nat := bits [(0, 0x1F6C), (16, 0x5C48)]
def idRevision : Nat := bits [(0, 2), (8, 1)]
def idStation (n : Nat) : Nat := bits [(0, n), (6, n / 24)]
def idGeometry : Nat := bits [(0, 0x0BC0), (16, 0x18), (24, 0x10), (32, 0x30), (40, 4)]

def Stn.link (t : Stn) : Nat :=
  bits [(0, bit t.up), (1, t.speed), (3, t.width), (7, t.flit), (9, bit t.cacheEn), (10, bit t.memEn), (11, bit t.biEn), (12, bit t.ide), (13, bit t.ats)]

def Stn.credit (t : Stn) : Nat := bits [(0, t.reqFree), (16, t.reqInUse), (32, t.reqReturning), (48, t.rwdFree)]

def Stn.linkEvents (t : Stn) : Nat := bits [(0, t.retrains), (16, t.dlDowns)]

def Stn.decoderWord (t : Stn) : Nat :=
  maskOf ((t.decoders.filter fun x => x.2.committed).map (·.1)) + 2 ^ 32 * maskOf ((t.decoders.filter fun x => x.2.well.isSome).map (·.1))

/-! ## WIN (02 R38, R42) -/

/-- The runs of DPA at which a well's bytes are: those a shrink is revoking are out, and those a MIGRATE has moved are at the
target (03 R69, R90). -/
def Well.runs (w : Well) : List (Nat × Nat) :=
  let n := match w.resize with | some r => if w.st == .resizing then min w.length r.newLen else w.length | none => w.length
  match w.mig with
  | some m => if w.st == .migrating then [(w.start + m.point, n - m.point), (m.start, m.point)] else [(w.start, n)]
  | none => [(w.start, n)]

/-- Some line of the window's region is permitted to the station now. -/
def State.winValid (s : State) (n : Nat) : Bool :=
  let b := (s.stnAt n).winBase
  if b < Config.poolEnd then
    s.pool.wells.any fun (_, w) => w.st != .free && (match tget w.grants n with
      | some g => !g.fenced && w.runs.any fun r => r.2 != 0 && overlaps b windowSize r
      | none => false)
  else s.regionAllowed n b

def State.winStatus (s : State) (n : Nat) : Nat := bits [(0, bit (s.winValid n)), (1, (s.stnAt n).winRefuse)]

def State.winCtrl (s : State) (n : Nat) : Nat := bits [(0, bit (s.stnAt n).winEnable), (1, bit (s.stnAt n).winWrite)]

/-! ## FLT (17 R527) -/

/-- OPEN records that concern a station. -/
def State.fltOpen (s : State) (n : Nat) : List FaultRec := s.flt.records.filter fun r => !r.acked && r.stns.contains n

/-- Classes from the least to the most severe: CE, UC, PR, FW, EN, UF. -/
def classRank (c : Nat) : Nat := [0, 1, 5, 2, 4, 3].getD c 0

def maxClass (l : List FaultRec) : Nat := l.foldl (fun m r => if m == 7 || classRank m < classRank r.cls then r.cls else m) 7

/-- A field that shows a pin: it has its reset value, 0x0, until the boot ROM runs, and follows the pin from then on
(14 R427; 17 R527; DEDUCED, notes/assumptions/160). -/
def State.shown (s : State) (pin : Nat) : Nat := if s.mod.stage == .reset then 0 else pin

def State.fltStatus (s : State) (n : Nat) : Nat :=
  bits [(0, sat 16 (s.fltOpen n).length), (16, maxClass (s.fltOpen n)), (19, s.shown (bit s.errLow)), (20, bit s.flt.replaceFlag)]

def Stn.fltCounts (t : Stn) : Nat := bits [(0, t.fltDropped), (32, t.fltPoisoned)]

/-- Entry `i` of the log. -/
def Stn.fltSlot (t : Stn) (i : Nat) : List Byte :=
  match t.fltLog.find? fun r => r.seq % 64 == i with
  | some r => r.enc
  | none => zeros 32

/-! ## BAY (14 R427) -/

def Led.code : Led → Nat
  | .off => 0
  | .on => 1
  | .blink => 2

def State.pwrState (s : State) : Nat := if s.pwr.powerDown then 2 else if s.pwr.limiting then 1 else 0

/-- BAY_STATUS (R427). -/
def State.bayStatus (s : State) : Nat :=
  bits [(0, bit s.twin.present), (1, s.pwrState), (3, bit s.mod.attnLatch), (4, s.shown s.attnLed.code), (6, s.shown s.pwrLed.code),
    (8, s.shown (bit s.errLow)), (9, s.shown (bit s.pwr.therm))]

def State.bayEvents (s : State) : Nat := bits [(0, s.mod.twinChanges), (16, s.mod.attnPresses)]

/-! ## Mailbox and JNL (15 R450, R465) -/

def State.mbxStatus (s : State) (n : Station) : Nat :=
  let x := s.mb (.stn n)
  bits [(0, if x.checking then 1 else if x.replied then 2 else 0), (2, bit (x.handover || (s.fw.handover && !s.fw.resetIn.contains n.val))), (4, x.session.code), (8, x.replySeq), (32, x.cplWrite), (48, x.cplLost)]

def State.jnlOldest (s : State) : Nat := max 1 (s.mbx.next - Config.journalRing)

def State.jnlState (s : State) : Nat := bits [(0, bit s.mbx.shared), (1, bit s.mbx.keeper), (2, bit s.mbx.filling)]

/-! ## The control aperture as a station reads it -/

/-- Pending bits from vector `v` on. -/
def State.pba (s : State) (n v k : Nat) : Nat := maskOf ((List.range k).filter fun i => (s.vec n (v + i)).pend)

/-- The 64-bit register that holds an offset; an unlisted one reads zero. -/
def State.reg (s : State) (n : Station) (base : Nat) : Nat :=
  let t := s.stnAt n.val
  let m := s.mb (.stn n)
  match base with
  | 0x0000 => idDevice + 2 ^ 32 * idRevision
  | 0x0008 => s.mod.serial.toNat
  | 0x0010 => idStation n.val
  | 0x0018 => idGeometry
  | 0x0020 => s.now
  | 0x0028 => s.idState
  | 0x1000 => t.link
  | 0x1008 => t.credit
  | 0x1010 => t.linkEvents
  | 0x1018 => t.ctoUs
  | 0x1020 => t.decoderWord
  | 0x2000 => t.winBase
  | 0x2008 => s.winCtrl n.val
  | 0x2010 => s.winStatus n.val
  | 0x2018 => t.winDeny
  | 0x3000 => s.fltStatus n.val
  | 0x3008 => t.fltLastSeq
  | 0x3010 => t.fltCounts
  | 0x3018 => t.fltNext % 2 ^ 32
  | 0x4000 => s.bayStatus
  | 0x4008 => s.bayEvents
  | 0x11808 => s.mbxStatus n
  | 0x11810 => m.rejectCount
  | 0x11818 => m.cplAck
  | 0x40000 => s.mbx.next
  | 0x40008 => s.jnlOldest
  | 0x40010 => t.jnlMark
  | 0x40018 => t.jnlThreshold
  | 0x40020 => s.jnlState
  | _ => 0

/-- A completion slot of the ring. -/
def Mailbox.slot (x : Mailbox) (i : Nat) : List Byte := match tget x.cpls i with | some c => c.enc | none => zeros 64

/-- What a naturally aligned read of 4 or 8 bytes of the control aperture returns (R424); a read of another size returns zero. -/
def State.regRead (s : State) (n : Station) (off size : Nat) : Nat :=
  if !((size == 4 || size == 8) && off % size == 0) then 0
  else if 0x3800 ≤ off && off < 0x4000 then num ((s.stnAt n.val).fltSlot ((off - 0x3800) / 32)) (off % 32) size
  else if 0x10000 ≤ off && off < 0x11000 then ofLe (memRead (s.mb (.stn n)).area (off - 0x10000) size)
  else if 0x11000 ≤ off && off < 0x11400 then match (s.mb (.stn n)).reply with | some r => num r.enc (off - 0x11000) size | none => 0
  else if 0x11400 ≤ off && off < 0x11800 then num ((s.mb (.stn n)).slot ((off - 0x11400) / 64)) (off % 64) size
  else if 0x30000 ≤ off && off < 0x38000 then num (s.vec n.val ((off - 0x30000) / 16)).enc (off % 16) size
  else if 0x38000 ≤ off && off < 0x38100 then s.pba n.val ((off - 0x38000) * 8) (8 * size)
  else s.reg n (off / 8 * 8) / 2 ^ (8 * (off % 8)) % 2 ^ (8 * size)

end Sys2Proof.Machine
end

