-- ==== Sys2Proof/Machine/WellCmds.lean ====
section
/-! DEFINITION. The commands on wells and cisterns (03 R59 to R94; 16 R492; 19 R565, R583). -/
namespace Sys2Proof.Machine

/-! ## Common checks (R60 to R65) -/

/-- The station whose mailbox a command came through. -/
def hdrStn (h : CmdHdr) : Option Nat :=
  match h.mbx with
  | .stn n => some n.val
  | _ => none

/-- The grant byte of a station; 0 for a command that names no station and comes through a mailbox that is no station's, for which R61
states none (DESIGN CHOICE, notes/assumptions/166). -/
def grantByteOf (w : Well) (n : Option Nat) : Nat :=
  match n with
  | some n => grantByte w n
  | none => 0

/-- A STATE_CONFLICT of a well command (R61). -/
def State.wellConflict (s : State) (i : Nat) (n : Option Nat) : Option Refuse :=
  conflict [(s.well i).st.code, grantByteOf (s.well i) n]

/-- The checks of a command once its handle names a well (R64). -/
def State.onWell (s : State) (handle : Nat) (f : Nat → Option Refuse) : Option Refuse :=
  match s.named handle with
  | none => bad
  | some i => f i

def State.onCis (s : State) (handle : Nat) (f : Nat → Option Refuse) : Option Refuse :=
  match s.namedCis handle with
  | none => bad
  | some c => f c

/-- A well whose cistern is DOWN (R65). -/
def State.cisDown (s : State) (i : Nat) : Bool :=
  match (s.well i).cistern with
  | some c => (s.cis c).st == .down
  | none => false

/-! ## WELL_CREATE (R66) -/

def wellCreateCmd (length place flags owner cistern : Nat) : Cmd :=
  { opcode := 0x0100, segs := [.f 8 length, .f 1 place, .f 1 flags, .f 2 owner, .f 4 cistern], roles := [.operator], async := true }

def createCheck (length place flags owner cistern : Nat) (peer : PeerAnswer) (s : State) : Option Refuse :=
  match Place.ofCode place with
  | none => bad
  | some p =>
    let c := s.namedCis cistern
    let st := match c with | some c => (s.cis c).st | none => .free
    let coh := nbit flags 0
    let mir := nbit flags 1
    firstOf [
      (!wellLenOk p length || 8 ≤ flags || 4096 ≤ owner || (s.ctx owner).st != .live ||
        (if coh then c.isNone else cistern != Config.noHandle), bad),
      (mir && !s.isPaired, refuse .notPaired),
      (coh && st == .down, refuse .domainDown),
      (coh && st != .live, conflict [st.code]),
      (65536 ≤ s.wellCount || (s.findRun p length).1.isNone || (mir && peer.status.toNat != 0), refuse .noResource)]

/-- An index of the well table that is FREE. -/
def State.freeWellIdx (s : State) : Nat × State :=
  let (k, s) := s.choose 65536
  if (s.well k).st == .free then (k, s) else (((List.range 65536).find? fun i => (s.well i).st == .free).getD 0, s)

def createApply (length place flags owner cistern : Nat) (peer : PeerAnswer) : Apply := fun wb s =>
  let p := (Place.ofCode place).getD .spread
  let (i, s) := s.freeWellIdx
  let (a, s) := s.findRun p length
  let a := a.getD 0
  let s := s.takeRun p a length
  let c := if nbit flags 0 then s.namedCis cistern else none
  let mirror : Option Mirror := if nbit flags 1 then some { primary := true, origin := true, st := .sync, twinStart := peer.start.toNat } else none
  let s := s.modWell i fun w =>
    { gen := w.gen, st := .creating, place := p, coh := nbit flags 0, kvb16 := nbit flags 2, owner := owner, cistern := c, start := a,
      length := length, mirror := mirror, wb := some wb }
  let s := match c with | some c => s.cisTwin c | none => s
  let s := if mirror.isSome then s.relay wb 0x0100 else s
  (le 4 (s.wellHandle i) ++ le 8 a, s.wellHandle i, s)

def execWellCreate (h : CmdHdr) (length : BitVec 64) (place flags : Byte) (owner : BitVec 16) (cistern : BitVec 32) (peer : PeerAnswer)
    (s : State) : Out :=
  done (s.mailbox h (wellCreateCmd length.toNat place.toNat flags.toNat owner.toNat cistern.toNat)
    (createCheck length.toNat place.toNat flags.toNat owner.toNat cistern.toNat peer)
    (createApply length.toNat place.toNat flags.toNat owner.toNat cistern.toNat peer))

/-! ## WELL_DESTROY (R67) -/

/-- The twin's share of a command on a MIRRORED well. -/
def State.relayWell (s : State) (i wb opcode : Nat) : State := if (s.well i).mirror.isSome then s.relay wb opcode else s

def destroyCheck (h : CmdHdr) (handle : Nat) (s : State) : Option Refuse :=
  s.onWell handle fun i => if (s.well i).st == .live || (s.well i).st == .creating then none else s.wellConflict i (hdrStn h)

def destroyApply (handle : Nat) : Apply := fun wb s =>
  match s.named handle with
  | none => ([], handle, s)
  | some i => ([], handle, (s.relayWell i wb 0x0101).destroyWell i (some wb))

def execWellDestroy (h : CmdHdr) (handle : BitVec 32) (s : State) : Out :=
  done (s.mailbox h { opcode := 0x0101, segs := [.f 4 handle.toNat], roles := [.operator], async := true, object := handle.toNat }
    (destroyCheck h handle.toNat) (destroyApply handle.toNat))

/-! ## WELL_RESIZE (R69) -/

/-- The checks of WELL_RESIZE. While this module is unpaired no twin has bytes for the other copy, and a grow of a MIRRORED well is
refused (DEDUCED, notes/assumptions/189). -/
def resizeCheck (h : CmdHdr) (handle newLen : Nat) (peer : PeerAnswer) (s : State) : Option Refuse :=
  s.onWell handle fun i =>
    let w := s.well i
    firstOf [
      (!wellLenOk w.place newLen || newLen == w.length, bad),
      (w.st != .live, s.wellConflict i (hdrStn h)),
      (w.length < newLen && (!s.growFits i newLen || (w.mirror.isSome && (!s.isPaired || peer.status.toNat != 0))), refuse .noResource)]

def resizeApply (handle newLen : Nat) : Apply := fun wb s =>
  match s.named handle with
  | none => ([], handle, s)
  | some i =>
    let s := s.relayWell i wb 0x0102
    ([], handle, if (s.well i).length < newLen then s.growWell i newLen wb else s.shrinkWell i newLen wb)

def execWellResize (h : CmdHdr) (handle : BitVec 32) (newLength : BitVec 64) (peer : PeerAnswer) (s : State) : Out :=
  done (s.mailbox h { opcode := 0x0102, segs := [.f 4 handle.toNat, .r 4, .f 8 newLength.toNat], roles := [.operator], async := true,
                      object := handle.toNat }
    (resizeCheck h handle.toNat newLength.toNat peer) (resizeApply handle.toNat newLength.toNat))

/-! ## WELL_GRANT (R70, R71) -/

/-- A committed decoder to which no well is bound. -/
def Decoder.open_ (d : Decoder) : Bool := d.committed && d.well.isNone

/-- The decoder a WELL_GRANT binds. -/
def State.grantDecoder (s : State) (n dec : Nat) : Option Nat :=
  let ds := (s.stnAt n).decoders
  if dec == 0xFF then (List.range 32).find? fun k => (tgetD ds k {}).open_ else if (tgetD ds dec {}).open_ then some dec else none


/-- A key slot bars the station from the well (19 R583). -/
def State.keyBars (s : State) (i n : Nat) : Bool :=
  let t := s.stnAt n
  s.keyBinding i || s.slots.any fun (_, k) => k.wells.contains i && (k.station != n || (k.peer != 0 && !(t.ide && t.idePeer == k.peer)))

/-- The checks of WELL_GRANT (03 R71). Of a PLAIN MIRRORED well the one RW grant is counted over this module's stations alone
(DESIGN CHOICE, notes/assumptions/179). -/
def grantCheck (handle n rights dec : Nat) (s : State) : Option Refuse :=
  s.onWell handle fun i =>
    let w := s.well i
    let no := s.wellConflict i (some n)
    firstOf [
      (48 ≤ n || !(rights == 1 || rights == 3) || (32 ≤ dec && dec != 0xFF), bad),
      (s.cisDown i, refuse .domainDown),
      (w.st == .creating || w.st == .destroying, no),
      ((tget w.grants n).isSome || s.keyBars i n, no),
      (dec != 0xFF && (s.grantDecoder n dec).isNone, no),
      ((match w.cistern with | some c => !(s.cis c).members.contains n | none => false), no),
      (!w.coh && rights == 3 && w.grants.any (fun g => g.2.w), no),
      ((s.grantDecoder n dec).isNone, refuse .noResource)]

def grantApply (handle n rights dec : Nat) : Apply := fun _ s =>
  match s.named handle, s.grantDecoder n dec with
  | some i, some k =>
    let s := s.modWell i fun w => { w with grants := tset w.grants n { w := rights == 3, dec := k } }
    ([BitVec.ofNat 8 k], handle, s.modStn n fun t => { t with decoders := tmod t.decoders k fun d => { d with well := some i } })
  | _, _ => ([], handle, s)

def execWellGrant (h : CmdHdr) (handle : BitVec 32) (station rights decoder : Byte) (s : State) : Out :=
  done (s.mailbox h { opcode := 0x0103, segs := [.f 4 handle.toNat, .f 1 station.toNat, .f 1 rights.toNat, .f 1 decoder.toNat, .r 1],
                      roles := [.operator], object := handle.toNat }
    (grantCheck handle.toNat station.toNat rights.toNat decoder.toNat) (grantApply handle.toNat station.toNat rights.toNat decoder.toNat))

/-! ## WELL_REVOKE (R73) -/

def revokeCheck (handle n : Nat) (s : State) : Option Refuse :=
  s.onWell handle fun i =>
    let w := s.well i
    firstOf [
      (48 ≤ n, bad),
      (w.st == .creating || w.st == .destroying, s.wellConflict i (some n)),
      ((match tget w.grants n with | some g => g.fenced | none => true), s.wellConflict i (some n))]

def revokeApply (handle n : Nat) : Apply := fun wb s =>
  match s.named handle with
  | none => ([], handle, s)
  | some i => ([], handle, (s.startRev { well := i, station := n, start := s.now, cause := .revoke wb }))

def execWellRevoke (h : CmdHdr) (handle : BitVec 32) (station : Byte) (s : State) : Out :=
  done (s.mailbox h { opcode := 0x0104, segs := [.f 4 handle.toNat, .f 1 station.toNat], roles := [.operator], async := true,
                      object := handle.toNat }
    (revokeCheck handle.toNat station.toNat) (revokeApply handle.toNat station.toNat))

/-! ## WELL_QUERY (R62, R74, R75) -/

/-- The sessions that may query a well: none is needed where the station holds a grant. -/
def wellQueryRoles (h : CmdHdr) (handle : Nat) (s : State) : List Role :=
  match hdrStn h, s.named handle with
  | some n, some i => if (tget (s.well i).grants n).isSome then [.none, .operator] else [.operator]
  | _, _ => [.operator]

def execWellQuery (h : CmdHdr) (handle : BitVec 32) (s : State) : Out :=
  done (s.mailbox h { opcode := 0x0105, segs := [.f 4 handle.toNat], roles := wellQueryRoles h handle.toNat s, query := true, recov := true }
    (fun s => if handle.toNat == Config.noHandle then none else s.onWell handle.toNat fun _ => none)
    fun _ s => (if handle.toNat == Config.noHandle then s.poolSummary else s.wellEntry ((s.named handle.toNat).getD 0), 0, s))

def execWellQuerySummary (h : CmdHdr) (s : State) : Out :=
  done (s.mailbox h { opcode := 0x0105, segs := [.f 4 Config.noHandle], roles := [.operator], query := true, recov := true } (fun _ => none)
    fun _ s => (s.poolSummary, 0, s))

/-! ## MIGRATE (R89 to R94) -/

def migrateCmd (handle place flags rate : Nat) : Cmd :=
  { opcode := 0x0106, segs := [.f 4 handle, .f 1 place, .f 1 flags, .f 2 rate], roles := [.operator], async := true, object := handle }

def migrateCheck (h : CmdHdr) (handle place rsv rate : Nat) (s : State) : Option Refuse :=
  s.onWell handle fun i =>
    let w := s.well i
    let p := Place.ofCode place
    firstOf [
      (p.isNone || rsv != 0 || 1000 < rate, bad),
      (s.isDown w, refuse .domainDown),
      (w.st != .live, s.wellConflict i (hdrStn h)),
      ((s.findRun (p.getD .spread) w.length).1.isNone, refuse .noResource)]

def migrateApply (handle place rate : Nat) : Apply := fun wb s =>
  match s.named handle with
  | none => ([], handle, s)
  | some i =>
    let w := s.well i
    let p := (Place.ofCode place).getD .spread
    let (a, s) := s.findRun p w.length
    let a := a.getD 0
    let s := (s.takeRun p a w.length).modWell i fun w =>
      { w with st := .migrating, mig := some { start := a, place := p, rate := if rate == 0 then 100 else rate, wb := wb } }
    ([], handle, s.markMig.startChunk i)

def execMigrate (h : CmdHdr) (handle : BitVec 32) (place : Byte) (rsvFlags : BitVec 7) (rate : BitVec 16) (s : State) : Out :=
  done (s.mailbox h (migrateCmd handle.toNat place.toNat (2 * rsvFlags.toNat) rate.toNat)
    (migrateCheck h handle.toNat place.toNat rsvFlags.toNat rate.toNat) (migrateApply handle.toNat place.toNat rate.toNat))

def cancelCheck (h : CmdHdr) (handle rsv rate : Nat) (s : State) : Option Refuse :=
  s.onWell handle fun i =>
    let w := s.well i
    firstOf [
      (rsv != 0 || 1000 < rate, bad),
      (s.isDown w, refuse .domainDown),
      (w.st != .migrating || (match w.mig with | some m => m.cancel.isSome | none => true), s.wellConflict i (hdrStn h))]

/-- The copy-back begins once the chunk in transit is committed (R94). -/
def cancelApply (handle : Nat) : Apply := fun wb s =>
  match s.named handle with
  | none => ([], handle, s)
  | some i =>
    let s := (s.commitChunk i).modWell i fun w => { w with mig := w.mig.map fun m => { m with cancel := some wb, turning := m.transit } }
    let none_ := match (s.well i).mig with | some m => m.point == 0 && !m.transit | none => true
    let s := if none_ then s.dropWellRanges i else s.startChunk i
    ([], handle, s.releaseHeld)

def execMigrateCancel (h : CmdHdr) (handle : BitVec 32) (place : Byte) (rsvFlags : BitVec 7) (rate : BitVec 16) (s : State) : Out :=
  done (s.mailbox h (migrateCmd handle.toNat place.toNat (2 * rsvFlags.toNat + 1) rate.toNat)
    (cancelCheck h handle.toNat rsvFlags.toNat rate.toNat) (cancelApply handle.toNat))

/-! ## Cisterns (R76 to R80) -/

def State.cisConflict (s : State) (c : Nat) : Option Refuse := conflict [(s.cis c).st.code]

def State.freeCisIdx (s : State) : Option Nat × State :=
  let (k, s) := s.choose 4096
  if (s.cis k).st == .free then (some k, s) else ((List.range 4096).find? fun c => (s.cis c).st == .free, s)

def cisCreateApply (name : BitVec 128) (tbi : Nat) : Apply := fun _ s =>
  let (c, s) := s.freeCisIdx
  let c := c.getD 0
  let s := s.modCis c fun x => { gen := x.gen, st := .live, name := name, tBi := if tbi == 0 then 20 else tbi }
  (le 4 (handleOf c (s.cis c).gen), handleOf c (s.cis c).gen, s)

def execCisternCreate (h : CmdHdr) (name : BitVec 128) (tbi : BitVec 16) (s : State) : Out :=
  done (s.mailbox h { opcode := 0x0110, segs := [.f 16 name.toNat, .f 2 tbi.toNat], roles := [.operator] }
    (fun s => firstOf [
      (tbi.toNat != 0 && (tbi.toNat < 5 || 200 < tbi.toNat), bad),
      (s.freeCisIdx.1.isNone, refuse .noResource)])
    (cisCreateApply name tbi.toNat))

def joinCheck (handle n : Nat) (s : State) : Option Refuse :=
  s.onCis handle fun c =>
    let x := s.cis c
    firstOf [
      (48 ≤ n, bad),
      (x.st == .down, refuse .domainDown),
      (x.st != .live || x.members.contains n, s.cisConflict c),
      (48 ≤ x.members.length, refuse .noResource)]

def joinApply (handle n : Nat) : Apply := fun _ s =>
  match s.namedCis handle with
  | none => ([], handle, s)
  | some c => ([], handle, s.modCis c fun x => { x with members := x.members ++ [n] })

def execCisternJoin (h : CmdHdr) (cistern : BitVec 32) (station : Byte) (s : State) : Out :=
  done (s.mailbox h { opcode := 0x0111, segs := [.f 4 cistern.toNat, .f 1 station.toNat], roles := [.operator], object := cistern.toNat }
    (joinCheck cistern.toNat station.toNat) (joinApply cistern.toNat station.toNat))

/-- A member that no CISTERN_LEAVE is about to remove (R59, R78). -/
def Cistern.stays (x : Cistern) (n : Nat) : Bool := x.members.contains n && !x.leaving.any (·.1 == n)

def leaveCheck (handle n : Nat) (s : State) : Option Refuse :=
  s.onCis handle fun c => firstOf [(48 ≤ n, bad), (!(s.cis c).stays n, s.cisConflict c)]

def leaveApply (handle n : Nat) : Apply := fun wb s =>
  match s.namedCis handle with
  | none => ([], handle, s)
  | some c =>
    let s := s.modCis c fun x => { x with leaving := x.leaving ++ [(n, wb)] }
    ([], handle, ((s.wellsOf c).foldl (fun s i => s.startRev { well := i, station := n, start := s.now, cause := .leave wb }) s))

def execCisternLeave (h : CmdHdr) (cistern : BitVec 32) (station : Byte) (s : State) : Out :=
  done (s.mailbox h { opcode := 0x0112, segs := [.f 4 cistern.toNat, .f 1 station.toNat], roles := [.operator], async := true,
                      object := cistern.toNat }
    (leaveCheck cistern.toNat station.toNat) (leaveApply cistern.toNat station.toNat))

def recoverCmd (handle mode : Nat) : Cmd :=
  { opcode := 0x0113, segs := [.f 4 handle, .f 1 mode], roles := [.operator], async := true, object := handle }

/-- ZERO and KEEP need a DOWN cistern; DISSOLVE one that is neither RECOVERING nor DISSOLVING (R79). -/
def recoverCheck (handle : Nat) (mode : RecMode) (s : State) : Option Refuse :=
  s.onCis handle fun c =>
    let st := (s.cis c).st
    if mode == .dissolve then (if st == .recovering || st == .dissolving then s.cisConflict c else none)
    else if st == .down then none else s.cisConflict c

def recoverApply (handle : Nat) (mode : RecMode) : Apply := fun wb s =>
  match s.namedCis handle with
  | none => ([], handle, s)
  | some c =>
    let s := if (s.cis c).twin then s.relay wb 0x0113 else s
    ([], handle, s.recoverStart c mode (some wb))

def execCisternRecoverZero (h : CmdHdr) (cistern : BitVec 32) (s : State) : Out :=
  done (s.mailbox h (recoverCmd cistern.toNat 0) (recoverCheck cistern.toNat .zero) (recoverApply cistern.toNat .zero))

def execCisternRecoverKeep (h : CmdHdr) (cistern : BitVec 32) (s : State) : Out :=
  done (s.mailbox h (recoverCmd cistern.toNat 1) (recoverCheck cistern.toNat .keep) (recoverApply cistern.toNat .keep))

def execCisternRecoverDissolve (h : CmdHdr) (cistern : BitVec 32) (s : State) : Out :=
  done (s.mailbox h (recoverCmd cistern.toNat 2) (recoverCheck cistern.toNat .dissolve) (recoverApply cistern.toNat .dissolve))

def cisQueryRoles (h : CmdHdr) (handle : Nat) (s : State) : List Role :=
  match hdrStn h, s.namedCis handle with
  | some n, some c => if (s.cis c).members.contains n then [.none, .operator] else [.operator]
  | _, _ => [.operator]

def execCisternQuery (h : CmdHdr) (cistern : BitVec 32) (s : State) : Out :=
  done (s.mailbox h { opcode := 0x0114, segs := [.f 4 cistern.toNat], roles := cisQueryRoles h cistern.toNat s, query := true, recov := true }
    (fun s => s.onCis cistern.toNat fun _ => none) fun _ s => (s.cisEntry ((s.namedCis cistern.toNat).getD 0), 0, s))

end Sys2Proof.Machine
end

