-- ==== Sys2Proof/Machine/XlateCmds.lean ====
section
/-! DEFINITION. The commands on contexts, range tables and station translation modes (13 R378 to R410; 19 R583). -/
namespace Sys2Proof.Machine

/-! ## Contexts (R381, R382) -/

def State.ctxConflict (s : State) (c : Nat) : Option Refuse := conflict [(s.ctx c).st.code]

/-- The lowest FREE context. -/
def State.freeCtx (s : State) : Option Nat := (List.range 4096).find? fun c => (s.ctx c).st == .free

def ctxCreateApply (name : BitVec 128) (pref : Nat) : Apply := fun _ s =>
  let c := s.freeCtx.getD 0
  (le 2 c, c, s.modCtx c fun _ => { st := .live, name := name, diePref := pref })

def execContextCreate (h : CmdHdr) (name : BitVec 128) (diePref : Byte) (s : State) : Out :=
  done (s.mailbox h { opcode := 0x0200, segs := [.f 16 name.toNat, .f 1 diePref.toNat, .r 15], roles := [.operator] }
    (fun s => firstOf [(4 < diePref.toNat, bad), (s.freeCtx.isNone, refuse .noResource)]) (ctxCreateApply name diePref.toNat))

def ctxDestroyCheck (c : Nat) (s : State) : Option Refuse :=
  firstOf [
    (4096 ≤ c, bad),
    ((s.ctx c).st != .live || s.ctxInUse c, s.ctxConflict c)]

def ctxDestroyApply (c : Nat) : Apply := fun wb s => ([], c, s.endCtx c wb)

def execContextDestroy (h : CmdHdr) (context : BitVec 16) (s : State) : Out :=
  done (s.mailbox h { opcode := 0x0201, segs := [.f 2 context.toNat], roles := [.operator], async := true, object := context.toNat }
    (ctxDestroyCheck context.toNat) (ctxDestroyApply context.toNat))

/-! ## RANGE_TABLE_SET (R387) -/

/-- An entry as the 32 bytes of R383 spell it. -/
def rwNum (w : RangeWords) : Nat :=
  bits [(0, w.vbase.toNat), (64, w.length.toNat), (128, w.well.toNat), (160, w.rights.toNat), (168, w.flags.toNat), (176, w.rsv.toNat), (192, w.offset.toNat)]

def rangeSetCmd (c first count : Nat) (es : List RangeWords) : Cmd :=
  { opcode := 0x0202, segs := [.f 2 c, .f 1 first, .f 1 count, .r 4] ++ es.map fun e => .f 32 (rwNum e), roles := [.operator], async := true, object := c
    names := (es.filter RangeWords.isLocal).map (·.well.toNat) }

/-- The well a valid local entry names. -/
def State.rwWell (s : State) (w : RangeWords) : Option Nat := if RangeWords.isLocal w then s.named w.well.toNat else none

/-- A local entry whose handle names no well, or whose bytes end beyond it. -/
def State.rwBad (s : State) (w : RangeWords) : Bool :=
  RangeWords.isLocal w && (match s.named w.well.toNat with
    | none => true
    | some i => (s.well i).length < w.offset.toNat + w.length.toNat)

def rangeSetCheck (c first count : Nat) (es : List RangeWords) (peer : PeerAnswer) (s : State) : Option Refuse :=
  let twin := es.any RangeWords.isTwin
  let shut := (es.filterMap s.rwWell).find? fun i => s.rwShut c i
  firstOf [
    (4096 ≤ c || count == 0 || 125 < count || 256 < first + count || es.length != count || !es.all rwOk ||
      es.any s.rwBad || !noOverlap (setRanges (s.ctx c).ranges first es), bad),
    (twin && !s.isPaired, refuse .notPaired),
    (twin && peer.status == 0x11, bad),
    ((s.ctx c).st != .live, s.ctxConflict c),
    (shut.isSome, conflict [(s.well (shut.getD 0)).st.code]),
    (twin && peer.status != 0, some ⟨Status.ofCode peer.status.toNat, peer.bytes, 0⟩)]

def rangeSetApply (c first count : Nat) (es : List RangeWords) : Apply := fun wb s =>
  let s := s.switchOn (fun d i => d == c && first ≤ i && i < first + count) (.cmd wb) 0
  let s := s.modCtx c fun x => { x with ranges := setRanges x.ranges first es }
  ([], c, if es.any RangeWords.isTwin then s.relay wb 0x0202 else s)

def execRangeTableSet (h : CmdHdr) (context : BitVec 16) (first count : Byte) (entries : List RangeWords) (peer : PeerAnswer) (s : State) : Out :=
  done (s.mailbox h (rangeSetCmd context.toNat first.toNat count.toNat entries)
    (rangeSetCheck context.toNat first.toNat count.toNat entries peer) (rangeSetApply context.toNat first.toNat count.toNat entries))

/-! ## RANGE_INVALIDATE (R388) -/

def rangeInvCmd (c mode well vbase length : Nat) : Cmd :=
  { opcode := 0x0203, segs := [.f 2 c, .f 1 mode, .r 1, .f 4 well, .f 8 vbase, .f 8 length], roles := [.operator], async := true,
    object := if mode == 0 then c else well }

/-- A span of whole 64 KiB units (R388, R410). -/
def spanOk (vbase length : Nat) : Bool := vbase % k64 == 0 && length % k64 == 0 && length != 0

def Range.meets (r : Range) (vbase length : Nat) : Bool := r.vbase < vbase + length && vbase < r.vbase + r.length

def rangeSpanCheck (c well vbase length : Nat) (s : State) : Option Refuse :=
  firstOf [
    (4096 ≤ c || well != Config.noHandle || !spanOk vbase length, bad),
    ((s.ctx c).st != .live, s.ctxConflict c)]

def execRangeInvalidateSpan (h : CmdHdr) (context : BitVec 16) (well : BitVec 32) (vbase length : BitVec 64) (s : State) : Out :=
  done (s.mailbox h (rangeInvCmd context.toNat 0 well.toNat vbase.toNat length.toNat)
    (rangeSpanCheck context.toNat well.toNat vbase.toNat length.toNat)
    fun wb s => ([], context.toNat, s.clearIn context.toNat (fun r => r.meets vbase.toNat length.toNat) wb))

def rangeWellApply (well : Nat) : Apply := fun wb s =>
  match s.named well with
  | none => ([], well, s)
  | some i => ([], well, s.clearRanges (fun r => r.names i) (.cmd wb))

def execRangeInvalidateWell (h : CmdHdr) (context : BitVec 16) (well : BitVec 32) (vbase length : BitVec 64) (s : State) : Out :=
  done (s.mailbox h (rangeInvCmd context.toNat 1 well.toNat vbase.toNat length.toNat)
    (fun s => if context != 0xFFFF || vbase != 0 || length != 0 || (s.named well.toNat).isNone then bad else none)
    (rangeWellApply well.toNat))

/-! ## ADVISE (R410) -/

def adviseCmd (c advice die vbase length : Nat) : Cmd :=
  { opcode := 0x0204, segs := [.f 2 c, .f 1 advice, .f 1 die, .r 4, .f 8 vbase, .f 8 length], roles := [.operator], object := c }

def adviseCheck (c die vbase length : Nat) (s : State) : Option Refuse :=
  firstOf [
    (4096 ≤ c || die != 0 || !spanOk vbase length, bad),
    ((s.ctx c).st != .live, s.ctxConflict c)]

/-- The marks of the cached entries of a context's span (R410). -/
def State.markRanges (s : State) (c vbase length : Nat) (m : RcMark) : State :=
  let l := s.rangesWhere c fun r => r.meets vbase length
  (List.range 16).foldl (fun s p => s.modPump p fun x =>
    { x with rcache := x.rcache.map fun e => if e.ctx == c && l.contains e.idx then { e with mark := m } else e })
    (s.modXl fun x => { x with advised := x.advised.filter fun (_, d, i) => !(d == c && l.contains i) })

/-- Pumps of the partitions that have a platform of the context. -/
def State.pumpsFor (s : State) (c : Nat) : List Nat :=
  let parts := (s.jobs.plats.filter fun x => x.2.st != .free && x.2.context == c).map (·.2.partition)
  (List.range 16).filter fun p => match (s.pumpAt p).home with
    | some k => parts.contains k
    | none => false

/-- Dies that hold bytes of a well, those of a migration's target included. -/
def Well.diesOf (w : Well) : List Nat := w.place.dies ++ (match w.mig with | some m => m.place.dies | none => [])

/-- WILL_USE: the span's entries are filled where they are not cached, those of twin wells by requests that the pumps make of
the twin, and the dies of the local wells leave dormancy. -/
def State.willUse (s : State) (c vbase length : Nat) : State :=
  let es := (s.ctx c).ranges.filter fun x => x.2.meets vbase length
  let s := es.foldl (fun s (i, r) =>
    if r.twin then
      let ask := (s.pumpsFor c).filterMap fun p => if (s.rcHit p c i).isSome then none else some (p, c, i)
      s.modXl fun x => { x with advised := x.advised.filter (fun a => !ask.contains a) ++ ask }
    else match s.named r.well with
    | none => s
    | some w =>
      let x := s.well w
      let s := (s.pumpsFor c).foldl (fun s p => if (s.rcHit p c i).isSome then s else s.rcFill p c i x.startNow x.length .keep x.kvb16) s
      x.diesOf.foldl (fun s d => s.wakeDie d) s) s
  let l := es.map (·.1)
  (s.pumpsFor c).foldl (fun s p => s.modPump p fun x =>
    { x with rcache := x.rcache.map fun e => if e.ctx == c && l.contains e.idx then { e with mark := .keep } else e }) s

def execAdviseNormal (h : CmdHdr) (context : BitVec 16) (die : Byte) (vbase length : BitVec 64) (s : State) : Out :=
  done (s.mailbox h (adviseCmd context.toNat 0 die.toNat vbase.toNat length.toNat) (adviseCheck context.toNat die.toNat vbase.toNat length.toNat)
    fun _ s => ([], context.toNat, s.markRanges context.toNat vbase.toNat length.toNat .none))

def execAdviseWillUse (h : CmdHdr) (context : BitVec 16) (die : Byte) (vbase length : BitVec 64) (s : State) : Out :=
  done (s.mailbox h (adviseCmd context.toNat 1 die.toNat vbase.toNat length.toNat) (adviseCheck context.toNat die.toNat vbase.toNat length.toNat)
    fun _ s => ([], context.toNat, s.willUse context.toNat vbase.toNat length.toNat))

def execAdviseDontNeed (h : CmdHdr) (context : BitVec 16) (die : Byte) (vbase length : BitVec 64) (s : State) : Out :=
  done (s.mailbox h (adviseCmd context.toNat 2 die.toNat vbase.toNat length.toNat) (adviseCheck context.toNat die.toNat vbase.toNat length.toNat)
    fun _ s => ([], context.toNat, s.markRanges context.toNat vbase.toNat length.toNat .first))

def execAdviseSetDiePref (h : CmdHdr) (context : BitVec 16) (die : Byte) (vbase length : BitVec 64) (s : State) : Out :=
  done (s.mailbox h (adviseCmd context.toNat 3 die.toNat vbase.toNat length.toNat)
    (fun s => firstOf [
      (4096 ≤ context.toNat || 4 < die.toNat || vbase != 0 || length != 0, bad),
      ((s.ctx context.toNat).st != .live, s.ctxConflict context.toNat)])
    fun _ s => ([], context.toNat, s.modCtx context.toNat fun x => { x with diePref := die.toNat }))

/-! ## STATION_XLATE_MODE (R407) -/

/-- Uncompleted jobs that use a station. -/
def State.stnJobs (s : State) (n : Nat) : Nat :=
  (s.jobs.jobs.filter fun j => !j.committed && ((s.plat j.plat).station == n || j.names n)).length

def xlateModeCheck (n mode : Nat) (s : State) : Option Refuse :=
  let t := s.stnAt n
  firstOf [
    (48 ≤ n || 1 < mode, bad),
    ((mode == 1 && !t.atsEnable) || s.stnJobs n != 0, some ⟨.stateConflict, le 1 (bit t.ats) ++ le 4 (s.stnJobs n), 0⟩)]

def xlateModeApply (n mode : Nat) : Apply := fun _ s =>
  (le 1 mode, n, s.modStn n fun t => { t with ats := mode == 1, atc := if mode == 1 then t.atc else [] })

def execStationXlateMode (h : CmdHdr) (station mode : Byte) (s : State) : Out :=
  done (s.mailbox h { opcode := 0x0205, segs := [.f 1 station.toNat, .f 1 mode.toNat, .r 6], roles := [.operator], object := station.toNat }
    (xlateModeCheck station.toNat mode.toNat) (xlateModeApply station.toNat mode.toNat))

end Sys2Proof.Machine
end

