-- ==== Sys2Proof/Machine/PlatCmds.lean ====
section
/-! DEFINITION. The commands on platforms and pump partitions (11 R318 to R323; 08 R239 to R242). -/
namespace Sys2Proof.Machine

/-! ## PLATFORM_CREATE (R320) -/

def platCreateCmd (well n part vector ringOff c slots allot mask : Nat) : Cmd :=
  { opcode := 0x0300
    segs := [.f 4 well, .f 1 n, .f 1 part, .f 2 vector, .f 8 ringOff, .f 2 c, .f 1 slots, .r 1, .f 4 allot, .f 8 mask]
    roles := [.operator] }

/-- A platform number that is FREE. -/
def State.freePlat (s : State) : Option Nat × State :=
  let (k, s) := s.choose 4096
  if (s.plat k).st == .free then (some k, s) else ((List.range 4096).find? fun p => (s.plat p).st == .free, s)

/-- Values in range, and a PLAIN raw well that holds the ring region (R307, R308, R320). -/
def State.platArgsOk (s : State) (well n part vector ringOff c slots allot mask : Nat) : Bool :=
  n < 48 && part < 16 && ((4 ≤ vector && vector < 2048) || vector == 0xFFFF) && ringOff % 4096 == 0 && c < 4096 && (s.ctx c).st == .live &&
  4 ≤ slots && slots ≤ 16 && 1 ≤ allot && allot ≤ 2 ^ slots && mask < 2 ^ 48 &&
  (match s.named well with
    | none => false
    | some i => !(s.well i).coh && !(s.well i).kvb16 && ringOff + ringBytes slots ≤ (s.well i).length)

/-- The ring well is in a state that serves, and the station writes it. -/
def State.ringReady (s : State) (i n : Nat) : Bool :=
  let w := s.well i
  (w.st == .live || w.st == .migrating || w.st == .resizing) && (match tget w.grants n with | some g => !g.fenced && g.w | none => false)

def platCreateCheck (well n part vector ringOff c slots allot mask : Nat) (s : State) : Option Refuse :=
  let i := (s.named well).getD 0
  firstOf [
    (!s.platArgsOk well n part vector ringOff c slots allot mask, bad),
    (!s.ringReady i n, s.wellConflict i (some n)),
    (s.freePlat.1.isNone, refuse .noResource)]

def platCreateApply (well n part vector ringOff c slots allot mask : Nat) : Apply := fun _ s =>
  let (p, s) := s.freePlat
  let p := p.getD 0
  (le 2 p, p, s.setPlat p fun _ =>
    { st := .active, station := n, partition := part, vector := vector, ringWell := well, ringOff := ringOff, context := c,
      slotsLog2 := slots, mask := BitVec.ofNat 64 mask, allot := allot, free := allot })

def execPlatformCreate (h : CmdHdr) (ringWell : BitVec 32) (station partition : Byte) (vector : BitVec 16) (ringOff : BitVec 64)
    (context : BitVec 16) (slotsLog2 : Byte) (allot : BitVec 32) (stationMask : BitVec 64) (s : State) : Out :=
  done (s.mailbox h
    (platCreateCmd ringWell.toNat station.toNat partition.toNat vector.toNat ringOff.toNat context.toNat slotsLog2.toNat allot.toNat stationMask.toNat)
    (platCreateCheck ringWell.toNat station.toNat partition.toNat vector.toNat ringOff.toNat context.toNat slotsLog2.toNat allot.toNat stationMask.toNat)
    (platCreateApply ringWell.toNat station.toNat partition.toNat vector.toNat ringOff.toNat context.toNat slotsLog2.toNat allot.toNat stationMask.toNat))

/-! ## PLATFORM_DESTROY and PLATFORM_DRAIN (R321, R322) -/

/-- The checks of a command on a platform in one of some states. -/
def platCheck (p : Nat) (ok : Platform → Bool) (s : State) : Option Refuse :=
  firstOf [(4096 ≤ p, bad), (!ok (s.plat p), conflict [(s.plat p).st.code])]

/-- A drain or destroy takes over from a drain that runs. -/
def Platform.under (x : Platform) (wb : Nat) : Platform :=
  { x with wb := some wb, earlier := match x.wb with | some w => x.earlier ++ [w] | none => x.earlier }

def platDestroyApply (p : Nat) : Apply := fun wb s =>
  let s := s.setPlat p fun x => { x.under wb with st := .destroying, abandoned := 0 }
  ([], p, s.abortPlat p)

def execPlatformDestroy (h : CmdHdr) (platform : BitVec 16) (s : State) : Out :=
  done (s.mailbox h { opcode := 0x0301, segs := [.f 2 platform.toNat], roles := [.operator], async := true, object := platform.toNat }
    (platCheck platform.toNat fun x => x.st != .free && x.st != .destroying) (platDestroyApply platform.toNat))

def drainCmd (p mode : Nat) : Cmd :=
  { opcode := 0x0302, segs := [.f 2 p, .f 1 mode], roles := [.operator], async := mode != 2, object := p }

def execPlatformDrainFinish (h : CmdHdr) (platform : BitVec 16) (s : State) : Out :=
  done (s.mailbox h (drainCmd platform.toNat 0) (platCheck platform.toNat fun x => x.st == .active)
    fun wb s => ([], platform.toNat, s.setPlat platform.toNat fun x => { x.under wb with st := .draining }))

def execPlatformDrainAbort (h : CmdHdr) (platform : BitVec 16) (s : State) : Out :=
  done (s.mailbox h (drainCmd platform.toNat 1) (platCheck platform.toNat fun x => x.st == .active || x.st == .draining)
    fun wb s => ([], platform.toNat, (s.setPlat platform.toNat fun x => { x.under wb with st := .draining }).abortPlat platform.toNat))

def execPlatformDrainResume (h : CmdHdr) (platform : BitVec 16) (s : State) : Out :=
  done (s.mailbox h (drainCmd platform.toNat 2) (platCheck platform.toNat fun x => x.st == .drained || (x.st == .stopped && x.held == 0))
    fun _ s => ([], platform.toNat, (s.setPlat platform.toNat fun x => { x with st := .active }).accept_ platform.toNat))

/-! ## PARTITION_SET (R323) -/

/-- The sums over every partition, with new values for one. -/
def State.partSum (s : State) (part : Nat) (f : Part → Nat) (new : Nat) : Nat :=
  sumOf (fun x => if x.2 == part then new else f x.1) s.jobs.parts.toList.zipIdx

def partCheck (part lwait quota pumps : Nat) (s : State) : Option Refuse :=
  let q := le 4 quota
  let set := bitsOf pumps 16
  firstOf [
    (16 ≤ part || 12 < lwait || q.any (16 < ·.toNat), bad),
    (s.jobs.partRuns.any fun r => r.part == part || r.pumps.any set.contains, conflict [s.mod.phase.code]),
    (12 < s.partSum part (·.lwait) lwait || (List.range 4).any fun d => 16 < s.partSum part (fun x => x.quota.getD d 0) (num q d 1), refuse .noResource)]

/-- A pump leaves its partition once its running job has ended; its queue goes to the others (08 R242). -/
def State.movePump (s : State) (p : Nat) (dst : Option Nat) : State :=
  (s.modPump p fun x => { x with moving := some dst }).requeue p false

/-- The pumps named go to the partition, and the others that are in it go to none. A pump of it that a PARTITION_SET still running moves to
another partition then goes to none, and that command completes OK as well (DESIGN CHOICE: the spec's STATE_CONFLICT does not cover the case;
notes/assumptions/172). -/
def partApply (part lwait quota pumps : Nat) : Apply := fun wb s =>
  let set := bitsOf pumps 16
  let s := s.modJobs fun x =>
    { x with parts := x.parts.setIfInBounds part ⟨lwait, (le 4 quota).map (·.toNat)⟩, partRuns := x.partRuns ++ [⟨part, set, wb⟩] }
  let s := (List.range 16).foldl (fun s p =>
    let on := (s.pumpAt p).part == some part
    if set.contains p then (if on && (s.pumpAt p).moving.isNone then s else s.movePump p (some part))
    else if on then s.movePump p none else s) s
  ([], part, s)

def execPartitionSet (h : CmdHdr) (partition lwait : Byte) (quota : BitVec 32) (pumps : BitVec 16) (s : State) : Out :=
  done (s.mailbox h { opcode := 0x0303, segs := [.f 1 partition.toNat, .f 1 lwait.toNat, .r 2, .f 4 quota.toNat, .f 2 pumps.toNat, .r 6],
                      roles := [.operator], async := true, object := partition.toNat }
    (partCheck partition.toNat lwait.toNat quota.toNat pumps.toNat) (partApply partition.toNat lwait.toNat quota.toNat pumps.toNat))

end Sys2Proof.Machine
end

