-- ==== Sys2Proof/Machine/NsCmds.lean ====
section
/-! DEFINITION. The commands on namespaces of the prefix index (12 R344 to R357). -/
namespace Sys2Proof.Machine

def nsCreateCmd (store format width nkvh nlayers lease quota flags : Nat) : Cmd :=
  { opcode := 0x0400
    segs := [.f 4 store, .f 1 format, .f 1 width, .f 2 nkvh, .f 2 nlayers, .f 2 lease, .f 4 quota, .f 1 flags, .r 15]
    roles := [.operator] }

def State.freeNs (s : State) : Option Nat × State :=
  let (k, s) := s.choose 1024
  if (s.ns k).st == .free then (some k, s) else ((List.range 1024).find? fun i => (s.ns i).st == .free, s)

/-- The namespace that has a well as its store. -/
def State.nsOfStore (s : State) (store : Nat) : Option Nat := (s.pfx.nss.find? fun x => x.2.st != .free && x.2.store == store).map (·.1)

/-- Values in range, and a KVB16-tagged SINGLE store of at least one slot (R354). -/
def State.nsArgsOk (s : State) (store format width nkvh nlayers lease quota flags : Nat) : Bool :=
  1 ≤ format && format ≤ 8 && width ≤ 3 && 1 ≤ nkvh && nkvh ≤ 256 && 1 ≤ nlayers && nlayers ≤ 1024 && lease ≤ 3600 &&
  1 ≤ quota && quota < 0xFFFFFFFF && flags ≤ 1 &&
  (match s.named store with
    | none => false
    | some i => (s.well i).kvb16 && (s.well i).mirror.isNone && nlayers * nkvh * kvbSize format width ≤ (s.well i).length)

def nsCreateCheck (store format width nkvh nlayers lease quota flags : Nat) (s : State) : Option Refuse :=
  let w := s.well ((s.named store).getD 0)
  firstOf [
    (!s.nsArgsOk store format width nkvh nlayers lease quota flags, bad),
    (w.st != .live, conflict [w.st.code]),
    ((s.nsOfStore store).isSome, conflict [(s.ns ((s.nsOfStore store).getD 0)).st.code]),
    (s.freeNs.1.isNone, refuse .noResource)]

def nsCreateApply (store format width nkvh nlayers lease quota flags : Nat) : Apply := fun _ s =>
  let (i, s) := s.freeNs
  let i := i.getD 0
  let (salt, s) := s.random
  let owner := (s.well ((s.named store).getD 0)).owner
  let s := s.modNs i fun x =>
    { gen := x.gen, st := .live, even := nbit flags 0, format := format, width := width, ctx := owner, nkvh := nkvh, nlayers := nlayers,
      leaseS := lease, store := store, quota := quota, salt := salt }
  (le 4 (handleOf i (s.ns i).gen), handleOf i (s.ns i).gen, s)

def execNamespaceCreate (h : CmdHdr) (store : BitVec 32) (format width : Byte) (nkvh nlayers leaseS : BitVec 16) (quota : BitVec 32) (flags : Byte)
    (s : State) : Out :=
  done (s.mailbox h (nsCreateCmd store.toNat format.toNat width.toNat nkvh.toNat nlayers.toNat leaseS.toNat quota.toNat flags.toNat)
    (nsCreateCheck store.toNat format.toNat width.toNat nkvh.toNat nlayers.toNat leaseS.toNat quota.toNat flags.toNat)
    (nsCreateApply store.toNat format.toNat width.toNat nkvh.toNat nlayers.toNat leaseS.toNat quota.toNat flags.toNat))

/-- A second destroy finds the namespace in no state for it (R59 as for wells). -/
def nsDestroyCheck (handle : Nat) (s : State) : Option Refuse :=
  match s.namedNs handle with
  | none => bad
  | some i => if (s.ns i).st == .destroying then conflict [s.mod.phase.code] else none

def nsDestroyApply (handle : Nat) : Apply := fun wb s =>
  match s.namedNs handle with
  | none => ([], handle, s)
  | some i => ([], handle, s.modNs i fun x => { x with st := .destroying, wb := some wb })

def execNamespaceDestroy (h : CmdHdr) (handle : BitVec 32) (s : State) : Out :=
  done (s.mailbox h { opcode := 0x0401, segs := [.f 4 handle.toNat], roles := [.operator], async := true, object := handle.toNat }
    (nsDestroyCheck handle.toNat) (nsDestroyApply handle.toNat))

/-- QUOTA, LEASE_S and FLAGS keep their field at all ones (R356). -/
def nsQuotaCheck (handle quota lease flags : Nat) (s : State) : Option Refuse :=
  if (s.namedNs handle).isNone || quota == 0 || (3600 < lease && lease != 0xFFFF) || (4 ≤ flags && flags != 0xFF) then bad else none

def nsQuotaApply (handle quota lease flags : Nat) : Apply := fun _ s =>
  match s.namedNs handle with
  | none => ([], handle, s)
  | some i =>
    let s := if flags != 0xFF && nbit flags 1 then s.endHolds i else s
    let s := s.modNs i fun x =>
      { x with quota := if quota == 0xFFFFFFFF then x.quota else quota
               leaseS := if lease == 0xFFFF then x.leaseS else lease
               even := if flags == 0xFF then x.even else nbit flags 0 }
    let s := State.evictTo (s.nsUsed i) i s
    (s.nsEntry i, handle, s)

def execNamespaceQuota (h : CmdHdr) (handle quota : BitVec 32) (leaseS : BitVec 16) (flags : Byte) (s : State) : Out :=
  done (s.mailbox h { opcode := 0x0402, segs := [.f 4 handle.toNat, .f 4 quota.toNat, .f 2 leaseS.toNat, .f 1 flags.toNat], roles := [.operator],
                      object := handle.toNat }
    (nsQuotaCheck handle.toNat quota.toNat leaseS.toNat flags.toNat) (nsQuotaApply handle.toNat quota.toNat leaseS.toNat flags.toNat))

end Sys2Proof.Machine
end

