-- ==== Sys2Proof/Machine/CacheCmds.lean ====
section
/-! DEFINITION. CACHE_CONTROL (05 R145 to R154; 04 R120, R129). -/
namespace Sys2Proof.Machine

def cacheCmd (op slices flags n value : Nat) : Cmd :=
  { opcode := 0x0500, segs := [.f 1 op, .f 1 slices, .f 1 flags, .f 1 n, .f 4 value, .r 8], roles := [.operator] }

/-- The slices a command selects. -/
def slicesOf (slices : Nat) : List Nat := bitsOf slices 4

/-- The STATE byte of each slice (R147). -/
def State.sliceConflict (s : State) : Option Refuse := conflict ((List.range 4).map fun d => (s.slice d).st.code)

/-- The checks of an operation on slices: every selected one must accept it. -/
def sliceCheck (slices flags n value : Nat) (ok : SliceSt → Bool) (s : State) : Option Refuse :=
  firstOf [
    (slices == 0 || 16 ≤ slices || 2 ≤ flags || n != 0 || value != 0, bad),
    (!((slicesOf slices).all fun d => ok (s.slice d).st), s.sliceConflict)]

/-- The selected slices changed. -/
def State.onSlices (s : State) (slices : Nat) (f : Slice → Slice) : State := (slicesOf slices).foldl (fun s d => s.modSlice d f) s

/-! ## ENABLE, DISABLE, FLUSH, INVALIDATE (R146, R149 to R153) -/

def State.retainedIn (s : State) (d : Nat) : Nat := (s.cache.lines.filter fun c => c.die == d && c.retained).length

/-- A retained line as it is valid again: its tag is a die address (R134), which another DPA may have by now. One whose die address no
granule holds is hit by nothing, and leaves (DESIGN CHOICE, notes/assumptions/192). -/
def State.reuseLine (s : State) (c : CLine) : Option CLine :=
  match c.key, c.tagAt with
  | .pool k, some a => if Config.poolEnd ≤ k then some { c with retained := false, tagAt := none }
    else (s.dpaAt c.die a).map fun k => { c with key := .pool k, retained := false, tagAt := none }
  | _, _ => none

/-- Retained lines are valid again, and the slice is ENABLED (R153). -/
def State.reuseSlice (s : State) (d : Nat) : State :=
  let any := s.retainedIn d != 0
  (s.setLines (s.cache.lines.filterMap fun c => if c.die == d && c.retained then s.reuseLine c else some c)).modSlice d fun x =>
    { x with st := .enabled, stale := x.stale || any }

def enableApply (slices flags : Nat) : Apply := fun wb s =>
  if nbit flags 0 then ([], 0, s.onSlices slices fun x => { x with st := .invalidating, frm := .enabled, opens := true, wb := some wb })
  else
    let n := sumOf s.retainedIn (slicesOf slices)
    let s := (slicesOf slices).foldl (fun s d => s.reuseSlice d) s
    ([], 0, if n == 0 then s else s.modEntry wb fun e => { e with staleReuse := true, result := le 4 n })

def execCacheEnable (h : CmdHdr) (slices flags station : Byte) (value : BitVec 32) (s : State) : Out :=
  done (s.mailbox h { cacheCmd 0 slices.toNat flags.toNat station.toNat value.toNat with async := nbit flags.toNat 0 }
    (sliceCheck slices.toNat flags.toNat station.toNat value.toNat fun st => st == .disabled) (enableApply slices.toNat flags.toNat))

def execCacheDisable (h : CmdHdr) (slices flags station : Byte) (value : BitVec 32) (s : State) : Out :=
  done (s.mailbox h { cacheCmd 1 slices.toNat flags.toNat station.toNat value.toNat with async := true }
    (sliceCheck slices.toNat flags.toNat station.toNat value.toNat fun st => st == .enabled)
    fun wb s => ([], 0, s.onSlices slices.toNat fun x => { x with st := .disabling, wb := some wb }))

def execCacheFlush (h : CmdHdr) (slices flags station : Byte) (value : BitVec 32) (s : State) : Out :=
  done (s.mailbox h { cacheCmd 2 slices.toNat flags.toNat station.toNat value.toNat with async := true }
    (sliceCheck slices.toNat flags.toNat station.toNat value.toNat fun st => st == .enabled)
    fun wb s => ([], 0, s.onSlices slices.toNat fun x => { x with st := .flushing, wb := some wb }))

def execCacheInvalidate (h : CmdHdr) (slices flags station : Byte) (value : BitVec 32) (s : State) : Out :=
  done (s.mailbox h { cacheCmd 3 slices.toNat flags.toNat station.toNat value.toNat with async := true }
    (sliceCheck slices.toNat flags.toNat station.toNat value.toNat fun st => st == .enabled || st == .disabled)
    fun wb s => ([], 0, s.onSlices slices.toNat fun x => { x with st := .invalidating, frm := x.st, wb := some wb }))

/-! ## SET_THRESHOLD, SET_T_HOLD, SET_QUOTA, STATUS (R145, R148) -/

/-- Values in range: reserved bits are zero, and STATION and VALUE belong to the operation. -/
def setCheck (slices flags : Nat) (ok : Bool) : State → Option Refuse := fun _ => if 16 ≤ slices || 2 ≤ flags || !ok then bad else none

def execCacheSetThreshold (h : CmdHdr) (slices flags station : Byte) (value : BitVec 32) (s : State) : Out :=
  done (s.mailbox h (cacheCmd 4 slices.toNat flags.toNat station.toNat value.toNat)
    (setCheck slices.toNat flags.toNat (station == 0 && 1 ≤ value.toNat && value.toNat ≤ 64))
    fun _ s => ([], 0, { s with cache := { s.cache with thresholdKiB := value.toNat } }))

def execCacheSetTHold (h : CmdHdr) (slices flags station : Byte) (value : BitVec 32) (s : State) : Out :=
  done (s.mailbox h (cacheCmd 5 slices.toNat flags.toNat station.toNat value.toNat)
    (setCheck slices.toNat flags.toNat (station == 0 && value.toNat ≤ 2000))
    fun _ s => ([], 0, s.modHome fun x => { x with tHold := value.toNat }))

/-- A station's quota is set, and what exceeds it recalled (04 R129). -/
def State.setQuota (s : State) (n v : Nat) : State :=
  (List.range 4).foldl (fun s d => s.quotaRecall n d) (s.modHome fun x => { x with quotas := tset x.quotas n v })

def execCacheSetQuota (h : CmdHdr) (slices flags station : Byte) (value : BitVec 32) (s : State) : Out :=
  done (s.mailbox h (cacheCmd 6 slices.toNat flags.toNat station.toNat value.toNat)
    (setCheck slices.toNat flags.toNat (station.toNat < 48 && 4096 ≤ value.toNat && value.toNat ≤ 8388608))
    fun _ s => ([], 0, s.setQuota station.toNat value.toNat))

def State.sliceStatus (s : State) (d : Nat) : List Byte :=
  let l := s.cache.lines.filter fun c => c.die == d
  let host := fun (c : CLine) => match c.key with | .host _ _ => true | .pool _ => false
  let dirty := fun (c : CLine) => !c.retained && (if host c then c.hst == .m else c.dirty)
  le 1 (s.slice d).st.code ++ le 1 (bit (s.slice d).stale) ++ zeros 2 ++ le 4 (l.filter dirty).length ++ le 4 (s.retainedIn d) ++
  le 4 (l.filter fun c => host c && !c.retained).length

def State.cacheStatus (s : State) : List Byte :=
  ((List.range 4).flatMap fun d => s.sliceStatus d) ++ le 1 s.cache.thresholdKiB ++ zeros 1 ++ le 2 s.home.tHold ++ zeros 12

def execCacheStatus (h : CmdHdr) (slices flags station : Byte) (value : BitVec 32) (s : State) : Out :=
  done (s.mailbox h { cacheCmd 7 slices.toNat flags.toNat station.toNat value.toNat with query := true, recov := true }
    (setCheck slices.toNat flags.toNat (station == 0 && value == 0)) fun _ s => (s.cacheStatus, 0, s))

end Sys2Proof.Machine
end

