-- ==== Sys2Proof/Machine/TwinCmds.lean ====
section
/-! DEFINITION. The commands on the pair (16 R487 to R491, R501, R507; 15 R614). -/
namespace Sys2Proof.Machine

/-- The bytes of a STATE_CONFLICT of a command on the pair. -/
def State.pairConflict (s : State) : Option Refuse := conflict [s.pairCode, s.mod.phase.code]

/-! ## TWIN_PAIR (R488, R489) -/

def pairCmd (rate : Nat) : Cmd := { opcode := 0x0600, segs := [.f 2 rate, .r 6], roles := [.installer], async := true }

def rateBad (rate : Nat) : Bool := rate != 0 && (rate < 16 || 448 < rate)

def pairCheck (rate : Nat) (info : PeerInfo) (s : State) : Option Refuse :=
  if rateBad rate then bad
  else match s.pairRefusal info with
    | some .stateConflict => s.pairConflict
    | some st => refuse st
    | none => none

/-- A refusal of R488's own checks, which is known beyond the reply. -/
def State.pairTurnedAway (s : State) (h : CmdHdr) (rate : Nat) (info : PeerInfo) : Option Status :=
  if s.reaches h.mbx && (s.refusal h (pairCmd rate) fun _ => if rateBad rate then bad else none).isNone then s.pairRefusal info else none

def execTwinPair (h : CmdHdr) (rate : BitVec 16) (peer : PeerInfo) (s : State) : Out :=
  let r := s.pairTurnedAway h rate.toNat peer
  let s := s.mailbox h (pairCmd rate.toNat) (pairCheck rate.toNat peer)
    fun wb s => ([], 0, (s.emit (.xo (.mail wb 0x0600))).pairBegin peer rate.toNat (some wb))
  done (match r with | some st => s.pairRefused peer st false | none => s)

/-! ## TWIN_UNPAIR (R491) -/

def unpairCmd (mode : Nat) : Cmd := { opcode := 0x0601, segs := [.f 1 mode, .r 7], roles := [.installer], async := true }

def unpairCheck (split : Bool) (s : State) : Option Refuse :=
  firstOf [
    (!s.isPaired, refuse .notPaired),
    (s.twin.unpairing.isSome || (!split && !s.mirrored.isEmpty), s.pairConflict)]

def unpairApply (split : Bool) : Apply := fun wb s => ([], 0, (s.relay wb 0x0601).unpairBegin split (some wb))

def execTwinUnpairEmpty (h : CmdHdr) (s : State) : Out := done (s.mailbox h (unpairCmd 0) (unpairCheck false) (unpairApply false))

def execTwinUnpairSplit (h : CmdHdr) (s : State) : Out := done (s.mailbox h (unpairCmd 1) (unpairCheck true) (unpairApply true))

/-! ## TWIN_SWITCHOVER (R507) -/

def switchCmd (target scope flags : Nat) : Cmd :=
  { opcode := 0x0602, segs := [.f 1 target, .f 1 scope, .f 1 flags, .r 5], roles := [.installer], async := true }

/-- TARGET counts under SCOPE ALL only. -/
def switchBad (target scope rsv : Nat) : Bool := 1 < scope || rsv != 0 || (scope == 0 && 1 < target)

/-- The wells that the command moves are IN_STEP, and no other change of primacy or of the pair runs. -/
def switchCheck (target scope rsv : Nat) (s : State) : Option Refuse :=
  let (out, gain) := s.swoWells (target == 0) (scope == 1)
  firstOf [
    (switchBad target scope rsv, bad),
    (!s.isPaired, refuse .notPaired),
    (s.twin.swo.isSome || s.twin.unpairing.isSome || (out ++ gain).any fun i => (s.well i).mirSt != some .sync, s.pairConflict)]

def switchApply (target scope : Nat) : Apply := fun wb s =>
  let (out, gain) := s.swoWells (target == 0) (scope == 1)
  ([], 0, (s.relay wb 0x0602).modTwin fun t => { t with swo := some ⟨some wb, out, gain, false⟩ })

def execTwinSwitchover (h : CmdHdr) (target scope : Byte) (rsvFlags : BitVec 7) (s : State) : Out :=
  done (s.mailbox h (switchCmd target.toNat scope.toNat (2 * rsvFlags.toNat)) (switchCheck target.toNat scope.toNat rsvFlags.toNat)
    (switchApply target.toNat scope.toNat))

def takeoverCheck (target scope rsv : Nat) (s : State) : Option Refuse :=
  firstOf [
    (switchBad target scope rsv, bad),
    (s.twin.st != .fenced || target != 0, s.pairConflict)]

/-- The steps of R504 from this module's own copies. -/
def takeoverApply : Apply := fun wb s =>
  let s := s.mirrored.foldl (fun s i => s.modMirror i fun m => { m with st := if m.st == .fenced then .degraded else m.st }) s
  ([], 0, s.startGap 5 (some wb))

def execTwinTakeover (h : CmdHdr) (target scope : Byte) (rsvFlags : BitVec 7) (s : State) : Out :=
  done (s.mailbox h (switchCmd target.toNat scope.toNat (2 * rsvFlags.toNat + 1)) (takeoverCheck target.toNat scope.toNat rsvFlags.toNat) takeoverApply)

/-! ## TWIN_STATUS (R501) -/

def State.twinStatus (s : State) : List Byte :=
  let t := s.twin
  le 1 s.pairCode ++ le 1 (if t.st == .paired || t.st == .gap then bit (!t.keeper) else 0xFF) ++ le 1 t.version ++ le 1 (maskOf s.xoUp) ++
  le 4 t.localVersions.toNat ++ le 4 t.twinVersions.toNat ++ zeros 4 ++ le 8 t.recorded.toNat ++ le 8 t.pairedSince ++ le 8 t.lastReport ++
  le 4 s.mirrored.length ++ le 4 s.degradedWells ++ le 8 s.resyncLeft ++ le 4 t.switchovers ++ le 1 t.lastCause ++ zeros 3

def State.mirrorStatus (s : State) (i : Nat) : List Byte :=
  match (s.well i).mirror with
  | none => []
  | some m =>
    le 4 (s.wellHandle i) ++ le 1 m.st.code ++ le 1 (bit !m.primary) ++ le 1 (bit !m.origin) ++ zeros 1 ++ le 8 (s.pagesOut i) ++ le 8 m.twinStart ++
    le 8 (tgetD s.twin.auditTime i 0)

def execTwinStatus (h : CmdHdr) (handle : BitVec 32) (s : State) : Out :=
  done (s.mailbox h { opcode := 0x0603, segs := [.f 4 handle.toNat], roles := anyRole, query := true, recov := true }
    (fun s => if handle.toNat == Config.noHandle || (s.namedMir handle.toNat).isSome then none else bad)
    fun _ s => (if handle.toNat == Config.noHandle then s.twinStatus else s.mirrorStatus ((s.namedMir handle.toNat).getD 0), 0, s))

end Sys2Proof.Machine
end

