-- ==== Sys2Proof/Machine/FaultCmds.lean ====
section
/-! DEFINITION. The commands on faults, policies, unit history and field tests, and on power (17 R529 to R531, R536, R538;
18 R549, R550, R555, R563). -/
namespace Sys2Proof.Machine

/-! ## FAULT_STATUS (17 R529) -/

/-- Records a command wants, in ascending SEQ. -/
def State.faultList (s : State) (h : CmdHdr) (frm count filter : Nat) : List FaultRec :=
  let filter := if s.role h.mbx h.sender == .none then 2 else filter
  let mine := fun (r : FaultRec) => match filter with
    | 0 => true
    | 1 => !r.acked
    | _ => match hdrStn h with | some n => r.stns.contains n | none => false
  ((s.flt.records.filter fun r => frm ≤ r.seq && mine r).reverse).take count

def faultStatusReply (h : CmdHdr) (frm count filter : Nat) (s : State) : List Byte :=
  let l := s.faultList h frm count filter
  le 8 s.flt.nextSeq ++ le 2 s.openRecords ++ le 1 l.length ++ le 1 (bit s.errLow) ++ le 4 s.flt.lost ++ l.flatMap FaultRec.enc

def execFaultStatus (h : CmdHdr) (frm : BitVec 64) (count filter : Byte) (s : State) : Out :=
  done (s.mailbox h { opcode := 0x0700, segs := [.f 8 frm.toNat, .f 1 count.toNat, .f 1 filter.toNat, .r 6], roles := anyRole, query := true,
                      boot := true, recov := true }
    (fun _ => if count == 0 || 14 < count.toNat || 2 < filter.toNat then bad else none)
    fun _ s => (faultStatusReply h frm.toNat count.toNat filter.toNat s, 0, s))

/-! ## FAULT_ACK (17 R526, R530) -/

def State.recordOf (s : State) (seq : Nat) : Option FaultRec := s.flt.records.find? (·.seq == seq)

def ackCheck (seq mode : Nat) (s : State) : Option Refuse :=
  match s.recordOf seq with
  | none => bad
  | some r => firstOf [(1 < mode, bad), (mode == 0 && r.acked, conflict [2])]

/-- A record is acknowledged, which the management network learns. -/
def State.ackRecord (s : State) (r : FaultRec) : State :=
  (s.modRecord r.seq fun r => { r with acked := true }).emit (.record { r with acked := true })

def ackApply (seq mode : Nat) : Apply := fun _ s =>
  let l := (s.flt.records.filter fun r => !r.acked && (if mode == 0 then r.seq == seq else r.seq ≤ seq)).reverse
  let s := l.foldl (fun s r => s.ackRecord r) s
  (le 4 l.length ++ le 2 s.openRecords, seq, s)

def execFaultAck (h : CmdHdr) (seq : BitVec 64) (mode : Byte) (s : State) : Out :=
  done (s.mailbox h { opcode := 0x0701, segs := [.f 8 seq.toNat, .f 1 mode.toNat, .r 7], roles := [.operator], recov := true, object := seq.toNat }
    (ackCheck seq.toNat mode.toNat) (ackApply seq.toNat mode.toNat))

/-! ## FAULT_POLICY_SET (17 R531) -/

def keepThreshold : Nat := 0xFFFFFFFE
def neverDrain : Nat := 0xFFFFFFFF

/-- Values in range for a source, or for the drain delay of SOURCE 0xFFFF. -/
def policyOk (source reaction flags threshold window : Nat) : Bool :=
  flags / 4 % 32 == 0 &&
  (if source == 0xFFFF then
    nbit flags 7 || ((threshold ≤ 86400 || threshold == neverDrain || threshold == keepThreshold) && window == 0)
  else match sourceOf source with
    | none => false
    | some x =>
      let counts := x.policy.threshold != 0
      nbit flags 7 ||
        ((reaction == 0xFF || (reaction ≤ 3 && x.floor.rank ≤ reaction)) &&
          (threshold == keepThreshold || (if counts then 1 ≤ threshold && threshold ≤ 65535 else threshold == 0)) &&
          (if counts then 1 ≤ window && window ≤ 3600 else window == 0)))

def State.setPolicy (s : State) (source reaction flags threshold window : Nat) : State :=
  if source == 0xFFFF then
    let delay :=
      if nbit flags 7 then some 600
      else if threshold == keepThreshold then s.flt.drainDelay
      else if threshold == neverDrain then none
      else some threshold
    s.modFlt fun f => { f with drainDelay := delay }
  else match sourceOf source with
    | none => s
    | some x =>
      if nbit flags 7 then s.modFlt fun f => { f with policies := tdel f.policies source }
      else
        let old := s.policy x
        let p : Policy :=
          { react := if reaction == 0xFF then old.react else React.ofRank reaction, pin := nbit flags 0, esc := nbit flags 1
            threshold := if threshold == keepThreshold then old.threshold else threshold, windowS := window }
        s.modFlt fun f => { f with policies := tset f.policies source p }

def State.policyReply (s : State) (source : Nat) : List Byte :=
  if source == 0xFFFF then le 2 source ++ le 1 0xFF ++ zeros 1 ++ le 4 (s.flt.drainDelay.getD neverDrain) ++ zeros 8
  else match sourceOf source with
    | none => zeros 16
    | some x =>
      let p := s.policy x
      le 2 source ++ le 1 p.react.rank ++ le 1 (bit p.pin + 2 * bit p.esc) ++ le 4 p.threshold ++ le 2 p.windowS ++ zeros 6

def execFaultPolicySet (h : CmdHdr) (source : BitVec 16) (reaction flags : Byte) (threshold : BitVec 32) (windowS : BitVec 16) (s : State) : Out :=
  done (s.mailbox h { opcode := 0x0702, roles := [.installer], object := source.toNat
                      segs := [.f 2 source.toNat, .f 1 reaction.toNat, .f 1 flags.toNat, .f 4 threshold.toNat, .f 2 windowS.toNat, .r 6] }
    (fun _ => if policyOk source.toNat reaction.toNat flags.toNat threshold.toNat windowS.toNat then none else bad)
    fun _ s =>
      let s := s.setPolicy source.toNat reaction.toNat flags.toNat threshold.toNat windowS.toNat
      (s.policyReply source.toNat, source.toNat, s))

/-! ## UNIT_HISTORY_READ (17 R535, R536) -/

def Hist.enc (e : Hist) : List Byte :=
  le 4 e.boot ++ le 2 e.source ++ le 1 e.unitKind ++ le 1 e.unit ++ le 8 e.time ++ le 8 e.location.toNat ++ le 4 e.count ++ le 1 e.verdict ++ zeros 3

def historyReply (kind unit frm count : Nat) (s : State) : List Byte :=
  let all := s.flt.history.filter fun e => kind == 0xFF || (e.unitKind == kind && e.unit == unit)
  let l := (all.drop frm).take count
  le 4 all.length ++ le 4 (all.filter fun e => e.verdict == 2).length ++ le 1 l.length ++ zeros 7 ++ l.flatMap Hist.enc

def execUnitHistoryRead (h : CmdHdr) (unitKind unit : Byte) (frm : BitVec 32) (count : Byte) (s : State) : Out :=
  done (s.mailbox h { opcode := 0x0703, segs := [.f 1 unitKind.toNat, .f 1 unit.toNat, .r 2, .f 4 frm.toNat, .f 1 count.toNat, .r 7],
                      roles := [.operator, .installer, .maker], query := true, boot := true, recov := true }
    (fun _ => if (0xA < unitKind.toNat && unitKind != 0xFF) || count == 0 || 29 < count.toNat then bad else none)
    fun _ s => (historyReply unitKind.toNat unit.toNat frm.toNat count.toNat s, 0, s))

/-! ## FIELD_TEST_POLICY (17 R538) -/

/-- A field of 16 bits that is all ones, or in its range. -/
def keepOr (v lo hi : Nat) : Bool := v == 0xFFFF || (lo ≤ v && v ≤ hi)

def keep16 (v old : Nat) : Nat := if v == 0xFFFF then old else v

def fieldTestApply (flags intervalS maxOutUs scrubH : Nat) : Apply := fun _ s =>
  let s := s.modFlt fun f =>
    { f with
      katEn := if flags == 0xFF then f.katEn else nbit flags 0
      scrubEn := if flags == 0xFF then f.scrubEn else nbit flags 1
      intervalS := keep16 intervalS f.intervalS, maxOutUs := keep16 maxOutUs f.maxOutUs, scrubH := keep16 scrubH f.scrubH }
  let f := s.flt
  (le 1 (bit f.katEn + 2 * bit f.scrubEn) ++ zeros 1 ++ le 2 f.intervalS ++ le 2 f.maxOutUs ++ le 2 f.scrubH ++ zeros 8, 0, s)

def execFieldTestPolicy (h : CmdHdr) (flags : Byte) (intervalS maxOutUs scrubH : BitVec 16) (s : State) : Out :=
  done (s.mailbox h { opcode := 0x0704, segs := [.f 1 flags.toNat, .r 1, .f 2 intervalS.toNat, .f 2 maxOutUs.toNat, .f 2 scrubH.toNat, .r 8],
                      roles := [.installer] }
    (fun _ => if (flags == 0xFF || flags.toNat < 4) && keepOr intervalS.toNat 10 3600 && keepOr maxOutUs.toNat 500 10000 && keepOr scrubH.toNat 1 168
      then none else bad)
    (fieldTestApply flags.toNat intervalS.toNat maxOutUs.toNat scrubH.toNat))

/-! ## POWER_LIMIT_SET (18 R549) -/

def ones32 : Nat := 0xFFFFFFFF
def neverUs : Nat := 0xFFFFFFFE

/-- FLAGS asks for DEFAULT; FLAGS of all ones is a field left unchanged and asks for nothing. -/
def limitDefault (flags : Nat) : Bool := flags == 1

def limitOk (limitW flags hot warm dormant : Nat) : Bool :=
  (flags < 2 || flags == 0xFF) && (limitDefault flags ||
    (keepOr limitW 1000 2200 && (hot == ones32 || hot ≤ 1000000) && (warm == ones32 || warm == neverUs || warm ≤ 60000000) &&
      (dormant == ones32 || dormant ≤ 3600000)))

def limitApply (limitW flags hot warm dormant : Nat) : Apply := fun _ s =>
  let s := s.modPwr fun p =>
    if limitDefault flags then { p with limitW := 2000, hotIdleUs := 20, warmIdleUs := some 1000, dormantMs := none }
    else
      { p with
        limitW := keep16 limitW p.limitW
        hotIdleUs := if hot == ones32 then p.hotIdleUs else hot
        warmIdleUs := if warm == ones32 then p.warmIdleUs else if warm == neverUs then none else some warm
        dormantMs := if dormant == ones32 then p.dormantMs else if dormant == 0 then none else some dormant }
  let p := s.pwr
  (le 2 p.limitW ++ zeros 2 ++ le 4 p.hotIdleUs ++ le 4 (p.warmIdleUs.getD neverUs) ++ le 4 (p.dormantMs.getD 0), 0, s)

def execPowerLimitSet (h : CmdHdr) (limitW : BitVec 16) (flags : Byte) (hotIdleUs warmIdleUs dormantIdleMs : BitVec 32) (s : State) : Out :=
  done (s.mailbox h { opcode := 0x0800, roles := [.installer]
                      segs := [.f 2 limitW.toNat, .f 1 flags.toNat, .r 1, .f 4 hotIdleUs.toNat, .f 4 warmIdleUs.toNat, .f 4 dormantIdleMs.toNat] }
    (fun _ => if limitOk limitW.toNat flags.toNat hotIdleUs.toNat warmIdleUs.toNat dormantIdleMs.toNat then none else bad)
    (limitApply limitW.toNat flags.toNat hotIdleUs.toNat warmIdleUs.toNat dormantIdleMs.toNat))

/-! ## POWER_STATUS (18 R555, R563) -/

/-- What LIMITER names: the thermal values while they are the lower, else the lowest limit while a module step is in force. -/
def State.limiter (s : State) : Nat :=
  let p := s.pwr
  if p.thermDuty.toList.any (· < p.duty) || p.thermMem.toList.any (· < p.memStep) then 4
  else if p.duty == 16 && p.memStep == 16 then 0
  else if s.effectiveW == p.limitW then 1
  else if s.effectiveW == 600 * s.converters then 2
  else 3

def State.pumpState (s : State) (p : Nat) : Nat :=
  let x := s.pumpAt p
  match x.clk with
  | .cold => 0
  | .warm => 1
  | .hot => if x.job.isSome then 3 else 2

def Rail.enc (r : Rail) (id : Nat) : List Byte := le 1 id ++ le 1 (bit r.bad) ++ le 2 r.mv ++ le 2 r.ma10 ++ [r.temp] ++ zeros 1

/-- A converter's record: its state and the last sample of its output. -/
def convRecord (p : Pwr) (k : Nat) : List Byte :=
  let r := p.convOut.toList.getD k {}
  le 1 k ++ le 1 (p.conv.toList.getD k 0) ++ le 2 r.mv ++ le 2 (10 * r.ma10) ++ [r.temp] ++ zeros 1

def powerStatusReply (s : State) : List Byte :=
  let p := s.pwr
  let duty := p.thermDuty.toList.map (min p.duty)
  let mem := p.thermMem.toList.map (min p.memStep)
  let conv := (p.conv.toList.zipIdx.filter fun x => x.1 == 1 || x.1 == 3).map (·.2)
  le 4 p.mv ++ le 4 p.ma ++ le 2 p.inW ++ le 2 p.inW1 ++ le 2 p.limitW ++ le 2 s.effectiveW ++ le 1 s.limiter ++
    le 1 (bit p.unmet + 2 * bit p.limiting + 4 * bit p.powerDown + 8 * bit p.therm) ++ le 1 p.duty ++ le 1 p.memStep ++
    duty.flatMap (le 1) ++ mem.flatMap (le 1) ++ le 1 (maskOf conv) ++ le 1 (maskOf ((List.range 4).filter s.dieDormant)) ++ zeros 2 ++
    le 4 (sumOf (fun q => s.pumpState q * 4 ^ q) (List.range 16)) ++ zeros 4 ++ le 8 p.energyMj ++ p.temps.toList ++ zeros 1 ++ p.stackTemps.toList ++
    (p.rails.toList.zipIdx.flatMap fun (r, i) => r.enc i) ++
    (List.range 4).flatMap (convRecord p)

def execPowerStatus (h : CmdHdr) (s : State) : Out :=
  done (s.mailbox h { opcode := 0x0801, roles := anyRole, query := true, boot := true, recov := true } (fun _ => none)
    fun _ s => (powerStatusReply s, 0, s))

end Sys2Proof.Machine
end

