-- ==== Sys2Proof/Machine/FwCmds.lean ====
section
/-! DEFINITION. Firmware: staging, activation component by component, and the SB hand-over (15 R476 to R481; 16 R485, R486; 18
R550). -/
namespace Sys2Proof.Machine

/-! ## FW_STAGE (R478) -/

def fwBusy (s : State) : Bool := s.fw.run.isSome || s.fw.staging.isSome

def stageCheck (well off len : Nat) (s : State) : Option Refuse :=
  firstOf [
    (len < 4096 || 2 ^ 28 < len, bad),
    (match s.named well with | some i => (s.well i).length < off + len | none => true, bad),
    (fwBusy s, conflict [s.mod.phase.code])]

/-- The bank that does not run holds no image any more (R478 Caution). -/
def Comp.overwritten (c : Comp) : Comp := if c.bank = 0 then { c with ver1 := 0, ok1 := false } else { c with ver0 := 0, ok0 := false }

/-- An image written into the bank that does not run. -/
def Comp.put (c : Comp) (v : BitVec 32) : Comp :=
  if v == 0 || v == c.active then c else if c.bank = 0 then { c with ver1 := v, ok1 := true } else { c with ver0 := v, ok0 := true }

def stageApply (well : Nat) (pkg : FwPackage) : Apply := fun wb s =>
  ([], well, s.modFw fun f => { f with comps := f.comps.map Comp.overwritten, staged := none, staging := some (wb, pkg) })

def execFwStage (h : CmdHdr) (well : BitVec 32) (offset length : BitVec 64) (pkg : FwPackage) (s : State) : Out :=
  done (s.mailbox h { opcode := 0x0900, roles := [.installer], async := true, object := well.toNat
                      segs := [.f 4 well.toNat, .r 4, .f 8 offset.toNat, .f 8 length.toNat] }
    (stageCheck well.toNat offset.toNat length.toNat) (stageApply well.toNat pkg))

/-- The package is read and checked: staged, or refused whole. -/
def State.stageEnd (s : State) (wb : Nat) (pkg : FwPackage) : State :=
  let s := s.modFw fun f => { f with staging := none }
  if !pkg.valid then s.ready wb .badArgument []
  else
    let vs := versionList pkg.versions
    let s := s.modFw fun f =>
      { f with comps := Vector.ofFn fun i => f.comps[i].put (vs.getD i.val 0), staged := some (⟨pkg.manifestSeq, pkg.combinations.take 64⟩, vs) }
    s.ready wb .ok (vs.flatMap fun v => le 4 v.toNat)

/-! ## FW_ACTIVATE (R478, R479) -/

/-- The manifest that an activation checks against. -/
def Fw.manifest (f : Fw) : Manifest := match f.staged with | some (m, _) => m | none => f.active

/-- The combination that INDEX or VERSIONS names. -/
def State.fwTarget (s : State) (index : Nat) (versions : Versions) : Option (List (BitVec 32)) :=
  if index == 0xFF then some (List.zipWith (fun v r => if v == 0 then r else v) (versionList versions) s.running)
  else (s.fw.manifest.combos[index]?).map versionList

/-- The components an activation changes, in order (R479). -/
def fwSteps (start target : List (BitVec 32)) : List Nat := [4, 3, 2, 1, 0].filter fun i => target.getD i 0 != start.getD i 0

/-- The combinations that run on the way, the target included. -/
def fwPath (target : List (BitVec 32)) : List (BitVec 32) → List Nat → List (List (BitVec 32))
  | _, [] => []
  | cur, i :: l => let cur := cur.set i (target.getD i 0); cur :: fwPath target cur l

/-- The image of a component's target is in its bank that does not run. -/
def Comp.holds (c : Comp) (v : BitVec 32) : Bool := if c.bank = 0 then c.ver1 == v && c.ok1 else c.ver0 == v && c.ok0

def activateCheck (index flags : Nat) (versions : Versions) (s : State) : Option Refuse :=
  match s.fwTarget index versions with
  | none => bad
  | some target =>
    let steps := fwSteps s.running target
    let path := fwPath target s.running steps
    let listed := fun c => s.fw.manifest.combos.any fun v => versionList v == c
    firstOf [
      (flags / 2 != 0, bad),
      (fwBusy s, conflict [s.mod.phase.code]),
      (!nbit flags 0 && !(listed target && path.all listed), refuse .versionMismatch),
      (s.isPaired && path.any fun c => sharedVersions (xoMask c) s.twin.twinVersions == 0, refuse .versionMismatch),
      (steps.any fun i => !(s.fw.comps.toList.getD i ⟨0, 0, 0, false, false⟩).holds (target.getD i 0), conflict [s.mod.phase.code]),
      (steps.contains 4 && s.converters < 4, conflict [s.mod.phase.code])]

/-- A pump leaves service for an update of its PM (08 R244). -/
def State.updatePump (s : State) (p : Nat) : State := (s.modPump p fun x => { x with updating := true }).requeue p true

/-- The turns a component takes (R480): its converters, stacks, links (stations, then crossover links) or pumps, one at a time. -/
def compTurns (i : Nat) : Nat :=
  match i with
  | 4 => 4
  | 3 => 24
  | 2 => 52
  | 1 => 16
  | _ => 1

/-- The turn of one converter, stack, link or pump begins (R480). A link is announced by an entry and a notice and retrains, with the
credits of 14 R435; a stack of an idle dormant die wakes (18 R560). Converters, stacks and pumps take their turns in ascending order
(DESIGN CHOICE, notes/assumptions/158). -/
def State.turnStart (s : State) (i k : Nat) : State :=
  match i with
  | 4 => s.modPwr fun p => { p with updating := true, conv := if p.conv.toList.getD k 0 == 1 then p.conv.setIfInBounds k 3 else p.conv }
  | 3 => if (s.quartersUsed (k / 6)).isEmpty then s else s.wakeDie (k / 6)
  | 2 => ((s.ownEntry 0x0901 k []).emit (.mgmt (.linkUpdate k))).modStn k fun t => if t.up && !t.recovery then t.toRecovery else t
  | 1 => s.updatePump k
  | _ => (s.modFw fun f => { f with handover := true, resetIn := [] }).ownEntry 0xFF03 0 []

/-- The turn ends: the link's retrain is over (14 R441), the pump's exchange area is zeroed (08 R224). -/
def State.turnEnd (s : State) (i k : Nat) : State :=
  match i with
  | 4 => s.modPwr fun p => { p with updating := false, conv := if p.conv.toList.getD k 0 == 3 then p.conv.setIfInBounds k 1 else p.conv }
  | 2 => s.modStn k fun t => if t.recovery then t.fromRecovery else t
  | 1 => (s.zeroExchange k).modPump k fun x => { x with updating := false }
  | _ => s

/-- The first turns of a component that had changed are taken back (R481). -/
def State.turnsBack (s : State) (i n : Nat) : State :=
  match i with
  | 2 => (List.range n).foldl (fun s k => (s.turnStart 2 k).turnEnd 2 k) s
  | 1 => (List.range n).foldl (fun s p => s.zeroExchange p) s
  | _ => s

/-- FW_FORCED's record, under the session of the command (19 R567, R576). -/
def State.auditForced (s : State) (wb : Nat) (target : List (BitVec 32)) : State :=
  match s.entryOf wb with
  | none => s
  | some e =>
    s.auditRec { seq := 0, time := 0, origin := 0, boot := 0, kind := 6, source := e.source, role := e.role.code, cred := e.cred, waybill := wb,
                 opcode := e.opcode, digest := e.digest, detail := BitVec.ofNat 192 (ofLe (target.flatMap fun v => le 4 v.toNat)) }

/-- The target runs: its manifest is active and the pair renegotiates (R479; 16 R485). -/
def State.fwEnd (s : State) (r : FwRun) : State :=
  let s := s.modFw fun f =>
    { f with run := none, forced := r.force, active := if r.fromStaged then f.manifest else f.active, staged := if r.fromStaged then none else f.staged }
  let s := if s.isPaired then (s.emit (.xo (.versions s.twin.localVersions))).negotiate else s
  (if r.force then s.auditForced r.wb r.target else s).ready r.wb .ok []

/-- The turn of the next component (R480), or the end. -/
def State.fwTurn (s : State) : State :=
  match s.fw.run with
  | none => s
  | some r => match r.todo with
    | [] => s.fwEnd r
    | i :: _ => s.turnStart i r.turn

def activateApply (index flags : Nat) (versions : Versions) : Apply := fun wb s =>
  let target := (s.fwTarget index versions).getD s.running
  let force := nbit flags 0
  let s := s.modEntry wb fun e => { e with forced := force }
  ([], 0, (s.modFw fun f => { f with run := some { wb := wb, todo := fwSteps s.running target, target := target, force := force
                                                   fromStaged := f.staged.isSome } }).fwTurn)

def execFwActivate (h : CmdHdr) (index flags : Byte) (versions : Versions) (s : State) : Out :=
  done (s.mailbox h { opcode := 0x0901, roles := if flags.getLsbD 0 then [.maker] else [.installer], async := true
                      segs := [.f 1 index.toNat, .f 1 flags.toNat, .r 6] ++ (versionList versions).map fun v => .f 4 v.toNat }
    (activateCheck index.toNat flags.toNat versions) (activateApply index.toNat flags.toNat versions))

/-! ## FW_MANIFEST_READ (R478) -/

def manifestReply (first count : Nat) (s : State) : List Byte :=
  let m := s.fw.manifest
  let vs := fun (l : List (BitVec 32)) => l.flatMap fun v => le 4 v.toNat
  let at_ := m.combos.findIdx fun v => versionList v == s.running
  le 4 m.seq.toNat ++ le 1 m.combos.length ++ le 1 (if at_ < m.combos.length then at_ else 0xFF) ++ le 1 (bit s.fw.forced) ++ zeros 1 ++ vs s.running ++
    (match s.fw.staged with | some (_, l) => pad 20 (vs l) | none => zeros 20) ++ zeros 8 ++
    (List.range count).flatMap fun i => match m.combos[first + i]? with | some v => vs (versionList v) | none => zeros 20

def execFwManifestRead (h : CmdHdr) (first count : Byte) (s : State) : Out :=
  done (s.mailbox h { opcode := 0x0902, segs := [.f 1 first.toNat, .f 1 count.toNat], roles := [.installer], query := true, recov := true }
    (fun _ => if count.toNat == 0 || 32 < count.toNat then bad else none) fun _ s => (manifestReply first.toNat count.toNat s, 0, s))

/-! ## A component's change ends (R480, R481) -/

def State.swapComp (s : State) (i : Nat) : State :=
  let f := fun (f : Fw) => if h : i < 5 then { f with comps := f.comps.set i f.comps[i].swap } else f
  let combo := (f s.fw).comps.toList.map Comp.active
  let mask := xoMask combo
  (s.modFw f).modTwin fun t => { t with localVersions := mask }

def State.compDone (s : State) (r : FwRun) (i : Nat) (rest : List Nat) : State :=
  let s := s.swapComp i
  (s.modFw fun f => { f with run := some { r with todo := rest, done := i :: r.done, turn := 0 } }).fwTurn

/-- A component that had changed returns to its previous bank (R481). -/
def State.compBack (s : State) (i : Nat) : State := (s.swapComp i).turnsBack i (compTurns i)

def State.fwFail (s : State) (r : FwRun) (i : Nat) : State :=
  let s := (s.turnEnd i r.turn).turnsBack i r.turn
  let s := r.done.foldl (fun s k => s.compBack k) s
  let s := s.record { source := 0x0704 }
  (s.modFw fun f => { f with run := none }).ready r.wb .internalError [BitVec.ofNat 8 i]

/-- One converter, stack, link or pump runs the new image, and the turn of the next one comes, or the component has changed (R480). -/
def State.turnDone (s : State) (r : FwRun) (i : Nat) (rest : List Nat) : State :=
  let s := s.turnEnd i r.turn
  if r.turn + 1 < compTurns i then (s.modFw fun f => { f with run := some { r with turn := r.turn + 1 } }).turnStart i (r.turn + 1)
  else s.compDone r i rest

def State.switched (s : State) (pass : Bool) : State :=
  match s.fw.run with
  | none => s
  | some r => match r.todo with
    | [] => s
    | i :: rest =>
      if i == 1 && ((s.pumpAt r.turn).job.isSome || (s.pumpAt r.turn).test.isSome) then s
      else if !pass then s.fwFail r i
      else s.turnDone r i rest

def execFwComponentSwitchDone (pass : Bool) (s : State) : Out := done (s.switched pass)

/-- The hand-over ends once the new SB has passed its self-test or the old one is back; the doorbells latched meanwhile are
processed in their order. -/
def State.handoverEnd (s : State) : State :=
  if match s.fw.run with | some r => r.todo.headD 9 == 0 | none => false then s else s.modFw fun f => { f with handover := false }

def execSbHandoverEnd (s : State) : Out := done s.handoverEnd

end Sys2Proof.Machine
end

