-- ==== Sys2Proof/Machine/SecCmds.lean ====
section
/-! DEFINITION. ROLE_AUTH, ROLE_DROP, KEY_SET and AUDIT_READ, and the completion of any asynchronous command (15 R454, R456,
R463; 19 R565 to R585). -/
namespace Sys2Proof.Machine

/-! ## ROLE_AUTH (R568 to R573) -/

def authCmd (phase role : Nat) (cred : BitVec 64) (sig : BitVec 768) : Cmd :=
  { opcode := 0x0A00, segs := [.f 1 phase, .f 1 role, .r 6, .f 8 cred.toNat, .f 96 sig.toNat], roles := anyRole, boot := true, recov := true
    respond := phase == 1 }

def roleOk (role : Nat) : Bool := 1 ≤ role && role ≤ 3

/-- A management mailbox's session is held by another sender (R573). -/
def State.heldByOther (s : State) (h : CmdHdr) : Bool :=
  match h.mbx with
  | .stn _ => false
  | m => (s.mb m).session != .none && (s.mb m).sender != h.sender

def State.lockedOut (s : State) (m : Mbx) : Bool := match (s.mb m).lockUntil with | some t => s.now < t | none => false

def challengeCheck (h : CmdHdr) (role : Nat) (sig : BitVec 768) (s : State) : Option Refuse :=
  firstOf [
    (!roleOk role || sig != 0, bad),
    (s.heldByOther h, conflict [(s.mb h.mbx).session.code])]

def challengeApply (m : Mbx) (role : Nat) (cred : BitVec 64) : Apply := fun _ s =>
  let (nonce, s) := s.random
  let c : Challenge := ⟨nonce, role, cred, s.now + 1000000000⟩
  (le 32 nonce.toNat ++ le 8 s.mod.serial.toNat ++ le 8 c.expires, 0, s.modMb m fun x => { x with challenge := some c })

def execRoleAuthChallenge (h : CmdHdr) (role : Byte) (credId : BitVec 64) (signature : BitVec 768) (s : State) : Out :=
  -- a lockout answers every CHALLENGE with NO_RIGHT, which R457 checks before all else but BUSY (R571)
  let c := authCmd 0 role.toNat credId signature
  done (s.mailbox h { c with roles := if s.lockedOut h.mbx then [] else anyRole } (challengeCheck h role.toNat signature) (challengeApply h.mbx role.toNat credId))

/-- The bytes that a signature is over (R570). -/
def authMessage (nonce : BitVec 256) (serial : BitVec 64) (source role : Nat) (cred : BitVec 64) : List Byte :=
  [0x48, 0x52, 0x41, 0x31] ++ le 32 nonce.toNat ++ le 8 serial.toNat ++ le 1 source ++ le 1 role ++ le 8 cred.toNat

def State.credSlot (s : State) (cred : BitVec 64) : Option (Nat × Cred) := s.sec.creds.find? fun x => x.2.id == cred

/-- The outcome of a RESPOND, coded as DETAIL of AUTH_FAIL has it; 0 opens the session (R571, R576). -/
def State.authVerdict (s : State) (h : CmdHdr) (role : Nat) (cred : BitVec 64) (sig : BitVec 768) : Nat :=
  match (s.mb h.mbx).challenge with
  | none => 4
  | some c =>
    if s.heldByOther h || c.expires ≤ s.now || c.role != role || c.cred != cred then 4
    else match s.credSlot cred with
      | none => 1
      | some (_, x) =>
        if !nbit x.roles (role - 1) then 2
        else if ecdsaOk x.key sig (authMessage c.nonce s.mod.serial (mbxSource h.mbx) role cred) then 0
        else 3

def respondCheck (h : CmdHdr) (role verdict : Nat) (s : State) : Option Refuse :=
  firstOf [
    (!roleOk role, bad),
    (verdict == 4, conflict [if s.heldByOther h then (s.mb h.mbx).session.code else s.mod.phase.code]),
    (verdict != 0, refuse .noRight)]

/-- The session opens in place of any other (R572, R576). -/
def respondApply (h : CmdHdr) (c : Cmd) (role : Nat) (cred : BitVec 64) : Apply := fun wb s =>
  let s := s.endSession h.mbx 2
  let slot := ((s.credSlot cred).map (·.1)).getD 0
  let s := s.modMb h.mbx fun x => { x with session := Role.ofCode role, cred := cred, credSlot := slot, sender := h.sender, lastUse := s.now }
  (le 1 role ++ zeros 7 ++ le 8 cred.toNat, 0, s.auditMbx h.mbx h.sender 3 wb c.opcode 0 (digestOf c h) role)

/-- A NO_RIGHT counts toward a lockout of 60 s (R571). -/
def State.authFailed (s : State) (h : CmdHdr) : State :=
  let l := s.now :: (s.mb h.mbx).failures.filter fun t => s.now ≤ t + 60000000000
  if l.length < 5 then s.modMb h.mbx fun x => { x with failures := l }
  else
    let s := s.modMb h.mbx fun x => { x with failures := [], lockUntil := some (s.now + 60000000000) }
    s.auditMbx h.mbx h.sender 7 0 0 0 0 0

/-- A RESPOND that passes the checks before its own, and its payload check, consumes the challenge; a failure is recorded
before its reply (R571, R576). -/
def State.roleRespond (s : State) (h : CmdHdr) (role : Nat) (cred : BitVec 64) (sig : BitVec 768) : State :=
  let c := authCmd 1 role cred sig
  let judged := s.reaches h.mbx && (s.refusal h c fun _ => if roleOk role then none else bad).isNone
  let v := if judged then s.authVerdict h role cred sig else 0
  let own := respondCheck h role v
  let s := if judged then s.modMb h.mbx fun x => { x with challenge := none } else s
  let s := if v == 0 then s
    else s.auditMbx h.mbx h.sender 4 0 c.opcode (if v == 4 then Status.code .stateConflict else Status.code .noRight) (digestOf c h) v (some cred)
  let s := s.mailbox h c own (respondApply h c role cred)
  if v == 0 || v == 4 then s else s.authFailed h

def execRoleAuthRespond (h : CmdHdr) (role : Byte) (credId : BitVec 64) (signature : BitVec 768) (s : State) : Out :=
  done (s.roleRespond h role.toNat credId signature)

def execRoleDrop (h : CmdHdr) (s : State) : Out :=
  done (s.mailbox h { opcode := 0x0A01, roles := anyRole, boot := true, recov := true, sessionOnly := true }
    (fun s => if s.role h.mbx h.sender == .none then conflict [0] else none)
    fun _ s => ([], 0, s.endSession h.mbx 1))

/-! ## KEY_SET (R581 to R585) -/

def keyCmd (op : Nat) (p : KeyPay) : Cmd :=
  { opcode := 0x0A02, roles := [.installer], async := op == 1, object := p.slot.toNat
    segs := [.f 1 op, .f 1 p.roles.toNat, .f 2 p.slot.toNat, .f 4 p.well.toNat, .f 1 p.station.toNat, .r 1, .f 2 p.context.toNat, .r 4,
             .f 8 p.credId.toNat, .r 8, .f 48 p.peer.toNat, .f 96 p.pubkey.toNat] }

/-- The fields of an operation that has no use for them: all but ROLES, CRED_ID and PUBKEY for CRED_SET, all but STATION,
CONTEXT and PEER for KEY_GENERATE, all but WELL for KEY_BIND. -/
def keyUnused (op : Nat) (p : KeyPay) : Bool :=
  (op == 3 || (p.roles == 0 && p.credId == 0 && p.pubkey == 0)) && (op == 0 || (p.station == 0 && p.context == 0 && p.peer == 0)) &&
    (op == 1 || p.well == 0xFFFFFFFF)

def KeySlot.holds (x : KeySlot) (i : Nat) : Bool := x.wells.contains i || x.binding.any fun b => b.1 == i

def State.keyState (s : State) (k : Nat) : Nat := bit (tget s.sec.keys k).isSome

def keyGenerateCheck (p : KeyPay) (s : State) : Option Refuse :=
  firstOf [
    (!keyUnused 0 p || 4096 ≤ p.slot.toNat || 48 ≤ p.station.toNat || (4096 ≤ p.context.toNat && p.context != 0xFFFF), bad),
    (s.keyState p.slot.toNat == 1, conflict [1])]

def keyGenerateApply (p : KeyPay) : Apply := fun _ s =>
  let (a, s) := s.random
  let (b, s) := s.random
  let x : KeySlot := { keys := a ++ b, station := p.station.toNat, context := p.context.toNat, peer := p.peer }
  ([], p.slot.toNat, s.modSec fun y => { y with keys := tset y.keys p.slot.toNat x })

def execKeyGenerate (h : CmdHdr) (p : KeyPay) (s : State) : Out := done (s.mailbox h (keyCmd 0 p) (keyGenerateCheck p) (keyGenerateApply p))

/-- A range entry of a context here names the well. -/
def State.inRanges (s : State) (i : Nat) : Bool := s.xl.ctxs.any fun (_, c) => c.ranges.any fun (_, r) => r.names i

/-- The well cannot be bound to a slot. -/
def State.bindBars (s : State) (i : Nat) : Bool :=
  let w := s.well i
  w.st != .live || w.coh || (s.slots.any fun (_, x) => x.holds i) || !w.grants.isEmpty || s.inRanges i ||
    (s.jobs.plats.any fun (_, x) => x.st != .free && s.ringIdx x == some i) || s.pfx.nss.any fun (_, x) => x.st != .free && s.named x.store == some i

def keyBindCheck (p : KeyPay) (s : State) : Option Refuse :=
  match s.named p.well.toNat with
  | none => bad
  | some i =>
    let st := s.keyState p.slot.toNat
    firstOf [
      (!keyUnused 1 p || 4096 ≤ p.slot.toNat, bad),
      (st == 0 || s.bindBars i, conflict [st, (s.well i).st.code])]

def keyBindApply (p : KeyPay) : Apply := fun wb s =>
  let i := (s.named p.well.toNat).getD 0
  let s := s.modSec fun y => { y with keys := tmod y.keys p.slot.toNat fun x => { x with binding := x.binding ++ [(i, wb)] } }
  ([], p.slot.toNat, if (s.well i).mirror.isSome then s.relay wb 0x0A02 else s)

def execKeyBind (h : CmdHdr) (p : KeyPay) (s : State) : Out := done (s.mailbox h (keyCmd 1 p) (keyBindCheck p) (keyBindApply p))

/-- Every line is rewritten as encrypted zeros: the well reads zero, and its slot's key goes to a twin that holds a copy. -/
def State.bindEnd (s : State) (wb : Nat) : State :=
  match s.sec.keys.findSome? fun (k, x) => (x.binding.find? fun b => b.2 == wb).map fun b => (k, b.1) with
  | none => s
  | some (k, i) =>
    let s := s.zeroWell i
    let s := s.modSec fun y => { y with keys := tmod y.keys k fun x => { x with binding := x.binding.filter (·.2 != wb), wells := x.wells ++ [i] } }
    let s := match tget s.sec.keys k with | some x => s.sendKey k x | none => s
    s.ready wb .ok []

def keyEraseCheck (p : KeyPay) (s : State) : Option Refuse :=
  firstOf [
    (!keyUnused 2 p || 4096 ≤ p.slot.toNat, bad),
    (match tget s.sec.keys p.slot.toNat with | some x => !(x.wells.isEmpty && x.binding.isEmpty) | none => false, conflict [1])]

def execKeyErase (h : CmdHdr) (p : KeyPay) (s : State) : Out :=
  done (s.mailbox h (keyCmd 2 p) (keyEraseCheck p)
    fun _ s => ([], p.slot.toNat, s.modSec fun y => { y with keys := tdel y.keys p.slot.toNat }))

def credSlotOk (p : KeyPay) : Bool := 1 ≤ p.slot.toNat && p.slot.toNat ≤ 63

def State.credState (s : State) (k : Nat) : Nat := bit (tget s.sec.creds k).isSome

def credSetCheck (p : KeyPay) (s : State) : Option Refuse :=
  let (x, y) := keyXY p.pubkey
  let st := s.credState p.slot.toNat
  firstOf [
    (!keyUnused 3 p || !credSlotOk p || 3 < p.roles.toNat || p.credId == 0 || !onCurve x y, bad),
    (st == 1 || (s.credSlot p.credId).isSome, conflict [st])]

def execCredSet (h : CmdHdr) (p : KeyPay) (s : State) : Out :=
  done (s.mailbox h (keyCmd 3 p) (credSetCheck p)
    fun _ s => ([], p.slot.toNat, s.modSec fun y => { y with creds := tset y.creds p.slot.toNat ⟨p.roles.toNat, p.credId, p.pubkey⟩ }))

def credEraseCheck (p : KeyPay) (s : State) : Option Refuse :=
  firstOf [
    (!keyUnused 4 p || !credSlotOk p, bad),
    (s.credState p.slot.toNat == 0, conflict [0])]

/-- Every session that a slot's credential opened ends (R573). -/
def State.endCred (s : State) (slot : Nat) : State :=
  allMbx.foldl (fun s m => if (s.mb m).session != .none && (s.mb m).credSlot == slot then s.endSession m 4 else s) s

/-- The sessions end after the reply (R585). -/
def execCredErase (h : CmdHdr) (p : KeyPay) (s : State) : Out :=
  let taken := s.reaches h.mbx && (s.refusal h (keyCmd 4 p) (credEraseCheck p)).isNone
  let s := s.mailbox h (keyCmd 4 p) (credEraseCheck p)
    fun _ s => ([], p.slot.toNat, s.modSec fun y => { y with creds := tdel y.creds p.slot.toNat })
  done (if taken then s.endCred p.slot.toNat else s)

/-! ## AUDIT_READ (R578) -/

def auditReply (ring count frm : Nat) (s : State) : List Byte :=
  let all := (if ring == 0 then s.sec.own else s.sec.twin).reverse
  let first := if ring == 0 then max frm (match all with | a :: _ => a.seq | [] => 0) else frm
  let l := (if ring == 0 then all.filter fun a => first ≤ a.seq else all.drop frm).take count
  le 8 first ++ le 1 l.length ++ zeros 7 ++ l.flatMap Audit.enc

def execAuditRead (h : CmdHdr) (ring count : Byte) (frm : BitVec 64) (s : State) : Out :=
  done (s.mailbox h { opcode := 0x0A03, segs := [.f 1 ring.toNat, .f 1 count.toNat, .r 6, .f 8 frm.toNat], roles := [.operator, .installer, .maker]
                      query := true, recov := true }
    (fun _ => if 1 < ring.toNat || count.toNat == 0 || 7 < count.toNat then bad else none)
    fun _ s => (auditReply ring.toNat count.toNat frm.toNat s, 0, s))

/-! ## Completions (15 R454, R456, R463) -/

/-- The completion of an asynchronous command whose work has ended is written; an SB that is handing over writes none. The
work of FW_STAGE and KEY_BIND ends at this moment (notes/assumptions/28). -/
def State.asyncEnd (s : State) (wb : Nat) : State :=
  if s.fw.handover then s
  else
    let s := match s.fw.staging with | some (w, pkg) => if w == wb then s.stageEnd wb pkg else s | none => s
    let s := s.bindEnd wb
    match s.mbx.asyncs.find? fun a => a.wb == wb with
    | some a => match a.ready with
      | some (st, result) => s.completeAsync a st result
      | none => s
    | none => s

def execAsyncCommandComplete (waybill : BitVec 64) (s : State) : Out := done (s.asyncEnd waybill.toNat)

end Sys2Proof.Machine
end

