-- ==== Sys2Proof/Machine/ServiceCmds.lean ====
section
/-! DEFINITION. MODULE_DRAIN, SPARE_ACTIVATE, FACTORY_TEST_ENTER and FAULT_INJECT (17 R540, R541; 20 R604 to R608). -/
namespace Sys2Proof.Machine

/-! ## MODULE_DRAIN (20 R604) -/

def moduleDrainCmd (mode flags : Nat) : Cmd :=
  { opcode := 0x0B00, segs := [.f 1 mode, .f 1 flags, .r 6], roles := [.installer], async := true, recov := true }

/-- What a drain would lose: a SINGLE well, or a MIRRORED well without an IN_STEP copy on the twin. -/
def State.drainLoses (s : State) : Bool :=
  s.pool.wells.any fun (_, w) => w.st != .free && (w.mirror.isNone || w.mirSt != some .sync || !s.isPaired)

def phaseConflict (s : State) : Option Refuse := conflict [s.mod.phase.code]

def moduleDrainCheck (phases : List Phase) (flags : Nat) (s : State) : Option Refuse :=
  firstOf [
    (flags / 2 != 0, bad),
    (!phases.contains s.mod.phase || s.mod.drain.isSome || s.pwr.powerDown, phaseConflict s),
    (s.mod.phase == .service && !nbit flags 0 && s.drainLoses, phaseConflict s)]

def execModuleDrain (h : CmdHdr) (flags : Byte) (s : State) : Out :=
  done (s.mailbox h (moduleDrainCmd 0 flags.toNat) (moduleDrainCheck [.service] flags.toNat) fun wb s => ([], 0, s.drainBegin wb false))

def execModuleDrainOff (h : CmdHdr) (flags : Byte) (s : State) : Out :=
  done (s.mailbox h (moduleDrainCmd 1 flags.toNat) (moduleDrainCheck [.service, .drained, .recovery] flags.toNat)
    fun wb s => ([], 0, s.drainBegin wb true))

/-- The module asks a present twin of the recorded serial number to pair (16 R490). -/
def State.askPair (s : State) : State :=
  if s.twin.recorded != 0 && s.twin.st == .unpaired && s.twin.present && !s.xoUp.isEmpty && s.mod.phase == .service then
    s.emit (.xo (.mail 0 0x0600))
  else s

def moduleResumeCheck (flags : Nat) (s : State) : Option Refuse :=
  firstOf [
    (flags / 2 != 0, bad),
    (s.mod.phase != .drained || s.flt.replaceFlag || s.mod.drain.isSome || s.pwr.powerDown, phaseConflict s)]

def moduleResumeApply : Apply := fun wb s =>
  -- until a pair is formed the module serves its MIRRORED wells as any that is unpaired (16 R510)
  let s := if s.isPaired then s else s.mirrored.foldl (fun s i => s.modMirror i fun m => { m with primary := true, st := .degraded }) s
  ([], 0, ((s.memoryActive true).modMod fun m => { m with phase := .service }).askPair.ready wb .ok [])

def execModuleDrainResume (h : CmdHdr) (flags : Byte) (s : State) : Out :=
  done (s.mailbox h (moduleDrainCmd 2 flags.toNat) (moduleResumeCheck flags.toNat) moduleResumeApply)

def emptyCheck (flags : Nat) (s : State) : Option Refuse :=
  firstOf [
    (flags / 2 != 0, bad),
    (s.mod.phase != .recovery || !s.mod.metaBad || s.mod.otherBad || s.mod.drain.isSome || s.pwr.powerDown, phaseConflict s)]

/-- An empty log, which keeps the audit records; bring-up goes on from the metadata step. -/
def emptyApply : Apply := fun wb s =>
  ([], 0, (s.modMod fun m => { m with mlog := { audit := m.mlog.audit }, phase := .bringUp, stage := .trained, metaBad := false }).ready wb .ok [])

def execModuleDrainEmpty (h : CmdHdr) (flags : Byte) (s : State) : Out :=
  done (s.mailbox h (moduleDrainCmd 3 flags.toNat) (emptyCheck flags.toNat) emptyApply)

/-! ## SPARE_ACTIVATE (20 R607, R608) -/

/-- The newest verdict of a row, or 0xFF. -/
def State.rowVerdict (s : State) (stack loc : Nat) : Nat :=
  match s.flt.history.find? fun e => e.unitKind == 2 && e.unit == stack && e.location.toNat == loc with
  | some e => e.verdict
  | none => 0xFF

/-- The rows a command spares: permanent, and not being spared already. -/
def State.spareRows (s : State) (stack mode loc : Nat) : List Nat :=
  let rows := (s.permRows stack).filter fun r => !s.mod.spares.any fun x => x.stack == stack && x.span == spanOf r && !x.done
  if mode == 0 then rows.filter (· == loc) else rows

def spareCheck (stack mode loc : Nat) (s : State) : Option Refuse :=
  firstOf [
    (24 ≤ stack || 1 < mode || (mode == 1 && loc != 0), bad),
    (mode == 0 && (s.spareRows stack mode loc).isEmpty, conflict [s.rowVerdict stack loc]),
    (s.spansLeft (stack / 6) < ((s.spareRows stack mode loc).map spanOf).eraseDups.length, refuse .noResource)]

/-- Each span that holds a named row is copied, in service and in factory test mode; in bring-up, drain and recovery the sparing is applied at the
next stack training. -/
def spareApply (stack mode loc : Nat) : Apply := fun wb s =>
  let rows := s.spareRows stack mode loc
  let s := s.wakeDie (stack / 6)
  let s := s.modMod fun m =>
    { m with spares := m.spares ++ (rows.map spanOf).eraseDups.map fun x => { stack := stack, span := x, wb := some wb, rows := (rows.filter (spanOf · == x)).length } }
  if (s.mod.phase == .service || s.mod.phase == .factory) && s.mod.drain.isNone then ([], stack, s.spareEnd wb stack)
  else
    let n := rows.length
    let s := s.modMod fun m => { m with spares := m.spares.map fun x => if x.wb == some wb then { x with wb := none } else x }
    ([], stack, s.ready wb .ok (le 2 n ++ le 2 (s.spansLeft (stack / 6))))

def execSpareActivate (h : CmdHdr) (stack mode : Byte) (location : BitVec 64) (s : State) : Out :=
  done (s.mailbox h { opcode := 0x0B01, segs := [.f 1 stack.toNat, .f 1 mode.toNat, .r 6, .f 8 location.toNat], roles := [.installer], async := true
                      object := stack.toNat }
    (spareCheck stack.toNat mode.toNat location.toNat) (spareApply stack.toNat mode.toNat location.toNat))

/-- A span is applied: its rows are spared. -/
def State.spanDone (s : State) (x : Spare) : State :=
  let s := ((s.permRows x.stack).filter fun r => spanOf r == x.span).foldl (fun s r => s.sparedRow x.stack r) s
  s.modMod fun m => { m with spares := m.spares.map fun y => if y == x then { y with done := true } else y }

/-- The next span of a running SPARE_ACTIVATE is copied. -/
def State.spareCopied (s : State) : State :=
  match s.mod.spares.find? fun x => x.wb.isSome && !x.done with
  | none => s
  | some x => (s.spanDone x).spareEnd (x.wb.getD 0) x.stack

def execSpareSpanCopyDone (s : State) : Out := done s.spareCopied

/-! ## FACTORY_TEST_ENTER (17 R540) -/

def factoryCheck (serial : BitVec 64) (s : State) : Option Refuse :=
  firstOf [
    (serial != s.mod.serial, bad),
    (s.isPaired || s.gapNow || s.pool.wells.any (fun (_, w) => !w.grants.isEmpty), conflict [s.mod.phase.code, s.pairCode])]

/-- The command completes: factory test mode begins. -/
def State.factoryEnd (s : State) : State := (s.memoryActive false).modMod fun m => { m with phase := .factory }

def execFactoryTestEnter (h : CmdHdr) (serial : BitVec 64) (s : State) : Out :=
  done (s.mailbox h { opcode := 0x0B02, segs := [.f 8 serial.toNat, .r 8], roles := [.maker], async := true } (factoryCheck serial)
    fun wb s => ([], 0, s.factoryEnd.ready wb .ok []))

/-! ## FAULT_INJECT (17 R541) -/

def injectCmd (op : Nat) (p : InjectPay) : Cmd :=
  { opcode := 0x0B03, roles := [.maker], factory := true
    segs := [.f 1 op, .f 1 p.unitKind.toNat, .f 1 p.unit.toNat, .f 1 p.count.toNat, .f 2 p.source.toNat, .r 2, .f 8 p.address.toNat] }

/-- Every operation's own check follows those of COUNT and of UNIT_KIND, which lists the kinds of 17 R519 and, for CLEAR_HISTORY alone,
0xFF (00 R11). -/
def injectCheck (op : Nat) (p : InjectPay) (ok : State → Bool) (s : State) : Option Refuse :=
  if p.count == 0 || !(p.unitKind.toNat ≤ 0xA || (op == 0xF && p.unitKind == 0xFF)) || !ok s then bad else none

def State.inject (s : State) (h : CmdHdr) (op : Nat) (p : InjectPay) (ok : State → Bool) (f : State → State) : State :=
  s.mailbox h (injectCmd op p) (injectCheck op p ok) fun _ s => ([], 0, f s)

/-- The units of a kind (17 R519). -/
def unitsOf (kind : Nat) : Nat :=
  match kind with
  | 1 => 4
  | 2 => 24
  | 3 => 16
  | 4 => 48
  | 5 => 4
  | 6 => 6
  | 7 => 4
  | 0 | 8 | 9 | 10 => 1
  | _ => 0

/-- Sources that report a judgement of permanence. -/
def permSource (code : Nat) : Bool := [0x0103, 0x0104, 0x0302, 0x0409, 0x0502].contains code

def raiseOk (p : InjectPay) : Bool :=
  match sourceOf p.source.toNat with
  | some x => x.kind == p.unitKind.toNat && p.unit.toNat < unitsOf x.kind
  | none => false

def State.raise (s : State) (p : InjectPay) : State :=
  let a := p.address.toNat
  let k := p.unitKind.toNat
  let s := s.record { source := p.source.toNat, unit := p.unit.toNat, object := if k == 8 || k == 9 then a else 0, address := a, injected := true
                      permanent := permSource p.source.toNat, direct := true }
  if p.source == 0x0103 then s.judgeStack p.unit.toNat else s

def execInjectRaise (h : CmdHdr) (p : InjectPay) (s : State) : Out := done (s.inject h 0 p (fun _ => raiseOk p) fun s => s.raise p)

/-- A line that a stack stores. -/
def storedLine (a : Nat) (s : State) : Bool := (s.homeOf (lineOf a)).isSome

/-- Symbols of a stored line flipped. -/
def State.flip (s : State) (a k : Nat) : State :=
  let a := lineOf a
  let old := match s.upsetOf a with | some (n, _) => n | none => 0
  { s with upsets := s.upsets.filter (·.1 != a) ++ [(a, old + k, true)] }

def execInjectFlip1 (h : CmdHdr) (p : InjectPay) (s : State) : Out :=
  done (s.inject h 1 p (storedLine p.address.toNat) fun s => s.flip p.address.toNat 1)

def execInjectFlip2 (h : CmdHdr) (p : InjectPay) (s : State) : Out :=
  done (s.inject h 2 p (storedLine p.address.toNat) fun s => s.flip p.address.toNat 2)

def execInjectPoison (h : CmdHdr) (p : InjectPay) (s : State) : Out :=
  done (s.inject h 3 p (storedLine p.address.toNat) fun s => s.poisonLine (lineOf p.address.toNat) 5)

def execInjectParity (h : CmdHdr) (p : InjectPay) (s : State) : Out :=
  done (s.inject h 4 p (fun _ => p.unit.toNat < 16) fun s => s.modPump p.unit.toNat fun x => { x with parityInj := p.count.toNat })

def execInjectChecksum (h : CmdHdr) (p : InjectPay) (s : State) : Out :=
  done (s.inject h 5 p (fun _ => p.unit.toNat < 16) fun s => s.modPump p.unit.toNat fun x => { x with csumInj := p.count.toNat })

/-- A link by its number: stations, then crossover links. -/
def linkNo (kind unit : Nat) : Nat := if kind == 5 then 48 + unit else unit

def execInjectLinkCrc (h : CmdHdr) (p : InjectPay) (s : State) : Out :=
  done (s.inject h 6 p (fun _ => if p.unitKind == 5 then p.unit.toNat < 4 else p.unit.toNat < 48)
    fun s => s.modFlt fun f => { f with linkCrc := tset f.linkCrc (linkNo p.unitKind.toNat p.unit.toNat) p.count.toNat })

/-- The history of a unit, or of all, is cleared, with the replacement flag; pumps judged through injection rejoin with their
exchange areas as they stand (08 R249; DESIGN CHOICE, notes/assumptions/180). -/
def State.clearHistory (s : State) (kind unit : Nat) : State :=
  let hit := fun k u => kind == 0xFF || (k == kind && u == unit)
  let s := s.modFlt fun f =>
    { f with history := f.history.map (fun e => if hit e.unitKind e.unit then { e with verdict := 4 } else e), replaceFlag := false, flaggedAt := none }
  (List.range 16).foldl (fun s p => if hit 3 p then s.modPump p fun x => { x with permanent := if x.permanent == some true then none else x.permanent } else s) s

def execInjectClearHistory (h : CmdHdr) (p : InjectPay) (s : State) : Out :=
  done (s.inject h 0xF p (fun _ => p.unitKind == 0xFF || p.unit.toNat < unitsOf p.unitKind.toNat) fun s => s.clearHistory p.unitKind.toNat p.unit.toNat)

end Sys2Proof.Machine
end

