-- ==== Sys2Proof/Machine/SecEvents.lean ====
section
/-! DEFINITION. Events of sessions, of link encryption and of attestation, and the audit records a twin sends (19 R569, R571,
R573, R576, R577, R584, R586 to R588). -/
namespace Sys2Proof.Machine

/-! ## Sessions (R569, R571, R573) -/

def State.challengeGone (s : State) (m : Mbx) : State :=
  match (s.mb m).challenge with
  | some c => (s.until c.expires).modMb m fun x => { x with challenge := none }
  | none => s

def execChallengeExpire (m : Mbx) (s : State) : Out := done (s.challengeGone m)

def State.lockoutEnd (s : State) (m : Mbx) : State :=
  match (s.mb m).lockUntil with
  | some t => (s.until t).modMb m fun x => { x with lockUntil := none }
  | none => s

def execAuthLockoutEnd (m : Mbx) (s : State) : Out := done (s.lockoutEnd m)

/-- A management session ends after 900 s without a command from its sender. -/
def State.sessionIdle (s : State) (m : Mbx) : State :=
  match m with
  | .stn _ => s
  | m => if (s.mb m).session == .none then s else (s.until ((s.mb m).lastUse + 900000000000)).endSession m 5

def execMgmtSessionIdle (m : Mbx) (s : State) : Out := done (s.sessionIdle m)

/-! ## IDE and SPDM (R576, R584, R586, R587) -/

def portNo : SpdmPort → Nat
  | .stn n => n.val
  | .i3c => 48

def State.portUp (s : State) (p : SpdmPort) : Bool :=
  s.answers && (match p with | .stn n => (s.stnAt n.val).up | .i3c => true)

/-- A secured session of a port; its requester's digest is recorded. -/
def State.spdmOpen (s : State) (p : SpdmPort) (peer : BitVec 384) : State :=
  let n := portNo p
  let s := s.modSec fun x => { x with spdm := tset x.spdm n (tgetD x.spdm n [] ++ [(x.nextSpdm, peer)]), nextSpdm := x.nextSpdm + 1 }
  let s := s.modStn n fun t => { t with spdm := true }
  s.auditOwn 9 (spdmDetail n 1 peer)

/-- A stream is over: the grants that rest on the CXL.cachemem stream are revoked (R584). -/
def State.ideOver (s : State) (n : Nat) (k : IdeKind) (how : Nat) : State :=
  if !(s.stnAt n).hasIde k then s
  else
    let s := s.ideEnded n k how
    match k with
    | .cxl => s.revokeIde n
    | .pcie _ => s

/-- The keys of the CXL.cachemem stream come from that session (R583, R584). -/
def State.keyedBy (s : State) (n : Nat) (x : Nat × BitVec 384) : State := s.modStn n fun t => { t with idePeer := x.2, ideSession := x.1 }

/-- An IDE stream keyed over a session, in 256-byte Flit mode where it protects CXL.cachemem; an earlier stream of its kind ends with it
(R584, R586). -/
def State.ideOpen (s : State) (n : Nat) (k : IdeKind) (contain : Bool) (x : Nat × BitVec 384) : State :=
  if (s.stnAt n).flit == 0 then s
  else
    let s := s.ideOver n k 2
    let s := match k with
      | .cxl => (s.modStn n fun t => { t with ide := true, ideContain := contain }).keyedBy n x
      | .pcie i => s.modStn n fun t => { t with pcieIde := t.pcieIde ++ [i] }
    s.auditOwn 8 (n + 256 * 1)

/-- New keys for a stream that runs on, without loss of traffic (R586). Over a session of another requester they are no longer keys of the host
whose digest the grants rest on, which end as R584 has it (DESIGN CHOICE, notes/assumptions/195). -/
def State.ideRefresh (s : State) (n : Nat) (k : IdeKind) (x : Nat × BitVec 384) : State :=
  if !(s.stnAt n).hasIde k || k != .cxl then s
  else
    let s := if (s.stnAt n).idePeer == x.2 then s else s.revokeIde n
    s.keyedBy n x

/-- A session is established where the port has fewer than four (R587), and a stream is keyed over it or over one that is open (R586). -/
def State.spdmEstablish (s : State) (p : SpdmPort) (what : SpdmOpen) (peer : BitVec 384) : State :=
  let l := tgetD s.sec.spdm (portNo p) []
  let new := fun (s : State) => if 4 ≤ l.length then s else s.spdmOpen p peer
  if !s.portUp p then s
  else match what, p with
    | .session, _ => new s
    | .keyed k c, .stn n => if 4 ≤ l.length then s else (new s).ideOpen n.val k c (s.sec.nextSpdm, peer)
    | .keyed .., .i3c => new s
    | .stream k c o, .stn n => match l[o.val]? with | some x => s.ideOpen n.val k c x | none => s
    | .refresh k o, .stn n => match l[o.val]? with | some x => s.ideRefresh n.val k x | none => s
    | .stream .., .i3c | .refresh .., .i3c => s

def execSpdmSessionEstablish (port : SpdmPort) (what : SpdmOpen) (peer : BitVec 384) (s : State) : Out := done (s.spdmEstablish port what peer)

/-- A secured session of a port ends: of a station, with the grants that rest on the stream keyed over it (R584). -/
def State.spdmClose (s : State) (p : SpdmPort) (k : Nat) : State :=
  let n := portNo p
  let l := tgetD s.sec.spdm n []
  match l[k]? with
  | none => s
  | some (id, peer) =>
    let l := l.eraseIdx k
    let s := s.modSec fun x => { x with spdm := if l.isEmpty then tdel x.spdm n else tset x.spdm n l }
    let s := (s.modStn n fun t => { t with spdm := !l.isEmpty }).auditOwn 9 (spdmDetail n 2 peer)
    match p with
    | .stn n => if (s.stnAt n.val).ide && (s.stnAt n.val).ideSession == id then s.revokeIde n.val else s
    | .i3c => s

/-- An IDE stream or an SPDM session ends (R576, R584). -/
def State.linkEnd (s : State) (x : SecLink) : State :=
  match x with
  | .session p k => s.spdmClose p k.val
  | .stream n k => s.ideOver n.val k 2

def execIdeStreamEnd (link : SecLink) (s : State) : Out := done (s.linkEnd link)

/-- A failed integrity check ends the stream and raises IDE_FAIL (R584, R586). -/
def State.ideFail (s : State) (n : Nat) (k : IdeKind) : State :=
  if (s.stnAt n).hasIde k then (s.ideOver n k 3).record { source := 0x0408, unit := n } else s

def execIdeIntegrityFail (stream : Station × IdeKind) (s : State) : Out := done (s.ideFail stream.1.val stream.2)

/-! ## What SPDM answers (R587, R588) -/

def spdmCaps : List SpdmCap := [.cert, .chal, .meas, .keyEx, .encrypt, .mac, .mutAuth, .hbeat, .keyUpd, .chunk]

/-- Versions 1.0, 1.1 and 1.2. -/
def spdmVersions : List Nat := [0x10, 0x11, 0x12]

def spdmAlgs : List SpdmAlg := [.ecdsaP384, .sha384, .secp384r1, .aes256Gcm, .dmtf]

/-- Slot 0 holds the chain from the maker's root to the DeviceID certificate; the others are empty. -/
def State.certChain (s : State) (slot : Nat) : List SpdmCert := if slot == 0 then [.root, .productCa, .deviceId s.mod.serial] else []

/-- A digest over content whose byte form the spec does not give: it depends on the content alone. -/
def measured (kind : Nat) (content : List Byte) : List Byte := le 48 (Config.freeBits (kind + 16 * ofLe (content ++ [1]))).toNat

def manifestContent (m : Manifest) : List Byte := le 4 m.seq.toNat ++ m.combos.flatMap fun v => (versionList v).flatMap fun x => le 4 x.toNat

def Policy.bytes (p : Policy) : List Byte := le 1 p.react.rank ++ le 1 (bit p.pin + 2 * bit p.esc) ++ le 4 p.threshold ++ le 4 p.windowS

/-- The credentials, key bindings, FORCED flag and policies of block 8; a source whose policy is not stored counts with its default (17 R520). -/
def State.configContent (s : State) : List Byte :=
  (s.sec.creds.flatMap fun (k, c) => le 1 k ++ le 8 c.id.toNat ++ le 1 c.roles ++ le 96 c.key.toNat) ++
  (s.sec.keys.flatMap fun (k, x) => le 2 k ++ le 1 x.station ++ le 2 x.context ++ le 48 x.peer.toNat) ++ le 1 (bit s.fw.forced) ++
  (sources.flatMap fun x => le 2 x.code ++ (s.policy x).bytes) ++
  le 4 (s.flt.drainDelay.getD 0xFFFFFFFF) ++ le 1 (bit s.flt.katEn + 2 * bit s.flt.scrubEn) ++ le 2 s.flt.intervalS ++ le 2 s.flt.maxOutUs ++ le 2 s.flt.scrubH

/-- The measurement blocks, 1 to 10. -/
def State.measurement (s : State) (i : Nat) : Option MeasBlock :=
  if i == 1 then some ⟨1, .immutableRom, false, measured 1 []⟩
  else if 2 ≤ i && i ≤ 6 then some ⟨i, .mutableFirmware, false, measured i (le 4 (s.running.getD (i - 2) 0).toNat)⟩
  else if i == 7 then some ⟨7, .freeformManifest, false, measured 7 (manifestContent s.fw.active)⟩
  else if i == 8 then some ⟨8, .firmwareConfig, false, measured 8 s.configContent⟩
  else if i == 9 then some ⟨9, .deviceMode, true,
    [2] ++ le 1 s.mod.phase.code ++ le 4 s.idState ++ le 1 (bit s.flt.replaceFlag) ++ le 4 s.mod.boot ++ le 8 s.mod.serial.toNat⟩
  else if i == 10 then some ⟨10, .firmwareConfig, true, match s.sec.own with | a :: _ => le 8 a.seq ++ le 16 a.chain.toNat | [] => zeros 24⟩
  else none

/-- Index 0xFF asks for every block, and 0 for their number. -/
def State.measurements (s : State) (i : Nat) : SpdmAnswer :=
  if i == 0 then .count 10
  else .blocks (if i == 0xFF then (List.range 10).filterMap fun k => s.measurement (k + 1) else (s.measurement i).toList)

def State.spdmAnswer (s : State) : SpdmAsk → SpdmAnswer
  | .version => .versions spdmVersions
  | .capabilities => .capabilities spdmCaps
  | .algorithms => .algorithms spdmAlgs
  | .certificate slot => .chain (s.certChain slot.val)
  | .measurements i => s.measurements i.toNat

def execSpdmRequest (port : SpdmPort) (ask : SpdmAsk) (s : State) : Out :=
  done (if s.portUp port then s.emit (.spdm port (s.spdmAnswer ask)) else s)

/-! ## The twin ring (R577) -/

def auditIn (r : AuditWords) : Audit :=
  { seq := r.seq.toNat, time := r.time.toNat, origin := r.origin, boot := r.boot.toNat, kind := r.kind.toNat, source := r.source.toNat
    role := r.role.toNat, cred := r.credId, waybill := r.waybill.toNat, opcode := r.opcode.toNat, status := r.status.toNat, digest := r.digest
    detail := r.detail, chain := r.chain }

def execAuditRecordReceive (r : AuditWords) (s : State) : Out :=
  done (if s.isPaired then s.modSec fun x => { x with twin := auditIn r :: x.twin.take (Config.journalRing - 1), twinSeen := x.twinSeen + 1 } else s)

end Sys2Proof.Machine
end

