-- ==== Sys2Proof/Machine/JobEvents.lean ====
section
/-! DEFINITION. Doorbells, and the life of a job: its start by opcode, the loader and its tile steps, replays, the end, the
record and the seal; the range caches and what stations answer (07; 08 R219 to R249; 11; 12; 13 R389 to R406). -/
namespace Sys2Proof.Machine

/-! ## Doorbells (11 R311, R343) -/

/-- A write to a platform's doorbell reaches its station's BAR (14 R439). -/
def State.bellWrite (s : State) (n : Nat) (d : Doorbell) : State := if s.barsUp n then s.bellIn d else s.noBar n

def execPlatformDoorbell (n : Station) (platform : BitVec 12) (size : BitVec 4) (sqTail cqHead : BitVec 24) (rsv : BitVec 15) (s : State) : Out :=
  done (s.bellWrite n.val ⟨n.val, platform.toNat, size.toNat, sqTail.toNat, cqHead.toNat, rsv.toNat, false, 0⟩)

def execPlatformRestart (n : Station) (platform : BitVec 12) (size : BitVec 4) (sqTail cqHead : BitVec 24) (rsv : BitVec 15) (s : State) : Out :=
  done (s.bellWrite n.val ⟨n.val, platform.toNat, size.toNat, sqTail.toNat, cqHead.toNat, rsv.toNat, true, 0⟩)

/-! ## Starts (11 R326 to R335, R619; 12 R360 to R370) -/

def execNop (plat : BitVec 12) (idx : BitVec 24) (s : State) : Out := done (s.startRow 0x00 plat.toNat idx.toNat)
def execDraw (plat : BitVec 12) (idx : BitVec 24) (s : State) : Out := done (s.startRow 0x01 plat.toNat idx.toNat)
def execDrawTree (plat : BitVec 12) (idx : BitVec 24) (s : State) : Out := done (s.startRow 0x02 plat.toNat idx.toNat)
def execMerge (plat : BitVec 12) (idx : BitVec 24) (s : State) : Out := done (s.startRow 0x03 plat.toNat idx.toNat)
def execEncode (plat : BitVec 12) (idx : BitVec 24) (s : State) : Out := done (s.startRow 0x10 plat.toNat idx.toNat)
def execFetch (plat : BitVec 12) (idx : BitVec 24) (s : State) : Out := done (s.startRow 0x11 plat.toNat idx.toNat)
def execCopy (plat : BitVec 12) (idx : BitVec 24) (s : State) : Out := done (s.startRow 0x20 plat.toNat idx.toNat)
def execFill (plat : BitVec 12) (idx : BitVec 24) (s : State) : Out := done (s.startRow 0x21 plat.toNat idx.toNat)
def execGather (plat : BitVec 12) (idx : BitVec 24) (s : State) : Out := done (s.startRow 0x22 plat.toNat idx.toNat)
def execScatter (plat : BitVec 12) (idx : BitVec 24) (s : State) : Out := done (s.startRow 0x23 plat.toNat idx.toNat)
def execAtomic (plat : BitVec 12) (idx : BitVec 24) (s : State) : Out := done (s.startRow 0x24 plat.toNat idx.toNat)
def execGemm (plat : BitVec 12) (idx : BitVec 24) (s : State) : Out := done (s.startRow 0x30 plat.toNat idx.toNat)
def execLowrank (plat : BitVec 12) (idx : BitVec 24) (s : State) : Out := done (s.startRow 0x31 plat.toNat idx.toNat)
def execChecksum (plat : BitVec 12) (idx : BitVec 24) (s : State) : Out := done (s.startRow 0x40 plat.toNat idx.toNat)
def execPrefixLookup (plat : BitVec 12) (idx : BitVec 24) (s : State) : Out := done (s.prefixRow 0x50 plat.toNat idx.toNat)
def execPrefixInsert (plat : BitVec 12) (idx : BitVec 24) (s : State) : Out := done (s.startRow 0x51 plat.toNat idx.toNat)

/-- A PREFIX_RELEASE job of one mode; one of neither mode is refused by whichever row meets it. -/
def State.releaseRow (s : State) (plat idx mode : Nat) : State :=
  match s.jobAt plat idx fun j => j.opcode == 0x52 with
  | some j => if j.par 0x58 1 == mode || 1 < j.par 0x58 1 then s.prefixRow 0x52 plat idx else s
  | none => s

def execPrefixRelease (plat : BitVec 12) (idx : BitVec 24) (s : State) : Out := done (s.releaseRow plat.toNat idx.toNat 0)
def execPrefixRenew (plat : BitVec 12) (idx : BitVec 24) (s : State) : Out := done (s.releaseRow plat.toNat idx.toNat 1)

/-! ## Atomic operations on their way (07 R209; 11 R335) -/

/-- Operation `i` leaves the pump for its home. -/
def State.sendAtom (s : State) (j : Job) (p i : Nat) : State :=
  let r := atomicRec j i
  let wd := j.par 0x59 1
  let a := opAddr (j.op 1) + num r 0 8
  let x := num r 8 wd
  let y := num r 16 wd
  let issued := fun (s : State) (e : Option Nat) => s.modJob j.id fun j =>
    { j with work := { j.work with issued := i + 1 }, nextTile := j.nextTile + 1,
             wTiles := j.wTiles ++ [{ id := j.nextTile, opnd := 1, addr := a, entries := e.toList, atom := some i }] }
  match s.xlate j p (j.op 1) a .a with
  | .fault st => s.xlateStop j.id p 1 6 st a
  | .ok (.pool w off) e =>
    let s := (issued s e).modJob j.id fun j => { j with poolOut := j.poolOut + 1 }
    s.submit { org := .atom j.id i, kind := .atomic (j.par 0x58 1) wd (off % 64) x y, well := w, gen := (s.well w).gen, off := lineOf off }
  | .ok (.twin d) e =>
    let q := s.twin.nextId
    let f : FwdOut := { id := q, job := some j.id, dpa := d, opnd := 1, addr := a, atom := some i }
    let s := (issued s e).modTwin fun t => { t with nextId := q + 1, fwdOut := t.fwdOut ++ [f] }
    (s.modJob j.id fun j => { j with twinOut := j.twinOut ++ [q] }).emit (.xo (.atomic q d (j.par 0x58 1) wd x y))
  | _ => s

/-- Operations leave in record order, at most 64 of them unanswered. -/
def State.atomAtHome (s : State) (plat idx op : Nat) : State :=
  match s.jobAt plat idx fun j => j.opcode == 0x24 with
  | some j => match j.stage with
    | .running p =>
      if j.work.phase == 1 && op == j.work.issued && op < j.par 0x5C 4 && j.work.issued < j.work.atoms.length + 64 then s.sendAtom j p op else s
    | _ => s
  | none => s

def execAtomicOperationAtHome (plat : BitVec 12) (idx : BitVec 24) (op : BitVec 17) (s : State) : Out :=
  done (s.atomAtHome plat.toNat idx.toNat op.toNat)

/-! ## Prefix jobs and holds (12 R364, R366, R371) -/

/-- The bound of an EVEN lookup has come: its record is written now, whatever its status (R364). -/
def State.evenCommit (s : State) (plat idx : Nat) : State :=
  match s.jobAt plat idx fun j => j.even.isSome && (j.stage == .stopped || j.stage == .ended) with
  | none => s
  | some j =>
    let s := (s.until (j.even.getD 0)).endOf j.id
    match s.firstEnded plat with
    | some k => if k.id == j.id && (s.plat plat).slotFree then s.writeRecord k else s
    | none => s

def execEvenLookupCommit (plat : BitVec 12) (idx : BitVec 24) (s : State) : Out := done (s.evenCommit plat.toNat idx.toNat)

/-- An insert goes on once the entry it waited for is LIVE or free (R366). -/
def State.pendingResolved (s : State) (plat idx : Nat) : State :=
  match s.jobAt plat idx fun j => j.status.isNone && s.insertWaiting j with
  | some j => State.insertRun 1025 s j.id
  | none => s

def execPrefixPendingResolved (plat : BitVec 12) (idx : BitVec 24) (s : State) : Out := done (s.pendingResolved plat.toNat idx.toNat)

def State.leaseEnd (s : State) (i : Nat) : State :=
  match tget s.pfx.holds i with
  | some x => if x.live && x.leaseS != 0 then (s.until x.expiry).endHold i else s
  | none => s

def execHoldLeaseExpire (hold : BitVec 20) (s : State) : Out := done (s.leaseEnd hold.toNat)

/-! ## Pumps and their jobs (08 R227, R243 to R246) -/

/-- A pump under NMI capture issues no new work (17 R521). -/
def State.pumpCaptured (s : State) (p : Nat) : Bool := s.captured 3 p

/-- An idle pump takes the job at the head of its queue or, where it has none, the oldest that waits in its partition. -/
def State.takeJob (s : State) (p : Nat) : State :=
  let x := s.pumpAt p
  let part := x.part.getD 16
  if x.job.isSome || x.waking || !x.takes part || s.pumpCaptured p then s
  else match x.queue with
    | id :: rest => (s.modPump p fun x => { x with queue := rest }).giveJob id p
    | [] =>
      match s.jobs.jobs.find? fun j => j.stage == .waiting && (s.plat j.plat).partition == part && !s.fenced j && j.opcode != 0x50 && j.opcode != 0x52 with
      | some j => s.giveJob j.id p
      | none => s

def execPumpJobHandoff (p : PumpId) (s : State) : Out := done (s.takeJob p.val)

/-- A turn of the loader of a pump; while a step is to be replayed, it only loads again what the replay needs (R225). -/
def State.loadDone (s : State) (p lines : Nat) (host : PageImage) : State :=
  match s.onPump p with
  | some j =>
    if (j.replay == .none || !j.buffersGood) && 1 ≤ lines && lines ≤ 4096 && !s.pumpCaptured p then s.turn j.id p lines host else s
  | none => s

def execTileLoadDone (p : PumpId) (lines : BitVec 13) (host : PageImage) (s : State) : Out := done (s.loadDone p.val lines.toNat host)

/-- A step ends: its checks fail, or its results enter the write queue. -/
def State.stepDone (s : State) (p : Nat) (fail : Option StepOp) : State :=
  match s.onPump p with
  | none => s
  | some j =>
    if !s.stepReady j || j.replay != .none || s.pumpCaptured p then s
    else
      let (inj, s) := s.meetInjection j p
      match fail, inj with
      | some op, inj => s.checkFail j p op inj
      | none, true => s.checkFail j p (arrayOp j.opcode) true
      | none, false => s.fire j p

def execTileStepDone (p : PumpId) (fail : Option StepOp) (s : State) : Out := done (s.stepDone p.val fail)

/-- A transient replay counts on its pump, with the verdict in the unit history (R246; 17 R520, R532, R535). -/
def State.transient (s : State) (p : Nat) (inj : Bool) : State := (s.addHist 0x0301 3 p 0 1 1 inj).record { source := 0x0301, unit := p, injected := inj }

/-- The third execution has passed on another pump: the job continues there (R246). What the first pump's write queue holds keeps its
place before the job's later accesses, as if the queue had gone with the job (07 R188; DEDUCED, notes/assumptions/188). -/
def State.moveTo (s : State) (j : Job) (p q : Nat) : State :=
  let s := s.mapReqs fun r => match r.org with | .jobWrite k x t => if x == p then { r with org := .jobWrite k q t } else r | _ => r
  let s := s.modJobs fun x => { x with devOut := x.devOut.map fun o => if o.pump == p && o.kind.mask.isSome then { o with pump := q } else o }
  let s := s.modTwin fun t => { t with fwdOut := t.fwdOut.map fun f => if f.pump == p && f.wr.isSome then { f with pump := q } else f }
  let s := (s.modPump q fun x => { x with covered := x.covered ++ (s.pumpAt p).covered }).modPump p fun x => { x with covered := [] }
  let s := s.modPump p fun x => { x with job := none, since := s.now }
  let s := s.setPlat j.plat fun x => { x with held := x.held - 1 }
  s.modJob j.id fun j => { j with stage := .running q, lastPump := q }

/-- A repeated execution has passed: the step needs no other, and its results go into the write queue as the job now stands. -/
def State.fireAgain (s : State) (id p : Nat) : State :=
  let s := s.modJob id fun j => { j with replay := .none, injected := false }
  match s.job id with
  | some j => if j.status.isNone then s.fire j p else s
  | none => s

/-- The third execution has failed: the job stops, and every pump that failed the step is judged (R246). -/
def State.replayFailed (s : State) (j : Job) (p q : Nat) (inj : Bool) : State :=
  let s := s.stopJob j.id .unitFault (some (s.pumpFail p 0 0 0 0))
  let s := s.pumpFaulty p inj
  if q == p then s else s.pumpFaulty q inj

/-- A repeated execution on pump `q` ends. -/
def State.replayDone (s : State) (q : Nat) (pass : Bool) : State :=
  match ((s.pumpAt q).job.bind s.job).filter fun j => j.buffersGood && !(s.pumpAt q).waking with
  | none => s
  | some j => match j.stage with
    | .running p =>
      let (hit, s) := s.meetInjection j q
      let inj := j.injected || hit
      let ok := pass && !hit
      match j.replay with
      | .first op =>
        if q != p then s
        else if ok then (s.transient p inj).fireAgain j.id p
        else
          let s := s.modJob j.id fun j => { j with replays := j.replays + 1, injected := inj }
          match s.idlePump j p with
          | (some k, s) => s.thirdOn j op p k
          | (none, s) => s.modJob j.id fun j => { j with replay := .wait op (s.now + 10000) }
      | .third _ k =>
        if q != k then s
        else if !ok then s.replayFailed j p q inj
        else if q == p then ((s.transient p inj).transient p inj).fireAgain j.id p
        else ((s.moveTo j p q).pumpFaulty p inj).fireAgain j.id q
      | _ => s
    | _ => s

def execStepReplayDone (p : PumpId) (pass : Bool) (s : State) : Out := done (s.replayDone p.val pass)

/-- No other pump has become idle in 10 us: the third execution runs on the same pump (R246). -/
def State.replayWaitEnd (s : State) (p : Nat) : State :=
  match s.onPump p with
  | some j => match j.replay with
    | .wait op d => (s.until d).thirdOn j op p p
    | _ => s
  | none => s

def execReplayPumpWaitExpire (p : PumpId) (s : State) : Out := done (s.replayWaitEnd p.val)

/-- A step has run for 10 ms (17 R520). -/
def State.pumpHang (s : State) (p : Nat) : State :=
  match s.onPump p with
  | some j => (s.until (j.stepStart + 10000000)).record { source := 0x0305, unit := p }
  | none => s

def execPumpHangTimeout (p : PumpId) (s : State) : Out := done (s.pumpHang p.val)

/-! ## Range caches (13 R389, R393) -/

/-- A miss of a pump's range cache is answered, from the well table or by the twin; a fill counts (R379). -/
def State.rangeFilled (s : State) (p c i : Nat) (peer : PeerAnswer) : State :=
  match tget (s.ctx c).ranges i with
  | none => s
  | some r =>
    if (s.rcHit p c i).isSome then s
    else
      if r.twin then
        if !s.isPaired then s
        else
          let id := s.twin.nextId
          let s := (s.modTwin fun t => { t with nextId := id + 1 }).emit (.xo (.rangeFill id r.well))
          let mark := if s.xl.advised.contains (p, c, i) then RcMark.keep else .none
          let s := s.modXl fun x => { x with advised := x.advised.filter (· != (p, c, i)) }
          if peer.status == 0 then s.rcFill p c i peer.start.toNat (num peer.bytes 0 8) mark (nbit (num peer.bytes 8 1) 0)
          else s.modPump p fun x => { x with rcStale := if x.rcStale.contains (c, i) then x.rcStale else x.rcStale ++ [(c, i)] }
      else match s.named r.well with
        | some w => s.rcFill p c i (s.well w).startNow (s.well w).length .none (s.well w).kvb16
        | none => s

def execRangeCacheFill (p : PumpId) (context : BitVec 12) (entry : BitVec 8) (peer : PeerAnswer) (s : State) : Out :=
  done (s.rangeFilled p.val context.toNat entry.toNat peer)

/-- The tile of a job that a switch still awaits: its operand, first byte, and whether it is loaded or written. -/
def Job.movingTile (j : Job) (tiles writes : List (Nat × Nat)) : Option (Nat × Nat × Nat) :=
  match j.tiles.find? fun t => tiles.contains (j.id, t.id) with
  | some t => some (t.opnd, 5, t.addr)
  | none => (j.wTiles.find? fun t => writes.contains (j.id, t.id)).map fun t => (t.opnd, 6, t.addr)

/-- A tile that still moves 20 us after a range change is stopped (R389); its job leaves the switch. The prefix unit's tiles, which are of no
pump, are stopped when the pump has none. -/
def State.switchTimeout (s : State) (p : Nat) : State :=
  let late := fun (q : Nat) (w : Switch) => (w.tiles ++ w.writes).findSome? fun x => ((s.job x.1).filter (·.lastPump == q)).bind fun j =>
    (j.movingTile w.tiles w.writes).map fun t => (j, t)
  let of_ := fun (q : Nat) => s.xl.switches.findSome? fun w => (late q w).map fun x => (w, x)
  match (of_ p).orElse fun _ => of_ 16 with
  | none => s
  | some (w, j, k, step, a) =>
    let s := (s.until w.deadline).endJob j .xlateFault (some (s.pumpFail j.lastPump k step 1 a))
    let s := s.dropTileLines j.id ((w.writes.filter (·.1 == j.id)).map (·.2))
    s.modXl fun x => { x with switches := x.switches.map fun v => if v == w then
      { v with tiles := v.tiles.filter (·.1 != j.id), writes := v.writes.filter (·.1 != j.id) } else v }

def execRangeSwitchTimeout (p : PumpId) (s : State) : Out := done (s.switchTimeout p.val)

/-! ## The end of a job (11 R315, R317; 07 R194 to R198) -/

/-- An EVEN lookup ends at its bound only (12 R364). -/
def State.jobEnds (s : State) (plat idx : Nat) : State :=
  match s.jobAt plat idx fun j => j.stage == .stopped && j.even.isNone with
  | some j => s.endOf j.id
  | none => s

def execJobEnd (plat : BitVec 12) (idx : BitVec 24) (s : State) : Out := done (s.jobEnds plat.toNat idx.toNat)

def State.recordRow (s : State) (plat : Nat) : State :=
  match s.firstEnded plat with
  | some j => if (s.plat plat).slotFree then s.writeRecord j else s
  | none => s

def execCompletionRecordWrite (plat : BitVec 12) (s : State) : Out := done (s.recordRow plat.toNat)

def State.sealRow (s : State) (plat idx : Nat) : State :=
  match s.jobAt plat idx fun j => j.stage == .recorded with
  | some j => s.writeSeal j
  | none => s

def execSealWrite (plat : BitVec 12) (idx : BitVec 24) (s : State) : Out := done (s.sealRow plat.toNat idx.toNat)

/-! ## What stations answer (07 R186; 11 R342; 13 R402 to R405; 14 R419) -/

def execDeviceWriteGo (n : Station) (id : BitVec 32) (data : Line) (s : State) : Out := done (s.deviceGo n.val id.toNat data)

/-- An access got no data or GO in time, or a Translation Request no answer (11 R342). A write that waits for a transfer of its line has
sent nothing yet. The timeout of a DirtyEvict that no job issued ends no job (DESIGN CHOICE, notes/assumptions/186). -/
def State.ctoExpire (s : State) (n id : Nat) : State :=
  let log := fun (s : State) (a : Nat) => (s.aerLog n .completionTimeout).record { source := 0x0405, unit := n, address := a }
  let sent := fun (o : DevOut) => match o.kind with | .merge _ | .ioWrite _ => false | _ => true
  let isRead := fun (o : DevOut) => match o.kind with | .read _ => true | _ => false
  match s.jobs.devOut.find? fun o => o.id == id && o.stn == n && sent o with
  | some o =>
    let s := ((s.until o.deadline).modJobs fun x => { x with devOut := x.devOut.filter (·.id != id) }).wayDone id
    let s := match o.job.bind s.job with
      | some j => s.endJob j .stationTimeout (some (s.stnFail n o.opnd (if isRead o then 5 else 6) 1 (lineAddr o.addr)))
      | none => s
    -- the writes that a flushing read would have acknowledged stay without an acknowledgement (14 R432)
    let posted := if o.kind == .flush then s.jobs.devOut.filter fun w => w.stn == n && w.id < o.id && w.kind.posted else []
    let s := posted.foldl (fun s w => match w.job.bind s.job with
      | some j => s.endJob j .stationTimeout (some (s.stnFail n w.opnd 6 1 (lineAddr w.addr)))
      | none => s) (s.modJobs fun x => { x with devOut := x.devOut.filter fun w => !posted.contains w })
    (log s o.hpa).lineFree n o.hpa
  | none => match (s.stnAt n).atsReqs with
    | [] => s
    | q :: rest => log (((s.until q.deadline).modStn n fun t => { t with atsReqs := rest }).atsTimeout n q) (4096 * q.page)

def execStationCtoExpire (n : Station) (id : BitVec 32) (s : State) : Out := done (s.ctoExpire n.val id.toNat)

def execAtsTranslationCompletion (n : Station) (address : BitVec 56) (answer : AtsAnswer) (s : State) : Out :=
  done (s.atsAnswer n.val address.toNat answer)

def execAtsInvalidateRequest (n : Station) (address : BitVec 56) (k : BitVec 6) (s : State) : Out :=
  done (s.atsInvalidate n.val address.toNat k.toNat)

end Sys2Proof.Machine
end

