-- ==== Sys2Proof/Machine/HomeEvents.lean ====
section
/-! DEFINITION. CXL.mem requests and answers, the timers of the homes, and the walks of cisterns and slices (04; 05 R142, R154;
06 R161 to R176). -/
namespace Sys2Proof.Machine

/-! ## CXL.mem (04 R98, R109 to R113) -/

def execMemRdS (n : Station) (hpa : BitVec 64) (s : State) : Out := done (s.hostMem n.val hpa.toNat .rdS)
def execMemRdA (n : Station) (hpa : BitVec 64) (s : State) : Out := done (s.hostMem n.val hpa.toNat .rdA)
def execMemRdOwn (n : Station) (hpa : BitVec 64) (s : State) : Out := done (s.hostMem n.val hpa.toNat .rdOwn)
def execMemRdCur (n : Station) (hpa : BitVec 64) (s : State) : Out := done (s.hostMem n.val hpa.toNat .rdCur)
def execMemInvOwn (n : Station) (hpa : BitVec 64) (s : State) : Out := done (s.hostMem n.val hpa.toNat .invOwn)
def execMemDrop (n : Station) (hpa : BitVec 64) (s : State) : Out := done (s.hostMem n.val hpa.toNat .drop)
def execMemSpecRd (n : Station) (_hpa : BitVec 64) (s : State) : Out := done (s.hostHint n.val)

def execMemWb (n : Station) (hpa : BitVec 64) (data : Line) (mask : BitVec 64) (s : State) : Out :=
  done (s.hostMem n.val hpa.toNat .wb data mask)

def execMemWbS (n : Station) (hpa : BitVec 64) (data : Line) (s : State) : Out := done (s.hostMem n.val hpa.toNat .wbS data)

def execMemUcWr (n : Station) (hpa : BitVec 64) (data : Line) (mask : BitVec 64) (s : State) : Out :=
  done (s.hostMem n.val hpa.toNat .ucWr data mask)

def execPlainMemRead (n : Station) (hpa : BitVec 64) (s : State) : Out := done (s.hostMem n.val hpa.toNat .plainRd)

def execPlainMemWrite (n : Station) (hpa : BitVec 64) (data : Line) (mask : BitVec 64) (s : State) : Out :=
  done (s.hostMem n.val hpa.toNat .plainWr data mask)

def execBiRsp (n : Station) (hpa : BitVec 64) (rsp : BiRsp) (s : State) : Out := done (s.hostRsp n.val hpa.toNat rsp)

def execBiConflict (n : Station) (hpa : BitVec 64) (s : State) : Out := done (s.hostConflict n.val hpa.toNat)

/-! ## Timers (04 R116, R120, R124) -/

/-- The minimum hold of a line ends. -/
def State.holdOver (s : State) (key : Nat) : State :=
  match s.ent key with
  | some e => if e.held then ((s.until e.holdEnd).modEnt key fun e => { e with held := false }) else s
  | none => s

def execHoldEnd (dpa : BitVec 48) (s : State) : Out := done (s.holdOver dpa.toNat)

/-- A snoop has had no answer within T_BI: its station is declared dead for the cistern, and a silent twin starts a switchover
(04 R124; 16 R502). -/
def State.biExpire (s : State) (holder key : Nat) : State :=
  match s.home.snoops.find? fun p => p.holder == holder && p.key == key with
  | none => s
  | some p =>
    let s := s.until p.deadline
    if s.home.rsps.any fun a => a.1 == holder && lineOf a.2.1 == p.hpa then s
    else if holder == twinHolder then (if s.isPaired then s.startGap 3 else s) else (s.declare p.cistern 1 holder)

def execBiTimerExpire (holder : Fin 49) (dpa : BitVec 48) (s : State) : Out := done (s.biExpire holder.val dpa.toNat)

/-- The oldest request of a station, or of the other agents, in the retry store is presented again, 100 ns after it returned
there. -/
def State.retryRow (s : State) (n : Option Station) : State :=
  let mine := fun (r : Req) => match n with
    | some n => r.ofStn n.val
    | none => !((List.range 48).any fun m => r.ofStn m)
  match (s.home.retry.filter mine).foldl (fun (a : Option Req) r => match a with
      | some b => if b.seq ≤ r.seq then a else some r
      | none => some r) none with
  | some r => (((s.until (r.since + 100)).modHome fun h => { h with retry := h.retry.erase r }).present r)
  | none => s

def execRetryStoreRepresent (n : Option Station) (s : State) : Out := done (s.retryRow n)

/-! ## Walks (05 R142, R154; 06 R162, R175, R176) -/

/-- No directory entry and no transaction is left for the cistern. -/
def State.walkOver (s : State) (c : Nat) : State :=
  let x := s.cis c
  if !x.walking || (s.home.dir.any fun e => s.inCis c e.key) || s.home.txns.any fun t => s.inCis c t.key then s
  else
    let s := s.modCis c fun x => { x with walking := false }
    if x.st == .dissolving then s.dissolve c else s

def execDownWalkEnd (cistern : BitVec 12) (s : State) : Out := done (s.walkOver cistern.toNat)

def execCisternRecoveryDone (cistern : BitVec 12) (s : State) : Out := done (s.recoverDone cistern.toNat)

def execCacheWalkDone (die : DieId) (s : State) : Out := done (s.walkDone die.val)

/-- A tracker without a write for 10 us is released. -/
def State.trackerEnd (s : State) (die slot : Nat) : State :=
  match s.cache.trackers.find? fun t => t.die == die && t.slot == slot with
  | some t =>
    let s := s.until (t.last + 10000)
    { s with cache := { s.cache with trackers := s.cache.trackers.filter (· != t) } }
  | none => s

def execStreamTrackerRelease (die : DieId) (slot : BitVec 6) (s : State) : Out := done (s.trackerEnd die.val slot.toNat)

end Sys2Proof.Machine
end

