-- ==== Sys2Proof/Machine/StnEvents.lean ====
section
/-! DEFINITION. What reaches a station beside CXL.mem: its apertures and registers, its decoders, its power state, resets and
link, and the host's snoops of the device cache (00 R7; 02 R32 to R44; 05 R140; 14). -/
namespace Sys2Proof.Machine

/-! ## Apertures and registers (02 R38 to R44; 14 R424 to R429; 15 R466) -/

def execApertureRead (n : Station) (offset : BitVec 26) (size : BitVec 13) (s : State) : Out := done (s.aperRead n.val offset.toNat size.toNat)

def execApertureWrite (n : Station) (offset : BitVec 26) (data : List Byte) (s : State) : Out := done (s.aperWrite n.val offset.toNat data)

/-- A write to the control aperture, where the BAR answers. -/
def State.barWrite (s : State) (n : Nat) (f : State → State) : State := if s.barsUp n then f s else s.noBar n

def execWinBaseWrite (n : Station) (half : Half) (value : BitVec 64) (s : State) : Out :=
  done (s.barWrite n.val fun s => s.winBaseSet n.val half value.toNat)

def execJnlMarkWrite (n : Station) (half : Half) (value : BitVec 64) (s : State) : Out :=
  done (s.barWrite n.val fun s => s.jnlMarkSet n.val half value.toNat)

def execJnlThresholdWrite (n : Station) (value : BitVec 32) (s : State) : Out :=
  done (s.barWrite n.val fun s => s.jnlThresholdSet n.val value.toNat)

def execRegisterWrite (n : Station) (offset : BitVec 26) (size : BitVec 4) (value : BitVec 64) (s : State) : Out :=
  done (s.regWrite n offset.toNat size.toNat value.toNat)

/-- A vector is unmasked in the table, or the function's MSI-X is enabled and unmasked in configuration space. -/
def State.unmask (s : State) (n : Nat) (vector : Option Nat) : State :=
  match vector with
  | some v => s.barWrite n fun s => (s.setVec n v { s.vec n v with mask := false }).sendVec n v
  | none => if (s.stnAt n).up then (s.modStn n fun t => { t with msixEnable := true, msixMask := false }).sendVecs n else s

def execMsixVectorUnmask (n : Station) (vector : Option (BitVec 11)) (s : State) : Out := done (s.unmask n.val (vector.map (·.toNat)))

/-! ## HDM decoders (02 R32, R37) -/

def execHdmDecoderCommit (n : Station) (decoder : BitVec 5) (base size : BitVec 64) (ways : BitVec 4) (s : State) : Out :=
  done (s.barWrite n.val fun s => s.hdmCommit n.val decoder.toNat base.toNat size.toNat ways.toNat)

def execHdmDecoderUncommit (n : Station) (decoder : BitVec 5) (s : State) : Out :=
  done (s.barWrite n.val fun s => s.hdmUncommit n.val decoder.toNat)

/-! ## Power states, resets and the link (14 R411 to R442) -/

/-- A change of a station whose link is up. -/
def State.ifUp (s : State) (n : Nat) (f : State → State) : State := if (s.stnAt n).up then f s else s

def execD3hotEntry (n : Station) (s : State) : Out := done (s.ifUp n.val fun s => s.modStn n.val fun t => { t with d3hot := true })

def execD0Return (n : Station) (s : State) : Out := done (s.ifUp n.val fun s => s.modStn n.val fun t => { t with d3hot := false })

def execPerstAssert (n : Station) (s : State) : Out :=
  done (if (s.stnAt n.val).perst then s else (s.stationReset n .perst).modStn n.val fun t => { t with perst := true })

def execPerstDeassert (n : Station) (s : State) : Out := done (s.modStn n.val fun t => { t with perst := false })

def execHotReset (n : Station) (s : State) : Out := done (s.ifUp n.val fun s => s.stationReset n .hot)

def execFunctionLevelReset (n : Station) (s : State) : Out := done (s.ifUp n.val fun s => s.stationReset n .flr)

def execLinkDlUp (n : Station) (mode : LinkMode) (cacheEn memEn biEn atsEn : Bool) (cto : BitVec 4) (s : State) : Out :=
  done (s.linkUp n.val mode cacheEn memEn biEn atsEn cto.toNat)

def execLinkDlDown (n : Station) (s : State) : Out := done (s.ifUp n.val fun s => s.stationGone n.val .down)

def execLinkRecoveryEntry (n : Station) (s : State) : Out :=
  done (s.modStn n.val fun t => if t.up && !t.recovery then t.toRecovery else t)

def execLinkRecoveryEnd (n : Station) (s : State) : Out := done (s.modStn n.val fun t => if t.up && t.recovery then t.fromRecovery else t)

def execFlitAck (n : Station) (req : BitVec 11) (rwd : BitVec 10) (rsp : BitVec 9) (s : State) : Out :=
  done (s.modStn n.val fun t => if t.up then t.ack req.toNat rwd.toNat rsp.toNat else t)

/-- Memory_Active returns within 1 ms of the link-up that follows a station's reset, or of an FLR's completion, in service (R438). -/
def execMemoryActiveReturn (n : Station) (s : State) : Out :=
  done (if s.inService then s.modStn n.val fun t => if t.memReturn && t.up then { t with memActive := true, memReturn := false } else t else s)

/-! ## CXL.cache (05 R140) -/

def execH2dSnoop (n : Station) (hpa : BitVec 64) (kind : H2D) (s : State) : Out := done (s.hostSnoop n.val hpa.toNat kind)

end Sys2Proof.Machine
end

