-- ==== Sys2Proof/Machine/TwinEvents.lean ====
section
/-! DEFINITION. What reaches the module from its twin, over the crossover and on TWIN_PRSNT_N, and what it sends there by
itself (15 R445; 16; 04 R125; 06 R165, R178). -/
namespace Sys2Proof.Machine

/-! ## Presence and links (R482 to R484, R502) -/

/-- TWIN_PRSNT_N stays high for 10 us: cause 0x1 for a pair, and a pairing under way ends (R484, R502). -/
def execTwinPresenceLost (s : State) : Out :=
  done (if !s.twin.present then s
    else
      let s := s.modTwin fun t => { t with present := false }
      let s := s.modMod fun m => { m with twinChanges := sat 16 (m.twinChanges + 1) }
      match s.twin.st with
      | .paired => s.startGap 1
      | .pairing => s.pairFail
      | _ => s)

def execTwinPresenceGained (s : State) : Out :=
  done (if s.twin.present then s
    else ((s.modTwin fun t => { t with present := true }).modMod fun m => { m with twinChanges := sat 16 (m.twinChanges + 1) }).askPair)

def execCrossoverLinkUp (k : Fin 4) (laneFail : Option (Fin 16)) (localPass peerPass : Bool) (s : State) : Out :=
  done (if s.answers then (s.xoLink k.val (laneFail.map (·.val)) localPass peerPass).askPair else s)

def execCrossoverLinkDown (k : Fin 4) (s : State) : Out := done (s.xoDown k.val)

def execCrossoverSilence (s : State) : Out := done s.xoSilent

/-- The twin is still present 50 us after the crossover was lost: the keeper survives (R502 cause 0x2). -/
def execPresenceWaitExpire (s : State) : Out :=
  done (if s.isPaired && s.twin.presenceWait && s.twin.present then
      (if s.mbx.keeper then s.startGap 2 else s.fenceSelf)
    else s)

/-- The link hardware sends keepalives, so that a link that is up is enough (R483). -/
def execKeepaliveSend (k : Fin 4) (s : State) : Out := done (if s.xoUp.contains k.val then s.emit (.xo (.keepalive k.val)) else s)

/-! ## Mirrored writes and requests (R494, R495) -/

def execMirrorWriteReceive (id handle : BitVec 32) (off : BitVec 64) (data : Line) (mask : BitVec 64) (poison : Bool) (s : State) : Out :=
  done (s.mirrorIn id.toNat handle.toNat off.toNat data mask poison)

def execMirrorWriteAck (id : BitVec 32) (s : State) : Out := done (s.mirrorAcked id.toNat)

/-- A mirrored write stays unacknowledged for 100 us (R502 cause 0x3). -/
def execMirrorAckTimeout (id : BitVec 32) (s : State) : Out :=
  done (match s.twin.mirOut.find? (·.id == id.toNat) with
    | some m => if s.isPaired then (s.until m.deadline).startGap 3 else s
    | none => s)

def execTwinAccessReceive (a : TwinAccess) (s : State) : Out := done (s.twinAccess a)

def execTwinResponseReceive (id : BitVec 32) (data : Line) (mark : TwinMark) (s : State) : Out :=
  done (s.twinAnswer id.toNat data (mark == .poison) (mark == .down))

def execTwinSnoopReceive (id handle : BitVec 32) (off : BitVec 64) (s : State) : Out :=
  done (s.twinSnoopIn id.toNat handle.toNat off.toNat)

def execGrantRecordReceive (id handle : BitVec 32) (off : BitVec 64) (what : GrantNote) (s : State) : Out :=
  done (s.grantIn id.toNat handle.toNat off.toNat (what != .returned) (what == .m))

def execTwinDeclarationReceive (cistern : BitVec 32) (cause : Byte) (s : State) : Out :=
  done (if s.isPaired then s.declareIn cistern.toNat cause.toNat else s)

def execCrossoverMailboxMessage (m : XMsg) (s : State) : Out := done (if s.answers then s.mailIn m else s)

/-! ## Switchover (R502 to R507) -/

/-- The twin announces its reset, power-down or drain (R502 cause 0x4). -/
def execTwinAnnounceReceive (_what : Announce) (s : State) : Out := done (if s.isPaired then s.startGap 4 else s)

def execFenceOrderReceive (s : State) : Out := done (if s.isPaired then s.fenceSelf else s)

def execSwitchoverGapEnd (s : State) : Out :=
  done (if s.twin.st == .gap then s.endGap
    else match s.twin.swo with
      | some x => if x.gap then s.endSwo x else s
      | none => s)

/-! ## Reports, audit and resync (R497 to R500, R509) -/

def execHealthReportSend (s : State) : Out := done (if s.answers then s.sendHealth else s)

def execHealthReportReceive (r : Report) (s : State) : Out :=
  done (if s.isPaired then s.modTwin fun t => { t with report := some r, lastReport := s.now } else s)

/-- Three reports in a row are missed while keepalives arrive: a record and no more (R500). -/
def execTwinReportsMissed (s : State) : Out := done (if s.isPaired then s.record { source := 0x0504 } else s)

def execMirrorAuditPage (handle page : BitVec 32) (other : PageImage) (s : State) : Out :=
  done (s.auditPage handle.toNat page.toNat other)

def execResyncPageCopy (handle page : BitVec 32) (image : PageImage) (s : State) : Out :=
  done (s.resyncPage handle.toNat page.toNat image)

end Sys2Proof.Machine
end

