-- ==== Sys2Proof/Machine/FaultEvents.lean ====
section
/-! DEFINITION. What the block's own checks find, the field tests, MOD_ERR_N and the ends of the reactions (17). -/
namespace Sys2Proof.Machine

/-! ## Detection (R511, R519 to R521) -/

/-- A flit that an injection corrupted is what a link source has detected (R541). -/
def State.linkInjected (s : State) (source unit : Nat) : Bool × State :=
  let no := linkNo (if source == 0x0501 then 5 else 4) unit
  let left := tgetD s.flt.linkCrc no 0
  if [0x0401, 0x0407, 0x0501].contains source && 0 < left then
    (true, s.modFlt fun f => { f with linkCrc := tset f.linkCrc no (left - 1) })
  else (false, s)

/-- The home recalls a line whose directory entry is lost from every member of its cistern, and leaves it I (R521 NMI). -/
def State.dirLost (s : State) (a : Nat) : State :=
  let key := lineOf a
  if (s.ent key).isSome then s.lostRecall key else s

/-- A parity error in a line of a tile buffer: its tile is loaded again from its source, and the step that runs on it is replayed
(08 R225, R245). At a line that has brought two reloads it judges the pump (R532). -/
def State.bufferBad (s : State) (p line : Nat) (j : Job) (x : Placed) : State :=
  let s := if (j.work.reloads.filter (· == line)).length < 2 then s else s.pumpFaulty p false
  let s' := s.modJob j.id fun j => { j with work := { j.work with
    again := if j.work.again.contains x then j.work.again else j.work.again ++ [x], reloads := j.work.reloads ++ [line] } }
  if s.stepReady j && j.replay == .none then s'.checkFail j p .load false else s'

/-- A parity error in the working area of a pump outside its job's tile buffers spoils working data that has no copy elsewhere (08 R225);
which lines of the area hold some is the microcode's, so each is taken to (DESIGN CHOICE, notes/assumptions/159). -/
def State.spoil (s : State) (line : Nat) : State :=
  let p := (line - Config.scratchBase) / Config.scratchStride
  if Config.scratchBase ≤ line && (line - Config.scratchBase) % Config.scratchStride < 0x1000000 then
    match s.onPump p with
    | some j => s.modJob j.id fun j => { j with work := { j.work with spoiled := some line } }
    | none => s
  else s

/-- What detection does to the data itself (R511, R517, R533; 08 R225). -/
def State.detectEffect (s : State) (source unit a : Nat) : State :=
  let line := lineOf a
  match source with
  | 0x0202 => s.dirLost a
  | 0x0203 => if (s.cached (.pool line)).isSome then (s.dropLine (.pool line)).poisonLine line 3 else s
  | 0x0304 => if Config.scratchBase ≤ line && line < Config.scratchBase + 16 * Config.scratchStride then (s.setPoison line).spoil line else s
  | 0x0407 => s.aerLog unit .uncorrectableInternal
  | 0x0502 =>
    (s.xoDown unit).modTwin fun t => { t with retired := t.retired.setIfInBounds unit true }
  | _ => s

/-- The event is an uncorrectable error of a line of the pool or of the reserve (R511). -/
def State.ofStored (s : State) (e : Event) : Bool :=
  let line := lineOf e.address
  (e.source == 0x0102 && line < Config.poolEnd && (s.homeOf line).isSome) ||
    (e.source == 0x0105 && Config.poolEnd ≤ line && line < Config.locale0End)

def State.detected (s : State) (source unit object address detail : Nat) : State :=
  match sourceOf source with
  | none => s
  | some x =>
    if !s.answers || unitsOf x.kind ≤ unit then s
    else
      match if source == 0x0304 then s.bufferAt (lineOf address) else none with
      | some (p, j, x) => s.bufferBad p (lineOf address) j x
      | none =>
      let (inj, s) := s.linkInjected source unit
      let e : Event := { source := source, unit := unit, object := object, address := address, detail := detail, injected := inj
                         permanent := permSource source && !(source == 0x0502 && detail % 256 == 1) }
      let s := if s.ofStored e then s.uncorrectable e else (s.detectEffect source unit address).record e
      if source == 0x0103 then s.judgeStack unit else s

def execFaultDetected (source : BitVec 16) (unit : Byte) (object address : BitVec 64) (detail : BitVec 128) (s : State) : Out :=
  done (s.detected source.toNat unit.toNat object.toNat address.toNat detail.toNat)

/-! ## The scrubber (R512, R532; 18 R560) -/

/-- A pass begins: rows without an error in two whole passes are judged transient (R532). -/
def State.scrubBegin (s : State) : State :=
  let k := s.flt.scrubPass + 1
  let old := s.flt.rows.filter fun r => r.2.1 + 2 < k
  let s := s.modFlt fun f => { f with scrubPass := k, rows := f.rows.filter fun r => k ≤ r.2.1 + 2 }
  old.foldl (fun s r => s.addHist 0x0101 2 (r.1 / 2 ^ 48) (r.1 % 2 ^ 48) r.2.2.1 1 r.2.2.2) s

/-- A corrected error of this pass counts for its row; the third pass judges the row (R532). -/
def State.rowError (s : State) (stack loc : Nat) (inj : Bool) : State :=
  let key := stack * 2 ^ 48 + loc
  let k := s.flt.scrubPass
  match s.flt.rows.find? (·.1 == key) with
  | none => s.modFlt fun f => { f with rows := f.rows ++ [(key, k, 1, inj)] }
  | some (_, last, n, old) =>
    if last == k then s
    else if n + 1 < 3 then s.modFlt fun f => { f with rows := f.rows.map fun r => if r.1 == key then (key, k, n + 1, old || inj) else r }
    else
      (s.modFlt fun f => { f with rows := f.rows.filter (·.1 != key) }).rowJudged stack loc (old || inj)

/-- One line is read through its code. A pass goes through the stacks in order (R512), so that one begins where the line is not after
the last in that order. An idle dormant die wakes for it, and the read takes place as it does (18 R560). -/
def State.scrubRead (s : State) (line : Nat) : State :=
  match s.homeOf line with
  | none => s
  | some (d, a) =>
    if s.dieDormant d && (s.quartersUsed d).isEmpty then s
    else
      let here := (stackOf d a).1 * 2 ^ 48 + (stackOf d a).2
      let s := if here ≤ s.flt.scrubAt then s.scrubBegin else s
      let s := s.modFlt fun f => { f with scrubAt := here }
      let s := if line % 4096 == 4032 then s.modTwin fun t => { t with scrubPages := t.scrubPages + 1 } else s
      let up := s.upsetOf line
      let (_, _, s) := s.readDram line
      match up with
      | some (k, inj) =>
        let stack := (stackOf d a).1
        if k ≤ 1 then s.rowError stack (rowAddr stack a) inj else s
      | none => s

def execScrubLine (dpa : BitVec 48) (s : State) : Out :=
  done (if s.flt.scrubEn && s.answers then s.scrubRead (lineOf dpa.toNat) else s)

/-! ## Known-answer tests (R537; 08 R244) -/

/-- A pump's turn: it takes no further job, and its queued jobs move. -/
def State.katStart (s : State) (p : Nat) : State :=
  let x := s.pumpAt p
  let other := (List.range 16).any fun q => (s.pumpAt q).test.isSome
  if !s.flt.katEn || !(s.mod.phase == .service || s.mod.phase == .factory) || other || x.permanent.isSome || x.updating || x.resetting || x.moving.isSome then s
  else (s.modPump p fun x => { x with test := some x.katNext, katRun := 0 }).requeue p true

/-- The pump rejoins its partition, with the part at which its next turn starts. -/
def State.katLeave (s : State) (p next fails : Nat) : State :=
  s.modPump p fun x => { x with test := none, katNext := next, katRun := 0, katFails := fails, katInj := x.katInj && fails != 0, since := s.now }

/-- The next part where it still fits in this time out. -/
def State.katGo (s : State) (p run next fails : Nat) : State :=
  if run < s.flt.maxOutUs / 150 then s.modPump p fun x => { x with test := some next, katRun := run, katFails := fails }
  else s.katLeave p next fails

/-- A part of 150 us is judged: a failed part is repeated, and one that fails twice in a row judges the pump (R532). A part is one tile
step to the injections of R541 (DESIGN CHOICE, notes/assumptions/157). -/
def State.katPart (s : State) (p : Nat) (pass : Bool) : State :=
  let x := s.pumpAt p
  let bad := 0 < x.parityInj || 0 < x.csumInj
  let inj := x.katInj || bad
  match x.test, x.job with
  | some k, none =>
    let s := ({ s with now := s.now + 150000 }).modPump p fun x => { x with parityInj := 0, csumInj := x.csumInj - 1, katInj := inj }
    let run := x.katRun + 1
    if pass && !bad then
      let s := if x.katFails == 1 then (s.addHist 0x0303 3 p 0 1 1 inj).record { source := 0x0303, unit := p, injected := inj } else s
      let s := s.modPump p fun x => { x with katInj := false }
      if k + 1 < 8 then s.katGo p run (k + 1) 0
      else (s.modTwin fun t => { t with katPass := t.katPass + 1 }).katLeave p 0 0
    else
      let s := s.modTwin fun t => { t with katFail := t.katFail + 1 }
      if x.katFails == 0 then s.katGo p run k 1
      else (s.katLeave p 0 0).record { source := 0x0302, unit := p, permanent := true, injected := inj }
  | _, _ => s

def execKatTurn (p : PumpId) (s : State) : Out := done (s.katStart p.val)

def execKatPartDone (p : PumpId) (pass : Bool) (s : State) : Out := done (s.katPart p.val pass)

/-! ## MOD_ERR_N and the watchdogs (R520, R525; 16 R484) -/

def execModErrOneShotEnd (s : State) : Out := done (s.modMod fun m => { m with oneShot := false })

/-- An edge of the alive toggle, which a stopping record holds at low. -/
def execAliveToggle (s : State) : Out :=
  done (if s.toggles && s.answers && !s.toggleStopped then s.modMod fun m => { m with toggleLow := !m.toggleLow, toggleHeld := false } else s)

def execAliveToggleMissed (s : State) : Out :=
  done (if s.toggles && s.answers then s.modMod fun m => { m with toggleHeld := true } else s)

def execSignalBoxWatchdogExpire (s : State) : Out := done (if s.answers then s.modMod fun m => { m with errForced := true } else s)

def execCoreWatchdogExpire (core : Fin 6) (s : State) : Out :=
  done (if s.answers then s.record { source := 0x0701, unit := core.val } else s)

/-! ## The ends of reactions (R521, R539) -/

/-- A block reset ends, and its unit serves again. -/
def State.blockBack (s : State) (kind unit : Nat) : State :=
  if !s.flt.busy.contains (kind, unit, true) then s
  else
    let s := s.clearBusy kind unit true
    match kind with
    | 3 => s.modPump unit fun x => { x with resetting := false, since := s.now }
    | 6 => s.setHandover (coreMbx unit) false
    | _ => s

def execBlockResetDone (unitKind unit : Byte) (s : State) : Out := done (s.blockBack unitKind.toNat unit.toNat)

def State.nmiBack (s : State) (kind unit : Nat) : State :=
  if s.flt.busy.contains (kind, unit, false) then ((s.capture kind unit).clearBusy kind unit false).releaseHeld else s

def execNmiCaptureDone (unitKind unit : Byte) (s : State) : Out := done (s.nmiBack unitKind.toNat unit.toNat)

/-- The drain delay has passed since the module was flagged, with its twin still paired (R539 step 4). -/
def State.drainDue (s : State) : State :=
  match s.flt.flaggedAt, s.flt.drainDelay with
  | some t, some d =>
    if s.mod.phase == .service && s.isPaired && s.mod.drain.isNone && !s.pwr.powerDown then
      ((s.until (t + d * 1000000000)).modFlt fun f => { f with flaggedAt := none }).autoDrain false
    else s
  | _, _ => s

def execDrainDelayExpire (s : State) : Out := done s.drainDue

end Sys2Proof.Machine
end

