-- ==== Sys2Proof/Machine/PowerEvents.lean ====
section
/-! DEFINITION. The 64 V input, converters and rails, the power manager, temperatures, and the idle states of stacks and pumps
(18; 20 R589, R606). -/
namespace Sys2Proof.Machine

/-! ## The input (R542 to R545, R548) -/

/-- A sample of the input: at 40 A the controller limits (R544), and energy adds up (R555). -/
def execVinSample (mv ma : BitVec 32) (s : State) : Out :=
  done (if s.pwr.hotSwap == .closed then
      s.modPwr fun p => { p with mv := mv.toNat, ma := ma.toNat, limiting := 40000 ≤ ma.toNat }.addEnergy mv.toNat ma.toNat
    else s)

def execVinOvervoltageTrip (s : State) : Out := done (s.inputFail 0)

def execInputFail (s : State) : Out := done s.inputLow

/-- A record of the input or of conversion, where the signal box runs. -/
def State.powerRecord (s : State) (e : Event) : State := if s.answers then s.record e else s

def execVinLow (s : State) : Out := done (s.powerRecord { source := 0x0601 })

def execVinHigh (s : State) : Out := done (s.powerRecord { source := 0x0602 })

def execCurrentLimitTimeout (s : State) : Out := done s.limitTrip

/-- One second after a trip the controller may try again (R544). -/
def execHotSwapRetry (s : State) : Out :=
  done (if s.pwr.hotSwap == .open_ && s.pwr.holdOpen == 4 then s.modPwr fun p => { p with holdOpen := 0, tries := p.tries + 1 } else s)

/-- VIN_64 has been in its range for 100 ms: the controller closes where nothing holds it open (R543). -/
def execHotSwapClose (s : State) : Out :=
  done (if s.pwr.hotSwap == .open_ && s.pwr.holdOpen == 0 && !s.pwr.hot && s.pwr.standby then
      (s.modPwr fun p => { p with hotSwap := .sloping }).modMod fun m => { m with poweredDown := false }
    else s)

/-- The charge slope ends, the converters start and power good rises (R543). -/
def execInrushSlopeEnd (s : State) : Out :=
  done (if s.pwr.hotSwap == .sloping then
      s.modPwr fun p => { p with hotSwap := .closed, inputGood := true, conv := Vector.replicate 4 1 }
    else s)

/-- VIN_64 falls below 40 V: a stay that waits for a pin event ends (20 R589, R606). -/
def execStandbySupplyLost (s : State) : Out :=
  done ((s.inputFail 0).modPwr fun p => { p with standby := false, holdOpen := if p.holdOpen == 1 then 0 else p.holdOpen })

def execStandbySupplyReturn (s : State) : Out := done (s.modPwr fun p => { p with standby := true })

/-! ## Converters and rails (R546 to R548) -/

def execConverterLost (k : Fin 8) (s : State) : Out :=
  done ((s.modPwr fun p => { p with conv := p.conv.setIfInBounds (k.val % 4) (if k.val < 4 then 0 else 2) }).powerRecord { source := 0x0603, unit := k.val % 4 })

/-- DETAIL holds the rail's number. -/
def execRailFault (rail : BitVec 5) (s : State) : Out :=
  done (if rail.toNat < 21 then s.powerRecord { source := 0x0604, detail := rail.toNat } else s)

def execRailSample (rail : BitVec 5) (mv current10mA : BitVec 16) (temp : Byte) (s : State) : Out :=
  done (s.modPwr fun p =>
    { p with rails := p.rails.setIfInBounds rail.toNat ⟨mv.toNat, current10mA.toNat, temp, railBad rail.toNat mv.toNat⟩
             convOut := if 21 ≤ rail.toNat then p.convOut.setIfInBounds (rail.toNat - 21) ⟨mv.toNat, current10mA.toNat, temp, false⟩ else p.convOut })

/-! ## The power manager and temperatures (R552, R561 to R564) -/

def execPowerManagerStep (inputW : BitVec 16) (s : State) : Out := done (if s.answers then s.powerStep inputW.toNat else s)

def execThermalSample (sensors dram : List Byte) (s : State) : Out := done (s.thermStep sensors dram)

/-- A sensor 10 degrees above its critical limit opens the controller, which waits for cool sensors beside anything else it waits
for (R564). -/
def execThermalShutdown (s : State) : Out := done ((s.inputFail 0).modPwr fun p => { p with hot := true })

/-! ## Idle states (R557 to R560) -/

def execStackDormantEntry (die : DieId) (s : State) : Out := done (s.dormantEntry die.val)

def execStackWakeDone (die : DieId) (s : State) : Out := done (s.wakeDone die.val)

def execPumpHotToWarm (p : PumpId) (s : State) : Out := done (s.pumpWarm p.val)

def execPumpWarmToCold (p : PumpId) (s : State) : Out := done (s.pumpCold p.val)

def execPumpWakeDone (p : PumpId) (s : State) : Out := done (s.pumpWoken p.val)

end Sys2Proof.Machine
end

