-- ==== Sys2Proof/Machine/BootEvents.lean ====
section
/-! DEFINITION. The module's pins, bring-up step by step, and the metadata log (20; 16 R490). -/
namespace Sys2Proof.Machine

/-! ## The attention button (R603) -/

/-- A press that starts the 5 s window, or the second one, which cancels the action. -/
def State.attnAsk (s : State) : State :=
  s.modMod fun m =>
    if m.attnUntil.isSome then { m with attnUntil := none, attnLatch := false } else { m with attnUntil := some (s.now + 5000000000), attnLatch := true }

def State.attnPress (s : State) : State :=
  if s.mod.poweredDown then s.pinRelease
  else if !s.answers then s
  else
    let s := s.modMod fun m => { m with attnPresses := sat 16 (m.attnPresses + 1) }
    if s.mod.drain.isSome || s.pwr.powerDown then s
    else match s.mod.phase with
      | .drained => s.modMod fun m => { m with drain := some ⟨none, true, 8⟩ }
      | .recovery => s.attnAsk
      | .service => if s.twinHealthy || s.mod.attnUntil.isSome then s.attnAsk else s.emit (.mgmt .button)
      | _ => s.emit (.mgmt .button)

def execAttnButtonPress (s : State) : Out := done s.attnPress

/-- The 5 s end without a second press: the module drains itself in mode OFF. -/
def State.attnDue (s : State) : State :=
  match s.mod.attnUntil with
  | none => s
  | some t =>
    let s := (s.until t).modMod fun m => { m with attnUntil := none, attnLatch := false }
    if s.mod.phase == .service || s.mod.phase == .recovery then s.autoDrain true else s

def execAttnCancelWindowEnd (s : State) : Out := done s.attnDue

/-! ## Reset and bring-up (R592 to R596) -/

/-- MOD_RST_N is low for 1 ms: a module with power is reset, once a power-down sequence has run to its end, and a stay that waits for a pin event ends (R592, R606). -/
def execModRstAssert (s : State) : Out :=
  done ((if s.pwr.powerDown then s.powerDownEnd else if s.pwr.hotSwap == .closed then s.afterReset else s).pinRelease)

/-- Power good and MOD_RST_N are high. -/
def execBringUpStart (s : State) : Out :=
  done (if s.mod.stage == .reset && !s.mod.poweredDown && s.pwr.hotSwap == .closed && s.pwr.inputGood then s.modMod fun m => { m with stage := .rom } else s)

/-- SB is checked and starts, or the boot ROM stops (R595). -/
def State.sbChecked (s : State) (p0 p1 : Bool) : State :=
  if s.mod.stage != .rom then s
  else
    let s := s.modFw fun f => { f with comps := f.comps.set 0 (f.comps[0].checked p0 p1) }
    if s.fw.comps[0].passes then s.modMod fun m => { m with stage := .sb, errForced := false, toggleHeld := false, toggleLow := true }
    else s.modMod fun m => { m with stage := .stopped }

def execSbImageCheckDone (pass0 pass1 : Bool) (s : State) : Out := done (s.sbChecked pass0 pass1)

/-- The other components are checked, then the combination that runs (R595, R596). -/
def State.compsChecked (s : State) (passes : List Bool) : State :=
  if s.mod.stage != .sb || s.mod.phase != .bringUp then s
  else
    let check := fun (i : Fin 5) (c : Comp) => if i.val == 0 then c else c.checked (passes.getD (2 * (i.val - 1)) false) (passes.getD (2 * (i.val - 1) + 1) false)
    let s := s.modFw fun f => { f with comps := Vector.ofFn fun i => check i f.comps[i] }
    let s := s.modTwin fun t => { t with localVersions := xoMask s.running }
    let listed := s.fw.active.combos.any fun v => versionList v == s.running
    if !(s.fw.comps.toList.all Comp.passes) || (!listed && !s.fw.forced) then s.enterRecovery false
    else s.modMod fun m => { m with stage := .checked, memInfoValid := true }

def execComponentCheckDone (passes : List Bool) (s : State) : Out := done (s.compsChecked passes)

/-- The stacks are trained with their remaps, or one fails (R594, R596, R607; 17 R532). -/
def State.stacksTrained (s : State) (failed : Option (Fin 24)) : State :=
  if s.mod.stage != .checked || s.mod.phase != .bringUp then s
  else match failed with
    | some k => (s.record { source := 0x0104, unit := k.val, permanent := true }).enterRecovery false
    | none => ((s.mod.spares.filter fun x => !x.done).foldl (fun s x => s.spanDone x) s).modMod fun m => { m with stage := .trained }

def execStackTrainingDone (failedStack : Option (Fin 24)) (s : State) : Out := done (s.stacksTrained failedStack)

/-- The log is applied, or it fails its check in both banks (R596, R598). -/
def State.metaRestored (s : State) (ok : Bool) : State :=
  if s.mod.stage != .trained || s.mod.phase != .bringUp then s
  else if ok then s.restore.resumeAudit.modMod fun m => { m with stage := .restored }
  else s.enterRecovery true

def execMetadataRestoreDone (ok : Bool) (s : State) : Out := done (s.metaRestored ok)

def execRestoredWellFillDone (s : State) : Out :=
  done (if s.mod.stage == .restored && s.mod.phase == .bringUp then s.fillRestored.modMod fun m => { m with stage := .filled } else s)

/-- The pumps' first test is over: service begins, and pairing with it (R594; 16 R490; 17 R537). -/
def State.broughtUp (s : State) (failed : List PumpId) : State :=
  if s.mod.stage != .filled || s.mod.phase != .bringUp then s
  else
    let bad := failed.eraseDups
    let s := s.modPwr fun p => { p with tries := 0 }
    let s := s.modTwin fun t => { t with katPass := t.katPass + (16 - bad.length), katFail := t.katFail + 2 * bad.length }
    (bad.foldl (fun s p => s.record { source := 0x0302, unit := p.val, permanent := true }) s.enterService).askPair

def execBringUpComplete (failed : List PumpId) (s : State) : Out := done (s.broughtUp failed)

def execMetadataLogFlush (s : State) : Out := done (if s.answers then s.flushLog else s)

end Sys2Proof.Machine
end

