-- ==== Sys2Proof/Machine/Identity.lean ====
section
/-! DEFINITION. IDENTIFY, GET_STATE, JOURNAL_READ and JOURNAL_FIND_TAG (15 R464, R471 to R473). -/
namespace Sys2Proof.Machine

/-- An entry as a mailbox reads it (R464). -/
def State.readEntry (s : State) (h : CmdHdr) (e : JEntry) : List Byte :=
  if s.role h.mbx h.sender == .none && e.source != mbxSource h.mbx then e.masked else e.enc

def identifyReply (s : State) : List Byte :=
  le 8 s.mod.serial.toNat ++ [2, 1] ++ zeros 6 ++ s.running.flatMap fun v => le 4 v.toNat

def execIdentify (h : CmdHdr) (s : State) : Out :=
  done (s.mailbox h { opcode := 0x0001, roles := anyRole, query := true, boot := true, recov := true } (fun _ => none)
    fun _ s => (identifyReply s, 0, s))

def stateReply (h : CmdHdr) (s : State) : List Byte :=
  le 1 s.mod.phase.code ++ le 4 s.idState ++ le 1 (s.role h.mbx h.sender).code ++ zeros 2 ++ le 8 s.mbx.next ++ le 8 s.jnlOldest ++ le 8 s.now

def execGetState (h : CmdHdr) (s : State) : Out :=
  done (s.mailbox h { opcode := 0x0002, roles := anyRole, query := true, boot := true, recov := true } (fun _ => none)
    fun _ s => (stateReply h s, 0, s))

/-- The command JOURNAL_READ with a mode. -/
def journalRead (frm count mode : Nat) : Cmd :=
  { opcode := 0x0003, segs := [.f 8 frm, .f 1 count, .f 1 mode, .r 6], roles := anyRole, query := true, recov := true }

def entriesReply (h : CmdHdr) (frm count : Nat) (s : State) : List Byte :=
  let first := max frm s.jnlOldest
  let l := (List.range count).filterMap fun i => s.entryOf (first + i)
  le 8 first ++ le 1 l.length ++ zeros 7 ++ l.flatMap fun e => s.readEntry h e

def execJournalReadEntries (h : CmdHdr) (frm : BitVec 64) (count : Byte) (s : State) : Out :=
  done (s.mailbox h (journalRead frm.toNat count.toNat 0) (fun _ => if count.toNat == 0 || 7 < count.toNat then bad else none)
    fun _ s => (entriesReply h frm.toNat count.toNat s, 0, s))

def rejectsReply (h : CmdHdr) (frm count : Nat) (s : State) : List Byte :=
  let l := ((s.mb h.mbx).rejects.drop frm).take count
  le 1 l.length ++ zeros 15 ++ l.flatMap Reject.enc

def execJournalReadRejects (h : CmdHdr) (frm : BitVec 64) (count : Byte) (s : State) : Out :=
  done (s.mailbox h (journalRead frm.toNat count.toNat 1) (fun _ => if count.toNat == 0 || 29 < count.toNat then bad else none)
    fun _ s => (rejectsReply h frm.toNat count.toNat s, 0, s))

def findTagReply (h : CmdHdr) (tag : BitVec 64) (s : State) : List Byte :=
  match s.mbx.journal.find? fun e => e.tag == tag with
  | some e => le 1 1 ++ zeros 7 ++ s.readEntry h e
  | none => zeros 8

def execJournalFindTag (h : CmdHdr) (tag : BitVec 64) (s : State) : Out :=
  done (s.mailbox h { opcode := 0x0004, segs := [.f 8 tag.toNat], roles := anyRole, query := true, recov := true }
    (fun _ => if tag == 0 then bad else none) fun _ s => (findTagReply h tag s, 0, s))

end Sys2Proof.Machine
end

