-- ==== Sys2Proof/Machine/WellEvents.lean ====
section
/-! DEFINITION. Moments of wells: fills, the ends of resizes and revocations, background zeroing and the chunks of a migration
(03 R49, R66, R69, R81 to R84, R90 to R94). -/
namespace Sys2Proof.Machine

/-- The bytes of a new well read zero: it is LIVE, and its WELL_CREATE completes (R49, R66). -/
def State.zeroFilled (s : State) (i : Nat) : State :=
  let w := s.well i
  if w.st != .creating then s
  else
    let s := (s.zeroed w.start w.length).modWell i fun w => { w with st := .live, wb := none }
    s.readyOpt w.wb .ok (le 4 (s.wellHandle i) ++ le 8 w.start)

def execZeroFillDone (well : BitVec 16) (s : State) : Out := done (s.zeroFilled well.toNat)

/-- The bytes a grow adds read zero, and belong to the well (R49, R69). -/
def State.growDone (s : State) (i : Nat) : State :=
  let w := s.well i
  match w.resize with
  | some r =>
    if w.st == .resizing && w.length < r.newLen then
      let s := (s.zeroed (w.start + w.length) (r.newLen - w.length)).resized i r.newLen
      -- the other copy does not hold what a DEGRADED or RESYNC one gains (16 R496)
      let s := if w.mirSt == some .degraded || w.mirSt == some .resync then s.markSpan i w.length r.newLen else s
      s.ready r.wb .ok []
    else s
  | none => s

def execResizeGrowDone (well : BitVec 16) (s : State) : Out := done (s.growDone well.toNat)

/-- The revocation of a well's grant to a station, the first of them that meets a condition. -/
def State.revOf (s : State) (i n : Nat) (f : Rev → Bool) : Option Rev := s.pool.revs.find? fun v => v.well == i && v.station == n && f v

/-- 50 us after the start of a sequence, what it still waits for ends as late (R83). -/
def State.drainTimeout (s : State) (i n : Nat) : State :=
  match s.revOf i n fun v => !v.late with
  | some v => (((s.until (v.start + 50000)).drainOut v).modPool fun p => { p with revs := p.revs.map fun u => if u == v then { u with late := true } else u })
  | none => s

def execRevocationDrainTimeout (well : BitVec 16) (n : Station) (s : State) : Out := done (s.drainTimeout well.toNat n.val)

/-- A sequence whose drain and snoops have ended reaches unmap (R81). -/
def State.revComplete (s : State) (i n : Nat) : State :=
  match s.revOf i n s.revDrained with
  | some v => s.endRev v
  | none => s

def execRevocationComplete (well : BitVec 16) (n : Station) (s : State) : Out := done (s.revComplete well.toNat n.val)

def execBackgroundZeroing (dpa length : BitVec 48) (s : State) : Out := done (s.zeroFree dpa.toNat length.toNat)

/-- A chunk is committed; after the last one, translations of the copy that goes are dropped (R90, R93; 13 R392). -/
def State.chunkDone (s : State) (i : Nat) : State :=
  match (s.well i).mig with
  | none => s
  | some m =>
    if !m.transit then s
    else
      let (src, dst) := (s.well i).chunkEnds m
      let (awake, s) := s.stacksReady ((List.range 1024).flatMap fun k => [src + 64 * k, dst + 64 * k])
      if !awake then s
      else
      let s := s.commitChunk i
      let w := s.well i
      if (w.mig.map (·.transit)) == some true then s
      else
        let s := if (w.mig.map fun m => m.ended w.length) == some true then s.dropWellRanges i else s
        s.releaseHeld

def execMigrateChunkCommit (well : BitVec 16) (s : State) : Out := done (s.chunkDone well.toNat)

def execMigrateChunkStart (well : BitVec 16) (s : State) : Out := done (s.startChunk well.toNat)

/-- The copy-back has ended: the target is released, and both commands complete (R94). -/
def State.cancelDone (s : State) (i : Nat) : State :=
  let w := s.well i
  match w.mig with
  | none => s
  | some m => match m.cancel with
    | none => s
    | some c =>
      if m.point != 0 || m.transit || w.doomed || !s.wellSwitched i || s.isDown w then s
      else
        let s := (s.releaseRun m.start w.length).modWell i fun w => { w with st := .live, mig := none }
        ((s.tidyGranules.ready c .ok []).ready m.wb .ok [1])

def execMigrateCancelComplete (well : BitVec 16) (s : State) : Out := done (s.cancelDone well.toNat)

end Sys2Proof.Machine
end

