-- ==== Sys2Proof/Machine/Dispatch.lean ====
section
/-! DEFINITION. The dispatch of commands: one arm per row of the opcode table. -/
namespace Sys2Proof.Machine

/-- The effect of a command on everything but the queue. -/
def exec (i : Instr) (s : State) : Host.Outcome State Fault Refusal :=
  match i with
  | .identify h => Sys2Proof.Machine.execIdentify h s
  | .getState h => Sys2Proof.Machine.execGetState h s
  | .journalReadEntries h frm count => Sys2Proof.Machine.execJournalReadEntries h frm count s
  | .journalReadRejects h frm count => Sys2Proof.Machine.execJournalReadRejects h frm count s
  | .journalFindTag h tag => Sys2Proof.Machine.execJournalFindTag h tag s
  | .wellCreate h length place flags owner cistern peer => Sys2Proof.Machine.execWellCreate h length place flags owner cistern peer s
  | .wellDestroy h handle => Sys2Proof.Machine.execWellDestroy h handle s
  | .wellResize h handle newLength peer => Sys2Proof.Machine.execWellResize h handle newLength peer s
  | .wellGrant h handle station rights decoder => Sys2Proof.Machine.execWellGrant h handle station rights decoder s
  | .wellRevoke h handle station => Sys2Proof.Machine.execWellRevoke h handle station s
  | .wellQuery h handle => Sys2Proof.Machine.execWellQuery h handle s
  | .wellQuerySummary h => Sys2Proof.Machine.execWellQuerySummary h s
  | .migrate h handle place rsvFlags rate => Sys2Proof.Machine.execMigrate h handle place rsvFlags rate s
  | .migrateCancel h handle place rsvFlags rate => Sys2Proof.Machine.execMigrateCancel h handle place rsvFlags rate s
  | .cisternCreate h name tbi => Sys2Proof.Machine.execCisternCreate h name tbi s
  | .cisternJoin h cistern station => Sys2Proof.Machine.execCisternJoin h cistern station s
  | .cisternLeave h cistern station => Sys2Proof.Machine.execCisternLeave h cistern station s
  | .cisternRecoverZero h cistern => Sys2Proof.Machine.execCisternRecoverZero h cistern s
  | .cisternRecoverKeep h cistern => Sys2Proof.Machine.execCisternRecoverKeep h cistern s
  | .cisternRecoverDissolve h cistern => Sys2Proof.Machine.execCisternRecoverDissolve h cistern s
  | .cisternQuery h cistern => Sys2Proof.Machine.execCisternQuery h cistern s
  | .contextCreate h name diePref => Sys2Proof.Machine.execContextCreate h name diePref s
  | .contextDestroy h context => Sys2Proof.Machine.execContextDestroy h context s
  | .rangeTableSet h context first count entries peer => Sys2Proof.Machine.execRangeTableSet h context first count entries peer s
  | .rangeInvalidateSpan h context well vbase length => Sys2Proof.Machine.execRangeInvalidateSpan h context well vbase length s
  | .rangeInvalidateWell h context well vbase length => Sys2Proof.Machine.execRangeInvalidateWell h context well vbase length s
  | .adviseNormal h context die vbase length => Sys2Proof.Machine.execAdviseNormal h context die vbase length s
  | .adviseWillUse h context die vbase length => Sys2Proof.Machine.execAdviseWillUse h context die vbase length s
  | .adviseDontNeed h context die vbase length => Sys2Proof.Machine.execAdviseDontNeed h context die vbase length s
  | .adviseSetDiePref h context die vbase length => Sys2Proof.Machine.execAdviseSetDiePref h context die vbase length s
  | .stationXlateMode h station mode => Sys2Proof.Machine.execStationXlateMode h station mode s
  | .platformCreate h ringWell station partition vector ringOff context slotsLog2 allot stationMask => Sys2Proof.Machine.execPlatformCreate h ringWell station partition vector ringOff context slotsLog2 allot stationMask s
  | .platformDestroy h platform => Sys2Proof.Machine.execPlatformDestroy h platform s
  | .platformDrainFinish h platform => Sys2Proof.Machine.execPlatformDrainFinish h platform s
  | .platformDrainAbort h platform => Sys2Proof.Machine.execPlatformDrainAbort h platform s
  | .platformDrainResume h platform => Sys2Proof.Machine.execPlatformDrainResume h platform s
  | .partitionSet h partition lwait quota pumps => Sys2Proof.Machine.execPartitionSet h partition lwait quota pumps s
  | .namespaceCreate h store format width nkvh nlayers leaseS quota flags => Sys2Proof.Machine.execNamespaceCreate h store format width nkvh nlayers leaseS quota flags s
  | .namespaceDestroy h handle => Sys2Proof.Machine.execNamespaceDestroy h handle s
  | .namespaceQuota h handle quota leaseS flags => Sys2Proof.Machine.execNamespaceQuota h handle quota leaseS flags s
  | .cacheEnable h slices flags station value => Sys2Proof.Machine.execCacheEnable h slices flags station value s
  | .cacheDisable h slices flags station value => Sys2Proof.Machine.execCacheDisable h slices flags station value s
  | .cacheFlush h slices flags station value => Sys2Proof.Machine.execCacheFlush h slices flags station value s
  | .cacheInvalidate h slices flags station value => Sys2Proof.Machine.execCacheInvalidate h slices flags station value s
  | .cacheSetThreshold h slices flags station value => Sys2Proof.Machine.execCacheSetThreshold h slices flags station value s
  | .cacheSetTHold h slices flags station value => Sys2Proof.Machine.execCacheSetTHold h slices flags station value s
  | .cacheSetQuota h slices flags station value => Sys2Proof.Machine.execCacheSetQuota h slices flags station value s
  | .cacheStatus h slices flags station value => Sys2Proof.Machine.execCacheStatus h slices flags station value s
  | .twinPair h rate peer => Sys2Proof.Machine.execTwinPair h rate peer s
  | .twinUnpairEmpty h => Sys2Proof.Machine.execTwinUnpairEmpty h s
  | .twinUnpairSplit h => Sys2Proof.Machine.execTwinUnpairSplit h s
  | .twinSwitchover h target scope rsvFlags => Sys2Proof.Machine.execTwinSwitchover h target scope rsvFlags s
  | .twinTakeover h target scope rsvFlags => Sys2Proof.Machine.execTwinTakeover h target scope rsvFlags s
  | .twinStatus h handle => Sys2Proof.Machine.execTwinStatus h handle s
  | .faultStatus h frm count filter => Sys2Proof.Machine.execFaultStatus h frm count filter s
  | .faultAck h seq mode => Sys2Proof.Machine.execFaultAck h seq mode s
  | .faultPolicySet h source reaction flags threshold windowS => Sys2Proof.Machine.execFaultPolicySet h source reaction flags threshold windowS s
  | .unitHistoryRead h unitKind unit frm count => Sys2Proof.Machine.execUnitHistoryRead h unitKind unit frm count s
  | .fieldTestPolicy h flags intervalS maxOutUs scrubH => Sys2Proof.Machine.execFieldTestPolicy h flags intervalS maxOutUs scrubH s
  | .powerLimitSet h limitW flags hotIdleUs warmIdleUs dormantIdleMs => Sys2Proof.Machine.execPowerLimitSet h limitW flags hotIdleUs warmIdleUs dormantIdleMs s
  | .powerStatus h => Sys2Proof.Machine.execPowerStatus h s
  | .fwStage h well offset length pkg => Sys2Proof.Machine.execFwStage h well offset length pkg s
  | .fwActivate h index flags versions => Sys2Proof.Machine.execFwActivate h index flags versions s
  | .fwManifestRead h first count => Sys2Proof.Machine.execFwManifestRead h first count s
  | .roleAuthChallenge h role credId signature => Sys2Proof.Machine.execRoleAuthChallenge h role credId signature s
  | .roleAuthRespond h role credId signature => Sys2Proof.Machine.execRoleAuthRespond h role credId signature s
  | .roleDrop h => Sys2Proof.Machine.execRoleDrop h s
  | .keyGenerate h p => Sys2Proof.Machine.execKeyGenerate h p s
  | .keyBind h p => Sys2Proof.Machine.execKeyBind h p s
  | .keyErase h p => Sys2Proof.Machine.execKeyErase h p s
  | .credSet h p => Sys2Proof.Machine.execCredSet h p s
  | .credErase h p => Sys2Proof.Machine.execCredErase h p s
  | .auditRead h ring count frm => Sys2Proof.Machine.execAuditRead h ring count frm s
  | .moduleDrain h flags => Sys2Proof.Machine.execModuleDrain h flags s
  | .moduleDrainOff h flags => Sys2Proof.Machine.execModuleDrainOff h flags s
  | .moduleDrainResume h flags => Sys2Proof.Machine.execModuleDrainResume h flags s
  | .moduleDrainEmpty h flags => Sys2Proof.Machine.execModuleDrainEmpty h flags s
  | .spareActivate h stack mode location => Sys2Proof.Machine.execSpareActivate h stack mode location s
  | .factoryTestEnter h serial => Sys2Proof.Machine.execFactoryTestEnter h serial s
  | .injectRaise h p => Sys2Proof.Machine.execInjectRaise h p s
  | .injectFlip1 h p => Sys2Proof.Machine.execInjectFlip1 h p s
  | .injectFlip2 h p => Sys2Proof.Machine.execInjectFlip2 h p s
  | .injectPoison h p => Sys2Proof.Machine.execInjectPoison h p s
  | .injectParity h p => Sys2Proof.Machine.execInjectParity h p s
  | .injectChecksum h p => Sys2Proof.Machine.execInjectChecksum h p s
  | .injectLinkCrc h p => Sys2Proof.Machine.execInjectLinkCrc h p s
  | .injectClearHistory h p => Sys2Proof.Machine.execInjectClearHistory h p s
  | .asyncCommandComplete waybill => Sys2Proof.Machine.execAsyncCommandComplete waybill s
  | .crossoverMailboxMessage m => Sys2Proof.Machine.execCrossoverMailboxMessage m s
  | .platformDoorbell n platform size sqTail cqHead rsv => Sys2Proof.Machine.execPlatformDoorbell n platform size sqTail cqHead rsv s
  | .platformRestart n platform size sqTail cqHead rsv => Sys2Proof.Machine.execPlatformRestart n platform size sqTail cqHead rsv s
  | .nop plat idx => Sys2Proof.Machine.execNop plat idx s
  | .draw plat idx => Sys2Proof.Machine.execDraw plat idx s
  | .drawTree plat idx => Sys2Proof.Machine.execDrawTree plat idx s
  | .merge plat idx => Sys2Proof.Machine.execMerge plat idx s
  | .encode plat idx => Sys2Proof.Machine.execEncode plat idx s
  | .fetch plat idx => Sys2Proof.Machine.execFetch plat idx s
  | .copy plat idx => Sys2Proof.Machine.execCopy plat idx s
  | .fill plat idx => Sys2Proof.Machine.execFill plat idx s
  | .gather plat idx => Sys2Proof.Machine.execGather plat idx s
  | .scatter plat idx => Sys2Proof.Machine.execScatter plat idx s
  | .atomic plat idx => Sys2Proof.Machine.execAtomic plat idx s
  | .atomicOperationAtHome plat idx op => Sys2Proof.Machine.execAtomicOperationAtHome plat idx op s
  | .gemm plat idx => Sys2Proof.Machine.execGemm plat idx s
  | .lowrank plat idx => Sys2Proof.Machine.execLowrank plat idx s
  | .checksum plat idx => Sys2Proof.Machine.execChecksum plat idx s
  | .prefixLookup plat idx => Sys2Proof.Machine.execPrefixLookup plat idx s
  | .prefixInsert plat idx => Sys2Proof.Machine.execPrefixInsert plat idx s
  | .prefixRelease plat idx => Sys2Proof.Machine.execPrefixRelease plat idx s
  | .prefixRenew plat idx => Sys2Proof.Machine.execPrefixRenew plat idx s
  | .evenLookupCommit plat idx => Sys2Proof.Machine.execEvenLookupCommit plat idx s
  | .prefixPendingResolved plat idx => Sys2Proof.Machine.execPrefixPendingResolved plat idx s
  | .holdLeaseExpire hold => Sys2Proof.Machine.execHoldLeaseExpire hold s
  | .pumpJobHandoff p => Sys2Proof.Machine.execPumpJobHandoff p s
  | .tileLoadDone p lines host => Sys2Proof.Machine.execTileLoadDone p lines host s
  | .tileStepDone p fail => Sys2Proof.Machine.execTileStepDone p fail s
  | .stepReplayDone p pass => Sys2Proof.Machine.execStepReplayDone p pass s
  | .pumpHangTimeout p => Sys2Proof.Machine.execPumpHangTimeout p s
  | .rangeCacheFill p context entry peer => Sys2Proof.Machine.execRangeCacheFill p context entry peer s
  | .rangeSwitchTimeout p => Sys2Proof.Machine.execRangeSwitchTimeout p s
  | .jobEnd plat idx => Sys2Proof.Machine.execJobEnd plat idx s
  | .completionRecordWrite plat => Sys2Proof.Machine.execCompletionRecordWrite plat s
  | .sealWrite plat idx => Sys2Proof.Machine.execSealWrite plat idx s
  | .deviceWriteGo n id data => Sys2Proof.Machine.execDeviceWriteGo n id data s
  | .stationCtoExpire n id => Sys2Proof.Machine.execStationCtoExpire n id s
  | .atsTranslationCompletion n address answer => Sys2Proof.Machine.execAtsTranslationCompletion n address answer s
  | .atsInvalidateRequest n address k => Sys2Proof.Machine.execAtsInvalidateRequest n address k s
  | .memRdS n hpa => Sys2Proof.Machine.execMemRdS n hpa s
  | .memRdA n hpa => Sys2Proof.Machine.execMemRdA n hpa s
  | .memRdOwn n hpa => Sys2Proof.Machine.execMemRdOwn n hpa s
  | .memRdCur n hpa => Sys2Proof.Machine.execMemRdCur n hpa s
  | .memInvOwn n hpa => Sys2Proof.Machine.execMemInvOwn n hpa s
  | .memDrop n hpa => Sys2Proof.Machine.execMemDrop n hpa s
  | .memSpecRd n hpa => Sys2Proof.Machine.execMemSpecRd n hpa s
  | .memWb n hpa data mask => Sys2Proof.Machine.execMemWb n hpa data mask s
  | .memWbS n hpa data => Sys2Proof.Machine.execMemWbS n hpa data s
  | .memUcWr n hpa data mask => Sys2Proof.Machine.execMemUcWr n hpa data mask s
  | .plainMemRead n hpa => Sys2Proof.Machine.execPlainMemRead n hpa s
  | .plainMemWrite n hpa data mask => Sys2Proof.Machine.execPlainMemWrite n hpa data mask s
  | .biRsp n hpa rsp => Sys2Proof.Machine.execBiRsp n hpa rsp s
  | .biConflict n hpa => Sys2Proof.Machine.execBiConflict n hpa s
  | .holdEnd dpa => Sys2Proof.Machine.execHoldEnd dpa s
  | .biTimerExpire holder dpa => Sys2Proof.Machine.execBiTimerExpire holder dpa s
  | .downWalkEnd cistern => Sys2Proof.Machine.execDownWalkEnd cistern s
  | .cisternRecoveryDone cistern => Sys2Proof.Machine.execCisternRecoveryDone cistern s
  | .retryStoreRepresent n => Sys2Proof.Machine.execRetryStoreRepresent n s
  | .apertureRead n offset size => Sys2Proof.Machine.execApertureRead n offset size s
  | .apertureWrite n offset data => Sys2Proof.Machine.execApertureWrite n offset data s
  | .winBaseWrite n half value => Sys2Proof.Machine.execWinBaseWrite n half value s
  | .jnlMarkWrite n half value => Sys2Proof.Machine.execJnlMarkWrite n half value s
  | .jnlThresholdWrite n value => Sys2Proof.Machine.execJnlThresholdWrite n value s
  | .registerWrite n offset size value => Sys2Proof.Machine.execRegisterWrite n offset size value s
  | .msixVectorUnmask n vector => Sys2Proof.Machine.execMsixVectorUnmask n vector s
  | .hdmDecoderCommit n decoder base size ways => Sys2Proof.Machine.execHdmDecoderCommit n decoder base size ways s
  | .hdmDecoderUncommit n decoder => Sys2Proof.Machine.execHdmDecoderUncommit n decoder s
  | .d3hotEntry n => Sys2Proof.Machine.execD3hotEntry n s
  | .d0Return n => Sys2Proof.Machine.execD0Return n s
  | .perstAssert n => Sys2Proof.Machine.execPerstAssert n s
  | .perstDeassert n => Sys2Proof.Machine.execPerstDeassert n s
  | .hotReset n => Sys2Proof.Machine.execHotReset n s
  | .functionLevelReset n => Sys2Proof.Machine.execFunctionLevelReset n s
  | .linkDlUp n mode cacheEn memEn biEn atsEn cto => Sys2Proof.Machine.execLinkDlUp n mode cacheEn memEn biEn atsEn cto s
  | .linkDlDown n => Sys2Proof.Machine.execLinkDlDown n s
  | .linkRecoveryEntry n => Sys2Proof.Machine.execLinkRecoveryEntry n s
  | .linkRecoveryEnd n => Sys2Proof.Machine.execLinkRecoveryEnd n s
  | .flitAck n req rwd rsp => Sys2Proof.Machine.execFlitAck n req rwd rsp s
  | .memoryActiveReturn n => Sys2Proof.Machine.execMemoryActiveReturn n s
  | .h2dSnoop n hpa kind => Sys2Proof.Machine.execH2dSnoop n hpa kind s
  | .streamTrackerRelease die slot => Sys2Proof.Machine.execStreamTrackerRelease die slot s
  | .cacheWalkDone die => Sys2Proof.Machine.execCacheWalkDone die s
  | .zeroFillDone well => Sys2Proof.Machine.execZeroFillDone well s
  | .resizeGrowDone well => Sys2Proof.Machine.execResizeGrowDone well s
  | .revocationDrainTimeout well n => Sys2Proof.Machine.execRevocationDrainTimeout well n s
  | .revocationComplete well n => Sys2Proof.Machine.execRevocationComplete well n s
  | .backgroundZeroing dpa length => Sys2Proof.Machine.execBackgroundZeroing dpa length s
  | .migrateChunkCommit well => Sys2Proof.Machine.execMigrateChunkCommit well s
  | .migrateChunkStart well => Sys2Proof.Machine.execMigrateChunkStart well s
  | .migrateCancelComplete well => Sys2Proof.Machine.execMigrateCancelComplete well s
  | .twinPresenceLost => Sys2Proof.Machine.execTwinPresenceLost s
  | .crossoverLinkDown k => Sys2Proof.Machine.execCrossoverLinkDown k s
  | .crossoverSilence => Sys2Proof.Machine.execCrossoverSilence s
  | .presenceWaitExpire => Sys2Proof.Machine.execPresenceWaitExpire s
  | .keepaliveSend k => Sys2Proof.Machine.execKeepaliveSend k s
  | .mirrorWriteReceive id handle off data mask poison => Sys2Proof.Machine.execMirrorWriteReceive id handle off data mask poison s
  | .mirrorWriteAck id => Sys2Proof.Machine.execMirrorWriteAck id s
  | .mirrorAckTimeout id => Sys2Proof.Machine.execMirrorAckTimeout id s
  | .twinAnnounceReceive what => Sys2Proof.Machine.execTwinAnnounceReceive what s
  | .fenceOrderReceive => Sys2Proof.Machine.execFenceOrderReceive s
  | .switchoverGapEnd => Sys2Proof.Machine.execSwitchoverGapEnd s
  | .grantRecordReceive id handle off what => Sys2Proof.Machine.execGrantRecordReceive id handle off what s
  | .healthReportSend => Sys2Proof.Machine.execHealthReportSend s
  | .healthReportReceive r => Sys2Proof.Machine.execHealthReportReceive r s
  | .twinReportsMissed => Sys2Proof.Machine.execTwinReportsMissed s
  | .mirrorAuditPage handle page other => Sys2Proof.Machine.execMirrorAuditPage handle page other s
  | .resyncPageCopy handle page image => Sys2Proof.Machine.execResyncPageCopy handle page image s
  | .auditRecordReceive r => Sys2Proof.Machine.execAuditRecordReceive r s
  | .faultDetected source unit object address detail => Sys2Proof.Machine.execFaultDetected source unit object address detail s
  | .scrubLine dpa => Sys2Proof.Machine.execScrubLine dpa s
  | .modErrOneShotEnd => Sys2Proof.Machine.execModErrOneShotEnd s
  | .aliveToggle => Sys2Proof.Machine.execAliveToggle s
  | .aliveToggleMissed => Sys2Proof.Machine.execAliveToggleMissed s
  | .signalBoxWatchdogExpire => Sys2Proof.Machine.execSignalBoxWatchdogExpire s
  | .coreWatchdogExpire core => Sys2Proof.Machine.execCoreWatchdogExpire core s
  | .blockResetDone unitKind unit => Sys2Proof.Machine.execBlockResetDone unitKind unit s
  | .katTurn p => Sys2Proof.Machine.execKatTurn p s
  | .katPartDone p pass => Sys2Proof.Machine.execKatPartDone p pass s
  | .drainDelayExpire => Sys2Proof.Machine.execDrainDelayExpire s
  | .ideIntegrityFail stream => Sys2Proof.Machine.execIdeIntegrityFail stream s
  | .ideStreamEnd link => Sys2Proof.Machine.execIdeStreamEnd link s
  | .spdmSessionEstablish port what peer => Sys2Proof.Machine.execSpdmSessionEstablish port what peer s
  | .spdmRequest port ask => Sys2Proof.Machine.execSpdmRequest port ask s
  | .mgmtSessionIdle m => Sys2Proof.Machine.execMgmtSessionIdle m s
  | .authLockoutEnd m => Sys2Proof.Machine.execAuthLockoutEnd m s
  | .challengeExpire m => Sys2Proof.Machine.execChallengeExpire m s
  | .vinSample mv ma => Sys2Proof.Machine.execVinSample mv ma s
  | .converterLost k => Sys2Proof.Machine.execConverterLost k s
  | .railFault rail => Sys2Proof.Machine.execRailFault rail s
  | .railSample rail mv current10mA temp => Sys2Proof.Machine.execRailSample rail mv current10mA temp s
  | .powerManagerStep inputW => Sys2Proof.Machine.execPowerManagerStep inputW s
  | .thermalSample sensors dram => Sys2Proof.Machine.execThermalSample sensors dram s
  | .stackDormantEntry die => Sys2Proof.Machine.execStackDormantEntry die s
  | .stackWakeDone die => Sys2Proof.Machine.execStackWakeDone die s
  | .pumpHotToWarm p => Sys2Proof.Machine.execPumpHotToWarm p s
  | .pumpWarmToCold p => Sys2Proof.Machine.execPumpWarmToCold p s
  | .pumpWakeDone p => Sys2Proof.Machine.execPumpWakeDone p s
  | .sbImageCheckDone pass0 pass1 => Sys2Proof.Machine.execSbImageCheckDone pass0 pass1 s
  | .componentCheckDone passes => Sys2Proof.Machine.execComponentCheckDone passes s
  | .stackTrainingDone failedStack => Sys2Proof.Machine.execStackTrainingDone failedStack s
  | .metadataRestoreDone ok => Sys2Proof.Machine.execMetadataRestoreDone ok s
  | .bringUpComplete failed => Sys2Proof.Machine.execBringUpComplete failed s
  | .fwComponentSwitchDone pass => Sys2Proof.Machine.execFwComponentSwitchDone pass s
  | .crossoverLinkUp k laneFail localPass peerPass => Sys2Proof.Machine.execCrossoverLinkUp k laneFail localPass peerPass s
  | .twinAccessReceive a => Sys2Proof.Machine.execTwinAccessReceive a s
  | .twinResponseReceive id data mark => Sys2Proof.Machine.execTwinResponseReceive id data mark s
  | .twinSnoopReceive id handle off => Sys2Proof.Machine.execTwinSnoopReceive id handle off s
  | .twinDeclarationReceive cistern cause => Sys2Proof.Machine.execTwinDeclarationReceive cistern cause s
  | .nmiCaptureDone unitKind unit => Sys2Proof.Machine.execNmiCaptureDone unitKind unit s
  | .replayPumpWaitExpire p => Sys2Proof.Machine.execReplayPumpWaitExpire p s
  | .vinOvervoltageTrip => Sys2Proof.Machine.execVinOvervoltageTrip s
  | .inputFail => Sys2Proof.Machine.execInputFail s
  | .vinLow => Sys2Proof.Machine.execVinLow s
  | .vinHigh => Sys2Proof.Machine.execVinHigh s
  | .currentLimitTimeout => Sys2Proof.Machine.execCurrentLimitTimeout s
  | .hotSwapRetry => Sys2Proof.Machine.execHotSwapRetry s
  | .hotSwapClose => Sys2Proof.Machine.execHotSwapClose s
  | .inrushSlopeEnd => Sys2Proof.Machine.execInrushSlopeEnd s
  | .thermalShutdown => Sys2Proof.Machine.execThermalShutdown s
  | .attnButtonPress => Sys2Proof.Machine.execAttnButtonPress s
  | .attnCancelWindowEnd => Sys2Proof.Machine.execAttnCancelWindowEnd s
  | .modRstAssert => Sys2Proof.Machine.execModRstAssert s
  | .bringUpStart => Sys2Proof.Machine.execBringUpStart s
  | .restoredWellFillDone => Sys2Proof.Machine.execRestoredWellFillDone s
  | .metadataLogFlush => Sys2Proof.Machine.execMetadataLogFlush s
  | .sbHandoverEnd => Sys2Proof.Machine.execSbHandoverEnd s
  | .spareSpanCopyDone => Sys2Proof.Machine.execSpareSpanCopyDone s
  | .twinPresenceGained => Sys2Proof.Machine.execTwinPresenceGained s
  | .standbySupplyLost => Sys2Proof.Machine.execStandbySupplyLost s
  | .standbySupplyReturn => Sys2Proof.Machine.execStandbySupplyReturn s

end Sys2Proof.Machine
end

