-- ==== Sys2Proof/Safety.lean ====
section
/-! DEFINITION. The terms the statements use: an outcome that is a next state, a command that takes effect, a mailbox command
that passes the checks every command passes, and the reply it gets. -/
namespace Sys2Proof.Machine

/-- The outcome is a next state. -/
def outcomeIsNext : Host.Outcome State Fault Refusal → Bool
  | .next _ => true
  | .fault _ => false
  | .refused _ => false

/-- The step of `s` completes. -/
def Safe (s : State) : Prop := outcomeIsNext (step s) = true

/-- The command `c` completes at `s`: it answers a next state, which is what follows every command (`finish`: waits that are
met, reactions, the levels of the pins) in a state that holds the command's own effect, `P`. -/
def Leads (c : Instr) (s : State) (P : State → Prop) : Prop := ∃ u, exec c s = .next (finish u) ∧ P u

/-- Nothing waits in the state that could go on by itself: what follows a command changes the pins alone. -/
def Settled (s : State) : Prop := s.todo = [] ∧ s.steps = s ∧ s.powerSeq = s

/-- A mailbox command passes the checks that every command passes, in order: the mailbox answers and is not BUSY, the session
is one of `roles`, no NMI captures the core that serves it, header and payload length are right, the tag is new or zero or that of a `query`,
the entry of a command that is no `query` can be written in both rings of a pair, the module is in service, drained or
in factory test mode, or in bring-up (`boot`) or recovery (`recov`) for a command that these phases take, and no reserved byte is set (15 R457;
15 R467; 17 R521; 20 R593, R596). -/
structure Fit (s : State) (h : CmdHdr) (roles : List Role) (len : Nat) (boot recov query : Bool := false) : Prop where
  reached : s.reaches h.mbx = true
  core : s.captured 6 (coreOf h.mbx) = false
  ring : query = true ∨ s.ringAwaits h = false
  idle : (s.mb h.mbx).handover = false ∧ s.fw.handover = false ∧ s.gapNow = false
  phase : (boot = true ∨ s.mod.phase ≠ .bringUp) ∧ (recov = true ∨ s.mod.phase ≠ .recovery)
  role : s.role h.mbx h.sender ∈ roles
  header : h.ver = 1 ∧ h.rsvHdr = 0 ∧ h.flags.toNat ≤ 1
  length : len ≤ h.len.toNat ∧ h.len.toNat ≤ 4032
  tag : query = true ∨ h.tag = 0 ∨ s.mbx.journal.find? (·.tag == h.tag) = none
  reserved : ∀ b ∈ h.rsvPay, b = 0

/-- The last thing sent is the reply to the command, with this code and status and the command's tag. -/
def Replied (h : CmdHdr) (opcode : Nat) (st : Status) (u : State) : Prop :=
  ∃ r, u.out.head? = some (.reply h.mbx h.sender r) ∧ r.opcode = opcode ∧ r.status = st ∧ r.tag = h.tag

/-- Two states agree in everything but what carries a mailbox command itself: the command and reply areas, journal, reject history,
audit log, pending interrupts, and what was sent. -/
structure Same (s t : State) : Prop where
  pending : t.pending = s.pending
  freeCtr : t.freeCtr = s.freeCtr
  todo : t.todo = s.todo
  now : t.now = s.now
  mem : t.mem = s.mem
  poison : t.poison = s.poison
  upsets : t.upsets = s.upsets
  poisonMap : t.poisonMap = s.poisonMap
  pool : t.pool = s.pool
  home : t.home = s.home
  cache : t.cache = s.cache
  xl : t.xl = s.xl
  jobs : t.jobs = s.jobs
  pfx : t.pfx = s.pfx
  fw : t.fw = s.fw
  twin : t.twin = s.twin
  flt : t.flt = s.flt
  pwr : t.pwr = s.pwr
  mod : t.mod = s.mod
  pins : t.pins = s.pins
  stn : ∀ n, ∃ v, t.stnAt n = { s.stnAt n with vecs := v }
  session : ∀ m, (t.mb m).session = (s.mb m).session ∧ (t.mb m).cred = (s.mb m).cred ∧ (t.mb m).credSlot = (s.mb m).credSlot ∧
    (t.mb m).sender = (s.mb m).sender ∧ (t.mb m).challenge = (s.mb m).challenge ∧ (t.mb m).failures = (s.mb m).failures ∧
    (t.mb m).lockUntil = (s.mb m).lockUntil ∧ (t.mb m).handover = (s.mb m).handover
  creds : t.sec.creds = s.sec.creds
  keys : t.sec.keys = s.sec.keys
  spdm : t.sec.spdm = s.sec.spdm

/-- The mailbox command `i` takes effect at `s`: it answers a next state in which, beside what carries every command (`Same`), the
state is that which `E` makes, for the waybill the command got; its reply is sent with code and status. -/
def Effects (i : Instr) (s : State) (h : CmdHdr) (opcode : Nat) (st : Status) (E : Nat → State → State) : Prop :=
  ∃ wb t u, exec i s = .next (finish u) ∧ Same s t ∧ Same (E wb t) u ∧ Replied h opcode st u

/-- The query `i` is answered with OK and a payload, and changes nothing else. -/
def Answers (i : Instr) (s : State) (h : CmdHdr) (opcode : Nat) (payload : List Byte) : Prop :=
  ∃ u, exec i s = .next (finish u) ∧ Same s u ∧ ∃ r, u.out.head? = some (.reply h.mbx h.sender r) ∧ r.opcode = opcode ∧ r.status = .ok ∧
    r.tag = h.tag ∧ r.payload = payload

/-- The command completes at `s`, and what follows every command starts from `u`, the state of the command's own effect. -/
def Does (c : Instr) (s u : State) : Prop := exec c s = .next (finish u)

/-- The header of a mailbox command and the roles whose session may send it (19 R565). -/
def State.mailOf (s : State) : Instr → Option (CmdHdr × List Role)
  | .identify h | .getState h | .journalReadEntries h _ _ | .journalReadRejects h _ _ | .journalFindTag h _ | .twinStatus h _
  | .faultStatus h _ _ _ | .powerStatus h | .roleAuthChallenge h _ _ _ | .roleAuthRespond h _ _ _ | .roleDrop h => some (h, anyRole)
  | .wellCreate h _ _ _ _ _ _ | .wellDestroy h _ | .wellResize h _ _ _ | .wellGrant h _ _ _ _ | .wellRevoke h _ _
  | .wellQuerySummary h | .migrate h _ _ _ _ | .migrateCancel h _ _ _ _ | .cisternCreate h _ _ | .cisternJoin h _ _
  | .cisternLeave h _ _ | .cisternRecoverZero h _ | .cisternRecoverKeep h _ | .cisternRecoverDissolve h _ | .contextCreate h _ _
  | .contextDestroy h _ | .rangeTableSet h _ _ _ _ _ | .rangeInvalidateSpan h _ _ _ _ | .rangeInvalidateWell h _ _ _ _
  | .adviseNormal h _ _ _ _ | .adviseWillUse h _ _ _ _ | .adviseDontNeed h _ _ _ _ | .adviseSetDiePref h _ _ _ _
  | .stationXlateMode h _ _ | .platformCreate h _ _ _ _ _ _ _ _ _ | .platformDestroy h _ | .platformDrainFinish h _
  | .platformDrainAbort h _ | .platformDrainResume h _ | .partitionSet h _ _ _ _ | .namespaceCreate h _ _ _ _ _ _ _ _
  | .namespaceDestroy h _ | .namespaceQuota h _ _ _ _ | .cacheEnable h _ _ _ _ | .cacheDisable h _ _ _ _ | .cacheFlush h _ _ _ _
  | .cacheInvalidate h _ _ _ _ | .cacheSetThreshold h _ _ _ _ | .cacheSetTHold h _ _ _ _ | .cacheSetQuota h _ _ _ _
  | .cacheStatus h _ _ _ _ | .faultAck h _ _ => some (h, [.operator])
  | .wellQuery h handle => some (h, wellQueryRoles h handle.toNat s)
  | .cisternQuery h cis => some (h, cisQueryRoles h cis.toNat s)
  | .twinPair h _ _ | .twinUnpairEmpty h | .twinUnpairSplit h | .twinSwitchover h _ _ _ | .twinTakeover h _ _ _
  | .faultPolicySet h _ _ _ _ _ | .fieldTestPolicy h _ _ _ _ | .powerLimitSet h _ _ _ _ _ | .fwStage h _ _ _ _
  | .fwManifestRead h _ _ | .keyGenerate h _ | .keyBind h _ | .keyErase h _ | .credSet h _ | .credErase h _ | .moduleDrain h _
  | .moduleDrainOff h _ | .moduleDrainResume h _ | .moduleDrainEmpty h _ | .spareActivate h _ _ _ => some (h, [.installer])
  | .unitHistoryRead h _ _ _ _ | .auditRead h _ _ _ => some (h, [.operator, .installer, .maker])
  | .fwActivate h _ flags _ => some (h, if nbit flags.toNat 0 then [.maker] else [.installer])
  | .factoryTestEnter h _ | .injectRaise h _ | .injectFlip1 h _ | .injectFlip2 h _ | .injectPoison h _ | .injectParity h _
  | .injectChecksum h _ | .injectLinkCrc h _ | .injectClearHistory h _ => some (h, [.maker])
  | _ => none

/-- Nothing that carries a journaled command has changed either: no waybill is taken and no entry written (15 R458). -/
def Unrecorded (s t : State) : Prop := t.mbx.next = s.mbx.next ∧ t.mbx.journal = s.mbx.journal

/-- A directory entry that stands in E or M has exactly one holder (04 R105). -/
def DirEnt.owned (e : DirEnt) : Prop := e.excl ≠ .none → e.holders.length = 1

/-- No line has more than one holder in E or M, and none beside it: every directory entry that stands in E or M has exactly one holder (04 R105). -/
def OneOwner (s : State) : Prop := ∀ e ∈ s.home.dir, e.owned

/-- The classes of record that stop the alive toggle, UF, EN and FW, or a record with PIN (17 R525). -/
def stopsToggle (r : FaultRec) : Prop := r.acked = false ∧ (r.cls = 2 ∨ r.cls = 4 ∨ r.cls = 5 ∨ r.pin = true)

/-- The output pins stand as the rest of the state says, and no raised reaction is left over (16 R484; 17 R525; 18 R562; 20 R602). -/
structure PinsFollow (s : State) : Prop where
  reacted : s.todo = []
  unpowered : s.pwr.hotSwap ≠ .closed → s.pins.modErrLow = false ∧ s.pins.thermLow = false ∧ s.pins.presenceLow = false
  silent : s.pwr.hotSwap = .closed → s.answers = false ∨ s.mod.errForced = true → s.pins.modErrLow = true ∧ s.pins.presenceLow = false
  present : s.pwr.hotSwap = .closed → s.answers = true → s.mod.errForced = false → s.pins.presenceLow = true
  thermal : s.pwr.hotSwap = .closed → s.pins.thermLow = s.pwr.therm
  serving : s.pwr.hotSwap = .closed → s.answers = true → s.mod.errForced = false → s.mod.phase = .service ∨ s.mod.phase = .drained →
    (s.pins.modErrLow = true ↔ s.mod.oneShot = true ∨ ∃ r ∈ s.flt.records, r.acked = false ∧ r.pin = true)
  toggling : s.pwr.hotSwap = .closed → s.mod.phase = .bringUp ∨ s.mod.phase = .factory ∨ s.mod.phase = .recovery →
    (∃ r ∈ s.flt.records, stopsToggle r) → s.pins.modErrLow = true
  unlit : s.pwr.standby = false → s.pins.pwrLed = .off ∧ s.pins.attnLed = .off
  removable : s.pwr.standby = true → s.mod.poweredDown = true → s.pins.pwrLed = .off ∧ s.pins.attnLed = .on
  stopped : s.pwr.standby = true → s.mod.poweredDown = false → s.mod.stage = .stopped → s.pins.pwrLed = .blink ∧ s.pins.attnLed = .blink
  flagged : s.pwr.standby = true → s.mod.poweredDown = false → s.flt.replaceFlag = true → s.mod.phase ≠ .drained → s.pins.attnLed = .blink
  busy : s.pwr.standby = true → s.mod.poweredDown = false → s.mod.stage ≠ .stopped →
    s.mod.phase = .bringUp ∨ s.mod.phase = .recovery ∨ s.leaving = true →
    s.pins.pwrLed = .blink ∧ (s.flt.replaceFlag = false → s.pins.attnLed = .off)
  lit : s.pwr.standby = true → s.mod.poweredDown = false → s.mod.stage ≠ .stopped → s.leaving = false →
    (s.mod.phase = .drained → s.pins.pwrLed = .on ∧ s.pins.attnLed = .on) ∧
    (s.mod.phase = .service → s.pins.pwrLed = .on ∧ (s.flt.replaceFlag = false → s.pins.attnLed = .off))

end Sys2Proof.Machine
end

