-- ==== Sys2Proof/Certificates/Slice0/Obligations.lean ====
section
/-! DEFINITION. The statements for the provers. `Does` gives the state a command's own effect leaves; `Effects`, `Answers` and `Leads`
say the same of mailbox commands and of facts about that state. -/
open Sys2Proof Sys2Proof.Machine

/-- A step takes the command at the front of the queue and runs it with the queue's rest; on an empty queue the block idles:
signal-box time advances by its 10 ns step while the input power is good, and a power-down under way goes on, which is the model's
choice (15 R475; 18 R556; 20 R606; notes/assumptions/1: DESIGN CHOICE). Every step of every state answers a next state: the spec gives every
command of the table an effect, so none faults and none is refused by the model. -/
def Obligations.StepRunsTheFirstCommand : Prop :=
  (∀ (c : Instr) (s : State), step { s with pending := c :: s.pending } = exec c s) ∧
  (∀ (c : Instr) (rest : List Instr) (s : State), s.pending = c :: rest → step s = exec c { s with pending := rest }) ∧
  (∀ s : State, s.pending = [] → let t : State := { s with now := if s.pwr.inputGood then s.now + 10 else s.now }
    (s.pwr.powerDown = false → step s = .next t) ∧ (s.pwr.powerDown = true → step s = .next (finish t))) ∧
  (∀ s : State, Safe s)

/-- Whatever command a step runs, a directory in which every entry in E or M has exactly one holder stays such a directory: no line ever has
two holders in E or M, or one beside a holder in S (04 R105). -/
def Obligations.OneOwnerEveryStep : Prop :=
 ∀ s t : State, OneOwner s → step s = .next t → OneOwner t

/-- Whatever command a step runs, the output pins follow the state it leaves, and no raised reaction waits for a later step (16 R484; 17 R521,
R525; 18 R562; 20 R602). That MOD_ERR_N and THERM_ALERT_N are open while the hot-swap controller is not closed is the model's choice
(notes/assumptions/97: DEDUCED). -/
def Obligations.PinsFollowEveryStep : Prop :=
 ∀ s t : State, PinsFollow s → step s = .next t → PinsFollow t

/-- At reset the pins follow the state, no line has an owner, every pump belongs to partition 0 and none to another, nothing waits in the
queue, and no well lives (04 R105; 08 R239; 17 R525; 20 R602). -/
def Obligations.ResetState : Prop :=
  PinsFollow State.reset ∧ OneOwner State.reset ∧ State.reset.pins.modErrLow = true ∧ State.reset.pending = [] ∧
  (∀ p, p < 16 → (State.reset.pumpAt p).part = some 0) ∧ (∀ i, (State.reset.well i).st = .free)

/-- In a state where nothing waits that could go on by itself, what follows a command changes the levels of the pins alone. -/
def Obligations.NothingFollowsWhereNothingWaits : Prop :=
  ∀ s u : State, Settled u → (∀ c, Does c s u → exec c s = .next { u with pins := pinsOf u }) ∧ finish u = { u with pins := pinsOf u }

/-- A mailbox command whose session is none of the command's roles changes nothing and has no journal entry, and where the mailbox is not
BUSY and no capture keeps its core the reply is NO_RIGHT (19 R565; 15 R457, R458; 17 R521); one that does not reach its mailbox is no more than
an access that the station's BAR does not take, by the model's reading of a BAR that is not set (14 R439; notes/assumptions/82: DEDUCED). -/
def Obligations.CommandsNeedTheirRole : Prop :=
  ∀ (i : Instr) (s : State) (h : CmdHdr) (roles : List Role), s.mailOf i = some (h, roles) → s.role h.mbx h.sender ∉ roles →
    Leads i s fun u =>
      (s.reaches h.mbx = true → Same s u ∧ Unrecorded s u ∧
        (s.captured 6 (coreOf h.mbx) = false → (s.mb h.mbx).handover = false → s.fw.handover = false → s.gapNow = false → s.mod.phase ≠ .bringUp → ∃ op, Replied h op .noRight u)) ∧
      (s.reaches h.mbx = false → (∀ n, h.mbx = .stn n → u = s.noBar n.val) ∧ (h.mbx = .eth ∨ h.mbx = .i3c → u = s))

/-- A command that reaches its mailbox and is answered with any status but OK or ACCEPTED changes nothing, gets no waybill and has no journal entry;
not meant are a ROLE_AUTH in phase RESPOND, which counts its failures, and a TWIN_PAIR, whose refusal the pair's state shows
(15 R458; 16 R488, R501; 19 R571). -/
def Obligations.RefusedCommandsChangeNothing : Prop :=
  ∀ (i : Instr) (s : State) (h : CmdHdr) (roles : List Role), s.mailOf i = some (h, roles) →
    (∀ role cred sig, i ≠ .roleAuthRespond h role cred sig) → (∀ rate peer, i ≠ .twinPair h rate peer) →
    s.reaches h.mbx = true → Leads i s fun u => ∀ r, u.out.head? = some (.reply h.mbx h.sender r) → r.status ≠ .ok → r.status ≠ .accepted →
      Same s u ∧ Unrecorded s u

/-- The home die, the die address and the stack of a byte of a granule, and the die address of a byte of the reserve: offsets below
8 GiB lie in die 0 at that address, those of sub-area `d` in die `d`, 8 GiB higher on die 0 (02 R24, R27, R30). -/
def Obligations.AddressesAreDivided : Prop :=
  (∀ d a : Nat, stackOf d a = (6 * d + (a >>> 8) % 6, ((a >>> 8) / 6) * 256 + (a &&& 0xFF))) ∧
  (∀ (s : State) (dpa : Nat), dpa < Config.poolEnd → let g := s.granule (dpa / 2 ^ 30); let x := dpa % 2 ^ 30
    (g.place = .free → s.homeOf dpa = none) ∧
    (∀ d, g.place = .loc d → s.homeOf dpa = some (d.val, g.q0 * 2 ^ 28 + x)) ∧
    (g.place = .spread → ∃ die q, s.homeOf dpa = some (die, q * 2 ^ 28 + (((x >>> 14) <<< 12) ||| (x &&& 0xFFF))) ∧
      die = (x >>> 12) &&& 3 ∧ [g.q0, g.q1, g.q2, g.q3][die]? = some q)) ∧
  (∀ (s : State) (o : Nat), o < 2 ^ 33 → s.homeOf (Config.poolEnd + o) = some (0, o)) ∧
  (∀ (s : State) (d z : Nat), d < 4 → z < 14 * 2 ^ 30 →
    s.homeOf (Config.poolEnd + 2 ^ 33 + d * (14 * 2 ^ 30) + z) = some (d, if d = 0 then z + 2 ^ 33 else z)) ∧
  (∀ (s : State) (dpa : Nat), Config.locale0End ≤ dpa → s.homeOf dpa = none)

/-- The directory set and tag of a line are those of the line number L = A >> 6, and no two lines of a die share both (04 R101). -/
def Obligations.SetAndTagNameTheLine : Prop :=
  (∀ a : Nat, dirTagOf a = (a >>> 6) >>> 19 ∧ dirSetOf a = ((a >>> 6) &&& 0x7FFFF) ^^^ (((a >>> 6) >>> 19) * 0x2F6B5 % 2 ^ 19) ∧
    dirSetOf a < 2 ^ 19) ∧
  (∀ a b : Nat, dirSetOf a = dirSetOf b → dirTagOf a = dirTagOf b → a >>> 6 = b >>> 6)

/-- WELL_CREATE completes: it takes a free index and the place that fits, where the model's free choice falls, and the well is
CREATING; no other well changes (03 R66). -/
def Obligations.WellCreateTakesEffect : Prop :=
  (∀ (s : State) (h : CmdHdr) (length : BitVec 64) (place flags : Byte) (owner : BitVec 16) (cis : BitVec 32) (peer : PeerAnswer),
    Fit s h [.operator] 16 → createCheck length.toNat place.toNat flags.toNat owner.toNat cis.toNat peer s = none →
    Leads (.wellCreate h length place flags owner cis peer) s fun u => Replied h 0x0100 .accepted u ∧ u.mem = s.mem ∧
      ∃ i, (u.well i).st = .creating ∧ (u.well i).length = length.toNat ∧ (u.well i).owner = owner.toNat ∧
        (u.well i).coh = nbit flags.toNat 0 ∧ (u.well i).kvb16 = nbit flags.toNat 2 ∧ (u.well i).gen = (s.well i).gen ∧
        (u.well i).grants = [] ∧ ∀ j, j ≠ i → u.well j = s.well j) ∧
  (∀ (s : State) (h : CmdHdr) (length : BitVec 64) (place flags : Byte) (owner : BitVec 16) (cis : BitVec 32) (peer : PeerAnswer) (p : Place),
    Fit s h [.operator] 16 → Place.ofCode place.toNat = some p →
    createCheck length.toNat place.toNat flags.toNat owner.toNat cis.toNat peer s = none →
    Effects (.wellCreate h length place flags owner cis peer) s h 0x0100 .accepted fun wb t =>
      let run := t.freeWellIdx.2.findRun p length.toNat
      let c := if nbit flags.toNat 0 then t.namedCis cis.toNat else none
      let mirror : Option Mirror := if nbit flags.toNat 1 then
        some { primary := true, origin := true, st := .sync, twinStart := peer.start.toNat } else none
      let u := (run.2.takeRun p (run.1.getD 0) length.toNat).modWell t.freeWellIdx.1 fun w =>
        { gen := w.gen, st := .creating, place := p, coh := nbit flags.toNat 0, kvb16 := nbit flags.toNat 2, owner := owner.toNat, cistern := c,
          start := run.1.getD 0, length := length.toNat, mirror := mirror, wb := some wb }
      let v := match c with | some c => u.cisTwin c | none => u
      if nbit flags.toNat 1 then v.relay wb 0x0100 else v)

/-- The other commands on a well, with nothing else changed (03 R67 to R73, R89 to R94). That a MIGRATE_CANCEL commits the chunk in transit
within itself, where its entries have room at the target, is the model's reading of 03 R94 (notes/assumptions/54: DEDUCED). -/
def Obligations.WellCommandsTakeEffect : Prop :=
  (∀ (s : State) (h : CmdHdr) (handle : BitVec 32) (i : Nat), Fit s h [.operator] 4 → destroyCheck h handle.toNat s = none →
    s.named handle.toNat = some i →
    Effects (.wellDestroy h handle) s h 0x0101 .accepted fun wb t => (t.relayWell i wb 0x0101).destroyWell i (some wb)) ∧
  (∀ (s : State) (h : CmdHdr) (handle : BitVec 32) (len : BitVec 64) (peer : PeerAnswer) (i : Nat), Fit s h [.operator] 16 →
    resizeCheck h handle.toNat len.toNat peer s = none → s.named handle.toNat = some i →
    Effects (.wellResize h handle len peer) s h 0x0102 .accepted fun wb t =>
      if (s.well i).length < len.toNat then (t.relayWell i wb 0x0102).growWell i len.toNat wb
      else (t.relayWell i wb 0x0102).shrinkWell i len.toNat wb) ∧
  (∀ (s : State) (h : CmdHdr) (handle : BitVec 32) (station rights decoder : Byte) (i k : Nat), Fit s h [.operator] 8 →
    grantCheck handle.toNat station.toNat rights.toNat decoder.toNat s = none →
    s.named handle.toNat = some i → s.grantDecoder station.toNat decoder.toNat = some k →
    Effects (.wellGrant h handle station rights decoder) s h 0x0103 .ok fun _ t =>
      (t.modWell i fun w => { w with grants := tset w.grants station.toNat { w := rights.toNat == 3, dec := k } }).modStn station.toNat
        fun x => { x with decoders := tmod x.decoders k fun d => { d with well := some i } }) ∧
  (∀ (s : State) (h : CmdHdr) (handle : BitVec 32) (station : Byte) (i : Nat) (g : Grant), Fit s h [.operator] 5 →
    revokeCheck handle.toNat station.toNat s = none → s.named handle.toNat = some i →
    tget (s.well i).grants station.toNat = some g →
    Effects (.wellRevoke h handle station) s h 0x0104 .accepted fun wb t =>
      (t.modWell i fun w => { w with grants := tset w.grants station.toNat { g with fenced := true } }).modPool
        fun p => { p with revs := p.revs ++ [{ well := i, station := station.toNat, start := s.now, cause := .revoke wb }] }) ∧
  (∀ (s : State) (h : CmdHdr) (handle : BitVec 32) (place : Byte) (rsv : BitVec 7) (rate : BitVec 16) (i : Nat) (p : Place),
    Fit s h [.operator] 8 → migrateCheck h handle.toNat place.toNat rsv.toNat rate.toNat s = none →
    s.named handle.toNat = some i → Place.ofCode place.toNat = some p →
    Effects (.migrate h handle place rsv rate) s h 0x0106 .accepted fun wb t =>
      let a := (t.findRun p (s.well i).length).1.getD 0
      ((((t.findRun p (s.well i).length).2.takeRun p a (s.well i).length).modWell i fun w =>
        { w with st := .migrating,
                 mig := some { start := a, place := p, rate := if rate.toNat = 0 then 100 else rate.toNat, wb := wb } }).markMig).startChunk i) ∧
  (∀ (s : State) (h : CmdHdr) (handle : BitVec 32) (place : Byte) (rsv : BitVec 7) (rate : BitVec 16) (i : Nat),
    Fit s h [.operator] 8 → cancelCheck h handle.toNat rsv.toNat rate.toNat s = none → s.named handle.toNat = some i →
    Effects (.migrateCancel h handle place rsv rate) s h 0x0106 .accepted fun wb t =>
      let c := (t.commitChunk i).modWell i fun w => { w with mig := w.mig.map fun m => { m with cancel := some wb, turning := m.transit } }
      (if (c.well i).mig.all (fun m => m.point == 0 && !m.transit) then c.dropWellRanges i else c.startChunk i).releaseHeld)

/-- The commands on cisterns, with nothing else changed (03 R76 to R80). -/
def Obligations.CisternCommandsTakeEffect : Prop :=
  (∀ (s : State) (h : CmdHdr) (name : BitVec 128) (tbi : BitVec 16) (c : Nat), Fit s h [.operator] 18 →
    (tbi.toNat = 0 ∨ (5 ≤ tbi.toNat ∧ tbi.toNat ≤ 200)) → s.freeCisIdx.1 = some c →
    Effects (.cisternCreate h name tbi) s h 0x0110 .ok fun _ t => t.freeCisIdx.2.modCis c fun x =>
      { gen := x.gen, st := .live, name := name, tBi := if tbi.toNat = 0 then 20 else tbi.toNat }) ∧
  (∀ (s : State) (h : CmdHdr) (cis : BitVec 32) (station : Byte) (c : Nat), Fit s h [.operator] 5 →
    joinCheck cis.toNat station.toNat s = none → s.namedCis cis.toNat = some c →
    Effects (.cisternJoin h cis station) s h 0x0111 .ok fun _ t =>
      t.modCis c fun x => { x with members := x.members ++ [station.toNat] }) ∧
  (∀ (s : State) (h : CmdHdr) (cis : BitVec 32) (station : Byte) (c : Nat), Fit s h [.operator] 5 →
    leaveCheck cis.toNat station.toNat s = none → s.namedCis cis.toNat = some c →
    Effects (.cisternLeave h cis station) s h 0x0112 .accepted fun wb t =>
      (s.wellsOf c).foldl (fun t i => t.startRev { well := i, station := station.toNat, start := s.now, cause := .leave wb })
        (t.modCis c fun x => { x with leaving := x.leaving ++ [(station.toNat, wb)] })) ∧
  (∀ (s : State) (h : CmdHdr) (cis : BitVec 32) (c : Nat) (i : Instr) (mode : RecMode), Fit s h [.operator] 5 →
    recoverCheck cis.toNat mode s = none → s.namedCis cis.toNat = some c →
    (i, mode) ∈ [(.cisternRecoverZero h cis, .zero), (.cisternRecoverKeep h cis, .keep), (.cisternRecoverDissolve h cis, .dissolve)] →
    Effects i s h 0x0113 .accepted fun wb t => (if (s.cis c).twin then t.relay wb 0x0113 else t).recoverStart c mode (some wb))

/-- What the homes hold of a line: a read answers the line's data, poison too unless the read itself meets an uncorrectable error, and leaves
the line as it answered; a write is read back, the bytes of its mask new and the others as they were, poisoned as written or, where bytes
stay, as before; where no line is evicted for it, no other line changes; a request to a PLAIN well here is served by these, without a snoop; an
exclusive grant leaves one holder, a shared grant adds one in no exclusive state, and a holder that is dropped is none
(04 R98, R105, R112, R113; 05 R134, R136, R137; 07 R209; 17 R511). -/
def Obligations.HomeReadsWhatWasWritten : Prop :=
  (∀ (s : State) (a : Nat), lineOf a = a → let (d, p, t) := s.homeRead a
    d = (s.peekLine a).1 ∧ t.peekLine a = (d, p) ∧
    (∀ c, s.cached (.pool a) = some c → (d, p) = (c.data, c.pois)) ∧
    (s.cached (.pool a) = none → p = (s.poison.contains a || (s.upsetOf a).any (1 < ·.1)))) ∧
  (∀ (s : State) (a : Nat), lineOf a = a → let (d, p, t) := s.stationRead a
    d = (s.homeRead a).1 ∧ p = (s.homeRead a).2.1 ∧ t.peekLine a = (d, p)) ∧
  (∀ (s : State) (a : Nat) (d : Line) (mask : BitVec 64) (pois : Bool) (src : Src), lineOf a = a → (s.homeOf a).isSome = true →
    let old := s.homeRead a
    let u := s.homeWrite a d mask pois src
    let new := mergePois old.1 d mask old.2.1 pois
    u.peekLine a = new ∧ (u.homeRead a).1 = new.1 ∧ (u.homeRead a).2.1 = new.2) ∧
  (∀ (old new : Line) (mask : BitVec 64) (p q : Bool) (i : Nat), i < 64 →
    (lineBytes (mergePois old new mask p q).1)[i]? = (if mask.getLsbD i then lineBytes new else lineBytes old)[i]? ∧
    (mergePois old new mask p q).2 = if mask = fullMask then q else (p || q)) ∧
  (∀ (s : State) (a b die x : Nat) (d : Line) (mask : BitVec 64) (pois : Bool) (src : Src), s.homeOf a = some (die, x) →
    s.cached (.pool a) ≠ none ∨ s.looksUp die = false → lineOf a = a → lineOf b = b → b ≠ a →
    (s.homeWrite a d mask pois src).peekLine b = s.peekLine b) ∧
  (∀ (s : State) (r : Req) (w : Well) (a : Nat), w.isHome = true →
    (r.kind = .plainRd → let (d, p, t) := s.stationRead a; s.servePlain r w a = t.respond r .cmp (some (d, p))) ∧
    (r.kind = .swaRd → let (d, p, t) := s.homeRead a; s.servePlain r w a = t.respond r .cmp (some (d, p))) ∧
    (r.kind = .plainWr ∨ r.kind = .swaWr →
      s.servePlain r w a = (s.homeWrite a r.data r.mask r.pois (s.srcOf r)).commit r a)) ∧
  (∀ (s : State) (a n : Nat) (e : DirEnt), s.ent a = some e →
    (∀ x, ∃ e', (s.grantExcl a n x).ent a = some e' ∧ e'.holders = [n] ∧ e'.excl = x) ∧
    (∃ e', (s.grantShared a n).ent a = some e' ∧ e'.excl = .none ∧ e'.holders = if e.holders.contains n then e.holders else e.holders ++ [n]) ∧
    (∀ e', (s.dropHolder a n).ent a = some e' → n ∉ e'.holders))

/-- The commands on contexts, range tables and translation modes, with nothing else changed (13 R381 to R388, R407, R410). -/
def Obligations.TranslationCommandsTakeEffect : Prop :=
  (∀ (s : State) (h : CmdHdr) (name : BitVec 128) (pref : Byte) (c : Nat), Fit s h [.operator] 32 → pref.toNat ≤ 4 → s.freeCtx = some c →
    Effects (.contextCreate h name pref) s h 0x0200 .ok fun _ t =>
      t.modCtx c fun _ => { st := .live, name := name, diePref := pref.toNat }) ∧
  (∀ (s : State) (h : CmdHdr) (c : BitVec 16), Fit s h [.operator] 2 → c.toNat < 4096 → (s.ctx c.toNat).st = .live →
    s.ctxWells c.toNat = 0 → s.ctxPlats c.toNat = 0 → s.ctxNss c.toNat = 0 →
    Effects (.contextDestroy h c) s h 0x0201 .accepted fun wb t =>
      (t.modCtx c.toNat fun x => { x with st := .destroying, wb := some wb }).clearIn c.toNat (fun _ => true) wb) ∧
  (∀ (s : State) (h : CmdHdr) (c : BitVec 16) (first count : Byte) (es : List RangeWords) (peer : PeerAnswer),
    Fit s h [.operator] (segsLen (rangeSetCmd c.toNat first.toNat count.toNat es).segs) →
    rangeSetCheck c.toNat first.toNat count.toNat es peer s = none →
    Effects (.rangeTableSet h c first count es peer) s h 0x0202 .accepted fun wb t =>
      let u := (t.switchOn (fun d i => d == c.toNat && first.toNat ≤ i && i < first.toNat + count.toNat) (.cmd wb) 0).modCtx c.toNat
        fun x => { x with ranges := setRanges x.ranges first.toNat es }
      if es.any RangeWords.isTwin then u.relay wb 0x0202 else u) ∧
  (∀ (s : State) (h : CmdHdr) (c : BitVec 16) (well : BitVec 32) (vbase length : BitVec 64), Fit s h [.operator] 24 →
    c.toNat < 4096 → well.toNat = 0xFFFFFFFF → spanOk vbase.toNat length.toNat = true → (s.ctx c.toNat).st = .live →
    Effects (.rangeInvalidateSpan h c well vbase length) s h 0x0203 .accepted fun wb t =>
      t.clearIn c.toNat (fun r => r.meets vbase.toNat length.toNat) wb) ∧
  (∀ (s : State) (h : CmdHdr) (well : BitVec 32) (i : Nat), Fit s h [.operator] 24 → s.named well.toNat = some i →
    Effects (.rangeInvalidateWell h 0xFFFF well 0 0) s h 0x0203 .accepted fun wb t => t.clearRanges (fun r => r.names i) (.cmd wb)) ∧
  (∀ (s : State) (h : CmdHdr) (c : BitVec 16) (vbase length : BitVec 64), Fit s h [.operator] 24 → c.toNat < 4096 →
    spanOk vbase.toNat length.toNat = true → (s.ctx c.toNat).st = .live →
    Effects (.adviseNormal h c 0 vbase length) s h 0x0204 .ok (fun _ t => t.markRanges c.toNat vbase.toNat length.toNat .none) ∧
    Effects (.adviseWillUse h c 0 vbase length) s h 0x0204 .ok (fun _ t => t.willUse c.toNat vbase.toNat length.toNat) ∧
    Effects (.adviseDontNeed h c 0 vbase length) s h 0x0204 .ok fun _ t => t.markRanges c.toNat vbase.toNat length.toNat .first) ∧
  (∀ (s : State) (h : CmdHdr) (c : BitVec 16) (die : Byte), Fit s h [.operator] 24 → c.toNat < 4096 → die.toNat ≤ 4 →
    (s.ctx c.toNat).st = .live →
    Effects (.adviseSetDiePref h c die 0 0) s h 0x0204 .ok fun _ t => t.modCtx c.toNat fun x => { x with diePref := die.toNat }) ∧
  (∀ (s : State) (h : CmdHdr) (n mode : Byte), Fit s h [.operator] 8 → n.toNat < 48 → mode.toNat ≤ 1 →
    (mode.toNat = 1 → (s.stnAt n.toNat).atsEnable = true) → s.stnJobs n.toNat = 0 →
    Effects (.stationXlateMode h n mode) s h 0x0205 .ok fun _ t =>
      t.modStn n.toNat fun x => { x with ats := mode.toNat == 1, atc := if mode.toNat == 1 then x.atc else [] })

/-- The commands on platforms and partitions, with nothing else changed (11 R320 to R323). -/
def Obligations.PlatformCommandsTakeEffect : Prop :=
  (∀ (s : State) (h : CmdHdr) (well : BitVec 32) (n part : Byte) (vec : BitVec 16) (off : BitVec 64) (c : BitVec 16) (slots : Byte)
    (allot : BitVec 32) (mask : BitVec 64) (p : Nat), Fit s h [.operator] 32 →
    platCreateCheck well.toNat n.toNat part.toNat vec.toNat off.toNat c.toNat slots.toNat allot.toNat mask.toNat s = none →
    s.freePlat.1 = some p →
    Effects (.platformCreate h well n part vec off c slots allot mask) s h 0x0300 .ok fun _ t => t.freePlat.2.setPlat p fun _ =>
      { st := .active, station := n.toNat, partition := part.toNat, vector := vec.toNat, ringWell := well.toNat, ringOff := off.toNat,
        context := c.toNat, slotsLog2 := slots.toNat, mask := BitVec.ofNat 64 mask.toNat, allot := allot.toNat, free := allot.toNat }) ∧
  (∀ (s : State) (h : CmdHdr) (p : BitVec 16), Fit s h [.operator] 2 → p.toNat < 4096 → (s.plat p.toNat).st ≠ .free →
    (s.plat p.toNat).st ≠ .destroying →
    Effects (.platformDestroy h p) s h 0x0301 .accepted fun wb t =>
      (t.setPlat p.toNat fun x => { x.under wb with st := .destroying, abandoned := 0 }).abortPlat p.toNat) ∧
  (∀ (s : State) (h : CmdHdr) (p : BitVec 16), Fit s h [.operator] 3 → p.toNat < 4096 → (s.plat p.toNat).st = .active →
    Effects (.platformDrainFinish h p) s h 0x0302 .accepted fun wb t => t.setPlat p.toNat fun x => { x.under wb with st := .draining }) ∧
  (∀ (s : State) (h : CmdHdr) (p : BitVec 16), Fit s h [.operator] 3 → p.toNat < 4096 →
    ((s.plat p.toNat).st = .active ∨ (s.plat p.toNat).st = .draining) →
    Effects (.platformDrainAbort h p) s h 0x0302 .accepted fun wb t =>
      (t.setPlat p.toNat fun x => { x.under wb with st := .draining }).abortPlat p.toNat) ∧
  (∀ (s : State) (h : CmdHdr) (p : BitVec 16), Fit s h [.operator] 3 → p.toNat < 4096 →
    ((s.plat p.toNat).st = .drained ∨ ((s.plat p.toNat).st = .stopped ∧ (s.plat p.toNat).held = 0)) →
    Effects (.platformDrainResume h p) s h 0x0302 .ok fun _ t => (t.setPlat p.toNat fun x => { x with st := .active }).accept_ p.toNat) ∧
  (∀ (s : State) (h : CmdHdr) (part lwait : Byte) (quota : BitVec 32) (pumps : BitVec 16), Fit s h [.operator] 16 →
    partCheck part.toNat lwait.toNat quota.toNat pumps.toNat s = none →
    Effects (.partitionSet h part lwait quota pumps) s h 0x0303 .accepted fun wb t =>
      let set := bitsOf pumps.toNat 16
      (List.range 16).foldl (fun t p =>
        if set.contains p then
          (if (t.pumpAt p).part == some part.toNat && (t.pumpAt p).moving.isNone then t else t.movePump p (some part.toNat))
        else if (t.pumpAt p).part == some part.toNat then t.movePump p none else t)
        (t.modJobs fun x => { x with parts := x.parts.setIfInBounds part.toNat ⟨lwait.toNat, (le 4 quota.toNat).map (·.toNat)⟩,
                                     partRuns := x.partRuns ++ [⟨part.toNat, set, wb⟩] }))

/-- The commands on namespaces, with nothing else changed (12 R354 to R356). -/
def Obligations.NamespaceCommandsTakeEffect : Prop :=
  (∀ (s : State) (h : CmdHdr) (store : BitVec 32) (format width : Byte) (nkvh nlayers lease : BitVec 16) (quota : BitVec 32) (flags : Byte)
    (i w : Nat), Fit s h [.operator] 32 →
    nsCreateCheck store.toNat format.toNat width.toNat nkvh.toNat nlayers.toNat lease.toNat quota.toNat flags.toNat s = none →
    s.freeNs.1 = some i → s.named store.toNat = some w →
    Effects (.namespaceCreate h store format width nkvh nlayers lease quota flags) s h 0x0400 .ok fun _ t =>
      t.freeNs.2.random.2.modNs i fun x =>
        { gen := x.gen, st := .live, even := nbit flags.toNat 0, format := format.toNat, width := width.toNat, ctx := (s.well w).owner,
          nkvh := nkvh.toNat, nlayers := nlayers.toNat, leaseS := lease.toNat, store := store.toNat, quota := quota.toNat,
          salt := t.freeNs.2.random.1 }) ∧
  (∀ (s : State) (h : CmdHdr) (handle : BitVec 32) (i : Nat), Fit s h [.operator] 4 → s.namedNs handle.toNat = some i →
    (s.ns i).st ≠ .destroying →
    Effects (.namespaceDestroy h handle) s h 0x0401 .accepted fun wb t => t.modNs i fun x => { x with st := .destroying, wb := some wb }) ∧
  (∀ (s : State) (h : CmdHdr) (handle quota : BitVec 32) (lease : BitVec 16) (flags : Byte) (i : Nat), Fit s h [.operator] 11 →
    nsQuotaCheck handle.toNat quota.toNat lease.toNat flags.toNat s = none → s.namedNs handle.toNat = some i →
    Effects (.namespaceQuota h handle quota lease flags) s h 0x0402 .ok fun _ t =>
      let a := if flags.toNat ≠ 0xFF ∧ nbit flags.toNat 1 = true then t.endHolds i else t
      let b := a.modNs i fun x =>
        { x with quota := if quota.toNat = 0xFFFFFFFF then x.quota else quota.toNat
                 leaseS := if lease.toNat = 0xFFFF then x.leaseS else lease.toNat
                 even := if flags.toNat = 0xFF then x.even else nbit flags.toNat 0 }
      State.evictTo (b.nsUsed i) i b)

/-- The operations of CACHE_CONTROL, with nothing else changed (05 R145 to R153; 04 R129). Where the count of reused stale lines stands in the
journal entry's RESULT is the model's choice (notes/assumptions/61: DEDUCED). -/
def Obligations.CacheCommandsTakeEffect : Prop :=
  (∀ (s : State) (h : CmdHdr) (slices flags : Byte), Fit s h [.operator] 16 → slices.toNat ≠ 0 → slices.toNat < 16 → flags.toNat < 2 →
    ((∀ d ∈ slicesOf slices.toNat, (s.slice d).st = .disabled) →
      Effects (.cacheEnable h slices flags 0 0) s h 0x0500 (if nbit flags.toNat 0 then .accepted else .ok) fun wb t =>
        if nbit flags.toNat 0 then t.onSlices slices.toNat fun x => { x with st := .invalidating, frm := .enabled, opens := true, wb := some wb }
        else
          let n := sumOf t.retainedIn (slicesOf slices.toNat)
          let v := (slicesOf slices.toNat).foldl (fun t d => t.reuseSlice d) t
          if n = 0 then v else v.modEntry wb fun e => { e with staleReuse := true, result := le 4 n }) ∧
    ((∀ d ∈ slicesOf slices.toNat, (s.slice d).st = .enabled) →
      Effects (.cacheDisable h slices flags 0 0) s h 0x0500 .accepted (fun wb t =>
        t.onSlices slices.toNat fun x => { x with st := .disabling, wb := some wb }) ∧
      Effects (.cacheFlush h slices flags 0 0) s h 0x0500 .accepted fun wb t =>
        t.onSlices slices.toNat fun x => { x with st := .flushing, wb := some wb }) ∧
    ((∀ d ∈ slicesOf slices.toNat, (s.slice d).st = .enabled ∨ (s.slice d).st = .disabled) →
      Effects (.cacheInvalidate h slices flags 0 0) s h 0x0500 .accepted fun wb t =>
        t.onSlices slices.toNat fun x => { x with st := .invalidating, frm := x.st, wb := some wb })) ∧
  (∀ (s : State) (h : CmdHdr) (slices flags n : Byte) (v : BitVec 32), Fit s h [.operator] 16 → slices.toNat < 16 → flags.toNat < 2 →
    (1 ≤ v.toNat → v.toNat ≤ 64 → Effects (.cacheSetThreshold h slices flags 0 v) s h 0x0500 .ok fun _ t =>
      { t with cache := { t.cache with thresholdKiB := v.toNat } }) ∧
    (v.toNat ≤ 2000 → Effects (.cacheSetTHold h slices flags 0 v) s h 0x0500 .ok fun _ t => t.modHome fun x => { x with tHold := v.toNat }) ∧
    (n.toNat < 48 → 4096 ≤ v.toNat → v.toNat ≤ 8388608 → Effects (.cacheSetQuota h slices flags n v) s h 0x0500 .ok fun _ t =>
      (List.range 4).foldl (fun t d => t.quotaRecall n.toNat d) (t.modHome fun x => { x with quotas := tset x.quotas n.toNat v.toNat }))) ∧
  ∀ (s : State) (h : CmdHdr) (slices flags : Byte), Fit s h [.operator] 16 false true true → slices.toNat < 16 → flags.toNat < 2 →
    Answers (.cacheStatus h slices flags 0 0) s h 0x0500 (s.noteUse h).cacheStatus

/-- The commands on the pair (16 R488 to R491, R501, R507). -/
def Obligations.TwinCommandsTakeEffect : Prop :=
  (∀ (s : State) (h : CmdHdr) (rate : BitVec 16) (peer : PeerInfo), Fit s h [.installer] 8 →
    (rate.toNat = 0 ∨ (16 ≤ rate.toNat ∧ rate.toNat ≤ 448)) → s.pairRefusal peer = none →
    Effects (.twinPair h rate peer) s h 0x0600 .accepted fun wb t =>
      (t.emit (.xo (.mail wb 0x0600))).modTwin fun x =>
        { x with st := .pairing, pairWb := some wb, pairInfo := some peer, rate := if rate.toNat = 0 then 256 else rate.toNat }) ∧
  (∀ (s : State) (h : CmdHdr), Fit s h [.installer] 8 → s.isPaired = true → s.twin.unpairing = none → s.mirrored = [] →
    Effects (.twinUnpairEmpty h) s h 0x0601 .accepted fun wb t => (t.relay wb 0x0601).unpairBegin false (some wb)) ∧
  (∀ (s : State) (h : CmdHdr), Fit s h [.installer] 8 → s.isPaired = true → s.twin.unpairing = none →
    Effects (.twinUnpairSplit h) s h 0x0601 .accepted fun wb t => (t.relay wb 0x0601).unpairBegin true (some wb)) ∧
  (∀ (s : State) (h : CmdHdr) (target scope : Byte) (rsv : BitVec 7), Fit s h [.installer] 8 →
    switchCheck target.toNat scope.toNat rsv.toNat s = none →
    Effects (.twinSwitchover h target scope rsv) s h 0x0602 .accepted fun wb t =>
      (t.relay wb 0x0602).modTwin fun x =>
        { x with swo := some ⟨some wb, (s.swoWells (target.toNat == 0) (scope.toNat == 1)).1,
                              (s.swoWells (target.toNat == 0) (scope.toNat == 1)).2, false⟩ }) ∧
  (∀ (s : State) (h : CmdHdr) (scope : Byte), Fit s h [.installer] 8 → scope.toNat ≤ 1 → s.twin.st = .fenced →
    Effects (.twinTakeover h 0 scope 0) s h 0x0602 .accepted fun wb t =>
      (t.mirrored.foldl (fun t i => t.modMirror i fun m => { m with st := if m.st == .fenced then .degraded else m.st }) t).startGap 5 (some wb)) ∧
  (∀ (s : State) (h : CmdHdr), Fit s h anyRole 4 false true true →
    Answers (.twinStatus h 0xFFFFFFFF) s h 0x0603 (s.noteUse h).twinStatus ∧
    ∀ (handle : BitVec 32) (i : Nat), handle.toNat ≠ 0xFFFFFFFF → s.namedMir handle.toNat = some i →
      Answers (.twinStatus h handle) s h 0x0603 ((s.noteUse h).mirrorStatus i))

/-- The commands on faults, policies, histories and field tests (17 R529 to R538). -/
def Obligations.FaultCommandsTakeEffect : Prop :=
  (∀ (s : State) (h : CmdHdr) (frm : BitVec 64) (count filter : Byte), Fit s h anyRole 16 true true true → 1 ≤ count.toNat → count.toNat ≤ 14 →
    filter.toNat ≤ 2 →
    Answers (.faultStatus h frm count filter) s h 0x0700 (faultStatusReply h frm.toNat count.toNat filter.toNat (s.noteUse h))) ∧
  (∀ (s : State) (h : CmdHdr) (seq : BitVec 64) (mode : Byte) (r : FaultRec), Fit s h [.operator] 16 false true →
    s.recordOf seq.toNat = some r → mode.toNat ≤ 1 → (mode.toNat = 0 → r.acked = false) →
    Effects (.faultAck h seq mode) s h 0x0701 .ok fun _ t =>
      (s.flt.records.filter fun r => !r.acked && (if mode.toNat = 0 then r.seq == seq.toNat else r.seq ≤ seq.toNat)).reverse.foldl
        (fun t r => t.ackRecord r) t) ∧
  (∀ (s : State) (h : CmdHdr) (source : BitVec 16) (reaction flags : Byte) (th : BitVec 32) (win : BitVec 16), Fit s h [.installer] 16 →
    policyOk source.toNat reaction.toNat flags.toNat th.toNat win.toNat = true →
    Effects (.faultPolicySet h source reaction flags th win) s h 0x0702 .ok fun _ t =>
      t.setPolicy source.toNat reaction.toNat flags.toNat th.toNat win.toNat) ∧
  (∀ (s : State) (h : CmdHdr) (kind unit : Byte) (frm : BitVec 32) (count : Byte), Fit s h [.operator, .installer, .maker] 16 true true true →
    (kind.toNat ≤ 0xA ∨ kind.toNat = 0xFF) → 1 ≤ count.toNat → count.toNat ≤ 29 →
    Answers (.unitHistoryRead h kind unit frm count) s h 0x0703 (historyReply kind.toNat unit.toNat frm.toNat count.toNat (s.noteUse h))) ∧
  (∀ (s : State) (h : CmdHdr) (flags : Byte) (interval maxOut scrub : BitVec 16), Fit s h [.installer] 16 →
    (flags.toNat = 0xFF ∨ flags.toNat < 4) → keepOr interval.toNat 10 3600 = true → keepOr maxOut.toNat 500 10000 = true →
    keepOr scrub.toNat 1 168 = true →
    Effects (.fieldTestPolicy h flags interval maxOut scrub) s h 0x0704 .ok fun _ t => t.modFlt fun f =>
      { f with katEn := if flags.toNat = 0xFF then f.katEn else nbit flags.toNat 0
               scrubEn := if flags.toNat = 0xFF then f.scrubEn else nbit flags.toNat 1
               intervalS := keep16 interval.toNat f.intervalS
               maxOutUs := keep16 maxOut.toNat f.maxOutUs
               scrubH := keep16 scrub.toNat f.scrubH })

/-- The commands on power; POWER_STATUS answers its 280 bytes: input, limits, steps, converters, pumps, energy, temperatures and rails, and changes
nothing (18 R549, R555, R563). That FLAGS of all ones asks for nothing is the model's reading
(notes/assumptions/105). -/
def Obligations.PowerCommandsTakeEffect : Prop :=
  (∀ (s : State) (h : CmdHdr) (limit : BitVec 16) (hot warm dormant : BitVec 32), Fit s h [.installer] 16 →
    Effects (.powerLimitSet h limit 1 hot warm dormant) s h 0x0800 .ok fun _ t => t.modPwr fun p =>
      { p with limitW := 2000, hotIdleUs := 20, warmIdleUs := some 1000, dormantMs := none }) ∧
  (∀ (s : State) (h : CmdHdr) (limit : BitVec 16) (flags : Byte) (hot warm dormant : BitVec 32), Fit s h [.installer] 16 →
    flags = 0 ∨ flags = 0xFF → limitOk limit.toNat flags.toNat hot.toNat warm.toNat dormant.toNat = true →
    Effects (.powerLimitSet h limit flags hot warm dormant) s h 0x0800 .ok fun _ t => t.modPwr fun p =>
      { p with limitW := if limit.toNat = 0xFFFF then p.limitW else limit.toNat
               hotIdleUs := if hot.toNat = 0xFFFFFFFF then p.hotIdleUs else hot.toNat
               warmIdleUs := if warm.toNat = 0xFFFFFFFF then p.warmIdleUs else if warm.toNat = 0xFFFFFFFE then none else some warm.toNat
               dormantMs := if dormant.toNat = 0xFFFFFFFF then p.dormantMs else if dormant.toNat = 0 then none else some dormant.toNat }) ∧
  (∀ (s : State) (h : CmdHdr), Fit s h anyRole 0 true true true →
    Answers (.powerStatus h) s h 0x0801 (powerStatusReply (s.noteUse h)) ∧
    let r := powerStatusReply (s.noteUse h)
    let duty := fun d => min s.pwr.duty (s.pwr.thermDuty.toList.getD d 0)
    let step := fun d => min s.pwr.memStep (s.pwr.thermMem.toList.getD d 0)
    r.length = 280 ∧ r.extract 0 0x10 = le 4 s.pwr.mv ++ le 4 s.pwr.ma ++ le 2 s.pwr.inW ++ le 2 s.pwr.inW1 ++ le 2 s.pwr.limitW ++ le 2 s.effectiveW ∧
    r.extract 0x12 0x14 = le 1 s.pwr.duty ++ le 1 s.pwr.memStep ∧
    (∀ d < 4, r.extract (0x14 + d) (0x15 + d) = le 1 (duty d) ∧ r.extract (0x18 + d) (0x19 + d) = le 1 (step d)) ∧
    r.extract 0x28 0x30 = le 8 s.pwr.energyMj ∧ r.extract 0x30 0x37 = s.pwr.temps.toList ∧ r.extract 0x38 0x50 = s.pwr.stackTemps.toList ∧
    ∀ i < 21, ∀ v, s.pwr.rails.toList[i]? = some v → r.extract (0x50 + 8 * i) (0x58 + 8 * i) =
      le 1 i ++ le 1 (if v.bad then 1 else 0) ++ le 2 v.mv ++ le 2 v.ma10 ++ [v.temp, 0])

/-- The commands on firmware (15 R478, R479). That FW_STAGE empties the inactive banks and the staged manifest when it is accepted
(notes/assumptions/106: DEDUCED), and that what the package holds is the command's operand (notes/assumptions/12: DESIGN CHOICE), are the
model's. -/
def Obligations.FirmwareCommandsTakeEffect : Prop :=
  (∀ (s : State) (h : CmdHdr) (well : BitVec 32) (off len : BitVec 64) (pkg : FwPackage), Fit s h [.installer] 24 →
    stageCheck well.toNat off.toNat len.toNat s = none →
    Effects (.fwStage h well off len pkg) s h 0x0900 .accepted fun wb t => t.modFw fun f =>
      { f with comps := f.comps.map Comp.overwritten, staged := none, staging := some (wb, pkg) }) ∧
  (∀ (s : State) (h : CmdHdr) (index flags : Byte) (versions : Versions) (target : List (BitVec 32)),
    Fit s h (if flags.getLsbD 0 then [.maker] else [.installer]) 28 → activateCheck index.toNat flags.toNat versions s = none →
    s.fwTarget index.toNat versions = some target →
    Effects (.fwActivate h index flags versions) s h 0x0901 .accepted fun wb t =>
      let a := t.modEntry wb fun e => { e with forced := nbit flags.toNat 0 }
      let run : FwRun := { wb := wb, todo := fwSteps s.running target, target := target, force := nbit flags.toNat 0,
                           fromStaged := t.fw.staged.isSome }
      (a.modFw fun f => { f with run := some run }).fwTurn) ∧
  (∀ (s : State) (h : CmdHdr) (first count : Byte), Fit s h [.installer] 2 false true true → 1 ≤ count.toNat → count.toNat ≤ 32 →
    Answers (.fwManifestRead h first count) s h 0x0902 (manifestReply first.toNat count.toNat (s.noteUse h)))

/-- The commands on sessions, keys, credentials and the audit log (19 R568 to R585). -/
def Obligations.SecurityCommandsTakeEffect : Prop :=
  (∀ (s : State) (h : CmdHdr) (role : Byte) (cred : BitVec 64), Fit s h anyRole 112 true true → roleOk role.toNat = true →
    s.heldByOther h = false → s.lockedOut h.mbx = false →
    Effects (.roleAuthChallenge h role cred 0) s h 0x0A00 .ok fun _ t =>
      t.random.2.modMb h.mbx fun x => { x with challenge := some ⟨t.random.1, role.toNat, cred, s.now + 1000000000⟩ }) ∧
  (∀ (s : State) (h : CmdHdr) (role : Byte) (cred : BitVec 64) (sig : BitVec 768), s.reaches h.mbx = true → s.mailboxBusy h.mbx true = false →
    s.lockedOut h.mbx = true → Leads (.roleAuthChallenge h role cred sig) s fun u => Replied h 0x0A00 .noRight u ∧ Same s u) ∧
  (∀ (s : State) (h : CmdHdr) (role : Byte) (cred : BitVec 64) (sig : BitVec 768), Fit s h anyRole 112 true true → roleOk role.toNat = true →
    s.authVerdict h role.toNat cred sig = 0 →
    Leads (.roleAuthRespond h role cred sig) s fun u => Replied h 0x0A00 .ok u ∧ (u.mb h.mbx).session = Role.ofCode role.toNat ∧
      (u.mb h.mbx).cred = cred ∧ (u.mb h.mbx).sender = h.sender ∧ (u.mb h.mbx).challenge = none ∧ u.mem = s.mem ∧ u.pool = s.pool) ∧
  (∀ (s : State) (h : CmdHdr), Fit s h anyRole 0 true true → s.role h.mbx h.sender ≠ .none →
    Effects (.roleDrop h) s h 0x0A01 .ok fun _ t => t.endSession h.mbx 1) ∧
  (∀ (s : State) (h : CmdHdr) (p : KeyPay), Fit s h [.installer] 176 → keyGenerateCheck p s = none →
    Effects (.keyGenerate h p) s h 0x0A02 .ok fun _ t =>
      let a := t.random
      let b := a.2.random
      let k : KeySlot := { keys := a.1 ++ b.1, station := p.station.toNat, context := p.context.toNat, peer := p.peer }
      b.2.modSec fun y => { y with keys := tset y.keys p.slot.toNat k }) ∧
  (∀ (s : State) (h : CmdHdr) (p : KeyPay) (i : Nat), Fit s h [.installer] 176 → keyBindCheck p s = none → s.named p.well.toNat = some i →
    Effects (.keyBind h p) s h 0x0A02 .accepted fun wb t =>
      let a := t.modSec fun y => { y with keys := tmod y.keys p.slot.toNat fun x => { x with binding := x.binding ++ [(i, wb)] } }
      if (s.well i).mirror.isSome then a.relay wb 0x0A02 else a) ∧
  (∀ (s : State) (h : CmdHdr) (p : KeyPay), Fit s h [.installer] 176 → keyEraseCheck p s = none →
    Effects (.keyErase h p) s h 0x0A02 .ok fun _ t => t.modSec fun y => { y with keys := tdel y.keys p.slot.toNat }) ∧
  (∀ (s : State) (h : CmdHdr) (p : KeyPay), Fit s h [.installer] 176 → credSetCheck p s = none →
    Effects (.credSet h p) s h 0x0A02 .ok fun _ t =>
      t.modSec fun y => { y with creds := tset y.creds p.slot.toNat ⟨p.roles.toNat, p.credId, p.pubkey⟩ }) ∧
  (∀ (s : State) (h : CmdHdr) (p : KeyPay), Fit s h [.installer] 176 → credEraseCheck p s = none →
    Leads (.credErase h p) s fun u => u.sec.creds = tdel s.sec.creds p.slot.toNat ∧
      (∀ m, (u.mb m).session = .none ∨ (u.mb m).credSlot ≠ p.slot.toNat) ∧ u.mem = s.mem ∧ u.pool = s.pool) ∧
  (∀ (s : State) (h : CmdHdr) (ring count : Byte) (frm : BitVec 64), Fit s h [.operator, .installer, .maker] 16 false true true → ring.toNat ≤ 1 →
    1 ≤ count.toNat → count.toNat ≤ 7 →
    Answers (.auditRead h ring count frm) s h 0x0A03 (auditReply ring.toNat count.toNat frm.toNat (s.noteUse h)))

/-- The commands of service: drain, sparing and factory test mode (20 R604 to R608; 17 R540). -/
def Obligations.ServiceCommandsTakeEffect : Prop :=
  (∀ (s : State) (h : CmdHdr) (flags : Byte), Fit s h [.installer] 8 false true → moduleDrainCheck [.service] flags.toNat s = none →
    Effects (.moduleDrain h flags) s h 0x0B00 .accepted fun wb t => t.drainBegin wb false) ∧
  (∀ (s : State) (h : CmdHdr) (flags : Byte), Fit s h [.installer] 8 false true →
    moduleDrainCheck [.service, .drained, .recovery] flags.toNat s = none →
    Effects (.moduleDrainOff h flags) s h 0x0B00 .accepted fun wb t => t.drainBegin wb true) ∧
  (∀ (s : State) (h : CmdHdr) (flags : Byte), Fit s h [.installer] 8 false true → flags.toNat ≤ 1 → s.mod.phase = .drained →
    s.flt.replaceFlag = false → s.mod.drain = none → s.pwr.powerDown = false →
    Effects (.moduleDrainResume h flags) s h 0x0B00 .accepted fun wb t =>
      let v := if s.isPaired then t
        else t.mirrored.foldl (fun t i => t.modMirror i fun m => { m with primary := true, st := .degraded }) t
      ((v.memoryActive true).modMod fun m => { m with phase := .service }).askPair.ready wb .ok []) ∧
  (∀ (s : State) (h : CmdHdr) (flags : Byte), Fit s h [.installer] 8 false true → flags.toNat ≤ 1 → s.mod.phase = .recovery →
    s.mod.metaBad = true → s.mod.otherBad = false → s.mod.drain = none → s.pwr.powerDown = false →
    Effects (.moduleDrainEmpty h flags) s h 0x0B00 .accepted fun wb t =>
      (t.modMod fun m => { m with mlog := { audit := m.mlog.audit }, phase := .bringUp, stage := .trained, metaBad := false }).ready wb .ok []) ∧
  (∀ (s : State) (h : CmdHdr) (stack mode : Byte) (loc : BitVec 64), Fit s h [.installer] 16 →
    spareCheck stack.toNat mode.toNat loc.toNat s = none → s.mod.phase = .service → s.mod.drain = none →
    Effects (.spareActivate h stack mode loc) s h 0x0B01 .accepted fun wb t =>
      ((t.wakeDie (stack.toNat / 6)).modMod fun m =>
        { m with spares := m.spares ++ (s.spareRows stack.toNat mode.toNat loc.toNat).map fun r =>
            { stack := stack.toNat, span := spanOf r, wb := some wb } }).spareEnd wb stack.toNat) ∧
  (∀ (s : State) (h : CmdHdr), Fit s h [.maker] 16 → s.isPaired = false → s.gapNow = false → (∀ x ∈ s.pool.wells, x.2.grants = []) →
    Effects (.factoryTestEnter h s.mod.serial) s h 0x0B02 .accepted fun wb t =>
      ((t.memoryActive false).modMod fun m => { m with phase := .factory }).ready wb .ok [])

/-- The operations of FAULT_INJECT in factory test mode (17 R541). -/
def Obligations.InjectionsTakeEffect : Prop :=
  ∀ (s : State) (h : CmdHdr) (p : InjectPay), Fit s h [.maker] 16 → s.mod.phase = .factory → 1 ≤ p.count.toNat →
    (p.unitKind.toNat ≤ 0xA → raiseOk p = true → Effects (.injectRaise h p) s h 0x0B03 .ok fun _ t => t.raise p) ∧
    (p.unitKind.toNat ≤ 0xA → storedLine p.address.toNat s = true →
      Effects (.injectFlip1 h p) s h 0x0B03 .ok (fun _ t => t.flip p.address.toNat 1) ∧
      Effects (.injectFlip2 h p) s h 0x0B03 .ok (fun _ t => t.flip p.address.toNat 2) ∧
      Effects (.injectPoison h p) s h 0x0B03 .ok fun _ t => t.poisonLine (lineOf p.address.toNat) 5) ∧
    (p.unitKind.toNat ≤ 0xA → p.unit.toNat < 16 →
      Effects (.injectParity h p) s h 0x0B03 .ok (fun _ t => t.modPump p.unit.toNat fun x => { x with parityInj := p.count.toNat }) ∧
      Effects (.injectChecksum h p) s h 0x0B03 .ok fun _ t => t.modPump p.unit.toNat fun x => { x with csumInj := p.count.toNat }) ∧
    (p.unitKind.toNat ≤ 0xA → p.unit.toNat < (if p.unitKind.toNat = 5 then 4 else 48) → Effects (.injectLinkCrc h p) s h 0x0B03 .ok fun _ t =>
      t.modFlt fun f => { f with linkCrc := tset f.linkCrc (linkNo p.unitKind.toNat p.unit.toNat) p.count.toNat }) ∧
    (p.unitKind.toNat = 0xFF ∨ (p.unitKind.toNat ≤ 0xA ∧ p.unit.toNat < unitsOf p.unitKind.toNat) →
      Effects (.injectClearHistory h p) s h 0x0B03 .ok fun _ t => t.clearHistory p.unitKind.toNat p.unit.toNat)

/-- The queries of wells and cisterns and of the interface itself answer and change nothing: WELL_QUERY with one well or the summary,
CISTERN_QUERY, IDENTIFY, GET_STATE, JOURNAL_READ with entries or rejects, and JOURNAL_FIND_TAG
(03 R62, R74, R75, R80; 15 R464, R471 to R473). -/
def Obligations.QueriesAnswer : Prop :=
  (∀ (s : State) (h : CmdHdr) (handle : BitVec 32) (i : Nat), Fit s h (wellQueryRoles h handle.toNat s) 4 false true true →
    s.named handle.toNat = some i → handle.toNat ≠ 0xFFFFFFFF →
    Answers (.wellQuery h handle) s h 0x0105 ((s.noteUse h).wellEntry i)) ∧
  (∀ (s : State) (h : CmdHdr), Fit s h [.operator] 4 false true true → Answers (.wellQuerySummary h) s h 0x0105 (s.noteUse h).poolSummary) ∧
  (∀ (s : State) (h : CmdHdr) (cis : BitVec 32) (c : Nat), Fit s h (cisQueryRoles h cis.toNat s) 4 false true true → s.namedCis cis.toNat = some c →
    Answers (.cisternQuery h cis) s h 0x0114 ((s.noteUse h).cisEntry c)) ∧
  (∀ (s : State) (h : CmdHdr), Fit s h anyRole 0 true true true →
    Answers (.identify h) s h 0x0001 (identifyReply (s.noteUse h)) ∧ Answers (.getState h) s h 0x0002 (stateReply h (s.noteUse h))) ∧
  (∀ (s : State) (h : CmdHdr) (frm : BitVec 64) (count : Byte), Fit s h anyRole 16 false true true → 1 ≤ count.toNat →
    (count.toNat ≤ 7 → Answers (.journalReadEntries h frm count) s h 0x0003 (entriesReply h frm.toNat count.toNat (s.noteUse h))) ∧
    (count.toNat ≤ 29 → Answers (.journalReadRejects h frm count) s h 0x0003 (rejectsReply h frm.toNat count.toNat (s.noteUse h)))) ∧
  (∀ (s : State) (h : CmdHdr) (tag : BitVec 64), Fit s h anyRole 8 false true true → tag ≠ 0 →
    Answers (.journalFindTag h tag) s h 0x0004 (findTagReply h tag (s.noteUse h)))

/-- A CXL.mem request whose class has a free slot of its station's link takes the slot and goes on to the station's decoders; a
hint only gives its slot back (04 R98, R109; 14 R433). -/
def Obligations.HostRequestsTakeASlot : Prop :=
  ∀ (s : State) (n : Station) (hpa : BitVec 64) (d : Line) (mask : BitVec 64), (s.stnAt n.val).up = true →
    (0 < (s.stnAt n.val).reqFree →
      let u := s.modStn n.val fun t => { t with reqInUse := t.reqInUse + 1 }
      let at_ := fun k => u.hostMemAt n.val (lineOf hpa.toNat) k 0 fullMask
      Does (.memRdS n hpa) s (at_ .rdS) ∧ Does (.memRdA n hpa) s (at_ .rdA) ∧ Does (.memRdOwn n hpa) s (at_ .rdOwn) ∧
      Does (.memRdCur n hpa) s (at_ .rdCur) ∧ Does (.memInvOwn n hpa) s (at_ .invOwn) ∧ Does (.memDrop n hpa) s (at_ .drop) ∧
      Does (.plainMemRead n hpa) s (at_ .plainRd) ∧ Does (.memSpecRd n hpa) s (u.slotDone n.val false)) ∧
    (0 < (s.stnAt n.val).rwdFree →
      let u := s.modStn n.val fun t => { t with rwdInUse := t.rwdInUse + 1 }
      Does (.memWb n hpa d mask) s (u.hostMemAt n.val (lineOf hpa.toNat) .wb d mask) ∧
      Does (.memWbS n hpa d) s (u.hostMemAt n.val (lineOf hpa.toNat) .wbS d fullMask) ∧
      Does (.memUcWr n hpa d mask) s (u.hostMemAt n.val (lineOf hpa.toNat) .ucWr d mask) ∧
      Does (.plainMemWrite n hpa d mask) s (u.hostMemAt n.val (lineOf hpa.toNat) .plainWr d mask))

/-- Where the decoders take a CXL.mem request (02 R22, R34, R35; 03 R72, R81; 04 R98, R100, R109; 14 R417; 17 R527, R528). In a bound decoder's
window, below the well's length, a request the grant allows reaches the line's home: at a PLAIN well as it is sent, at a CISTERN well a plain
read as RdCur and a plain write as UcWr. All others the station answers itself: a read with poisoned ones, a write dropped and logged. -/
def Obligations.DecodersRouteRequests : Prop :=
  (∀ (s : State) (n hpa k : Nat) (kind : ReqKind) (d : Line) (mask : BitVec 64) (x : Decoder), (s.stnAt n).memActive = true →
    (s.stnAt n).decoders.find? (fun y => y.2.covers hpa) = some (k, x) →
    let stop := fun code handle both => s.hostMemAt n hpa kind d mask = s.refuseMem n hpa kind code k handle both
    (x.well = none → stop 2 Config.noHandle false) ∧
    ∀ i, x.well = some i →
      let off := hpa - x.base
      ((s.well i).length ≤ off ∨ tget (s.well i).grants n = none → stop 2 (s.wellHandle i) false) ∧
      ∀ g, off < (s.well i).length → tget (s.well i).grants n = some g →
        let fenced := g.fenced = true ∨ (s.well i).tail off = true
        let back := (kind = .wb ∨ kind = .wbS) ∧ (s.well i).coh = true ∧ s.ownsLine n ((s.well i).dpa off) = true
        let sent := fun kd => s.hostMemAt n hpa kind d mask =
          s.submit { org := .host n hpa, kind := kd, well := i, gen := (s.well i).gen, off := lineOf off, data := d, mask := mask }
        (fenced → ¬back → stop 1 (s.wellHandle i) false) ∧
        (¬fenced ∨ back →
          (kind.isWrite = true → g.w = false → stop 3 (s.wellHandle i) false) ∧
          ((kind.isWrite = true → g.w = true) →
            ((s.well i).coh = true → (s.stnAt n).flit = 0 ∨ (s.stnAt n).biEn = false → stop 4 (s.wellHandle i) true) ∧
            ((s.well i).coh = false → sent kind) ∧
            ((s.well i).coh = true → (s.stnAt n).flit ≠ 0 → (s.stnAt n).biEn = true →
              (kind = .plainRd → sent .rdCur) ∧ (kind = .plainWr → sent .ucWr) ∧ (kind ≠ .plainRd → kind ≠ .plainWr → sent kind))))) ∧
  (∀ (s : State) (n hpa : Nat) (kind : ReqKind) (d : Line) (mask : BitVec 64),
    ((s.stnAt n).memActive = false → s.hostMemAt n hpa kind d mask = s.refuseMem n hpa kind 7 0xFF Config.noHandle false) ∧
    ((s.stnAt n).memActive = true → (s.stnAt n).decoders.find? (fun y => y.2.covers hpa) = none → s.hostMemAt n hpa kind d mask =
      (s.refuseMem n hpa kind 8 0xFF Config.noHandle true).record { source := 0x0403, unit := n, address := hpa })) ∧
  (∀ (s : State) (n : Station) (hpa code dec handle : Nat) (kind : ReqKind) (both : Bool),
    let u := s.refuseMem n.val hpa kind code dec handle both
    u.mem = s.mem ∧ u.home = s.home ∧ u.pool = s.pool ∧ u.cache = s.cache ∧
    (kind.isWrite = true → .mem n.val hpa .cmp none ∈ u.out ∧ (u.stnAt n.val).fltDropped = sat 32 ((s.stnAt n.val).fltDropped + 1)) ∧
    (kind.isWrite = false → kind ≠ .invOwn → kind ≠ .drop → .mem n.val hpa .cmp (some (onesLine, true)) ∈ u.out ∧
      (u.stnAt n.val).fltPoisoned = sat 32 ((s.stnAt n.val).fltPoisoned + 1)) ∧
    (kind.isWrite = true ∨ both = true → ∃ e, (u.stnAt n.val).fltLog.head? = some e ∧ e.kind = code ∧ e.decoder = dec ∧
      e.hpa = BitVec.ofNat 64 hpa ∧ (u.stnAt n.val).fltNext = (s.stnAt n.val).fltNext + 1))

/-- A response to a snoop answers the outstanding one, as I where it is of no kind that the snoop allows, with a record (04 R111); behind a
write-back that came before it and is still held it waits, by the model's reading of R111 (notes/assumptions/150: DEDUCED). BIConflict is
acknowledged (R119), also where no request of the station is outstanding, which is the model's choice (notes/assumptions/132: DESIGN
CHOICE). Either takes and returns a slot of its class, of which the link's credits have kept one free (14 R433). -/
def Obligations.SnoopResponsesAnswer : Prop :=
  ∀ (s : State) (n : Station) (hpa : BitVec 64) (p : Snoop), (s.stnAt n.val).up = true → 0 < (s.stnAt n.val).rspFree →
    (s.rspSlot n.val).snoopAt n.val hpa.toNat = some p →
    ((s.rspSlot n.val).wbHeld n.val hpa.toNat = true → ∀ rsp, Does (.biRsp n hpa rsp) s
      ((s.rspSlot n.val).modHome fun h => { h with rsps := h.rsps ++ [(n.val, hpa.toNat, rsp)] })) ∧
    (∀ rsp, (s.rspSlot n.val).wbHeld n.val hpa.toNat = false → p.kind.allows rsp = true → rsp ≠ .blk → Does (.biRsp n hpa rsp) s
      ((s.rspSlot n.val).answer p rsp)) ∧
    (∀ rsp, (s.rspSlot n.val).wbHeld n.val hpa.toNat = false → p.kind.allows rsp = false → Does (.biRsp n hpa rsp) s
      (((s.rspSlot n.val).record { source := 0x0406, unit := n.val, address := lineOf hpa.toNat }).answer p .i)) ∧
    Does (.biConflict n hpa) s ((s.rspSlot n.val).emit (.conflictAck n.val (lineOf hpa.toNat)))

/-- The timers and walks of the homes: the end of a hold (04 R120), the snoop timers of a station (R116) and of the twin (R125), the retry store
(16 R502), the walk of a DOWN cistern (06 R161, R162), the end of a recovery (06 R174 to R176), the walk of a FLUSH (05 R146, R149), and the
release of a stream tracker (05 R142). The clock is at least at the moment of the timer. -/
def Obligations.HomeTimersAct : Prop :=
  (∀ (s : State) (a : BitVec 48) (e : DirEnt), s.ent a.toNat = some e → e.held = true →
    Does (.holdEnd a) s (({ s with now := max s.now (tick e.holdEnd) } : State).modEnt a.toNat fun e => { e with held := false })) ∧
  (∀ (s : State) (k : Fin 49) (a : BitVec 48) (p : Snoop), s.home.snoops.find? (fun p => p.holder == k.val && p.key == a.toNat) = some p →
    (∀ x ∈ s.home.rsps, x.1 = k.val → lineOf x.2.1 ≠ p.hpa) →
    (k.val ≠ twinHolder → Does (.biTimerExpire k a) s (({ s with now := max s.now (tick p.deadline) } : State).declare p.cistern 1 k.val)) ∧
    (k.val = twinHolder → s.isPaired = true → Does (.biTimerExpire k a) s (({ s with now := max s.now (tick p.deadline) } : State).startGap 3))) ∧
  (∀ (s : State) (n : Station) (r : Req) (rest : List Req), s.home.retry.filter (fun r => r.ofStn n.val) = r :: rest →
    (∀ q ∈ rest, r.seq < q.seq) → Does (.retryStoreRepresent (some n)) s
      ((({ s with now := max s.now (tick (r.since + 100)) } : State).modHome fun h => { h with retry := h.retry.erase r }).present r)) ∧
  (∀ (s : State) (c : BitVec 12), (s.cis c.toNat).walking = true → (∀ e ∈ s.home.dir, s.inCis c.toNat e.key = false) →
    (∀ t ∈ s.home.txns, s.inCis c.toNat t.key = false) → (s.cis c.toNat).st ≠ .dissolving →
    Does (.downWalkEnd c) s (s.modCis c.toNat fun x => { x with walking := false })) ∧
  (∀ (s : State) (c : BitVec 12) (mode : RecMode) (wb : Option Nat), (s.cis c.toNat).recover = some (mode, wb) → (s.cis c.toNat).walking = false →
    let e := s.endDead c.toNat
    (∀ v ∈ e.pool.revs, (v.cause = .dead ∨ v.station ∈ (s.cis c.toNat).dead) → v.well ∉ e.wellsOf c.toNat) →
    let back := fun (u : State) => ((u.modCis c.toNat fun x =>
      { x with st := .live, zeroed := [], members := x.members.filter fun n => !x.dead.contains n, recover := none, downCause := 0,
               downStation := 0xFF, downTime := 0, expectWb := [] }).cisTwin c.toNat).readyOpt wb .ok (s.cis c.toNat).result
    (mode = .keep → Does (.cisternRecoveryDone c) s (back e)) ∧
    (mode = .zero → (e.zeroHomes c.toNat).zeroOver c.toNat = true → Does (.cisternRecoveryDone c) s (back (e.zeroHomes c.toNat))) ∧
    (mode = .zero → (e.zeroHomes c.toNat).zeroOver c.toNat = false → Does (.cisternRecoveryDone c) s (e.zeroHomes c.toNat))) ∧
  (∀ (s : State) (c : BitVec 12) (wb : Option Nat), (s.cis c.toNat).recover = some (.dissolve, wb) → (s.cis c.toNat).walking = false →
    s.wellsOf c.toNat = [] → Does (.cisternRecoveryDone c) s
      ((s.setCis c.toNat { gen := ((s.cis c.toNat).gen + 1) % 65536 }).readyOpt wb .ok (s.cis c.toNat).result)) ∧
  (∀ (s : State) (die : DieId) (wb : Nat), (s.slice die.val).st = .flushing → (s.slice die.val).wb = some wb →
    Does (.cacheWalkDone die) s
      (let u := (s.flushSlice die.val).modSlice die.val fun x => { x with st := .enabled, wb := none }
       if (List.range 4).any fun e => (u.slice e).wb == some wb then u else u.ready wb .ok [])) ∧
  (∀ (s : State) (die : DieId) (slot : BitVec 6) (t : Tracker), s.cache.trackers.find? (fun t => t.die == die.val && t.slot == slot.toNat) = some t →
    Does (.streamTrackerRelease die slot) s
      { s with now := max s.now (tick (t.last + 10000)), cache := { s.cache with trackers := s.cache.trackers.filter (· != t) } })

/-- What a host's snoop of a cached line answers, and what stays cached; of a line in transfer it waits for the transfer's end (05 R140). The
response opcodes and the state that stays are CXL's (notes/assumptions/25: PRESUMED), and that several snoops of one line wait in their
order is the model's reading (notes/assumptions/139: DEDUCED). -/
def Obligations.HostSnoopsOfCachedLines : Prop :=
  (∀ (s : State) (n : Station) (hpa : BitVec 64) (k : H2D), (s.stnAt n.val).up = true → s.inMotion n.val (lineOf hpa.toNat) = true →
    Does (.h2dSnoop n hpa k) s { s with cache := { s.cache with snoops := s.cache.snoops ++ [(n.val, lineOf hpa.toNat, k)] } }) ∧
  ∀ (s : State) (n : Station) (hpa : BitVec 64), (s.stnAt n.val).up = true → s.inMotion n.val (lineOf hpa.toNat) = false →
    (s.cached (.host n.val (lineOf hpa.toNat)) = none → ∀ k, Does (.h2dSnoop n hpa k) s (s.emit (.d2h n.val 0 .rspMiss (lineOf hpa.toNat) 0 0 false))) ∧
    (∀ c, s.cached (.host n.val (lineOf hpa.toNat)) = some c → c.hst ≠ .m →
      Does (.h2dSnoop n hpa .cur) s (s.emit (.d2h n.val 0 .rspSHit (lineOf hpa.toNat) 0 0 false)) ∧
      Does (.h2dSnoop n hpa .data) s ((s.modLine (.host n.val (lineOf hpa.toNat)) fun c => { c with hst := .s }).emit
        (.d2h n.val 0 .rspSHit (lineOf hpa.toNat) 0 0 false)) ∧
      Does (.h2dSnoop n hpa .inv) s ((s.dropLine (.host n.val (lineOf hpa.toNat))).emit (.d2h n.val 0 .rspIHit (lineOf hpa.toNat) 0 0 false))) ∧
    (∀ c, s.cached (.host n.val (lineOf hpa.toNat)) = some c → c.hst = .m →
      let fwd := fun (u : State) => u.emit (.d2h n.val 0 .rspFwdM (lineOf hpa.toNat) c.data 0 c.pois)
      Does (.h2dSnoop n hpa .cur) s (fwd s) ∧
      Does (.h2dSnoop n hpa .data) s (fwd ((s.modLine (.host n.val (lineOf hpa.toNat)) fun c => { c with hst := .s }).forgetM n.val (lineOf hpa.toNat))) ∧
      Does (.h2dSnoop n hpa .inv) s (fwd ((s.dropLine (.host n.val (lineOf hpa.toNat))).forgetM n.val (lineOf hpa.toNat))))

/-- What reaches the BARs of a station, with the link up, outside D3hot and once host firmware has set them; in D3hot an access is an
Unsupported Request, and so is one to a BAR that is not set, by the model's reading (02 R38 to R44; 14 R424, R426, R439; 15 R450 to R454, R466;
17 R527; notes/assumptions/82: DEDUCED). A bit that a write clears is written 1; of a value of several fields the bits count on. -/
def Obligations.StationRegistersTakeAccesses : Prop :=
  (∀ (s : State) (n : Station), (s.stnAt n.val).up = true → (s.stnAt n.val).barsSet = true → (s.stnAt n.val).d3hot = false →
    (∀ (o : BitVec 26) (size : BitVec 13), 0 < size.toNat → size.toNat ≤ 4096 → o.toNat + size.toNat ≤ windowSize →
      (s.stnAt n.val).winEnable = false →
      Does (.apertureRead n o size) s (s.ioData n.val o.toNat (List.replicate size.toNat 0xFF) false)) ∧
    (∀ (o : BitVec 26) (size : BitVec 13), 0 < size.toNat → (s.stnAt n.val).winEnable = true →
      let k := min (min size.toNat 4096) (windowSize - o.toNat)
      let id := (s.stnAt n.val).nextRead
      Does (.apertureRead n o size) s ((aperLines o.toNat k).zipIdx.foldl (fun t ((a, _), i) =>
        t.aperLine n.val id i (lineOf a) ((s.stnAt n.val).winBase + lineOf a)) (s.modStn n.val fun t =>
          { t with nextRead := id + 1, reads := t.reads ++ [⟨id, o.toNat, k, List.replicate (aperLines o.toNat k).length none⟩] }))) ∧
    (∀ (o : BitVec 26) (data : List Byte), (s.stnAt n.val).winEnable = true →
      Does (.apertureWrite n o data) s ((aperLines o.toNat data.length).foldl (fun t (a, k) =>
        t.aperPut n.val a ((s.stnAt n.val).winBase + a) (Machine.slice data (a - o.toNat) k)) s)) ∧
    (∀ (v : BitVec 64), s.regionBacked (v.toNat % 2 ^ 48 / windowSize * windowSize) = true →
      s.regionAllowed n.val (v.toNat % 2 ^ 48 / windowSize * windowSize) = true →
      Does (.winBaseWrite n .full v) s
        (s.modStn n.val fun t => { t with winRefuse := 0, winBase := v.toNat % 2 ^ 48 / windowSize * windowSize })) ∧
    (∀ (half : Half) (v : BitVec 64), Does (.jnlMarkWrite n half v) s
      ((s.modStn n.val fun t => { t with jnlMark := halfSet t.jnlMark half v.toNat }).jnlCheck n.val)) ∧
    (∀ v : BitVec 32, Does (.jnlThresholdWrite n v) s ((s.modStn n.val fun t =>
      { t with jnlThreshold := if v.toNat % 2 ^ 21 ≤ 1048576 then v.toNat % 2 ^ 21 else t.jnlThreshold }).jnlCheck n.val)) ∧
    (∀ v : BitVec 64, Does (.registerWrite n 0x2008 4 v) s
      (s.modStn n.val fun t => { t with winEnable := nbit (v.toNat % 2 ^ 32) 0, winWrite := nbit (v.toNat % 2 ^ 32) 1 })) ∧
    (∀ v : BitVec 64, let cleared := fun (old new width at_ : Nat) => ∀ k < width, new.testBit k = (old.testBit k && !v.getLsbD (at_ + k))
      (∃ a b, a < 2 ^ 16 ∧ b < 2 ^ 16 ∧ cleared ((s.stnAt n.val).retrains + 2 ^ 16 * (s.stnAt n.val).dlDowns) (a + 2 ^ 16 * b) 32 0 ∧
        Does (.registerWrite n 0x1010 4 v) s (s.modStn n.val fun t => { t with retrains := a, dlDowns := b })) ∧
      (∃ a, cleared (s.stnAt n.val).winDeny a 32 0 ∧ Does (.registerWrite n 0x2018 4 v) s (s.modStn n.val fun t => { t with winDeny := a })) ∧
      (∃ a b, a < 2 ^ 32 ∧ cleared ((s.stnAt n.val).fltDropped + 2 ^ 32 * (s.stnAt n.val).fltPoisoned) (a + 2 ^ 32 * b) 64 0 ∧
        Does (.registerWrite n 0x3010 8 v) s (s.modStn n.val fun t => { t with fltDropped := a, fltPoisoned := b })) ∧
      (∃ a, cleared (s.mb (.stn n)).rejectCount a 32 0 ∧
        Does (.registerWrite n 0x11810 4 v) s (s.modMb (.stn n) fun x => { x with rejectCount := a })) ∧
      (∃ a, cleared (s.mb (.stn n)).cplLost a 16 48 ∧ Does (.registerWrite n 0x11808 8 v) s (s.modMb (.stn n) fun x => { x with cplLost := a })) ∧
      Does (.registerWrite n 0x11818 4 v) s (s.modMb (.stn n) fun x => { x with cplAck := v.toNat % 2 ^ 16 })) ∧
    (∀ v : BitVec 64, let go := fun u => Does (.registerWrite n 0x11800 8 v) s u
      let code := num (memRead (s.mb (.stn n)).area 0 64) 0 2
      (v.getLsbD 0 = false → go s) ∧
      (v.getLsbD 0 = true → s.answers = true →
        ((s.mb (.stn n)).checking = true → go (s.modMb (.stn n) fun x => { x with rejectCount := sat 32 (x.rejectCount + 1) })) ∧
        ((s.mb (.stn n)).checking = false → code ∈ mailboxCodes →
          unlisted code (memRead (s.mb (.stn n)).area 64 (s.areaHdr n).len.toNat) = none →
          go (s.modMb (.stn n) fun x => { x with checking := true })) ∧
        ((s.mb (.stn n)).checking = false → code ∉ mailboxCodes → s.mailboxBusy (.stn n) false = false →
          Leads (.registerWrite n 0x11800 8 v) s fun u => Replied (s.areaHdr n) code .badOpcode u ∧ u.mem = s.mem ∧ u.pool = s.pool))) ∧
    (∀ v : BitVec 11, Does (.msixVectorUnmask n (some v)) s
      ((s.setVec n.val v.toNat { s.vec n.val v.toNat with mask := false }).sendVec n.val v.toNat)) ∧
    Does (.msixVectorUnmask n none) s ((s.modStn n.val fun t => { t with msixEnable := true, msixMask := false }).sendVecs n.val)) ∧
  (∀ (s : State) (n : Station), (s.stnAt n.val).up = true → (s.stnAt n.val).barsSet = false ∨ (s.stnAt n.val).d3hot = true →
    ∀ (o : BitVec 26) (size : BitVec 13) (data : List Byte) (half : Half) (v : BitVec 64) (w : BitVec 32) (k : BitVec 4),
    Does (.apertureRead n o size) s (s.unsupported n.val) ∧ Does (.apertureWrite n o data) s (s.unsupported n.val) ∧
    Does (.winBaseWrite n half v) s (s.unsupported n.val) ∧ Does (.jnlMarkWrite n half v) s (s.unsupported n.val) ∧
    Does (.jnlThresholdWrite n w) s (s.unsupported n.val) ∧ Does (.registerWrite n o k v) s (s.unsupported n.val))

/-- An HDM decoder commits with one way and whole 256 MiB units, else it reports ERROR NOT COMMITTED; the uncommit of a decoder
that no grant is bound to ends at once, that of a bound one runs the revocation sequence (02 R32, R37; 03 R81). -/
def Obligations.HdmDecodersCommit : Prop :=
  ∀ (s : State) (n : Station) (k : BitVec 5) (base size : BitVec 64), (s.stnAt n.val).up = true → (s.stnAt n.val).barsSet = true →
    (s.stnAt n.val).d3hot = false →
    (∀ ways : BitVec 4, (tgetD (s.stnAt n.val).decoders k.toNat {}).committed = false →
      (ways = 1 → base.toNat % 2 ^ 28 = 0 → size.toNat % 2 ^ 28 = 0 → size.toNat ≠ 0 → ∃ u, Does (.hdmDecoderCommit n k base size ways) s u ∧
        tget (u.stnAt n.val).decoders k.toNat = some { base := base.toNat, size := size.toNat, committed := true } ∧
        u.mem = s.mem ∧ u.pool = s.pool ∧ ∀ m, m ≠ n.val → u.stnAt m = s.stnAt m) ∧
      ((ways ≠ 1 ∨ base.toNat % 2 ^ 28 ≠ 0 ∨ size.toNat % 2 ^ 28 ≠ 0 ∨ size.toNat = 0) → ∃ u, Does (.hdmDecoderCommit n k base size ways) s u ∧
        (tgetD (u.stnAt n.val).decoders k.toNat {}).committed = false ∧ (tgetD (u.stnAt n.val).decoders k.toNat {}).notCommitted = true)) ∧
    (∀ d : Decoder, tget (s.stnAt n.val).decoders k.toNat = some d → d.committed = true →
      (d.well = none → Does (.hdmDecoderUncommit n k) s
        (s.modStn n.val fun t => { t with decoders := tset t.decoders k.toNat { d with committed := false } })) ∧
      (∀ i, d.well = some i → Does (.hdmDecoderUncommit n k) s
        ((s.modStn n.val fun t => { t with decoders := tset t.decoders k.toNat { d with uncommit := true } }).startRev
          { well := i, station := n.val, start := s.now, cause := .uncommit })))

/-- Power states, resets and link events of a station (14 R411 to R442). A link that comes up is configured by host firmware where a reset
has left it unconfigured; that the operands of LINK_DL_UP carry that configuration, also on a link that is up, is the model's choice
(notes/assumptions/161: DESIGN CHOICE). -/
def Obligations.StationEventsAct : Prop :=
  (∀ (s : State) (n : Station), (s.stnAt n.val).up = true →
    Does (.d3hotEntry n) s (s.modStn n.val fun t => { t with d3hot := true }) ∧
    Does (.d0Return n) s (s.modStn n.val fun t => { t with d3hot := false }) ∧
    Does (.hotReset n) s (s.stationReset n .hot) ∧ Does (.functionLevelReset n) s (s.stationReset n .flr) ∧
    Does (.linkDlDown n) s (s.stationGone n.val .down) ∧
    ((s.stnAt n.val).recovery = false → Does (.linkRecoveryEntry n) s (s.modStn n.val fun t =>
      if t.up && !t.recovery then
        { t with recovery := true, reqReturning := t.reqReturning + t.reqSent, reqInUse := t.reqInUse - t.reqSent, reqSent := 0,
                 rwdReturning := t.rwdReturning + t.rwdSent, rwdInUse := t.rwdInUse - t.rwdSent, rwdSent := 0,
                 rspReturning := t.rspReturning + t.rspSent, rspInUse := t.rspInUse - t.rspSent, rspSent := 0 }
      else t)) ∧
    ((s.stnAt n.val).recovery = true → ∃ u, Does (.linkRecoveryEnd n) s u ∧ (u.stnAt n.val).recovery = false ∧
      (u.stnAt n.val).retrains = min ((s.stnAt n.val).retrains + 1) 65535 ∧ (u.stnAt n.val).reqHeld = 0 ∧ u.mem = s.mem) ∧
    (∀ (a : BitVec 11) (b : BitVec 10) (c : BitVec 9), ∃ u, Does (.flitAck n a b c) s u ∧ u.stnAt n.val = (s.stnAt n.val).ack a.toNat b.toNat c.toNat ∧
      u.mem = s.mem ∧ u.home = s.home)) ∧
  (∀ (s : State) (n : Station), (s.stnAt n.val).perst = false →
    Does (.perstAssert n) s ((s.stationReset n .perst).modStn n.val fun t => { t with perst := true })) ∧
  (∀ (s : State) (n : Station), Does (.perstDeassert n) s (s.modStn n.val fun t => { t with perst := false })) ∧
  (∀ (s : State) (n : Station) (m : LinkMode) (cache mem bi ats : Bool) (cto : BitVec 4), 
    let configured := fun (t : Stn) => { t with barsSet := true, maxPayload := 128 * 2 ^ min 2 m.payload.toNat, cacheEn := cache, memEn := mem,
                                                biEn := bi, atsEnable := ats, ctoUs := ctoOf cto.toNat }
    let trained := fun (t : Stn) => { t.freshSlots with up := true, speed := 3, width := 8, flit := m.flit.toNat }
    ((s.stnAt n.val).up = true → Does (.linkDlUp n m cache mem bi ats cto) s (s.modStn n.val configured)) ∧
    ((s.stnAt n.val).up = false → s.heldDown n.val = false → modeOk m = true → s.answers = true → s.mod.phase ≠ .bringUp → m.width = 8 → m.speed = 3 →
      ((s.stnAt n.val).barsSet = false → Does (.linkDlUp n m cache mem bi ats cto) s
        ((({ s with mod := { s.mod with memInfoValid := true } } : State).modStn n.val fun t => configured (trained t)).sendVecs n.val)) ∧
      ((s.stnAt n.val).barsSet = true → Does (.linkDlUp n m cache mem bi ats cto) s
        ((({ s with mod := { s.mod with memInfoValid := true } } : State).modStn n.val trained).sendVecs n.val)))) ∧
  (∀ (s : State) (n : Station), s.inService = true → (s.stnAt n.val).up = true → (s.stnAt n.val).memReturn = true → ∃ u, Does (.memoryActiveReturn n) s u ∧
    (u.stnAt n.val).memActive = true ∧ (u.stnAt n.val).memReturn = false ∧ u.mem = s.mem ∧ ∀ m, m ≠ n.val → u.stnAt m = s.stnAt m)

/-- A reset of a station leaves its decoders, windows, vectors and translation mode as at reset, and its mailbox without a session, its
registers and its reply area at their reset values; what the mailbox keeps of its command area and
of failed authentications is the model's choice (14 R411 to R416; 15 R455; 19 R573; notes/assumptions/136: DESIGN CHOICE). -/
def Obligations.StationResetClearsItsRegisters : Prop :=
  ∀ (s : State) (n : Station) (why : Loss), let u := s.stationReset n why
    (u.stnAt n.val).decoders = [] ∧ (u.stnAt n.val).winBase = 0 ∧ (u.stnAt n.val).winEnable = false ∧ (u.stnAt n.val).winWrite = false ∧
    (u.stnAt n.val).vecs = [] ∧ (u.stnAt n.val).ats = false ∧ (u.stnAt n.val).atsEnable = false ∧ (u.stnAt n.val).jnlMark = 0 ∧
    (u.stnAt n.val).jnlThreshold = 0 ∧ (u.stnAt n.val).memActive = false ∧ (u.stnAt n.val).memReturn = true ∧ (u.stnAt n.val).ide = false ∧
    ∃ x : Mailbox, u.mb (.stn n) = { ({} : Mailbox) with area := x.area, challenge := x.challenge, failures := x.failures,
                                                           lockUntil := x.lockUntil }

/-- Every byte of a well reads zero when the well leaves the CREATING state, and every byte that a grow adds when the resize
completes; no other byte changes (03 R49, R66, R69). -/
def Obligations.NewBytesReadZero : Prop :=
  (∀ (s : State) (i : BitVec 16), (s.well i.toNat).st = .creating → Leads (.zeroFillDone i) s fun u =>
    (u.well i.toNat).st = .live ∧
    (∀ a, (s.well i.toNat).start ≤ a → a < (s.well i.toNat).start + (s.well i.toNat).length →
      memGet u.mem a = 0 ∧ a ∉ u.poison ∧ ∀ c ∈ u.cache.lines, c.key ≠ .pool a) ∧
    ∀ a, (a < (s.well i.toNat).start ∨ (s.well i.toNat).start + (s.well i.toNat).length ≤ a) → memGet u.mem a = memGet s.mem a) ∧
  (∀ (s : State) (i : BitVec 16) (r : Resize), (s.well i.toNat).st = .resizing → (s.well i.toNat).resize = some r → (s.well i.toNat).length < r.newLen →
    Leads (.resizeGrowDone i) s fun u =>
    (u.well i.toNat).st = .live ∧ (u.well i.toNat).length = r.newLen ∧
    (∀ a, (s.well i.toNat).start + (s.well i.toNat).length ≤ a → a < (s.well i.toNat).start + r.newLen →
      memGet u.mem a = 0 ∧ a ∉ u.poison ∧ ∀ c ∈ u.cache.lines, c.key ≠ .pool a) ∧
    ∀ a, (a < (s.well i.toNat).start + (s.well i.toNat).length ∨ (s.well i.toNat).start + r.newLen ≤ a) → memGet u.mem a = memGet s.mem a)

/-- The moments of revocations, of released runs and of migrations: a chunk moves once the stacks it reads and writes are awake (03 R81 to R84, R90
to R94; 13 R392; 18 R560). -/
def Obligations.WellMomentsAct : Prop :=
  (∀ (s : State) (i : BitVec 16) (n : Station) (v : Rev),
    (s.pool.revs.find? (fun v => v.well == i.toNat && v.station == n.val && !v.late) = some v → Does (.revocationDrainTimeout i n) s
      ((({ s with now := max s.now (tick (v.start + 50000)) } : State).refuseReqs (fun r => r.ofStn v.station && r.inWell v.well v.frm) 1).modPool
        fun p => { p with revs := p.revs.map fun u => if u = v then { u with late := true } else u })) ∧
    (s.pool.revs.find? (fun v => v.well == i.toNat && v.station == n.val && s.revDrained v) = some v →
      Does (.revocationComplete i n) s (s.endRev v))) ∧
  (∀ (s : State) (v : Rev) (wb : Nat), v.frm = 0 → v.deadHost = false → v.cause = .revoke wb → ∀ m, m ≠ v.station →
    tget ((s.endRev v).well v.well).grants m = tget (s.well v.well).grants m ∧ (s.endRev v).mem = s.mem) ∧
  (∀ (s : State) (a len : BitVec 48) (b m : Nat), s.pool.dirtyRuns = [(b, m)] → a.toNat ≤ b → b + m ≤ a.toNat + len.toNat → 0 < m →
    (∀ r ∈ s.spans, overlaps b m r = false) → Leads (.backgroundZeroing a len) s fun u =>
      (∀ x, b ≤ x → x < b + m → memGet u.mem x = 0) ∧ (∀ x, (x < b ∨ b + m ≤ x) → memGet u.mem x = memGet s.mem x) ∧ u.pool.wells = s.pool.wells) ∧
  (∀ (s : State) (i : BitVec 16) (m : Mig), (s.well i.toNat).mig = some m →
    (m.cancel = none → m.transit = false → m.point < (s.well i.toNat).length → (s.well i.toNat).doomed = false → s.isDown (s.well i.toNat) = false →
      Does (.migrateChunkStart i) s (s.modWell i.toNat fun w => { w with mig := some { m with transit := true } })) ∧
    (m.cancel.isSome = true → m.transit = false → 0 < m.point → (s.well i.toNat).doomed = false → s.isDown (s.well i.toNat) = false →
      Does (.migrateChunkStart i) s (s.modWell i.toNat fun w => { w with mig := some { m with transit := true } })) ∧
    (let src := (if m.back then m.start else (s.well i.toNat).start) + m.chunk
     let dst := (if m.back then (s.well i.toNat).start else m.start) + m.chunk
     let r := s.stacksReady ((List.range 1024).flatMap fun k => [src + 64 * k, dst + 64 * k])
     (m.transit = true → r.1 = false → Does (.migrateChunkCommit i) s r.2) ∧
     ∀ v, m.transit = true → r.1 = true → r.2.chunkRoom src dst 65536 = (true, v) → Does (.migrateChunkCommit i) s
      (let u := (v.moveChunk src dst 65536).modWell i.toNat fun w =>
         { w with mig := some { m with point := if m.back then m.chunk else m.chunk + 65536, transit := false, turning := false } }
       let u := if (u.well i.toNat).mig.map (fun m => m.ended (u.well i.toNat).length) = some true then u.dropWellRanges i.toNat else u
       u.releaseHeld))) ∧
  (∀ (s : State) (i : BitVec 16) (m : Mig) (c : Nat), (s.well i.toNat).mig = some m → m.cancel = some c → m.point = 0 → m.transit = false →
    (s.well i.toNat).doomed = false → s.wellSwitched i.toNat = true → s.isDown (s.well i.toNat) = false → Does (.migrateCancelComplete i) s
      (((((s.releaseRun m.start (s.well i.toNat).length).modWell i.toNat fun w => { w with st := .live, mig := none }).tidyGranules).ready c .ok []).ready
        m.wb .ok [1]))

/-- Presence, links and losses of the crossover (16 R482 to R484, R502; 17 R532, R533). -/
def Obligations.CrossoverEventsAct : Prop :=
  (∀ s : State, s.twin.present = true →
    let u := (s.modTwin fun t => { t with present := false }).modMod fun m => { m with twinChanges := sat 16 (m.twinChanges + 1) }
    (s.twin.st = .paired → Does .twinPresenceLost s (u.startGap 1)) ∧ (s.twin.st = .pairing → Does .twinPresenceLost s u.pairFail) ∧
    (s.twin.st = .unpaired → Does .twinPresenceLost s u)) ∧
  (∀ s : State, s.twin.present = false → Does .twinPresenceGained s
    ((s.modTwin fun t => { t with present := true }).modMod fun m => { m with twinChanges := sat 16 (m.twinChanges + 1) }).askPair) ∧
  (∀ (s : State) (k : Fin 4) (a b : Bool), s.answers = true → s.twin.retired[k] = false →
    let u := s.modTwin fun t => { t with laneFails := t.laneFails.setIfInBounds k.val [] }
    let up := fun (v : State) => (v.modTwin fun t => { t with links := t.links.setIfInBounds k.val true }).askPair
    (s.twin.laneFails[k] = [] → Does (.crossoverLinkUp k none a b) s (up u)) ∧
    ∀ l rest, s.twin.laneFails[k] = l :: rest → Does (.crossoverLinkUp k none a b) s (up (u.addHist 0x0501 5 k.val (2 ^ l) 1 1 false))) ∧
  (∀ (s : State) (k : Fin 4), k.val ∈ s.xoUp → s.isPaired = true → Does (.crossoverLinkDown k) s
    (let u := (s.modTwin fun t => { t with links := t.links.setIfInBounds k.val false }).record { source := 0x0501, unit := k.val }
     if u.xoUp.isEmpty then u.xoSilent else u)) ∧
  (∀ s : State, s.isPaired = true → s.twin.st ≠ .pairing → Does .crossoverSilence s (s.modTwin fun t => { t with presenceWait := true })) ∧
  (∀ s : State, s.twin.st = .pairing → Does .crossoverSilence s s.pairFail) ∧
  (∀ s : State, s.isPaired = true → s.twin.presenceWait = true → s.twin.present = true →
    (s.mbx.keeper = true → Does .presenceWaitExpire s (s.startGap 2)) ∧ (s.mbx.keeper = false → Does .presenceWaitExpire s s.fenceSelf)) ∧
  (∀ (s : State) (k : Fin 4), k.val ∈ s.xoUp → Does (.keepaliveSend k) s (s.emit (.xo (.keepalive k.val))))

/-- What the twin asks and answers over the crossover (16 R494, R495, R502 to R507; 04 R125; 06 R165, R178; 13 R392, R408). -/
def Obligations.TwinMessagesAct : Prop :=
  (∀ (s : State) (id h : BitVec 32) (off : BitVec 64) (d : Line) (mask : BitVec 64) (p : Bool) (i : Nat), s.isPaired = true → s.namedMir h.toNat = some i →
    (s.well i).isHome = false → off.toNat < (s.well i).length →
    let key := (s.well i).dpa (lineOf off.toNat)
    (s.asleep key = false → Does (.mirrorWriteReceive id h off d mask p) s
      (((s.noteApplied i (lineOf off.toNat) (mergeLine (s.peekLine key).1 d mask)).homeWrite key d mask p .xo).emit (.xo (.mirrorAck id.toNat)))) ∧
    (s.asleep key = true → Does (.mirrorWriteReceive id h off d mask p) s ((s.wakeDie (s.dieOf key)).modTwin fun t =>
      { t with mirHeld := t.mirHeld ++ [(id.toNat, h.toNat, off.toNat, d, mask, p)] }))) ∧
  (∀ (s : State) (id : BitVec 32) (m : MirOut), s.twin.mirOut.find? (·.id == id.toNat) = some m →
    Does (.mirrorWriteAck id) s ((s.modTwin fun t => { t with mirOut := t.mirOut.filter (·.id != id.toNat) }).respond m.req .cmp m.ans) ∧
    (s.isPaired = true → Does (.mirrorAckTimeout id) s (({ s with now := max s.now (tick m.deadline) } : State).startGap 3))) ∧
  (∀ (s : State) (id : BitVec 32) (a : BitVec 48), s.isPaired = true →
    Does (.twinAccessReceive (.read id a)) s (s.twinPool id.toNat a.toNat .swaRd 0 fullMask false) ∧
    ∀ (h : BitVec 32) (i : Nat), s.named h.toNat = some i → Does (.twinAccessReceive (.rangeFill id h)) s
      (s.emit (.xo (.rangeInfo id.toNat (s.well i).startNow (s.well i).length (s.well i).kvb16)))) ∧
  (∀ (s : State) (id : BitVec 32) (d : Line) (mark : TwinMark) (f : FwdOut) (r : Req), s.twin.fwdOut.find? (·.id == id.toNat) = some f →
    f.req = some r → Does (.twinResponseReceive id d mark) s ((s.dropFwd id.toNat).fwdDone r d (mark == .poison))) ∧
  (∀ (s : State) (id h : BitVec 32) (off : BitVec 64),
    (s.namedMir h.toNat = none → Does (.twinSnoopReceive id h off) s (s.emit (.xo (.snoopRsp id.toNat)))) ∧
    ∀ i, s.isPaired = true → s.namedMir h.toNat = some i → Does (.twinSnoopReceive id h off) s
      (s.modTwin fun t => { t with snoops := t.snoops ++ [⟨id.toNat, (s.well i).dpa (lineOf off.toNat)⟩] })) ∧
  (∀ (s : State) (id h : BitVec 32) (off : BitVec 64) (what : GrantNote) (i : Nat), s.isPaired = true → s.namedMir h.toNat = some i →
    (s.well i).isHome = false → (s.well i).coh = true → off.toNat < (s.well i).length →
    let key := (s.well i).dpa (lineOf off.toNat)
    let u := (s.modHome fun x => { x with dir := x.dir.filter fun e => !(e.record && e.key == key) }).modTwin fun t =>
      { t with grants := t.grants.filter (·.2.1 != key) }
    Does (.grantRecordReceive id h off what) s
      (if what = .returned then u else (u.modTwin fun t => { t with grants := t.grants ++ [(id.toNat, key, what == .m)] }).grantStep)) ∧
  (∀ (s : State) (cis : BitVec 32) (cause : Byte) (c : Nat), s.isPaired = true → s.namedCis cis.toNat = some c → (s.cis c).st = .live →
    Does (.twinDeclarationReceive cis cause) s (s.declare c cause.toNat twinHolder true)) ∧
  (∀ (s : State) (c : BitVec 16) (name : BitVec 128), s.answers = true → s.isPaired = true → c.toNat < 4096 → (s.ctx c.toNat).st = .free →
    Does (.crossoverMailboxMessage (.context c name)) s (s.modCtx c.toNat fun _ => { st := .live, name := name })) ∧
  (∀ (s : State) (a : Announce), s.isPaired = true → Does (.twinAnnounceReceive a) s (s.startGap 4) ∧ Does .fenceOrderReceive s s.fenceSelf) ∧
  (∀ s : State, s.twin.st = .gap → Does .switchoverGapEnd s s.endGap) ∧
  (∀ (s : State) (x : Swo), s.twin.st ≠ .gap → s.twin.swo = some x → x.gap = true → Does .switchoverGapEnd s (s.endSwo x))

/-- The reports, audit and resync of a pair, and the audit records of the twin (16 R497 to R500, R509; 19 R577). What a record names and the
order of the wells are the model's choice (notes/assumptions/70: DESIGN CHOICE). -/
def Obligations.PairUpkeepActs : Prop :=
  (∀ s : State, s.answers = true → Does .healthReportSend s
    (((if s.isPaired then s.emit (.xo (.report s.healthBytes)) else s).emit (.health s.healthBytes)).modTwin fun t =>
      { t with reportSeq := t.reportSeq + 1, katPass := 0, katFail := 0, scrubPages := 0, auditPages := 0, auditMismatch := 0 })) ∧
  (∀ (s : State) (r : Report) (a : AuditWords), s.isPaired = true →
    Does (.healthReportReceive r) s (s.modTwin fun t => { t with report := some r, lastReport := s.now }) ∧
    Does .twinReportsMissed s (s.record { source := 0x0504 }) ∧
    Does (.auditRecordReceive a) s (s.modSec fun x => { x with twin := auditIn a :: x.twin.take (Config.journalRing - 1), twinSeen := x.twinSeen + 1 })) ∧
  (∀ (s : State) (h k : BitVec 32) (i : Nat), s.isPaired = true → s.namedMir h.toNat = some i → 4096 * (k.toNat + 1) < (s.well i).length →
    let r := s.stacksReady (pageKeys (s.well i) k.toNat)
    (r.1 = false → ∀ image,
      ((s.well i).mirSt = some .sync → (s.well i).isHome = true ∨ s.auditNext = some (h.toNat, k.toNat) → Does (.mirrorAuditPage h k image) s r.2) ∧
      ((s.well i).mirSt = some .resync → (s.well i).isHome = false ∨ s.resyncNext = some (i, k.toNat) → Does (.resyncPageCopy h k image) s r.2)) ∧
    (r.1 = true → (s.well i).mirSt = some .sync → let sent := r.2.emit (.xo (.crc h.toNat k.toNat (pageCrc (r.2.pageOf i k.toNat))))
      ((s.well i).isHome = true → Does (.mirrorAuditPage h k (r.2.pageOf i k.toNat)) s sent) ∧
      ((s.well i).isHome = false → s.auditNext = some (h.toNat, k.toNat) → Does (.mirrorAuditPage h k (r.2.pageOf i k.toNat)) s
        (sent.modTwin fun t => { t with auditPages := t.auditPages + 1, auditLast := some (h.toNat, k.toNat) })) ∧
      ((s.well i).isHome = false → s.auditNext ≠ some (h.toNat, k.toNat) → ∀ other, Does (.mirrorAuditPage h k other) s s)) ∧
    (r.1 = true → (s.well i).mirSt = some .resync → (s.well i).isHome = true → s.resyncNext = some (i, k.toNat) → ∀ image,
      Does (.resyncPageCopy h k image) s
        (((r.2.emit (.xo (.page h.toNat k.toNat (r.2.pageStored i k.toNat)))).modTwin fun t =>
          { t with bitmap := t.bitmap.filter (· != s.wellPage i k.toNat) }).resyncEnd i)) ∧
    (r.1 = true → (s.well i).mirSt = some .resync → (s.well i).isHome = false → ∀ image : PageImage,
      Does (.resyncPageCopy h k image) s
        (let u := (image.take 64).zipIdx.foldl (fun (t : State) ((d, p), l) =>
           t.putLine ((t.well i).dpa (4096 * k.toNat + 64 * l)) (t.openLine i (4096 * k.toNat + 64 * l) d) p) r.2
         (u.modTwin fun t => { t with bitmap := t.bitmap.filter (· != u.wellPage i k.toNat) }).resyncEnd i)))

/-- Detection, the scrubber and the known-answer tests (17 R511, R512, R519 to R521, R532, R537; 08 R244). That a part of the test meets and
uses up an injection as one tile step does (notes/assumptions/157: DESIGN CHOICE), and that parts are judged one by one
(notes/assumptions/90: DEDUCED), is the model's. -/
def Obligations.ChecksAndTestsAct : Prop :=
  (∀ (s : State) (source : BitVec 16) (unit : Byte) (object address : BitVec 64) (detail : BitVec 128) (x : Source), s.answers = true →
    sourceOf source.toNat = some x → unit.toNat < unitsOf x.kind → s.flt.linkCrc = [] →
    source.toNat ∉ [0x0102, 0x0103, 0x0105, 0x0202, 0x0203, 0x0304, 0x0502] →
    let at_ : Event := { source := source.toNat, unit := unit.toNat, object := object.toNat, address := address.toNat }
    Does (.faultDetected source unit object address detail) s (s.record { at_ with detail := detail.toNat, permanent := permSource source.toNat })) ∧
  (∀ (s : State) (a : BitVec 48) (d x : Nat), s.flt.scrubEn = true → s.answers = true → s.homeOf (lineOf a.toNat) = some (d, x) →
    let here := (stackOf d x).1 * 2 ^ 48 + (stackOf d x).2
    (s.dieDormant d = false → s.flt.scrubAt < here → lineOf a.toNat % 4096 ≠ 4032 → s.upsetOf (lineOf a.toNat) = none →
      Does (.scrubLine a) s (s.modFlt fun f => { f with scrubAt := here })) ∧
    (s.dieDormant d = true → (s.quartersUsed d).isEmpty = true → Does (.scrubLine a) s s)) ∧
  (∀ (s : State) (p : PumpId), s.flt.katEn = true → (s.mod.phase = .service ∨ s.mod.phase = .factory) → (∀ q < 16, (s.pumpAt q).test = none) →
    (s.pumpAt p.val).permanent = none → (s.pumpAt p.val).updating = false → (s.pumpAt p.val).resetting = false → (s.pumpAt p.val).moving = none →
    Does (.katTurn p) s ((s.modPump p.val fun x => { x with test := some x.katNext, katRun := 0 }).requeue p.val true)) ∧
  (∀ (s : State) (p : PumpId) (k : Nat), (s.pumpAt p.val).test = some k → (s.pumpAt p.val).job = none → (s.pumpAt p.val).katFails = 0 →
    let bad := decide (0 < (s.pumpAt p.val).parityInj) || decide (0 < (s.pumpAt p.val).csumInj)
    let u := ({ s with now := s.now + 150000 } : State).modPump p.val fun x =>
      { x with parityInj := 0, csumInj := x.csumInj - 1, katInj := (s.pumpAt p.val).katInj || bad }
    (k + 1 < 8 → bad = false → (s.pumpAt p.val).katRun + 1 < s.flt.maxOutUs / 150 → Does (.katPartDone p true) s
      ((u.modPump p.val fun x => { x with katInj := false }).modPump p.val fun x =>
        { x with test := some (k + 1), katRun := (s.pumpAt p.val).katRun + 1, katFails := 0 })) ∧
    (∀ pass, pass = false ∨ bad = true → (s.pumpAt p.val).katRun + 1 < s.flt.maxOutUs / 150 → Does (.katPartDone p pass) s
      ((u.modTwin fun t => { t with katFail := t.katFail + 1 }).modPump p.val fun x =>
        { x with test := some k, katRun := (s.pumpAt p.val).katRun + 1, katFails := 1 })))

/-- A known-answer part that fails twice in a row, by itself or by an injected error, judges its pump: the pump leaves the test, and PUMP_PERM
is recorded (17 R532, R537). That an injection fails a part as it fails a step (notes/assumptions/157: DESIGN CHOICE), and that parts are
judged one by one (notes/assumptions/90: DEDUCED), is the model's. -/
def Obligations.SecondFailedPartJudgesThePump : Prop :=
  ∀ (s : State) (p : PumpId) (k : Nat), (s.pumpAt p.val).test = some k → (s.pumpAt p.val).job = none → (s.pumpAt p.val).katFails = 1 →
    let bad := decide (0 < (s.pumpAt p.val).parityInj) || decide (0 < (s.pumpAt p.val).csumInj)
    let inj := (s.pumpAt p.val).katInj || bad
    ∀ pass, pass = false ∨ bad = true → Does (.katPartDone p pass) s
      ((((({ s with now := s.now + 150000 } : State).modPump p.val fun x => { x with parityInj := 0, csumInj := x.csumInj - 1, katInj := inj }).modTwin
        fun t => { t with katFail := t.katFail + 1 }).modPump p.val fun x =>
        { x with test := none, katNext := 0, katRun := 0, katFails := 0, katInj := false, since := s.now + 150000 }).record
          { source := 0x0302, unit := p.val, permanent := true, injected := inj })

/-- MOD_ERR_N's one-shot and toggle, the watchdogs, and the ends of the reactions (16 R484; 17 R520, R521, R525, R539). -/
def Obligations.ReactionsEnd : Prop :=
  (∀ s : State, Does .modErrOneShotEnd s (s.modMod fun m => { m with oneShot := false })) ∧
  (∀ s : State, s.toggles = true → s.answers = true →
    (s.toggleStopped = false → Does .aliveToggle s (s.modMod fun m => { m with toggleLow := !m.toggleLow, toggleHeld := false })) ∧
    Does .aliveToggleMissed s (s.modMod fun m => { m with toggleHeld := true })) ∧
  (∀ s : State, s.answers = true → Does .signalBoxWatchdogExpire s (s.modMod fun m => { m with errForced := true }) ∧
    ∀ c : Fin 6, Does (.coreWatchdogExpire c) s (s.record { source := 0x0701, unit := c.val })) ∧
  (∀ (s : State) (k u : Byte), (k.toNat, u.toNat, true) ∈ s.flt.busy → k.toNat ≠ 3 → k.toNat ≠ 6 →
    Does (.blockResetDone k u) s (s.modFlt fun f => { f with busy := f.busy.filter (· != (k.toNat, u.toNat, true)) })) ∧
  (∀ (s : State) (u : Byte), (3, u.toNat, true) ∈ s.flt.busy → Does (.blockResetDone 3 u) s
    ((s.modFlt fun f => { f with busy := f.busy.filter (· != (3, u.toNat, true)) }).modPump u.toNat fun x =>
      { x with resetting := false, since := s.now })) ∧
  (∀ (s : State) (k u : Byte), (k.toNat, u.toNat, false) ∈ s.flt.busy → Does (.nmiCaptureDone k u) s
    (((s.capture k.toNat u.toNat).modFlt fun f => { f with busy := f.busy.filter (· != (k.toNat, u.toNat, false)) }).releaseHeld)) ∧
  (∀ (s : State) (t d : Nat), s.flt.flaggedAt = some t → s.flt.drainDelay = some d → s.mod.phase = .service → s.isPaired = true →
    s.mod.drain = none → s.pwr.powerDown = false → Does .drainDelayExpire s
      ((({ s with now := max s.now (tick (t + d * 1000000000)) } : State).modFlt fun f => { f with flaggedAt := none }).autoDrain false))

/-- Challenges, lockouts and idle sessions end, the clock at their moment (19 R569, R571, R573). -/
def Obligations.SessionsEnd : Prop :=
  (∀ (s : State) (m : Mbx) (c : Challenge), (s.mb m).challenge = some c → ∃ u, Does (.challengeExpire m) s u ∧
    (u.mb m).challenge = none ∧ u.now = max s.now (tick c.expires) ∧ (∀ k, k ≠ m → u.mb k = s.mb k) ∧ u.mem = s.mem ∧ u.sec = s.sec) ∧
  (∀ (s : State) (m : Mbx) (t : Nat), (s.mb m).lockUntil = some t → ∃ u, Does (.authLockoutEnd m) s u ∧
    (u.mb m).lockUntil = none ∧ u.now = max s.now (tick t) ∧ (∀ k, k ≠ m → u.mb k = s.mb k) ∧ u.mem = s.mem ∧ u.sec = s.sec) ∧
  (∀ (s : State) (m : Mbx), (m = .eth ∨ m = .i3c) → (s.mb m).session ≠ .none → ∃ u, Does (.mgmtSessionIdle m) s u ∧
    (u.mb m).session = .none ∧ (u.mb m).credSlot = 0 ∧ u.now = max s.now (tick ((s.mb m).lastUse + 900000000000)) ∧
    (∀ k, k ≠ m → u.mb k = s.mb k) ∧ u.mem = s.mem ∧ u.sec.creds = s.sec.creds)

/-- Secured sessions, IDE streams and what an SPDM requester is answered (19 R584, R586 to R588). A stream is keyed with its session or over
one in service, and a key refresh over a session of the same requester revokes nothing; that one over another requester's session revokes the
grants that rest on the stream is the model's choice (notes/assumptions/195: DESIGN CHOICE). -/
def Obligations.LinkSecurityActs : Prop :=
  (∀ (s : State) (n : Station) (peer : BitVec 384), s.answers = true → (s.stnAt n.val).up = true → (tgetD s.sec.spdm n.val []).length < 4 →
    (∃ u, Does (.spdmSessionEstablish (.stn n) .session peer) s u ∧
      tget u.sec.spdm n.val = some (tgetD s.sec.spdm n.val [] ++ [(s.sec.nextSpdm, peer)]) ∧
      (u.stnAt n.val).spdm = true ∧ u.mem = s.mem ∧ ∀ m, m ≠ n.val → u.stnAt m = s.stnAt m) ∧
    ∀ (k : IdeKind) (contain : Bool), (s.stnAt n.val).flit ≠ 0 → (s.stnAt n.val).hasIde k = false →
      ∃ u, Does (.spdmSessionEstablish (.stn n) (.keyed k contain) peer) s u ∧
        tget u.sec.spdm n.val = some (tgetD s.sec.spdm n.val [] ++ [(s.sec.nextSpdm, peer)]) ∧ (u.stnAt n.val).hasIde k = true ∧
        (k = .cxl → (u.stnAt n.val).idePeer = peer ∧ (u.stnAt n.val).ideSession = s.sec.nextSpdm ∧ (u.stnAt n.val).ideContain = contain) ∧
        u.mem = s.mem ∧ ∀ m, m ≠ n.val → u.stnAt m = s.stnAt m) ∧
  (∀ (s : State) (n : Station) (k : Fin 4) (id : Nat) (peer any : BitVec 384), s.answers = true → (s.stnAt n.val).up = true →
    (tgetD s.sec.spdm n.val [])[k.val]? = some (id, peer) →
    (∀ contain : Bool, (s.stnAt n.val).flit ≠ 0 → (s.stnAt n.val).ide = false → Does (.spdmSessionEstablish (.stn n) (.stream .cxl contain k) any) s
      ((s.modStn n.val fun t => { t with ide := true, ideContain := contain, idePeer := peer, ideSession := id }).auditOwn 8 (n.val + 256))) ∧
    ((s.stnAt n.val).ide = true →
      ((s.stnAt n.val).idePeer = peer → Does (.spdmSessionEstablish (.stn n) (.refresh .cxl k) any) s
        (s.modStn n.val fun t => { t with idePeer := peer, ideSession := id })) ∧
      ((s.stnAt n.val).idePeer ≠ peer → Does (.spdmSessionEstablish (.stn n) (.refresh .cxl k) any) s
        ((s.revokeIde n.val).modStn n.val fun t => { t with idePeer := peer, ideSession := id })))) ∧
  (∀ (s : State) (n : Station), (s.stnAt n.val).ide = true →
    Does (.ideStreamEnd (.stream n .cxl)) s ((s.ideEnded n.val .cxl 2).revokeIde n.val) ∧
    Does (.ideIntegrityFail (n, .cxl)) s (((s.ideEnded n.val .cxl 3).revokeIde n.val).record { source := 0x0408, unit := n.val })) ∧
  (∀ (s : State) (n : Station) (k : Fin 3), k ∈ (s.stnAt n.val).pcieIde →
    Does (.ideStreamEnd (.stream n (.pcie k))) s (s.ideEnded n.val (.pcie k) 2) ∧
    Does (.ideIntegrityFail (n, .pcie k)) s ((s.ideEnded n.val (.pcie k) 3).record { source := 0x0408, unit := n.val })) ∧
  (∀ (s : State) (k : Fin 4) (x : Nat × BitVec 384), (tgetD s.sec.spdm 48 [])[k.val]? = some x → ∃ u,
    Does (.ideStreamEnd (.session .i3c k)) s u ∧ tgetD u.sec.spdm 48 [] = (tgetD s.sec.spdm 48 []).eraseIdx k.val ∧ u.mem = s.mem) ∧
  (∀ (s : State) (n : Station) (k : Fin 4) (id : Nat) (peer : BitVec 384), (tgetD s.sec.spdm n.val [])[k.val]? = some (id, peer) →
    ((s.stnAt n.val).ide = false ∨ (s.stnAt n.val).ideSession ≠ id → ∃ u, Does (.ideStreamEnd (.session (.stn n) k)) s u ∧
      tgetD u.sec.spdm n.val [] = (tgetD s.sec.spdm n.val []).eraseIdx k.val ∧ u.pool = s.pool ∧
      ((u.stnAt n.val).spdm = true ↔ 1 < (tgetD s.sec.spdm n.val []).length) ∧ u.mem = s.mem) ∧
    ((s.stnAt n.val).ide = true → (s.stnAt n.val).ideSession = id → ∃ u : State, Does (.ideStreamEnd (.session (.stn n) k)) s (u.revokeIde n.val) ∧
      tgetD u.sec.spdm n.val [] = (tgetD s.sec.spdm n.val []).eraseIdx k.val ∧ u.pool = s.pool ∧ u.mem = s.mem)) ∧
  (∀ (s : State) (ask : SpdmAsk), s.answers = true → Does (.spdmRequest .i3c ask) s (s.emit (.spdm .i3c (s.spdmAnswer ask)))) ∧
  (∀ (s : State) (n : Station) (ask : SpdmAsk), s.answers = true → (s.stnAt n.val).up = true →
    Does (.spdmRequest (.stn n) ask) s (s.emit (.spdm (.stn n) (s.spdmAnswer ask))))

/-- The 64 V input and its controller (18 R542 to R545, R548, R555; 20 R589, R606). That bit 2 of CONVERTER_LOST's operand says what the
converter lost and that RAIL_SAMPLE of IDs 21 to 24 is a converter's (notes/assumptions/104: DESIGN CHOICE), and that a shutdown temperature
is taken note of while the controller is open (notes/assumptions/149: DEDUCED), is the model's. -/
def Obligations.InputEventsAct : Prop :=
  (∀ (s : State) (mv ma : BitVec 32), s.pwr.hotSwap = .closed → Does (.vinSample mv ma) s (s.modPwr fun p =>
    { p with mv := mv.toNat, ma := ma.toNat, limiting := decide (40000 ≤ ma.toNat)
             energyMj := p.energyMj + (p.energyRem + mv.toNat * ma.toNat) / 100000000
             energyRem := (p.energyRem + mv.toNat * ma.toNat) % 100000000 })) ∧
  (∀ s : State, s.pwr.hotSwap ≠ .open_ →
    Does .vinOvervoltageTrip s (s.openSwap 0) ∧ Does .inputFail s (s.openSwap 0) ∧ Does .thermalShutdown s ((s.openSwap 0).modPwr fun p => { p with hot := true }) ∧
    (s.pwr.limiting = true → Does .currentLimitTimeout s (s.openSwap (if 3 ≤ s.pwr.tries then 2 else 4))) ∧
    Does .standbySupplyLost s ((s.openSwap 0).modPwr fun p => { p with standby := false, holdOpen := if p.holdOpen == 1 then 0 else p.holdOpen })) ∧
  (∀ s : State, s.answers = true →
    Does .vinLow s (s.record { source := 0x0601 }) ∧ Does .vinHigh s (s.record { source := 0x0602 }) ∧
    (∀ k : Fin 8, Does (.converterLost k) s ((s.modPwr fun p =>
      { p with conv := p.conv.setIfInBounds (k.val % 4) (if k.val < 4 then 0 else 2) }).record { source := 0x0603, unit := k.val % 4 })) ∧
    ∀ r : BitVec 5, r.toNat < 21 → Does (.railFault r) s (s.record { source := 0x0604, detail := r.toNat })) ∧
  (∀ s : State, s.pwr.hotSwap = .open_ → s.pwr.holdOpen = 4 →
    Does .hotSwapRetry s (s.modPwr fun p => { p with holdOpen := 0, tries := p.tries + 1 })) ∧
  (∀ s : State, s.pwr.hotSwap = .open_ → s.pwr.holdOpen = 0 → s.pwr.hot = false → s.pwr.standby = true →
    Does .hotSwapClose s ((s.modPwr fun p => { p with hotSwap := .sloping }).modMod fun m => { m with poweredDown := false })) ∧
  (∀ s : State, s.pwr.hotSwap = .sloping →
    Does .inrushSlopeEnd s (s.modPwr fun p => { p with hotSwap := .closed, inputGood := true, conv := Vector.replicate 4 1 })) ∧
  (∀ s : State, Does .standbySupplyReturn s (s.modPwr fun p => { p with standby := true })) ∧
  (∀ s : State, s.pwr.hotSwap = .open_ → Does .thermalShutdown s (s.modPwr fun p => { p with hot := true })) ∧
  (∀ (s : State) (r : BitVec 5) (mv ma : BitVec 16) (temp : Byte),
    let bad := decide (mv.toNat * 100 < railNominal r.toNat * 95) || decide (railNominal r.toNat * 105 < mv.toNat * 100)
    (r.toNat < 21 → Does (.railSample r mv ma temp) s
      (s.modPwr fun p => { p with rails := p.rails.setIfInBounds r.toNat ⟨mv.toNat, ma.toNat, temp, bad⟩ })) ∧
    (21 ≤ r.toNat → r.toNat < 25 → Does (.railSample r mv ma temp) s (s.modPwr fun p =>
      { p with convOut := p.convOut.setIfInBounds (r.toNat - 21) ⟨mv.toNat, ma.toNat, temp, false⟩ })))

/-- Above the effective limit the duty falls by one step, or at its floor the memory limit does; with 50 W to spare for ten steps in a row it
rises again, memory first (18 R549, R552, R553, R561 to R564). That every further step of such a row raises by one, and that LIMIT_UNMET
clears when the input is at or below the limit, is the model's reading (notes/assumptions/103: DEDUCED). -/
def Obligations.PowerManagerSteps : Prop :=
  (∀ (s : State) (w : BitVec 16), s.answers = true → s.powerHeld = false →
    let h := (w.toNat :: s.pwr.wHist).take 10
    let u := s.modPwr fun p => { p with inW := w.toNat, wHist := h, inW1 := h.foldl (· + ·) 0 / h.length }
    (s.effectiveW < w.toNat → 2 < s.pwr.duty →
      Does (.powerManagerStep w) s (u.modPwr fun p => { p with duty := s.pwr.duty - 1, below := 0 })) ∧
    (s.effectiveW < w.toNat → s.pwr.duty ≤ 2 → 6 < s.pwr.memStep →
      Does (.powerManagerStep w) s (u.modPwr fun p => { p with memStep := s.pwr.memStep - 1, below := 0 })) ∧
    (w.toNat ≤ s.effectiveW → s.pwr.below < 9 → w.toNat + 50 ≤ s.effectiveW →
      Does (.powerManagerStep w) s (u.modPwr fun p => { p with below := s.pwr.below + 1, unmet := false })) ∧
    (w.toNat + 50 ≤ s.effectiveW → 9 ≤ s.pwr.below → s.pwr.memStep < 16 →
      Does (.powerManagerStep w) s (u.modPwr fun p => { p with memStep := s.pwr.memStep + 1, below := s.pwr.below + 1, unmet := false }))) ∧
  (∀ (s : State) (sensors dram : List Byte),
    let r := s.modPwr fun p => { p with temps := Vector.ofFn fun i => sensors.getD i.val p.temps[i]
                                        stackTemps := Vector.ofFn fun i => dram.getD i.val p.stackTemps[i] }
    let below := r.allTemps.zipIdx.all fun x => x.1 < warnOf x.2
    let u := r.modPwr fun p => { p with hot := p.hot && !below }
    let warm := u.allTemps.zipIdx.any fun x => warnOf x.2 ≤ x.1
    let cool := u.allTemps.zipIdx.all fun x => x.1 + 5 ≤ warnOf x.2
    (s.answers = false → Does (.thermalSample sensors dram) s u) ∧
    (s.answers = true → Does (.thermalSample sensors dram) s ((List.range 4).foldl (fun t d => t.thermDie d)
      (u.modPwr fun p => { p with therm := if warm then true else if cool then false else p.therm })).thermRecords))

/-- The idle states of stacks and pumps (18 R557 to R560): the clock is at least at the moment the idle time has passed. -/
def Obligations.IdleStatesChange : Prop :=
  (∀ (s : State) (d : DieId), d.val ≠ 0 → s.dieDormant d.val = false → s.answers = true →
    let sleep := fun (moment : Nat) => ({ s with now := max s.now (tick moment) } : State).modPwr fun p =>
      { p with dormant := p.dormant.setIfInBounds d.val true, waking := p.waking.setIfInBounds d.val false }
    let idle := fun ms => s.pwr.lastReq.toList.getD d.val 0 + ms * 1000000
    (∀ ms, (s.quartersUsed d.val).isEmpty = false → s.pwr.dormantMs = some ms → Does (.stackDormantEntry d) s (sleep (idle ms))) ∧
    (∀ since, (s.quartersUsed d.val).isEmpty = true → s.pwr.emptySince.toList.getD d.val none = some since →
      (s.pwr.dormantMs = none → Does (.stackDormantEntry d) s (sleep (since + 10000000))) ∧
      ∀ ms, s.pwr.dormantMs = some ms → Does (.stackDormantEntry d) s (sleep (min (since + 10000000) (idle ms)))) ∧
    ((s.quartersUsed d.val).isEmpty = false → s.pwr.dormantMs = none → Does (.stackDormantEntry d) s s)) ∧
  (∀ (s : State) (d : DieId), s.pwr.waking.toList.getD d.val false = true → Does (.stackWakeDone d) s
    (let u := s.modPwr fun p => { p with dormant := p.dormant.setIfInBounds d.val false, waking := p.waking.setIfInBounds d.val false,
                                         lastReq := p.lastReq.setIfInBounds d.val s.now }
     s.twin.mirHeld.foldl (fun u (id, h, off, d, mask, p) => u.mirrorIn id h off d mask p) ((u.modTwin fun t => { t with mirHeld := [] }).releaseHeld))) ∧
  (∀ (s : State) (p : PumpId), (s.pumpAt p.val).idle = true →
    ((s.pumpAt p.val).clk = .hot → ∃ u, Does (.pumpHotToWarm p) s u ∧ (u.pumpAt p.val).clk = .warm ∧
      u.now = max s.now (tick ((s.pumpAt p.val).since + s.pwr.hotIdleUs * 1000)) ∧ (∀ q, q ≠ p.val → u.pumpAt q = s.pumpAt q) ∧ u.mem = s.mem) ∧
    (∀ us, s.pwr.warmIdleUs = some us → (s.pumpAt p.val).clk = .warm → ∃ u, Does (.pumpWarmToCold p) s u ∧ (u.pumpAt p.val).clk = .cold ∧
      u.now = max s.now (tick ((s.pumpAt p.val).since + us * 1000)) ∧ (∀ q, q ≠ p.val → u.pumpAt q = s.pumpAt q) ∧ u.mem = s.mem)) ∧
  (∀ (s : State) (p : PumpId) (j : Job), (s.pumpAt p.val).waking = true → (s.pumpAt p.val).job = some j.id → s.job j.id = some j →
    let u := s.modPump p.val fun x => { x with clk := .hot, waking := false, since := s.now }
    (j.stage = .queued p.val → Does (.pumpWakeDone p) s (u.readDesc j.id p.val)) ∧
    (j.stage ≠ .queued p.val → Does (.pumpWakeDone p) s u))

/-- The attention button, the module's reset, which lets a power-down under way end first, and the start of bring-up (20 R592, R603, R606). -/
def Obligations.PinsAct : Prop :=
  (∀ s : State, s.answers = true → s.mod.drain = none → s.pwr.powerDown = false →
    let u := s.modMod fun m => { m with attnPresses := sat 16 (m.attnPresses + 1) }
    (s.mod.phase = .drained → Does .attnButtonPress s (u.modMod fun m => { m with drain := some ⟨none, true, 8⟩ })) ∧
    (s.mod.phase = .recovery → s.mod.attnUntil = none →
      Does .attnButtonPress s (u.modMod fun m => { m with attnUntil := some (s.now + 5000000000), attnLatch := true })) ∧
    (s.mod.phase = .recovery → s.mod.attnUntil ≠ none →
      Does .attnButtonPress s (u.modMod fun m => { m with attnUntil := none, attnLatch := false })) ∧
    (s.mod.phase = .service → s.mod.attnUntil = none → u.twinHealthy = false → Does .attnButtonPress s (u.emit (.mgmt .button)))) ∧
  (∀ (s : State) (t : Nat), s.mod.attnUntil = some t → (s.mod.phase = .service ∨ s.mod.phase = .recovery) → Does .attnCancelWindowEnd s
    ((({ s with now := max s.now (tick t) } : State).modMod fun m => { m with attnUntil := none, attnLatch := false }).autoDrain true)) ∧
  (∀ s : State, s.pwr.hotSwap = .closed →
    (s.pwr.powerDown = false → Does .modRstAssert s s.afterReset.pinRelease) ∧
    (s.pwr.powerDown = true → Does .modRstAssert s s.powerDownEnd.pinRelease)) ∧
  (∀ s : State, s.mod.stage = .reset → s.mod.poweredDown = false → s.pwr.hotSwap = .closed → s.pwr.inputGood = true →
    Does .bringUpStart s (s.modMod fun m => { m with stage := .rom })) ∧
  (∀ s : State, s.answers = true → Does .metadataLogFlush s s.flushLog)

/-- Bring-up, stage by stage, with its ends in recovery or in a stopped boot ROM (15 R444; 16 R490; 17 R537; 20 R593 to R598, R607). That a
component of which no bank passes ends in recovery also where the activation was forced, and that the memory-info VALID bit is set with the
component check, is the model's reading (notes/assumptions/99: DEDUCED). -/
def Obligations.BringUpGoesByStages : Prop :=
  (∀ (s : State) (p0 p1 : Bool), s.mod.stage = .rom →
    let u := s.modFw fun f => { f with comps := f.comps.set 0 (f.comps[0].checked p0 p1) }
    ((p0 = true ∨ p1 = true) → Does (.sbImageCheckDone p0 p1) s
      (u.modMod fun m => { m with stage := .sb, errForced := false, toggleHeld := false, toggleLow := true })) ∧
    (p0 = false → p1 = false → Does (.sbImageCheckDone p0 p1) s (u.modMod fun m => { m with stage := .stopped }))) ∧
  (∀ (s : State) (ps : List Bool), s.mod.stage = .sb → s.mod.phase = .bringUp → ∃ u, Does (.componentCheckDone ps) s u ∧ u.mem = s.mem ∧
    ((u.mod.phase = .bringUp ∧ u.mod.stage = .checked ∧ u.mod.memInfoValid = true ∧ u.fw.comps.toList.all Comp.passes = true) ∨
      (u.mod.phase = .recovery ∧ u.mod.otherBad = true))) ∧
  (∀ (s : State) (ps : List Bool), s.mod.stage = .sb → s.mod.phase = .bringUp →
    let pass := fun (k : Nat) => ps.getD k false
    let v := s.modFw fun f => { f with comps := Vector.ofFn fun i =>
                                         if i.val = 0 then f.comps[i] else f.comps[i].checked (pass (2 * i.val - 2)) (pass (2 * i.val - 1)) }
    let u := v.modTwin fun t => { t with localVersions := xoMask v.running }
    (u.fw.comps.toList.all Comp.passes = true → (s.fw.active.combos.any fun v => versionList v = u.running) = true ∨ s.fw.forced = true →
      Does (.componentCheckDone ps) s (u.modMod fun m => { m with stage := .checked, memInfoValid := true })) ∧
    (u.fw.comps.toList.all Comp.passes = false ∨ ((s.fw.active.combos.any fun v => versionList v = u.running) = false ∧ s.fw.forced = false) →
      Does (.componentCheckDone ps) s (u.enterRecovery false))) ∧
  (∀ s : State, s.mod.stage = .checked → s.mod.phase = .bringUp →
    ((∀ x ∈ s.mod.spares, x.done = true) → Does (.stackTrainingDone none) s (s.modMod fun m => { m with stage := .trained })) ∧
    ∀ k : Fin 24, Does (.stackTrainingDone (some k)) s ((s.record { source := 0x0104, unit := k.val, permanent := true }).enterRecovery false)) ∧
  (∀ s : State, s.mod.stage = .trained → s.mod.phase = .bringUp →
    Does (.metadataRestoreDone true) s (s.restore.resumeAudit.modMod fun m => { m with stage := .restored }) ∧
    Does (.metadataRestoreDone false) s (s.modMod fun m => { m with phase := .recovery, metaBad := true, otherBad := m.otherBad })) ∧
  (∀ s : State, s.mod.stage = .restored → s.mod.phase = .bringUp →
    Does .restoredWellFillDone s (s.fillRestored.modMod fun m => { m with stage := .filled })) ∧
  (∀ s : State, s.mod.stage = .filled → s.mod.phase = .bringUp →
    Does (.bringUpComplete []) s ((((s.modPwr fun p => { p with tries := 0 }).modTwin fun t =>
      { t with katPass := t.katPass + 16, katFail := t.katFail }).enterService).askPair))

/-- A power-down, or an input that fails, leaves the module as a reset does: nothing that only power held is kept, and what the flash
holds is (18 R545; 20 R592, R597). -/
def Obligations.ResetKeepsTheFlash : Prop :=
  ∀ s : State, let u := s.afterReset
    u.mem = [] ∧ u.poison = [] ∧ u.pool = State.reset.pool ∧ u.home.dir = [] ∧ u.home.txns = [] ∧ u.cache = State.reset.cache ∧ u.xl = State.reset.xl ∧
    u.jobs.jobs = [] ∧ u.pfx = State.reset.pfx ∧ u.flt.records = [] ∧ u.mod.phase = .bringUp ∧ u.mod.stage = .reset ∧
    (∀ m, (u.mb m).session = .none) ∧
    u.sec.creds = s.sec.creds ∧ u.flt.policies = s.flt.policies ∧ u.flt.history = s.flt.history ∧ u.flt.replaceFlag = s.flt.replaceFlag ∧
    u.fw.active = s.fw.active ∧ u.mod.serial = s.mod.serial ∧ u.mod.spares = s.mod.spares.map (fun x => { x with wb := none }) ∧ u.mod.mlog = s.mod.mlog ∧
    u.twin.recorded = s.twin.recorded ∧ u.mod.boot = (s.mod.boot + 1) % 2 ^ 32

/-- A doorbell waits at its station's BAR in the order of arrival (11 R311, R343; 14 R439). -/
def Obligations.DoorbellsAreTaken : Prop :=
  ∀ (s : State) (n : Station) (p : BitVec 12) (size : BitVec 4) (t c : BitVec 24) (r : BitVec 15), (s.stnAt n.val).up = true →
    (s.stnAt n.val).barsSet = true → (s.stnAt n.val).d3hot = false →
    let bell := fun (again : Bool) => (s.modHome fun h => { h with seq := s.home.seq + 1 }).modJobs fun x =>
      { x with doorbells := x.doorbells ++ [⟨n.val, p.toNat, size.toNat, t.toNat, c.toNat, r.toNat, again, s.home.seq + 1⟩] }
    Does (.platformDoorbell n p size t c r) s (bell false) ∧ Does (.platformRestart n p size t c r) s (bell true)

/-- A job of each opcode whose descriptor is read starts on the pump that holds it, once the pump's write queue holds no writes of an
earlier job that no release has covered (what keeps it from starting is notes/assumptions/152: DEDUCED); a prefix job is refused before any
effect where its namespace is not its own; a COPY that overlaps is refused too, with the operand and offset of notes/assumptions/43: DEDUCED, and
before a scratchpad byte it may not name (notes/assumptions/185: DEDUCED) (08 R236; 11 R326 to R335; 12 R358, R366; 08 R221). -/
def Obligations.ReadyJobsStart : Prop :=
  (∀ (s : State) (q : BitVec 12) (k : BitVec 24) (i : Instr) (op : Nat) (j : Job) (p : Nat),
    (i, op) ∈ [(.nop q k, 0x00), (.draw q k, 0x01), (.drawTree q k, 0x02), (.merge q k, 0x03), (.encode q k, 0x10), (.fetch q k, 0x11),
      (.copy q k, 0x20), (.fill q k, 0x21), (.gather q k, 0x22), (.scatter q k, 0x23), (.atomic q k, 0x24), (.gemm q k, 0x30), (.lowrank q k, 0x31),
      (.checksum q k, 0x40), (.prefixInsert q k, 0x51)] →
    s.jobAt q.toNat k.toNat (fun j => j.opcode == op && j.readyOn.isSome) = some j → j.stage = .ready p →
    (s.queueBusy j p = false → Does i s (s.begin_ j p)) ∧ (p < 16 → s.queueBusy j p = true → Does i s s)) ∧
  (∀ (s : State) (j : Job) (p : Nat), s.descBad j = none → s.scratchBad j = none →
    let u := s.modJob j.id fun j => { j with stage := .running p, stepStart := s.now }
    (j.opcode ∉ [0x00, 0x20, 0x50, 0x51, 0x52] → s.begin_ j p = u.prefetch j.id p 4096) ∧
    (j.opcode = 0x00 → s.begin_ j p = u.finishJob j.id) ∧
    (j.opcode = 0x20 → rangesMeet (j.op 0) 0 (j.par 0x60 8) (j.op 1) 0 (j.par 0x60 8) = false → s.begin_ j p = u.prefetch j.id p 4096) ∧
    (j.opcode = 0x50 ∨ j.opcode = 0x52 →
      (∀ i, u.nsFor j.plat (j.par 0x5C 4) = (i, none) → s.begin_ j p = (u.modJob j.id fun j =>
        { j with pendAt := (u.pfx.index.filter fun x => x.2.ns == i && !x.2.live).map (·.1) }).prefetch j.id p 4096) ∧
      (∀ i st, u.nsFor j.plat (j.par 0x5C 4) = (i, some st) → s.begin_ j p = u.descStop j.id p 0 0x5C st))) ∧
  (∀ (s : State) (j : Job) (p : Nat), s.descBad j = none →
    let overlap := rangesMeet (j.op 0) 0 (j.par 0x60 8) (j.op 1) 0 (j.par 0x60 8) = true
    (j.opcode = 0x20 → overlap → s.begin_ j p = s.descStop j.id p 1 0x28 .badDescriptor) ∧
    ∀ k a, (j.opcode = 0x20 → ¬overlap) → s.scratchBad j = some (k, a) → s.begin_ j p =
      s.stopJob j.id .rightsFault (some (s.pumpFail p k (if k = 7 ∨ writesOpnd j.opcode k = true then 6 else 5) 1 a))) ∧
  (∀ (s : State) (j : Job) (p k off : Nat), s.descBad j = some (k, off) → s.begin_ j p = s.descStop j.id p k off .badDescriptor)

/-- A prefix lookup or release whose namespace and input are there gives its output, and the job finishes, once the prefix jobs that started
before it and whose input is there have theirs (12 R360 to R364, R369 to R371, R377). -/
def Obligations.PrefixJobsAnswer : Prop :=
  ∀ (s : State) (q : BitVec 12) (k : BitVec 24) (op ns : Nat) (j a j' : Job) (i : Instr),
    (i, op) ∈ [(.prefixLookup q k, 0x50), (.prefixRelease q k, 0x52), (.prefixRenew q k, 0x52)] →
    (op = 0x50 → s.jobAt q.toNat k.toNat (fun j => j.opcode == op && (j.stage == .ready 16 || j.stage == .running 16)) = some j) →
    (op = 0x52 → s.jobAt q.toNat k.toNat (fun j => j.opcode == 0x52) = some j ∧
      s.jobAt q.toNat k.toNat (fun j => j.opcode == op && (j.stage == .ready 16 || j.stage == .running 16)) = some j ∧
      j.par 0x58 1 = (if i = .prefixRenew q k then 1 else 0)) →
    j.stage = .running 16 → s.job j.id = some j → let t := s.prefixDue j.started
    t.job j.id = some a → a.status = none → t.namedNs (a.par 0x5C 4) = some ns → let u := t.loadTurn a.id 16 4096 []
    u.job a.id = some j' → j'.status = none → u.loadsFull j' = true →
    let r := if j'.opcode = 0x52 then u.release j' ns (j'.work.buf 0) else u.lookup j' ns (j'.work.buf 0)
    u.writesWait j' 16 (([{ opnd := 1, off := 0, bytes := r.1 }] : List Wr).flatMap (cutWr 8)) = none →
    Does i s ((r.2.writeAll j'.id 16 [{ opnd := 1, off := 0, bytes := r.1 }]).finishJob j'.id)

/-- The bounds, waits and leases of prefix jobs (12 R364, R366, R371). -/
def Obligations.PrefixMomentsAct : Prop :=
  (∀ (s : State) (q : BitVec 12) (k : BitVec 24) (j : Job) (t : Nat),
    s.jobAt q.toNat k.toNat (fun j => j.even.isSome && (j.stage == .stopped || j.stage == .ended)) = some j → j.even = some t →
    let u := ({ s with now := max s.now (tick t) } : State).endOf j.id
    (∀ j', u.firstEnded q.toNat = some j' → j'.id = j.id → (u.plat q.toNat).slotFree = true → Does (.evenLookupCommit q k) s (u.writeRecord j')) ∧
    (u.firstEnded q.toNat = none → Does (.evenLookupCommit q k) s u)) ∧
  (∀ (s : State) (q : BitVec 12) (k : BitVec 24) (j : Job), s.jobAt q.toNat k.toNat (fun j => j.status.isNone && s.insertWaiting j) = some j →
    Does (.prefixPendingResolved q k) s (State.insertRun 1025 s j.id)) ∧
  (∀ (s : State) (h : BitVec 20) (x : Hold), tget s.pfx.holds h.toNat = some x → x.live = true → x.leaseS ≠ 0 →
    Does (.holdLeaseExpire h) s (({ s with now := max s.now (tick x.expiry) } : State).endHold h.toNat))

/-- What a pump does with its jobs: it takes one, loads, steps, repeats a step that failed, and hangs (08 R227, R243 to R246; 17
R520, R521). -/
def Obligations.PumpsWork : Prop :=
  (∀ (s : State) (p : PumpId) (id : Nat) (rest : List Nat), (s.pumpAt p.val).job = none → (s.pumpAt p.val).waking = false →
    (s.pumpAt p.val).takes ((s.pumpAt p.val).part.getD 16) = true → s.pumpCaptured p.val = false → (s.pumpAt p.val).queue = id :: rest →
    Does (.pumpJobHandoff p) s ((s.modPump p.val fun x => { x with queue := rest }).giveJob id p.val)) ∧
  (∀ (s : State) (p : PumpId) (lines : BitVec 13) (host : PageImage) (j : Job), s.onPump p.val = some j → j.replay = .none → 1 ≤ lines.toNat →
    lines.toNat ≤ 4096 → s.pumpCaptured p.val = false → Does (.tileLoadDone p lines host) s (s.turn j.id p.val lines.toNat host)) ∧
  (∀ (s : State) (p : PumpId) (j : Job), s.onPump p.val = some j → s.stepReady j = true → j.replay = .none → s.pumpCaptured p.val = false →
    (s.pumpAt p.val).parityInj = 0 → (s.pumpAt p.val).csumInj = 0 →
    Does (.tileStepDone p none) s (s.fire j p.val) ∧ ∀ op, Does (.tileStepDone p (some op)) s (s.checkFail j p.val op false)) ∧
  (∀ (s : State) (p : PumpId) (j : Job) (op : StepOp), (s.pumpAt p.val).job = some j.id → s.job j.id = some j → j.stage = .running p.val →
    j.replay = .first op → j.buffersGood = true → (s.pumpAt p.val).waking = false → j.injected = false → (s.pumpAt p.val).parityInj = 0 →
    (s.pumpAt p.val).csumInj = 0 → Does (.stepReplayDone p true) s
      (((s.addHist 0x0301 3 p.val 0 1 1 false).record { source := 0x0301, unit := p.val }).fireAgain j.id p.val)) ∧
  (∀ (s : State) (p : PumpId) (j : Job) (op : StepOp) (d : Nat), s.onPump p.val = some j → j.replay = .wait op d → Does (.replayPumpWaitExpire p) s
    (({ s with now := max s.now (tick d) } : State).modJob j.id fun j => { j with replay := .third op p.val, stepStart := max s.now (tick d) })) ∧
  (∀ (s : State) (p : PumpId) (j : Job), s.onPump p.val = some j → Does (.pumpHangTimeout p) s
    (({ s with now := max s.now (tick (j.stepStart + 10000000)) } : State).record { source := 0x0305, unit := p.val }))

/-- Range-cache fills, and tiles that still move 20 us after a range change (13 R379, R389, R393). That the fill of a TWIN entry takes the
twin's answer within its row (notes/assumptions/38: DEDUCED), and that it gets the KEEP mark an ADVISE asked for (notes/assumptions/62:
DEDUCED), is the model's. -/
def Obligations.RangeCachesFill : Prop :=
  (∀ (s : State) (p : PumpId) (c : BitVec 12) (e : BitVec 8) (peer : PeerAnswer) (r : Range), tget (s.ctx c.toNat).ranges e.toNat = some r →
    s.rcHit p.val c.toNat e.toNat = none →
    (∀ w, r.twin = false → s.named r.well = some w → Does (.rangeCacheFill p c e peer) s
      (s.rcFill p.val c.toNat e.toNat (s.well w).startNow (s.well w).length .none (s.well w).kvb16)) ∧
    (r.twin = true → s.isPaired = true →
      let u := ((s.modTwin fun t => { t with nextId := s.twin.nextId + 1 }).emit (.xo (.rangeFill s.twin.nextId r.well))).modXl fun x =>
        { x with advised := x.advised.filter (· != (p.val, c.toNat, e.toNat)) }
      (peer.status = 0 → Does (.rangeCacheFill p c e peer) s
        (u.rcFill p.val c.toNat e.toNat peer.start.toNat (num peer.bytes 0 8) (if s.xl.advised.contains (p.val, c.toNat, e.toNat) then .keep else .none)
          (nbit (num peer.bytes 8 1) 0))) ∧
      (peer.status ≠ 0 → Does (.rangeCacheFill p c e peer) s (u.modPump p.val fun x =>
        { x with rcStale := if x.rcStale.contains (c.toNat, e.toNat) then x.rcStale else x.rcStale ++ [(c.toNat, e.toNat)] })))) ∧
  (∀ (s : State) (p : PumpId) (j : Job) (w : Switch) (k step a : Nat), s.xl.switches = [w] → (w.tiles ++ w.writes).map (·.1) = [j.id] →
    s.job j.id = some j → j.lastPump = p.val ∨ j.lastPump = 16 → j.movingTile w.tiles w.writes = some (k, step, a) → Does (.rangeSwitchTimeout p) s
      (let u := ({ s with now := max s.now (tick w.deadline) } : State).endJob j .xlateFault (some (s.pumpFail j.lastPump k step 1 a))
       (u.dropTileLines j.id ((w.writes.filter (·.1 == j.id)).map (·.2))).modXl fun x =>
         { x with switches := x.switches.map fun v => if v = w then
           { v with tiles := v.tiles.filter (·.1 != j.id), writes := v.writes.filter (·.1 != j.id) } else v })) ∧
  (∀ (s : State) (p c i start len : Nat), p < 16 → ∃ e, e ∈ ((s.rcFill p c i start len).pumpAt p).rcache ∧ e.ctx = c ∧ e.idx = i ∧ e.start = start ∧
    e.length = len ∧ ((s.rcFill p c i start len).ctx c).rangeMisses = (s.ctx c).rangeMisses + 1 ∧ (s.rcFill p c i start len).mem = s.mem)

/-- A job ends, its record is written in the order of ends while the completion ring has a free slot, and its seal after its record
(07 R194 to R198; 11 R315, R317). -/
def Obligations.JobsEndInOrder : Prop :=
  (∀ (s : State) (q : BitVec 12) (k : BitVec 24) (j : Job),
    s.jobAt q.toNat k.toNat (fun j => j.stage == .stopped && j.even.isNone) = some j →
    Does (.jobEnd q k) s (s.endOf j.id)) ∧
  (∀ (s : State) (q : BitVec 12) (j : Job), s.firstEnded q.toNat = some j →
    ((s.plat q.toNat).slotFree = true → Does (.completionRecordWrite q) s (s.writeRecord j)) ∧
    ((s.plat q.toNat).slotFree = false → Does (.completionRecordWrite q) s s)) ∧
  (∀ (s : State) (q : BitVec 12) (k : BitVec 24) (j : Job), s.jobAt q.toNat k.toNat (fun j => j.stage == .recorded) = some j →
    Does (.sealWrite q k) s (s.writeSeal j)) ∧
  (∀ (s : State) (q : BitVec 12) (k : BitVec 24) (op : BitVec 17) (j : Job) (p : Nat), s.jobAt q.toNat k.toNat (fun j => j.opcode == 0x24) = some j →
    j.stage = .running p → j.work.phase = 1 → op.toNat = j.work.issued → op.toNat < j.par 0x5C 4 → op.toNat < j.work.atoms.length + 64 →
    Does (.atomicOperationAtHome q k op) s (s.sendAtom j p op.toNat))

/-- What stations answer to the device: a GO ends what waited for it and leaves the line where the access wanted it; timeouts,
translations and their invalidation; a tile whose translation fails ends its job once it is known which byte is the first (07 R186; 13 R397,
R402 to R406; 14 R419, R432). -/
def Obligations.StationAnswersAct : Prop :=
  (∀ (s : State) (n : Station) (id : BitVec 32) (d : Line), s.jobs.devOut.find? (fun o => o.id == id.toNat && o.stn == n.val) = none →
    Does (.deviceWriteGo n id d) s s) ∧
  (∀ (s : State) (n : Station) (id : BitVec 32) (d : Line) (o : DevOut), s.jobs.devOut.find? (fun o => o.id == id.toNat && o.stn == n.val) = some o →
    let gone := s.modJobs fun x => { x with devOut := x.devOut.filter (·.id != id.toNat) }
    (∀ keep, o.kind = .read keep → Does (.deviceWriteGo n id d) s (s.hostAnswer o d false)) ∧
    (∀ mask, o.kind = .rdOwn mask →
      let x := mergeLine d o.data mask
      let place := gone.putMoving id.toNat { key := .host n.val o.hpa, die := 0, set := 0, way := 0, data := x, pois := o.pois, hst := .m }
      (∀ u, place = some u → Does (.deviceWriteGo n id d) s ((u.keepM o.job n.val o.hpa).lineFree n.val o.hpa)) ∧
      (place = none → Does (.deviceWriteGo n id d) s (((gone.wayDone id.toNat).dropLine (.host n.val o.hpa)).device n.val .dirtyEvict
        (.write fullMask true) o.hpa x o.pois o.job o.opnd o.addr))) ∧
    ((o.kind = .evict ∨ ∃ mask, o.kind = .write mask true) → Does (.deviceWriteGo n id d) s ((gone.wayDone id.toNat).lineFree n.val o.hpa)) ∧
    (∀ mask, o.kind = .write mask false → Does (.deviceWriteGo n id d) s gone) ∧
    (∀ mask, (o.kind = .merge mask ∨ o.kind = .ioWrite mask) → Does (.deviceWriteGo n id d) s s) ∧
    (o.kind = .flush → Does (.deviceWriteGo n id d) s (gone.modJobs fun x =>
      { x with devOut := x.devOut.filter fun w => !(w.stn == n.val && w.id < id.toNat && w.kind.posted) }))) ∧
  (∀ (s : State) (n : Station) (id : BitVec 32) (o : DevOut),
    s.jobs.devOut.find? (fun o => o.id == id.toNat && o.stn == n.val && (match o.kind with | .merge _ | .ioWrite _ => false | _ => true)) = some o →
    o.job = none → o.kind ≠ .flush → Does (.stationCtoExpire n id) s
      ((((((({ s with now := max s.now (tick o.deadline) } : State).modJobs fun x => { x with devOut := x.devOut.filter (·.id != id.toNat) }).wayDone
        id.toNat).aerLog n.val .completionTimeout).record { source := 0x0405, unit := n.val, address := o.hpa })).lineFree n.val o.hpa)) ∧
  (∀ (s : State) (n : Station) (a : BitVec 56) (x : AtsAnswer) (q : AtsReq), (s.stnAt n.val).up = true → (s.stnAt n.val).atsReqs = [q] →
    q.page = a.toNat / 4096 → q.inv = [] →
    (x.ok = true → x.read = true → (∀ m < 48, ∀ y ∈ (s.stnAt m).atsFailed, y.1 ≠ q.job) → ∃ u, Does (.atsTranslationCompletion n a x) s u ∧
      (u.stnAt n.val).atsReqs = [] ∧ (u.stnAt n.val).atc.head? = some (atcEntry (a.toNat / 4096 * 4096) x) ∧ u.mem = s.mem ∧ u.jobs = s.jobs) ∧
    (x.ok = false ∨ (x.read = false ∧ x.write = false) →
      (q.ahead = true → Does (.atsTranslationCompletion n a x) s (s.modStn n.val fun t => { t with atsReqs := [] })) ∧
      (q.ahead = false → Does (.atsTranslationCompletion n a x) s
        ((s.modStn n.val fun t => { t with atsReqs := [], atsFailed := t.atsFailed ++ [(q.job, a.toNat / 4096)] }).atsStop q)))) ∧
  (∀ (s : State) (q : AtsReq) (j : Job) (a len y : Nat) (st : JobStatus), s.job q.job = some j → q.tile = some (a, len) → q.step = 5 → q.ahead = false →
    (∃ m < 48, ∃ x ∈ (s.stnAt m).atsFailed, x.1 = j.id) → s.xlateTile j j.lastPump (j.op q.opnd) q.opnd a len .r 5 = .fault st y →
    s.atsStop q = s.xlateStop j.id j.lastPump q.opnd 5 st y) ∧
  (∀ (s : State) (n : Station) (a : BitVec 56) (k : BitVec 6), (s.stnAt n.val).up = true →
    let size := 4096 * 2 ^ k.toNat
    let base := a.toNat / size * size
    let hit := fun (e : AtcEnt) => meets base size e.base (4096 * 2 ^ e.k)
    Does (.atsInvalidateRequest n a k) s (s.modStn n.val fun t =>
      { t with atc := t.atc.filter fun e => !hit e, atsFailed := t.atsFailed.filter fun y => !meets base size (4096 * y.2) 4096,
               atsReqs := t.atsReqs.map fun q => { q with inv := q.inv ++ [(base, size)] },
               atsInv := t.atsInv ++ [{ base := base, k := k.toNat, spans := (t.atc.filter hit).map fun e => (e.hpa, 4096 * 2 ^ e.k) }] }))

/-- The work of an asynchronous command has ended: its completion is written, and the command is no longer pending (15 R454, R456,
R463). The work of a FW_STAGE and of a KEY_BIND ends with it (15 R478; 19 R583; notes/assumptions/28: DESIGN CHOICE). -/
def Obligations.AsyncCommandsComplete : Prop :=
  (∀ (s : State) (wb : BitVec 64) (a : Async) (st : Status) (res : List Byte), s.fw.handover = false → s.fw.staging = none →
    (∀ x ∈ s.sec.keys, x.2.binding = []) → s.mbx.asyncs.find? (fun a => a.wb == wb.toNat) = some a → a.ready = some (st, res) →
    Does (.asyncCommandComplete wb) s (s.completeAsync a st res) ∧
    (∀ b ∈ (s.completeAsync a st res).mbx.asyncs, b.wb ≠ a.wb) ∧ (s.completeAsync a st res).mem = s.mem ∧
    (s.completeAsync a st res).pool = s.pool) ∧
  (∀ (s : State) (wb : BitVec 64) (pkg : FwPackage) (a : Async) (st : Status) (res : List Byte), s.fw.handover = false →
    s.fw.staging = some (wb.toNat, pkg) → (∀ x ∈ s.sec.keys, x.2.binding = []) →
    (s.stageEnd wb.toNat pkg).mbx.asyncs.find? (fun a => a.wb == wb.toNat) = some a → a.ready = some (st, res) →
    Does (.asyncCommandComplete wb) s ((s.stageEnd wb.toNat pkg).completeAsync a st res)) ∧
  (∀ (s : State) (wb : BitVec 64) (a : Async) (st : Status) (res : List Byte), s.fw.handover = false → s.fw.staging = none →
    (s.bindEnd wb.toNat).mbx.asyncs.find? (fun a => a.wb == wb.toNat) = some a → a.ready = some (st, res) →
    Does (.asyncCommandComplete wb) s ((s.bindEnd wb.toNat).completeAsync a st res))

/-- A converter, stack, link or pump, one after another, or a core ends its turn of an activation, the hand-over with it, and a spared span is
applied (15 R480, R481; 20 R607). That the turns go by ascending number is the model's choice (notes/assumptions/158: DESIGN CHOICE). -/
def Obligations.ServiceMomentsAct : Prop :=
  (∀ (s : State) (r : FwRun) (i : Nat) (rest : List Nat), s.fw.run = some r → r.todo = i :: rest →
    (i = 1 → (s.pumpAt r.turn).job = none ∧ (s.pumpAt r.turn).test = none) →
    (r.turn + 1 < compTurns i → Does (.fwComponentSwitchDone true) s
      (((s.turnEnd i r.turn).modFw fun f => { f with run := some { r with turn := r.turn + 1 } }).turnStart i (r.turn + 1))) ∧
    (compTurns i ≤ r.turn + 1 → Does (.fwComponentSwitchDone true) s ((s.turnEnd i r.turn).compDone r i rest)) ∧
    Does (.fwComponentSwitchDone false) s (s.fwFail r i)) ∧
  (∀ s : State, (∀ r, s.fw.run = some r → r.todo.headD 9 ≠ 0) → Does .sbHandoverEnd s (s.modFw fun f => { f with handover := false })) ∧
  (∀ (s : State) (x : Spare) (wb : Nat), s.mod.spares.find? (fun x => x.wb.isSome && !x.done) = some x → x.wb = some wb →
    Does .spareSpanCopyDone s ((s.spanDone x).spareEnd wb x.stack))
end

