-- ==== Sys2Proof/Laws/Memory.lean ====
section
/-! SUPPORT. Tables and memory: a read after a write, and the canonical form that every operation keeps. -/
namespace Sys2Proof.Machine

/-! ## Tables -/

section Tables
variable {α : Type}

@[simp] theorem tget_tset_self (t : Tab α) (i : Nat) (v : α) : tget (tset t i v) i = some v := by
  induction t with
  | nil => simp [tset, tget]
  | cons x t ih =>
    obtain ⟨k, w⟩ := x
    simp only [tset]
    split
    · simp [tget]
    · split
      · simp [tget]
      · simp [tget, *]

theorem tget_tset_ne (t : Tab α) {i j : Nat} (v : α) (h : i ≠ j) : tget (tset t i v) j = tget t j := by
  induction t with
  | nil => simp [tset, tget, h]
  | cons x t ih =>
    obtain ⟨k, w⟩ := x
    simp only [tset]
    split
    · simp [tget, h]
    · split
      · subst k; simp [tget, h]
      · simp [tget, ih]

@[simp] theorem tgetD_tset_self (t : Tab α) (i : Nat) (v d : α) : tgetD (tset t i v) i d = v := by simp [tgetD]

theorem tgetD_tset_ne (t : Tab α) {i j : Nat} (v d : α) (h : i ≠ j) : tgetD (tset t i v) j d = tgetD t j d := by
  simp [tgetD, tget_tset_ne t v h]

end Tables

/-! ## The canonical form -/

/-- Cells in strictly rising order, none of them zero. -/
theorem wf_iff (m : List Host.Cell) :
    Memory.wf m = true ↔ m.Pairwise (fun x y => x.1 < y.1) ∧ ∀ c ∈ m, c.2 ≠ 0 := by
  induction m with
  | nil => simp [Memory.wf]
  | cons x m ih =>
    obtain ⟨a, b⟩ := x
    cases m with
    | nil => simp [Memory.wf]
    | cons y m =>
      obtain ⟨a', b'⟩ := y
      simp only [Memory.wf, Bool.and_eq_true, bne_iff_ne, decide_eq_true_eq, ih]
      constructor
      · rintro ⟨⟨hb, hlt⟩, hp, hz⟩
        refine ⟨List.pairwise_cons.2 ⟨?_, hp⟩, ?_⟩
        · intro c hc
          rcases List.mem_cons.1 hc with rfl | hc
          · exact hlt
          · exact Nat.lt_trans hlt ((List.pairwise_cons.1 hp).1 c hc)
        · intro c hc
          rcases List.mem_cons.1 hc with rfl | hc
          · exact hb
          · exact hz c hc
      · rintro ⟨hp, hz⟩
        exact ⟨⟨hz (a, b) (by simp), (List.pairwise_cons.1 hp).1 (a', b') (by simp)⟩, (List.pairwise_cons.1 hp).2,
          fun c hc => hz c (List.mem_cons_of_mem _ hc)⟩

theorem mem_cellsOf {a : Nat} {bs : List Byte} {c : Host.Cell} (h : c ∈ cellsOf a bs) :
    a ≤ c.1 ∧ c.1 < a + bs.length ∧ c.2 ≠ 0 := by
  induction bs generalizing a with
  | nil => simp [cellsOf] at h
  | cons b bs ih =>
    simp only [cellsOf] at h
    split at h
    · obtain ⟨h1, h2, h3⟩ := ih h
      exact ⟨by omega, by simp only [List.length_cons]; omega, h3⟩
    · rcases List.mem_cons.1 h with rfl | h
      · simp_all
      · obtain ⟨h1, h2, h3⟩ := ih h
        exact ⟨by omega, by simp only [List.length_cons]; omega, h3⟩

theorem cellsOf_pairwise (a : Nat) (bs : List Byte) : (cellsOf a bs).Pairwise (fun x y => x.1 < y.1) := by
  induction bs generalizing a with
  | nil => simp [cellsOf]
  | cons b bs ih =>
    simp only [cellsOf]
    split
    · exact ih _
    · exact List.pairwise_cons.2 ⟨fun c hc => by have := mem_cellsOf hc; simp only; omega, ih _⟩

/-- Three runs of cells in rising order, the middle one between the bounds of the others. -/
theorem wf_three {m mid : List Host.Cell} {lo hi : Nat} (h : Memory.wf m = true) (hm : Memory.wf mid = true)
    (hb : ∀ c ∈ mid, lo ≤ c.1 ∧ c.1 < hi) (hlh : lo ≤ hi) :
    Memory.wf (m.filter (fun c => c.1 < lo) ++ mid ++ m.filter (fun c => hi ≤ c.1)) = true := by
  obtain ⟨hp, hz⟩ := (wf_iff m).1 h
  obtain ⟨hp', hz'⟩ := (wf_iff mid).1 hm
  refine (wf_iff _).2 ⟨?_, ?_⟩
  · refine List.pairwise_append.2 ⟨List.pairwise_append.2 ⟨hp.filter _, hp', ?_⟩, hp.filter _, ?_⟩
    · intro x hx y hy
      have := hb y hy
      simp only [List.mem_filter, decide_eq_true_eq] at hx
      omega
    · intro x hx y hy
      simp only [List.mem_filter, decide_eq_true_eq] at hy
      rcases List.mem_append.1 hx with hx | hx
      · simp only [List.mem_filter, decide_eq_true_eq] at hx; omega
      · have := hb x hx; omega
  · intro c hc
    simp only [List.mem_append, List.mem_filter] at hc
    rcases hc with (hc | hc) | hc
    · exact hz c hc.1
    · exact hz' c hc
    · exact hz c hc.1

/-- Bytes stored keep the canonical form. -/
theorem memWrite_wf {m : List Host.Cell} (a : Nat) (bs : List Byte) (h : Memory.wf m = true) : Memory.wf (memWrite m a bs) = true :=
  wf_three h ((wf_iff _).2 ⟨cellsOf_pairwise a bs, fun _ hc => (mem_cellsOf hc).2.2⟩)
    (fun _ hc => ⟨(mem_cellsOf hc).1, (mem_cellsOf hc).2.1⟩) (by omega)

/-- A run zeroed keeps the canonical form. -/
theorem memZero_wf {m : List Host.Cell} (a n : Nat) (h : Memory.wf m = true) : Memory.wf (memZero m a n) = true := by
  have := wf_three (lo := a) (hi := a + n) h (mid := []) rfl (by simp) (by omega)
  simpa [memZero] using this

/-- A run copied keeps the canonical form. -/
theorem memCopy_wf {m : List Host.Cell} (src dst n : Nat) (h : Memory.wf m = true) : Memory.wf (memCopy m src dst n) = true := by
  obtain ⟨hp, hz⟩ := (wf_iff m).1 h
  unfold memCopy
  refine wf_three h ((wf_iff _).2 ⟨?_, ?_⟩) ?_ (by omega)
  · refine List.pairwise_map.2 ((List.pairwise_filter).2 (hp.imp ?_))
    intro x y hxy hx hy
    simp only [Bool.and_eq_true, decide_eq_true_eq] at hx hy
    simp only
    omega
  · intro c hc
    simp only [List.mem_map, List.mem_filter] at hc
    obtain ⟨x, ⟨hx, -⟩, rfl⟩ := hc
    exact hz x hx
  · intro c hc
    simp only [List.mem_map, List.mem_filter, Bool.and_eq_true, decide_eq_true_eq] at hc
    obtain ⟨x, ⟨-, hx⟩, rfl⟩ := hc
    simp only
    omega

/-- Memory at reset is in canonical form. -/
theorem reset_mem_wf : Memory.wf State.reset.mem = true := rfl

/-! ## A read after a write -/

theorem memGet_append (l r : List Host.Cell) (a : Nat) (h : ∀ c ∈ l, c.1 ≠ a) : memGet (l ++ r) a = memGet r a := by
  induction l with
  | nil => rfl
  | cons x l ih =>
    obtain ⟨k, b⟩ := x
    have hk : k ≠ a := h (k, b) (by simp)
    simp [memGet, hk, ih fun c hc => h c (List.mem_cons_of_mem _ hc)]

theorem memGet_filter (m : List Host.Cell) (p : Host.Cell → Bool) (a : Nat) (h : ∀ c ∈ m, c.1 = a → p c = true) :
    memGet (m.filter p) a = memGet m a := by
  induction m with
  | nil => rfl
  | cons x m ih =>
    obtain ⟨k, b⟩ := x
    have ih := ih fun c hc => h c (List.mem_cons_of_mem _ hc)
    by_cases hk : k = a
    · have hp : p (k, b) = true := h (k, b) (by simp) hk
      rw [List.filter_cons_of_pos hp]
      simp [memGet, hk]
    · by_cases hp : p (k, b) = true
      · simp [hp, memGet, hk, ih]
      · simp [hp, memGet, hk, ih]

theorem memGet_none (m : List Host.Cell) (a : Nat) (h : ∀ c ∈ m, c.1 ≠ a) : memGet m a = 0 := by
  induction m with
  | nil => rfl
  | cons x m ih =>
    obtain ⟨k, b⟩ := x
    have hk : k ≠ a := h (k, b) (by simp)
    simp [memGet, hk, ih fun c hc => h c (List.mem_cons_of_mem _ hc)]

/-- A store leaves every byte outside it alone. -/
theorem memWrite_other (m : List Host.Cell) (a : Nat) (bs : List Byte) (x : Nat) (h : x < a ∨ a + bs.length ≤ x) :
    memGet (memWrite m a bs) x = memGet m x := by
  unfold memWrite
  rcases h with h | h
  · rw [List.append_assoc]
    have hr : ∀ c ∈ cellsOf a bs ++ m.filter (fun c => a + bs.length ≤ c.1), c.1 ≠ x := by
      intro c hc
      rcases List.mem_append.1 hc with hc | hc
      · have := mem_cellsOf hc; omega
      · simp only [List.mem_filter, decide_eq_true_eq] at hc; omega
    rw [← memGet_filter m (fun c => c.1 < a) x (by intro c _ hc; simp; omega)]
    generalize m.filter (fun c => c.1 < a) = l
    generalize hq : cellsOf a bs ++ m.filter (fun c => a + bs.length ≤ c.1) = r at hr
    clear hq
    induction l with
    | nil => simpa [memGet] using memGet_none r x hr
    | cons y l ih => obtain ⟨k, b⟩ := y; by_cases hk : k = x <;> simp [memGet, hk, ih]
  · have hl : ∀ c ∈ m.filter (fun c => c.1 < a) ++ cellsOf a bs, c.1 ≠ x := by
      intro c hc
      rcases List.mem_append.1 hc with hc | hc
      · simp only [List.mem_filter, decide_eq_true_eq] at hc; omega
      · have := mem_cellsOf hc; omega
    rw [memGet_append _ _ _ hl]
    exact memGet_filter m _ x (by intro c _ hc; simp; omega)

theorem memGet_cellsOf (a : Nat) (bs : List Byte) (r : List Host.Cell) (i : Nat) (hi : i < bs.length)
    (hr : ∀ c ∈ r, c.1 ≠ a + i) : memGet (cellsOf a bs ++ r) (a + i) = bs[i] := by
  induction bs generalizing a i with
  | nil => simp at hi
  | cons b bs ih =>
    simp only [cellsOf]
    cases i with
    | zero =>
      by_cases hb : b = 0
      · simp only [hb, if_true, Nat.add_zero, List.getElem_cons_zero]
        refine memGet_none _ _ fun c hc => ?_
        rcases List.mem_append.1 hc with hc | hc
        · have := mem_cellsOf hc; omega
        · exact hr c hc
      · simp only [hb, if_false, List.cons_append, memGet, Nat.add_zero, if_true, List.getElem_cons_zero]
    | succ i =>
      have e : a + (i + 1) = a + 1 + i := by omega
      have step := ih (a + 1) i (by simpa using hi) (by intro c hc; have := hr c hc; omega)
      by_cases hb : b = 0
      · simp only [hb, if_true, List.getElem_cons_succ, e]; exact step
      · have hne : a ≠ a + 1 + i := by omega
        simp only [hb, if_false, List.cons_append, memGet, e, if_neg hne, List.getElem_cons_succ]
        exact step

/-- A store's own bytes read back. -/
theorem memWrite_self (m : List Host.Cell) (a : Nat) (bs : List Byte) (i : Nat) (hi : i < bs.length) :
    memGet (memWrite m a bs) (a + i) = bs[i] := by
  unfold memWrite
  rw [List.append_assoc, memGet_append]
  · refine memGet_cellsOf a bs _ i hi fun c hc => ?_
    simp only [List.mem_filter, decide_eq_true_eq] at hc
    omega
  · intro c hc
    simp only [List.mem_filter, decide_eq_true_eq] at hc
    omega

theorem memGet_memRead_elem (m : List Host.Cell) (a n i : Nat) (hi : i < n) :
    (memRead m a n)[i]'(by simp [memRead, hi]) = memGet m (a + i) := by
  simp only [memRead, List.getElem_map, List.getElem_range]
  exact memGet_filter m _ _ fun c _ hc => by simp; omega

@[simp] theorem memRead_length (m : List Host.Cell) (a n : Nat) : (memRead m a n).length = n := by simp [memRead]

end Sys2Proof.Machine
end

