-- ==== Sys2Proof/Laws/State.lean ====
section
/-! SUPPORT. What each named update of the state leaves alone, field by field: no proof has to unfold an update. -/
namespace Sys2Proof.Machine

variable (s : State)

@[simp] theorem State.setMem_pending (a : Nat) (bs : List Byte) : (s.setMem a bs).pending = s.pending := rfl
@[simp] theorem State.setMem_out (a : Nat) (bs : List Byte) : (s.setMem a bs).out = s.out := rfl
@[simp] theorem State.setMem_freeCtr (a : Nat) (bs : List Byte) : (s.setMem a bs).freeCtr = s.freeCtr := rfl
@[simp] theorem State.setMem_todo (a : Nat) (bs : List Byte) : (s.setMem a bs).todo = s.todo := rfl
@[simp] theorem State.setMem_now (a : Nat) (bs : List Byte) : (s.setMem a bs).now = s.now := rfl
@[simp] theorem State.setMem_poison (a : Nat) (bs : List Byte) : (s.setMem a bs).poison = s.poison := rfl
@[simp] theorem State.setMem_upsets (a : Nat) (bs : List Byte) : (s.setMem a bs).upsets = s.upsets := rfl
@[simp] theorem State.setMem_poisonMap (a : Nat) (bs : List Byte) : (s.setMem a bs).poisonMap = s.poisonMap := rfl
@[simp] theorem State.setMem_pool (a : Nat) (bs : List Byte) : (s.setMem a bs).pool = s.pool := rfl
@[simp] theorem State.setMem_home (a : Nat) (bs : List Byte) : (s.setMem a bs).home = s.home := rfl
@[simp] theorem State.setMem_cache (a : Nat) (bs : List Byte) : (s.setMem a bs).cache = s.cache := rfl
@[simp] theorem State.setMem_xl (a : Nat) (bs : List Byte) : (s.setMem a bs).xl = s.xl := rfl
@[simp] theorem State.setMem_jobs (a : Nat) (bs : List Byte) : (s.setMem a bs).jobs = s.jobs := rfl
@[simp] theorem State.setMem_pfx (a : Nat) (bs : List Byte) : (s.setMem a bs).pfx = s.pfx := rfl
@[simp] theorem State.setMem_stn (a : Nat) (bs : List Byte) : (s.setMem a bs).stn = s.stn := rfl
@[simp] theorem State.setMem_mbx (a : Nat) (bs : List Byte) : (s.setMem a bs).mbx = s.mbx := rfl
@[simp] theorem State.setMem_fw (a : Nat) (bs : List Byte) : (s.setMem a bs).fw = s.fw := rfl
@[simp] theorem State.setMem_sec (a : Nat) (bs : List Byte) : (s.setMem a bs).sec = s.sec := rfl
@[simp] theorem State.setMem_twin (a : Nat) (bs : List Byte) : (s.setMem a bs).twin = s.twin := rfl
@[simp] theorem State.setMem_flt (a : Nat) (bs : List Byte) : (s.setMem a bs).flt = s.flt := rfl
@[simp] theorem State.setMem_pwr (a : Nat) (bs : List Byte) : (s.setMem a bs).pwr = s.pwr := rfl
@[simp] theorem State.setMem_mod (a : Nat) (bs : List Byte) : (s.setMem a bs).mod = s.mod := rfl
@[simp] theorem State.setMem_pins (a : Nat) (bs : List Byte) : (s.setMem a bs).pins = s.pins := rfl
@[simp] theorem State.setMem_mem (a : Nat) (bs : List Byte) : (s.setMem a bs).mem = memWrite s.mem a bs := rfl

@[simp] theorem State.setPoison_pending (a : Nat) : (s.setPoison a).pending = s.pending := rfl
@[simp] theorem State.setPoison_out (a : Nat) : (s.setPoison a).out = s.out := rfl
@[simp] theorem State.setPoison_freeCtr (a : Nat) : (s.setPoison a).freeCtr = s.freeCtr := rfl
@[simp] theorem State.setPoison_todo (a : Nat) : (s.setPoison a).todo = s.todo := rfl
@[simp] theorem State.setPoison_now (a : Nat) : (s.setPoison a).now = s.now := rfl
@[simp] theorem State.setPoison_mem (a : Nat) : (s.setPoison a).mem = s.mem := rfl
@[simp] theorem State.setPoison_upsets (a : Nat) : (s.setPoison a).upsets = s.upsets := rfl
@[simp] theorem State.setPoison_poisonMap (a : Nat) : (s.setPoison a).poisonMap = s.poisonMap := rfl
@[simp] theorem State.setPoison_pool (a : Nat) : (s.setPoison a).pool = s.pool := rfl
@[simp] theorem State.setPoison_home (a : Nat) : (s.setPoison a).home = s.home := rfl
@[simp] theorem State.setPoison_cache (a : Nat) : (s.setPoison a).cache = s.cache := rfl
@[simp] theorem State.setPoison_xl (a : Nat) : (s.setPoison a).xl = s.xl := rfl
@[simp] theorem State.setPoison_jobs (a : Nat) : (s.setPoison a).jobs = s.jobs := rfl
@[simp] theorem State.setPoison_pfx (a : Nat) : (s.setPoison a).pfx = s.pfx := rfl
@[simp] theorem State.setPoison_stn (a : Nat) : (s.setPoison a).stn = s.stn := rfl
@[simp] theorem State.setPoison_mbx (a : Nat) : (s.setPoison a).mbx = s.mbx := rfl
@[simp] theorem State.setPoison_fw (a : Nat) : (s.setPoison a).fw = s.fw := rfl
@[simp] theorem State.setPoison_sec (a : Nat) : (s.setPoison a).sec = s.sec := rfl
@[simp] theorem State.setPoison_twin (a : Nat) : (s.setPoison a).twin = s.twin := rfl
@[simp] theorem State.setPoison_flt (a : Nat) : (s.setPoison a).flt = s.flt := rfl
@[simp] theorem State.setPoison_pwr (a : Nat) : (s.setPoison a).pwr = s.pwr := rfl
@[simp] theorem State.setPoison_mod (a : Nat) : (s.setPoison a).mod = s.mod := rfl
@[simp] theorem State.setPoison_pins (a : Nat) : (s.setPoison a).pins = s.pins := rfl
@[simp] theorem State.setPoison_poison (a : Nat) : (s.setPoison a).poison = lineIns s.poison a := rfl

@[simp] theorem State.clearPoison_pending (a : Nat) : (s.clearPoison a).pending = s.pending := rfl
@[simp] theorem State.clearPoison_out (a : Nat) : (s.clearPoison a).out = s.out := rfl
@[simp] theorem State.clearPoison_freeCtr (a : Nat) : (s.clearPoison a).freeCtr = s.freeCtr := rfl
@[simp] theorem State.clearPoison_todo (a : Nat) : (s.clearPoison a).todo = s.todo := rfl
@[simp] theorem State.clearPoison_now (a : Nat) : (s.clearPoison a).now = s.now := rfl
@[simp] theorem State.clearPoison_mem (a : Nat) : (s.clearPoison a).mem = s.mem := rfl
@[simp] theorem State.clearPoison_pool (a : Nat) : (s.clearPoison a).pool = s.pool := rfl
@[simp] theorem State.clearPoison_home (a : Nat) : (s.clearPoison a).home = s.home := rfl
@[simp] theorem State.clearPoison_cache (a : Nat) : (s.clearPoison a).cache = s.cache := rfl
@[simp] theorem State.clearPoison_xl (a : Nat) : (s.clearPoison a).xl = s.xl := rfl
@[simp] theorem State.clearPoison_jobs (a : Nat) : (s.clearPoison a).jobs = s.jobs := rfl
@[simp] theorem State.clearPoison_pfx (a : Nat) : (s.clearPoison a).pfx = s.pfx := rfl
@[simp] theorem State.clearPoison_stn (a : Nat) : (s.clearPoison a).stn = s.stn := rfl
@[simp] theorem State.clearPoison_mbx (a : Nat) : (s.clearPoison a).mbx = s.mbx := rfl
@[simp] theorem State.clearPoison_fw (a : Nat) : (s.clearPoison a).fw = s.fw := rfl
@[simp] theorem State.clearPoison_sec (a : Nat) : (s.clearPoison a).sec = s.sec := rfl
@[simp] theorem State.clearPoison_twin (a : Nat) : (s.clearPoison a).twin = s.twin := rfl
@[simp] theorem State.clearPoison_flt (a : Nat) : (s.clearPoison a).flt = s.flt := rfl
@[simp] theorem State.clearPoison_pwr (a : Nat) : (s.clearPoison a).pwr = s.pwr := rfl
@[simp] theorem State.clearPoison_mod (a : Nat) : (s.clearPoison a).mod = s.mod := rfl
@[simp] theorem State.clearPoison_pins (a : Nat) : (s.clearPoison a).pins = s.pins := rfl

@[simp] theorem State.zeroRun_pending (a n : Nat) : (s.zeroRun a n).pending = s.pending := rfl
@[simp] theorem State.zeroRun_out (a n : Nat) : (s.zeroRun a n).out = s.out := rfl
@[simp] theorem State.zeroRun_freeCtr (a n : Nat) : (s.zeroRun a n).freeCtr = s.freeCtr := rfl
@[simp] theorem State.zeroRun_todo (a n : Nat) : (s.zeroRun a n).todo = s.todo := rfl
@[simp] theorem State.zeroRun_now (a n : Nat) : (s.zeroRun a n).now = s.now := rfl
@[simp] theorem State.zeroRun_pool (a n : Nat) : (s.zeroRun a n).pool = s.pool := rfl
@[simp] theorem State.zeroRun_home (a n : Nat) : (s.zeroRun a n).home = s.home := rfl
@[simp] theorem State.zeroRun_cache (a n : Nat) : (s.zeroRun a n).cache = s.cache := rfl
@[simp] theorem State.zeroRun_xl (a n : Nat) : (s.zeroRun a n).xl = s.xl := rfl
@[simp] theorem State.zeroRun_jobs (a n : Nat) : (s.zeroRun a n).jobs = s.jobs := rfl
@[simp] theorem State.zeroRun_pfx (a n : Nat) : (s.zeroRun a n).pfx = s.pfx := rfl
@[simp] theorem State.zeroRun_stn (a n : Nat) : (s.zeroRun a n).stn = s.stn := rfl
@[simp] theorem State.zeroRun_mbx (a n : Nat) : (s.zeroRun a n).mbx = s.mbx := rfl
@[simp] theorem State.zeroRun_fw (a n : Nat) : (s.zeroRun a n).fw = s.fw := rfl
@[simp] theorem State.zeroRun_sec (a n : Nat) : (s.zeroRun a n).sec = s.sec := rfl
@[simp] theorem State.zeroRun_twin (a n : Nat) : (s.zeroRun a n).twin = s.twin := rfl
@[simp] theorem State.zeroRun_flt (a n : Nat) : (s.zeroRun a n).flt = s.flt := rfl
@[simp] theorem State.zeroRun_pwr (a n : Nat) : (s.zeroRun a n).pwr = s.pwr := rfl
@[simp] theorem State.zeroRun_mod (a n : Nat) : (s.zeroRun a n).mod = s.mod := rfl
@[simp] theorem State.zeroRun_pins (a n : Nat) : (s.zeroRun a n).pins = s.pins := rfl
@[simp] theorem State.zeroRun_mem (a n : Nat) : (s.zeroRun a n).mem = memZero s.mem a n := rfl

@[simp] theorem State.copyRun_pending (src dst n : Nat) : (s.copyRun src dst n).pending = s.pending := rfl
@[simp] theorem State.copyRun_out (src dst n : Nat) : (s.copyRun src dst n).out = s.out := rfl
@[simp] theorem State.copyRun_freeCtr (src dst n : Nat) : (s.copyRun src dst n).freeCtr = s.freeCtr := rfl
@[simp] theorem State.copyRun_todo (src dst n : Nat) : (s.copyRun src dst n).todo = s.todo := rfl
@[simp] theorem State.copyRun_now (src dst n : Nat) : (s.copyRun src dst n).now = s.now := rfl
@[simp] theorem State.copyRun_pool (src dst n : Nat) : (s.copyRun src dst n).pool = s.pool := rfl
@[simp] theorem State.copyRun_home (src dst n : Nat) : (s.copyRun src dst n).home = s.home := rfl
@[simp] theorem State.copyRun_cache (src dst n : Nat) : (s.copyRun src dst n).cache = s.cache := rfl
@[simp] theorem State.copyRun_xl (src dst n : Nat) : (s.copyRun src dst n).xl = s.xl := rfl
@[simp] theorem State.copyRun_jobs (src dst n : Nat) : (s.copyRun src dst n).jobs = s.jobs := rfl
@[simp] theorem State.copyRun_pfx (src dst n : Nat) : (s.copyRun src dst n).pfx = s.pfx := rfl
@[simp] theorem State.copyRun_stn (src dst n : Nat) : (s.copyRun src dst n).stn = s.stn := rfl
@[simp] theorem State.copyRun_mbx (src dst n : Nat) : (s.copyRun src dst n).mbx = s.mbx := rfl
@[simp] theorem State.copyRun_fw (src dst n : Nat) : (s.copyRun src dst n).fw = s.fw := rfl
@[simp] theorem State.copyRun_sec (src dst n : Nat) : (s.copyRun src dst n).sec = s.sec := rfl
@[simp] theorem State.copyRun_twin (src dst n : Nat) : (s.copyRun src dst n).twin = s.twin := rfl
@[simp] theorem State.copyRun_flt (src dst n : Nat) : (s.copyRun src dst n).flt = s.flt := rfl
@[simp] theorem State.copyRun_pwr (src dst n : Nat) : (s.copyRun src dst n).pwr = s.pwr := rfl
@[simp] theorem State.copyRun_mod (src dst n : Nat) : (s.copyRun src dst n).mod = s.mod := rfl
@[simp] theorem State.copyRun_pins (src dst n : Nat) : (s.copyRun src dst n).pins = s.pins := rfl
@[simp] theorem State.copyRun_mem (src dst n : Nat) : (s.copyRun src dst n).mem = memCopy s.mem src dst n := rfl

@[simp] theorem State.emit_pending (o : Output) : (s.emit o).pending = s.pending := rfl
@[simp] theorem State.emit_freeCtr (o : Output) : (s.emit o).freeCtr = s.freeCtr := rfl
@[simp] theorem State.emit_todo (o : Output) : (s.emit o).todo = s.todo := rfl
@[simp] theorem State.emit_now (o : Output) : (s.emit o).now = s.now := rfl
@[simp] theorem State.emit_mem (o : Output) : (s.emit o).mem = s.mem := rfl
@[simp] theorem State.emit_poison (o : Output) : (s.emit o).poison = s.poison := rfl
@[simp] theorem State.emit_upsets (o : Output) : (s.emit o).upsets = s.upsets := rfl
@[simp] theorem State.emit_poisonMap (o : Output) : (s.emit o).poisonMap = s.poisonMap := rfl
@[simp] theorem State.emit_pool (o : Output) : (s.emit o).pool = s.pool := rfl
@[simp] theorem State.emit_home (o : Output) : (s.emit o).home = s.home := rfl
@[simp] theorem State.emit_cache (o : Output) : (s.emit o).cache = s.cache := rfl
@[simp] theorem State.emit_xl (o : Output) : (s.emit o).xl = s.xl := rfl
@[simp] theorem State.emit_jobs (o : Output) : (s.emit o).jobs = s.jobs := rfl
@[simp] theorem State.emit_pfx (o : Output) : (s.emit o).pfx = s.pfx := rfl
@[simp] theorem State.emit_stn (o : Output) : (s.emit o).stn = s.stn := rfl
@[simp] theorem State.emit_mbx (o : Output) : (s.emit o).mbx = s.mbx := rfl
@[simp] theorem State.emit_fw (o : Output) : (s.emit o).fw = s.fw := rfl
@[simp] theorem State.emit_sec (o : Output) : (s.emit o).sec = s.sec := rfl
@[simp] theorem State.emit_twin (o : Output) : (s.emit o).twin = s.twin := rfl
@[simp] theorem State.emit_flt (o : Output) : (s.emit o).flt = s.flt := rfl
@[simp] theorem State.emit_pwr (o : Output) : (s.emit o).pwr = s.pwr := rfl
@[simp] theorem State.emit_mod (o : Output) : (s.emit o).mod = s.mod := rfl
@[simp] theorem State.emit_pins (o : Output) : (s.emit o).pins = s.pins := rfl
@[simp] theorem State.emit_out (o : Output) : (s.emit o).out = o :: s.out := rfl

@[simp] theorem State.until_pending (t : Nat) : (s.until t).pending = s.pending := rfl
@[simp] theorem State.until_out (t : Nat) : (s.until t).out = s.out := rfl
@[simp] theorem State.until_freeCtr (t : Nat) : (s.until t).freeCtr = s.freeCtr := rfl
@[simp] theorem State.until_todo (t : Nat) : (s.until t).todo = s.todo := rfl
@[simp] theorem State.until_mem (t : Nat) : (s.until t).mem = s.mem := rfl
@[simp] theorem State.until_poison (t : Nat) : (s.until t).poison = s.poison := rfl
@[simp] theorem State.until_upsets (t : Nat) : (s.until t).upsets = s.upsets := rfl
@[simp] theorem State.until_poisonMap (t : Nat) : (s.until t).poisonMap = s.poisonMap := rfl
@[simp] theorem State.until_pool (t : Nat) : (s.until t).pool = s.pool := rfl
@[simp] theorem State.until_home (t : Nat) : (s.until t).home = s.home := rfl
@[simp] theorem State.until_cache (t : Nat) : (s.until t).cache = s.cache := rfl
@[simp] theorem State.until_xl (t : Nat) : (s.until t).xl = s.xl := rfl
@[simp] theorem State.until_jobs (t : Nat) : (s.until t).jobs = s.jobs := rfl
@[simp] theorem State.until_pfx (t : Nat) : (s.until t).pfx = s.pfx := rfl
@[simp] theorem State.until_stn (t : Nat) : (s.until t).stn = s.stn := rfl
@[simp] theorem State.until_mbx (t : Nat) : (s.until t).mbx = s.mbx := rfl
@[simp] theorem State.until_fw (t : Nat) : (s.until t).fw = s.fw := rfl
@[simp] theorem State.until_sec (t : Nat) : (s.until t).sec = s.sec := rfl
@[simp] theorem State.until_twin (t : Nat) : (s.until t).twin = s.twin := rfl
@[simp] theorem State.until_flt (t : Nat) : (s.until t).flt = s.flt := rfl
@[simp] theorem State.until_pwr (t : Nat) : (s.until t).pwr = s.pwr := rfl
@[simp] theorem State.until_mod (t : Nat) : (s.until t).mod = s.mod := rfl
@[simp] theorem State.until_pins (t : Nat) : (s.until t).pins = s.pins := rfl
@[simp] theorem State.until_now (t : Nat) : (s.until t).now = max s.now (tick t) := rfl

@[simp] theorem State.modStn_pending (n : Nat) (f : Stn → Stn) : (s.modStn n f).pending = s.pending := by unfold State.modStn; split <;> rfl
@[simp] theorem State.modStn_out (n : Nat) (f : Stn → Stn) : (s.modStn n f).out = s.out := by unfold State.modStn; split <;> rfl
@[simp] theorem State.modStn_freeCtr (n : Nat) (f : Stn → Stn) : (s.modStn n f).freeCtr = s.freeCtr := by unfold State.modStn; split <;> rfl
@[simp] theorem State.modStn_todo (n : Nat) (f : Stn → Stn) : (s.modStn n f).todo = s.todo := by unfold State.modStn; split <;> rfl
@[simp] theorem State.modStn_now (n : Nat) (f : Stn → Stn) : (s.modStn n f).now = s.now := by unfold State.modStn; split <;> rfl
@[simp] theorem State.modStn_mem (n : Nat) (f : Stn → Stn) : (s.modStn n f).mem = s.mem := by unfold State.modStn; split <;> rfl
@[simp] theorem State.modStn_poison (n : Nat) (f : Stn → Stn) : (s.modStn n f).poison = s.poison := by unfold State.modStn; split <;> rfl
@[simp] theorem State.modStn_upsets (n : Nat) (f : Stn → Stn) : (s.modStn n f).upsets = s.upsets := by unfold State.modStn; split <;> rfl
@[simp] theorem State.modStn_poisonMap (n : Nat) (f : Stn → Stn) : (s.modStn n f).poisonMap = s.poisonMap := by unfold State.modStn; split <;> rfl
@[simp] theorem State.modStn_pool (n : Nat) (f : Stn → Stn) : (s.modStn n f).pool = s.pool := by unfold State.modStn; split <;> rfl
@[simp] theorem State.modStn_home (n : Nat) (f : Stn → Stn) : (s.modStn n f).home = s.home := by unfold State.modStn; split <;> rfl
@[simp] theorem State.modStn_cache (n : Nat) (f : Stn → Stn) : (s.modStn n f).cache = s.cache := by unfold State.modStn; split <;> rfl
@[simp] theorem State.modStn_xl (n : Nat) (f : Stn → Stn) : (s.modStn n f).xl = s.xl := by unfold State.modStn; split <;> rfl
@[simp] theorem State.modStn_jobs (n : Nat) (f : Stn → Stn) : (s.modStn n f).jobs = s.jobs := by unfold State.modStn; split <;> rfl
@[simp] theorem State.modStn_pfx (n : Nat) (f : Stn → Stn) : (s.modStn n f).pfx = s.pfx := by unfold State.modStn; split <;> rfl
@[simp] theorem State.modStn_mbx (n : Nat) (f : Stn → Stn) : (s.modStn n f).mbx = s.mbx := by unfold State.modStn; split <;> rfl
@[simp] theorem State.modStn_fw (n : Nat) (f : Stn → Stn) : (s.modStn n f).fw = s.fw := by unfold State.modStn; split <;> rfl
@[simp] theorem State.modStn_sec (n : Nat) (f : Stn → Stn) : (s.modStn n f).sec = s.sec := by unfold State.modStn; split <;> rfl
@[simp] theorem State.modStn_twin (n : Nat) (f : Stn → Stn) : (s.modStn n f).twin = s.twin := by unfold State.modStn; split <;> rfl
@[simp] theorem State.modStn_flt (n : Nat) (f : Stn → Stn) : (s.modStn n f).flt = s.flt := by unfold State.modStn; split <;> rfl
@[simp] theorem State.modStn_pwr (n : Nat) (f : Stn → Stn) : (s.modStn n f).pwr = s.pwr := by unfold State.modStn; split <;> rfl
@[simp] theorem State.modStn_mod (n : Nat) (f : Stn → Stn) : (s.modStn n f).mod = s.mod := by unfold State.modStn; split <;> rfl
@[simp] theorem State.modStn_pins (n : Nat) (f : Stn → Stn) : (s.modStn n f).pins = s.pins := by unfold State.modStn; split <;> rfl

@[simp] theorem State.modPump_pending (p : Nat) (f : Pump → Pump) : (s.modPump p f).pending = s.pending := by unfold State.modPump; split <;> rfl
@[simp] theorem State.modPump_out (p : Nat) (f : Pump → Pump) : (s.modPump p f).out = s.out := by unfold State.modPump; split <;> rfl
@[simp] theorem State.modPump_freeCtr (p : Nat) (f : Pump → Pump) : (s.modPump p f).freeCtr = s.freeCtr := by unfold State.modPump; split <;> rfl
@[simp] theorem State.modPump_todo (p : Nat) (f : Pump → Pump) : (s.modPump p f).todo = s.todo := by unfold State.modPump; split <;> rfl
@[simp] theorem State.modPump_now (p : Nat) (f : Pump → Pump) : (s.modPump p f).now = s.now := by unfold State.modPump; split <;> rfl
@[simp] theorem State.modPump_mem (p : Nat) (f : Pump → Pump) : (s.modPump p f).mem = s.mem := by unfold State.modPump; split <;> rfl
@[simp] theorem State.modPump_poison (p : Nat) (f : Pump → Pump) : (s.modPump p f).poison = s.poison := by unfold State.modPump; split <;> rfl
@[simp] theorem State.modPump_upsets (p : Nat) (f : Pump → Pump) : (s.modPump p f).upsets = s.upsets := by unfold State.modPump; split <;> rfl
@[simp] theorem State.modPump_poisonMap (p : Nat) (f : Pump → Pump) : (s.modPump p f).poisonMap = s.poisonMap := by unfold State.modPump; split <;> rfl
@[simp] theorem State.modPump_pool (p : Nat) (f : Pump → Pump) : (s.modPump p f).pool = s.pool := by unfold State.modPump; split <;> rfl
@[simp] theorem State.modPump_home (p : Nat) (f : Pump → Pump) : (s.modPump p f).home = s.home := by unfold State.modPump; split <;> rfl
@[simp] theorem State.modPump_cache (p : Nat) (f : Pump → Pump) : (s.modPump p f).cache = s.cache := by unfold State.modPump; split <;> rfl
@[simp] theorem State.modPump_xl (p : Nat) (f : Pump → Pump) : (s.modPump p f).xl = s.xl := by unfold State.modPump; split <;> rfl
@[simp] theorem State.modPump_pfx (p : Nat) (f : Pump → Pump) : (s.modPump p f).pfx = s.pfx := by unfold State.modPump; split <;> rfl
@[simp] theorem State.modPump_stn (p : Nat) (f : Pump → Pump) : (s.modPump p f).stn = s.stn := by unfold State.modPump; split <;> rfl
@[simp] theorem State.modPump_mbx (p : Nat) (f : Pump → Pump) : (s.modPump p f).mbx = s.mbx := by unfold State.modPump; split <;> rfl
@[simp] theorem State.modPump_fw (p : Nat) (f : Pump → Pump) : (s.modPump p f).fw = s.fw := by unfold State.modPump; split <;> rfl
@[simp] theorem State.modPump_sec (p : Nat) (f : Pump → Pump) : (s.modPump p f).sec = s.sec := by unfold State.modPump; split <;> rfl
@[simp] theorem State.modPump_twin (p : Nat) (f : Pump → Pump) : (s.modPump p f).twin = s.twin := by unfold State.modPump; split <;> rfl
@[simp] theorem State.modPump_flt (p : Nat) (f : Pump → Pump) : (s.modPump p f).flt = s.flt := by unfold State.modPump; split <;> rfl
@[simp] theorem State.modPump_pwr (p : Nat) (f : Pump → Pump) : (s.modPump p f).pwr = s.pwr := by unfold State.modPump; split <;> rfl
@[simp] theorem State.modPump_mod (p : Nat) (f : Pump → Pump) : (s.modPump p f).mod = s.mod := by unfold State.modPump; split <;> rfl
@[simp] theorem State.modPump_pins (p : Nat) (f : Pump → Pump) : (s.modPump p f).pins = s.pins := by unfold State.modPump; split <;> rfl

@[simp] theorem State.modSlice_pending (d : Nat) (f : Slice → Slice) : (s.modSlice d f).pending = s.pending := by unfold State.modSlice; split <;> rfl
@[simp] theorem State.modSlice_out (d : Nat) (f : Slice → Slice) : (s.modSlice d f).out = s.out := by unfold State.modSlice; split <;> rfl
@[simp] theorem State.modSlice_freeCtr (d : Nat) (f : Slice → Slice) : (s.modSlice d f).freeCtr = s.freeCtr := by unfold State.modSlice; split <;> rfl
@[simp] theorem State.modSlice_todo (d : Nat) (f : Slice → Slice) : (s.modSlice d f).todo = s.todo := by unfold State.modSlice; split <;> rfl
@[simp] theorem State.modSlice_now (d : Nat) (f : Slice → Slice) : (s.modSlice d f).now = s.now := by unfold State.modSlice; split <;> rfl
@[simp] theorem State.modSlice_mem (d : Nat) (f : Slice → Slice) : (s.modSlice d f).mem = s.mem := by unfold State.modSlice; split <;> rfl
@[simp] theorem State.modSlice_poison (d : Nat) (f : Slice → Slice) : (s.modSlice d f).poison = s.poison := by unfold State.modSlice; split <;> rfl
@[simp] theorem State.modSlice_upsets (d : Nat) (f : Slice → Slice) : (s.modSlice d f).upsets = s.upsets := by unfold State.modSlice; split <;> rfl
@[simp] theorem State.modSlice_poisonMap (d : Nat) (f : Slice → Slice) : (s.modSlice d f).poisonMap = s.poisonMap := by unfold State.modSlice; split <;> rfl
@[simp] theorem State.modSlice_pool (d : Nat) (f : Slice → Slice) : (s.modSlice d f).pool = s.pool := by unfold State.modSlice; split <;> rfl
@[simp] theorem State.modSlice_home (d : Nat) (f : Slice → Slice) : (s.modSlice d f).home = s.home := by unfold State.modSlice; split <;> rfl
@[simp] theorem State.modSlice_xl (d : Nat) (f : Slice → Slice) : (s.modSlice d f).xl = s.xl := by unfold State.modSlice; split <;> rfl
@[simp] theorem State.modSlice_jobs (d : Nat) (f : Slice → Slice) : (s.modSlice d f).jobs = s.jobs := by unfold State.modSlice; split <;> rfl
@[simp] theorem State.modSlice_pfx (d : Nat) (f : Slice → Slice) : (s.modSlice d f).pfx = s.pfx := by unfold State.modSlice; split <;> rfl
@[simp] theorem State.modSlice_stn (d : Nat) (f : Slice → Slice) : (s.modSlice d f).stn = s.stn := by unfold State.modSlice; split <;> rfl
@[simp] theorem State.modSlice_mbx (d : Nat) (f : Slice → Slice) : (s.modSlice d f).mbx = s.mbx := by unfold State.modSlice; split <;> rfl
@[simp] theorem State.modSlice_fw (d : Nat) (f : Slice → Slice) : (s.modSlice d f).fw = s.fw := by unfold State.modSlice; split <;> rfl
@[simp] theorem State.modSlice_sec (d : Nat) (f : Slice → Slice) : (s.modSlice d f).sec = s.sec := by unfold State.modSlice; split <;> rfl
@[simp] theorem State.modSlice_twin (d : Nat) (f : Slice → Slice) : (s.modSlice d f).twin = s.twin := by unfold State.modSlice; split <;> rfl
@[simp] theorem State.modSlice_flt (d : Nat) (f : Slice → Slice) : (s.modSlice d f).flt = s.flt := by unfold State.modSlice; split <;> rfl
@[simp] theorem State.modSlice_pwr (d : Nat) (f : Slice → Slice) : (s.modSlice d f).pwr = s.pwr := by unfold State.modSlice; split <;> rfl
@[simp] theorem State.modSlice_mod (d : Nat) (f : Slice → Slice) : (s.modSlice d f).mod = s.mod := by unfold State.modSlice; split <;> rfl
@[simp] theorem State.modSlice_pins (d : Nat) (f : Slice → Slice) : (s.modSlice d f).pins = s.pins := by unfold State.modSlice; split <;> rfl

@[simp] theorem State.setWell_pending (i : Nat) (w : Well) : (s.setWell i w).pending = s.pending := rfl
@[simp] theorem State.setWell_out (i : Nat) (w : Well) : (s.setWell i w).out = s.out := rfl
@[simp] theorem State.setWell_freeCtr (i : Nat) (w : Well) : (s.setWell i w).freeCtr = s.freeCtr := rfl
@[simp] theorem State.setWell_todo (i : Nat) (w : Well) : (s.setWell i w).todo = s.todo := rfl
@[simp] theorem State.setWell_now (i : Nat) (w : Well) : (s.setWell i w).now = s.now := rfl
@[simp] theorem State.setWell_mem (i : Nat) (w : Well) : (s.setWell i w).mem = s.mem := rfl
@[simp] theorem State.setWell_poison (i : Nat) (w : Well) : (s.setWell i w).poison = s.poison := rfl
@[simp] theorem State.setWell_upsets (i : Nat) (w : Well) : (s.setWell i w).upsets = s.upsets := rfl
@[simp] theorem State.setWell_poisonMap (i : Nat) (w : Well) : (s.setWell i w).poisonMap = s.poisonMap := rfl
@[simp] theorem State.setWell_home (i : Nat) (w : Well) : (s.setWell i w).home = s.home := rfl
@[simp] theorem State.setWell_cache (i : Nat) (w : Well) : (s.setWell i w).cache = s.cache := rfl
@[simp] theorem State.setWell_xl (i : Nat) (w : Well) : (s.setWell i w).xl = s.xl := rfl
@[simp] theorem State.setWell_jobs (i : Nat) (w : Well) : (s.setWell i w).jobs = s.jobs := rfl
@[simp] theorem State.setWell_pfx (i : Nat) (w : Well) : (s.setWell i w).pfx = s.pfx := rfl
@[simp] theorem State.setWell_stn (i : Nat) (w : Well) : (s.setWell i w).stn = s.stn := rfl
@[simp] theorem State.setWell_mbx (i : Nat) (w : Well) : (s.setWell i w).mbx = s.mbx := rfl
@[simp] theorem State.setWell_fw (i : Nat) (w : Well) : (s.setWell i w).fw = s.fw := rfl
@[simp] theorem State.setWell_sec (i : Nat) (w : Well) : (s.setWell i w).sec = s.sec := rfl
@[simp] theorem State.setWell_twin (i : Nat) (w : Well) : (s.setWell i w).twin = s.twin := rfl
@[simp] theorem State.setWell_flt (i : Nat) (w : Well) : (s.setWell i w).flt = s.flt := rfl
@[simp] theorem State.setWell_pwr (i : Nat) (w : Well) : (s.setWell i w).pwr = s.pwr := rfl
@[simp] theorem State.setWell_mod (i : Nat) (w : Well) : (s.setWell i w).mod = s.mod := rfl
@[simp] theorem State.setWell_pins (i : Nat) (w : Well) : (s.setWell i w).pins = s.pins := rfl

@[simp] theorem State.modWell_pending (i : Nat) (f : Well → Well) : (s.modWell i f).pending = s.pending := rfl
@[simp] theorem State.modWell_out (i : Nat) (f : Well → Well) : (s.modWell i f).out = s.out := rfl
@[simp] theorem State.modWell_freeCtr (i : Nat) (f : Well → Well) : (s.modWell i f).freeCtr = s.freeCtr := rfl
@[simp] theorem State.modWell_todo (i : Nat) (f : Well → Well) : (s.modWell i f).todo = s.todo := rfl
@[simp] theorem State.modWell_now (i : Nat) (f : Well → Well) : (s.modWell i f).now = s.now := rfl
@[simp] theorem State.modWell_mem (i : Nat) (f : Well → Well) : (s.modWell i f).mem = s.mem := rfl
@[simp] theorem State.modWell_poison (i : Nat) (f : Well → Well) : (s.modWell i f).poison = s.poison := rfl
@[simp] theorem State.modWell_upsets (i : Nat) (f : Well → Well) : (s.modWell i f).upsets = s.upsets := rfl
@[simp] theorem State.modWell_poisonMap (i : Nat) (f : Well → Well) : (s.modWell i f).poisonMap = s.poisonMap := rfl
@[simp] theorem State.modWell_home (i : Nat) (f : Well → Well) : (s.modWell i f).home = s.home := rfl
@[simp] theorem State.modWell_cache (i : Nat) (f : Well → Well) : (s.modWell i f).cache = s.cache := rfl
@[simp] theorem State.modWell_xl (i : Nat) (f : Well → Well) : (s.modWell i f).xl = s.xl := rfl
@[simp] theorem State.modWell_jobs (i : Nat) (f : Well → Well) : (s.modWell i f).jobs = s.jobs := rfl
@[simp] theorem State.modWell_pfx (i : Nat) (f : Well → Well) : (s.modWell i f).pfx = s.pfx := rfl
@[simp] theorem State.modWell_stn (i : Nat) (f : Well → Well) : (s.modWell i f).stn = s.stn := rfl
@[simp] theorem State.modWell_mbx (i : Nat) (f : Well → Well) : (s.modWell i f).mbx = s.mbx := rfl
@[simp] theorem State.modWell_fw (i : Nat) (f : Well → Well) : (s.modWell i f).fw = s.fw := rfl
@[simp] theorem State.modWell_sec (i : Nat) (f : Well → Well) : (s.modWell i f).sec = s.sec := rfl
@[simp] theorem State.modWell_twin (i : Nat) (f : Well → Well) : (s.modWell i f).twin = s.twin := rfl
@[simp] theorem State.modWell_flt (i : Nat) (f : Well → Well) : (s.modWell i f).flt = s.flt := rfl
@[simp] theorem State.modWell_pwr (i : Nat) (f : Well → Well) : (s.modWell i f).pwr = s.pwr := rfl
@[simp] theorem State.modWell_mod (i : Nat) (f : Well → Well) : (s.modWell i f).mod = s.mod := rfl
@[simp] theorem State.modWell_pins (i : Nat) (f : Well → Well) : (s.modWell i f).pins = s.pins := rfl

@[simp] theorem State.setCis_pending (c : Nat) (x : Cistern) : (s.setCis c x).pending = s.pending := rfl
@[simp] theorem State.setCis_out (c : Nat) (x : Cistern) : (s.setCis c x).out = s.out := rfl
@[simp] theorem State.setCis_freeCtr (c : Nat) (x : Cistern) : (s.setCis c x).freeCtr = s.freeCtr := rfl
@[simp] theorem State.setCis_todo (c : Nat) (x : Cistern) : (s.setCis c x).todo = s.todo := rfl
@[simp] theorem State.setCis_now (c : Nat) (x : Cistern) : (s.setCis c x).now = s.now := rfl
@[simp] theorem State.setCis_mem (c : Nat) (x : Cistern) : (s.setCis c x).mem = s.mem := rfl
@[simp] theorem State.setCis_poison (c : Nat) (x : Cistern) : (s.setCis c x).poison = s.poison := rfl
@[simp] theorem State.setCis_upsets (c : Nat) (x : Cistern) : (s.setCis c x).upsets = s.upsets := rfl
@[simp] theorem State.setCis_poisonMap (c : Nat) (x : Cistern) : (s.setCis c x).poisonMap = s.poisonMap := rfl
@[simp] theorem State.setCis_home (c : Nat) (x : Cistern) : (s.setCis c x).home = s.home := rfl
@[simp] theorem State.setCis_cache (c : Nat) (x : Cistern) : (s.setCis c x).cache = s.cache := rfl
@[simp] theorem State.setCis_xl (c : Nat) (x : Cistern) : (s.setCis c x).xl = s.xl := rfl
@[simp] theorem State.setCis_jobs (c : Nat) (x : Cistern) : (s.setCis c x).jobs = s.jobs := rfl
@[simp] theorem State.setCis_pfx (c : Nat) (x : Cistern) : (s.setCis c x).pfx = s.pfx := rfl
@[simp] theorem State.setCis_stn (c : Nat) (x : Cistern) : (s.setCis c x).stn = s.stn := rfl
@[simp] theorem State.setCis_mbx (c : Nat) (x : Cistern) : (s.setCis c x).mbx = s.mbx := rfl
@[simp] theorem State.setCis_fw (c : Nat) (x : Cistern) : (s.setCis c x).fw = s.fw := rfl
@[simp] theorem State.setCis_sec (c : Nat) (x : Cistern) : (s.setCis c x).sec = s.sec := rfl
@[simp] theorem State.setCis_twin (c : Nat) (x : Cistern) : (s.setCis c x).twin = s.twin := rfl
@[simp] theorem State.setCis_flt (c : Nat) (x : Cistern) : (s.setCis c x).flt = s.flt := rfl
@[simp] theorem State.setCis_pwr (c : Nat) (x : Cistern) : (s.setCis c x).pwr = s.pwr := rfl
@[simp] theorem State.setCis_mod (c : Nat) (x : Cistern) : (s.setCis c x).mod = s.mod := rfl
@[simp] theorem State.setCis_pins (c : Nat) (x : Cistern) : (s.setCis c x).pins = s.pins := rfl

@[simp] theorem State.modCis_pending (c : Nat) (f : Cistern → Cistern) : (s.modCis c f).pending = s.pending := rfl
@[simp] theorem State.modCis_out (c : Nat) (f : Cistern → Cistern) : (s.modCis c f).out = s.out := rfl
@[simp] theorem State.modCis_freeCtr (c : Nat) (f : Cistern → Cistern) : (s.modCis c f).freeCtr = s.freeCtr := rfl
@[simp] theorem State.modCis_todo (c : Nat) (f : Cistern → Cistern) : (s.modCis c f).todo = s.todo := rfl
@[simp] theorem State.modCis_now (c : Nat) (f : Cistern → Cistern) : (s.modCis c f).now = s.now := rfl
@[simp] theorem State.modCis_mem (c : Nat) (f : Cistern → Cistern) : (s.modCis c f).mem = s.mem := rfl
@[simp] theorem State.modCis_poison (c : Nat) (f : Cistern → Cistern) : (s.modCis c f).poison = s.poison := rfl
@[simp] theorem State.modCis_upsets (c : Nat) (f : Cistern → Cistern) : (s.modCis c f).upsets = s.upsets := rfl
@[simp] theorem State.modCis_poisonMap (c : Nat) (f : Cistern → Cistern) : (s.modCis c f).poisonMap = s.poisonMap := rfl
@[simp] theorem State.modCis_home (c : Nat) (f : Cistern → Cistern) : (s.modCis c f).home = s.home := rfl
@[simp] theorem State.modCis_cache (c : Nat) (f : Cistern → Cistern) : (s.modCis c f).cache = s.cache := rfl
@[simp] theorem State.modCis_xl (c : Nat) (f : Cistern → Cistern) : (s.modCis c f).xl = s.xl := rfl
@[simp] theorem State.modCis_jobs (c : Nat) (f : Cistern → Cistern) : (s.modCis c f).jobs = s.jobs := rfl
@[simp] theorem State.modCis_pfx (c : Nat) (f : Cistern → Cistern) : (s.modCis c f).pfx = s.pfx := rfl
@[simp] theorem State.modCis_stn (c : Nat) (f : Cistern → Cistern) : (s.modCis c f).stn = s.stn := rfl
@[simp] theorem State.modCis_mbx (c : Nat) (f : Cistern → Cistern) : (s.modCis c f).mbx = s.mbx := rfl
@[simp] theorem State.modCis_fw (c : Nat) (f : Cistern → Cistern) : (s.modCis c f).fw = s.fw := rfl
@[simp] theorem State.modCis_sec (c : Nat) (f : Cistern → Cistern) : (s.modCis c f).sec = s.sec := rfl
@[simp] theorem State.modCis_twin (c : Nat) (f : Cistern → Cistern) : (s.modCis c f).twin = s.twin := rfl
@[simp] theorem State.modCis_flt (c : Nat) (f : Cistern → Cistern) : (s.modCis c f).flt = s.flt := rfl
@[simp] theorem State.modCis_pwr (c : Nat) (f : Cistern → Cistern) : (s.modCis c f).pwr = s.pwr := rfl
@[simp] theorem State.modCis_mod (c : Nat) (f : Cistern → Cistern) : (s.modCis c f).mod = s.mod := rfl
@[simp] theorem State.modCis_pins (c : Nat) (f : Cistern → Cistern) : (s.modCis c f).pins = s.pins := rfl

@[simp] theorem State.modCtx_pending (c : Nat) (f : Ctx → Ctx) : (s.modCtx c f).pending = s.pending := rfl
@[simp] theorem State.modCtx_out (c : Nat) (f : Ctx → Ctx) : (s.modCtx c f).out = s.out := rfl
@[simp] theorem State.modCtx_freeCtr (c : Nat) (f : Ctx → Ctx) : (s.modCtx c f).freeCtr = s.freeCtr := rfl
@[simp] theorem State.modCtx_todo (c : Nat) (f : Ctx → Ctx) : (s.modCtx c f).todo = s.todo := rfl
@[simp] theorem State.modCtx_now (c : Nat) (f : Ctx → Ctx) : (s.modCtx c f).now = s.now := rfl
@[simp] theorem State.modCtx_mem (c : Nat) (f : Ctx → Ctx) : (s.modCtx c f).mem = s.mem := rfl
@[simp] theorem State.modCtx_poison (c : Nat) (f : Ctx → Ctx) : (s.modCtx c f).poison = s.poison := rfl
@[simp] theorem State.modCtx_upsets (c : Nat) (f : Ctx → Ctx) : (s.modCtx c f).upsets = s.upsets := rfl
@[simp] theorem State.modCtx_poisonMap (c : Nat) (f : Ctx → Ctx) : (s.modCtx c f).poisonMap = s.poisonMap := rfl
@[simp] theorem State.modCtx_pool (c : Nat) (f : Ctx → Ctx) : (s.modCtx c f).pool = s.pool := rfl
@[simp] theorem State.modCtx_home (c : Nat) (f : Ctx → Ctx) : (s.modCtx c f).home = s.home := rfl
@[simp] theorem State.modCtx_cache (c : Nat) (f : Ctx → Ctx) : (s.modCtx c f).cache = s.cache := rfl
@[simp] theorem State.modCtx_jobs (c : Nat) (f : Ctx → Ctx) : (s.modCtx c f).jobs = s.jobs := rfl
@[simp] theorem State.modCtx_pfx (c : Nat) (f : Ctx → Ctx) : (s.modCtx c f).pfx = s.pfx := rfl
@[simp] theorem State.modCtx_stn (c : Nat) (f : Ctx → Ctx) : (s.modCtx c f).stn = s.stn := rfl
@[simp] theorem State.modCtx_mbx (c : Nat) (f : Ctx → Ctx) : (s.modCtx c f).mbx = s.mbx := rfl
@[simp] theorem State.modCtx_fw (c : Nat) (f : Ctx → Ctx) : (s.modCtx c f).fw = s.fw := rfl
@[simp] theorem State.modCtx_sec (c : Nat) (f : Ctx → Ctx) : (s.modCtx c f).sec = s.sec := rfl
@[simp] theorem State.modCtx_twin (c : Nat) (f : Ctx → Ctx) : (s.modCtx c f).twin = s.twin := rfl
@[simp] theorem State.modCtx_flt (c : Nat) (f : Ctx → Ctx) : (s.modCtx c f).flt = s.flt := rfl
@[simp] theorem State.modCtx_pwr (c : Nat) (f : Ctx → Ctx) : (s.modCtx c f).pwr = s.pwr := rfl
@[simp] theorem State.modCtx_mod (c : Nat) (f : Ctx → Ctx) : (s.modCtx c f).mod = s.mod := rfl
@[simp] theorem State.modCtx_pins (c : Nat) (f : Ctx → Ctx) : (s.modCtx c f).pins = s.pins := rfl

@[simp] theorem State.modPlat_pending (p : Nat) (f : Platform → Platform) : (s.modPlat p f).pending = s.pending := rfl
@[simp] theorem State.modPlat_out (p : Nat) (f : Platform → Platform) : (s.modPlat p f).out = s.out := rfl
@[simp] theorem State.modPlat_freeCtr (p : Nat) (f : Platform → Platform) : (s.modPlat p f).freeCtr = s.freeCtr := rfl
@[simp] theorem State.modPlat_todo (p : Nat) (f : Platform → Platform) : (s.modPlat p f).todo = s.todo := rfl
@[simp] theorem State.modPlat_now (p : Nat) (f : Platform → Platform) : (s.modPlat p f).now = s.now := rfl
@[simp] theorem State.modPlat_mem (p : Nat) (f : Platform → Platform) : (s.modPlat p f).mem = s.mem := rfl
@[simp] theorem State.modPlat_poison (p : Nat) (f : Platform → Platform) : (s.modPlat p f).poison = s.poison := rfl
@[simp] theorem State.modPlat_upsets (p : Nat) (f : Platform → Platform) : (s.modPlat p f).upsets = s.upsets := rfl
@[simp] theorem State.modPlat_poisonMap (p : Nat) (f : Platform → Platform) : (s.modPlat p f).poisonMap = s.poisonMap := rfl
@[simp] theorem State.modPlat_pool (p : Nat) (f : Platform → Platform) : (s.modPlat p f).pool = s.pool := rfl
@[simp] theorem State.modPlat_home (p : Nat) (f : Platform → Platform) : (s.modPlat p f).home = s.home := rfl
@[simp] theorem State.modPlat_cache (p : Nat) (f : Platform → Platform) : (s.modPlat p f).cache = s.cache := rfl
@[simp] theorem State.modPlat_xl (p : Nat) (f : Platform → Platform) : (s.modPlat p f).xl = s.xl := rfl
@[simp] theorem State.modPlat_pfx (p : Nat) (f : Platform → Platform) : (s.modPlat p f).pfx = s.pfx := rfl
@[simp] theorem State.modPlat_stn (p : Nat) (f : Platform → Platform) : (s.modPlat p f).stn = s.stn := rfl
@[simp] theorem State.modPlat_mbx (p : Nat) (f : Platform → Platform) : (s.modPlat p f).mbx = s.mbx := rfl
@[simp] theorem State.modPlat_fw (p : Nat) (f : Platform → Platform) : (s.modPlat p f).fw = s.fw := rfl
@[simp] theorem State.modPlat_sec (p : Nat) (f : Platform → Platform) : (s.modPlat p f).sec = s.sec := rfl
@[simp] theorem State.modPlat_twin (p : Nat) (f : Platform → Platform) : (s.modPlat p f).twin = s.twin := rfl
@[simp] theorem State.modPlat_flt (p : Nat) (f : Platform → Platform) : (s.modPlat p f).flt = s.flt := rfl
@[simp] theorem State.modPlat_pwr (p : Nat) (f : Platform → Platform) : (s.modPlat p f).pwr = s.pwr := rfl
@[simp] theorem State.modPlat_mod (p : Nat) (f : Platform → Platform) : (s.modPlat p f).mod = s.mod := rfl
@[simp] theorem State.modPlat_pins (p : Nat) (f : Platform → Platform) : (s.modPlat p f).pins = s.pins := rfl

@[simp] theorem State.modNs_pending (i : Nat) (f : Ns → Ns) : (s.modNs i f).pending = s.pending := rfl
@[simp] theorem State.modNs_out (i : Nat) (f : Ns → Ns) : (s.modNs i f).out = s.out := rfl
@[simp] theorem State.modNs_freeCtr (i : Nat) (f : Ns → Ns) : (s.modNs i f).freeCtr = s.freeCtr := rfl
@[simp] theorem State.modNs_todo (i : Nat) (f : Ns → Ns) : (s.modNs i f).todo = s.todo := rfl
@[simp] theorem State.modNs_now (i : Nat) (f : Ns → Ns) : (s.modNs i f).now = s.now := rfl
@[simp] theorem State.modNs_mem (i : Nat) (f : Ns → Ns) : (s.modNs i f).mem = s.mem := rfl
@[simp] theorem State.modNs_poison (i : Nat) (f : Ns → Ns) : (s.modNs i f).poison = s.poison := rfl
@[simp] theorem State.modNs_upsets (i : Nat) (f : Ns → Ns) : (s.modNs i f).upsets = s.upsets := rfl
@[simp] theorem State.modNs_poisonMap (i : Nat) (f : Ns → Ns) : (s.modNs i f).poisonMap = s.poisonMap := rfl
@[simp] theorem State.modNs_pool (i : Nat) (f : Ns → Ns) : (s.modNs i f).pool = s.pool := rfl
@[simp] theorem State.modNs_home (i : Nat) (f : Ns → Ns) : (s.modNs i f).home = s.home := rfl
@[simp] theorem State.modNs_cache (i : Nat) (f : Ns → Ns) : (s.modNs i f).cache = s.cache := rfl
@[simp] theorem State.modNs_xl (i : Nat) (f : Ns → Ns) : (s.modNs i f).xl = s.xl := rfl
@[simp] theorem State.modNs_jobs (i : Nat) (f : Ns → Ns) : (s.modNs i f).jobs = s.jobs := rfl
@[simp] theorem State.modNs_stn (i : Nat) (f : Ns → Ns) : (s.modNs i f).stn = s.stn := rfl
@[simp] theorem State.modNs_mbx (i : Nat) (f : Ns → Ns) : (s.modNs i f).mbx = s.mbx := rfl
@[simp] theorem State.modNs_fw (i : Nat) (f : Ns → Ns) : (s.modNs i f).fw = s.fw := rfl
@[simp] theorem State.modNs_sec (i : Nat) (f : Ns → Ns) : (s.modNs i f).sec = s.sec := rfl
@[simp] theorem State.modNs_twin (i : Nat) (f : Ns → Ns) : (s.modNs i f).twin = s.twin := rfl
@[simp] theorem State.modNs_flt (i : Nat) (f : Ns → Ns) : (s.modNs i f).flt = s.flt := rfl
@[simp] theorem State.modNs_pwr (i : Nat) (f : Ns → Ns) : (s.modNs i f).pwr = s.pwr := rfl
@[simp] theorem State.modNs_mod (i : Nat) (f : Ns → Ns) : (s.modNs i f).mod = s.mod := rfl
@[simp] theorem State.modNs_pins (i : Nat) (f : Ns → Ns) : (s.modNs i f).pins = s.pins := rfl

@[simp] theorem State.modJob_pending (id : Nat) (f : Job → Job) : (s.modJob id f).pending = s.pending := rfl
@[simp] theorem State.modJob_out (id : Nat) (f : Job → Job) : (s.modJob id f).out = s.out := rfl
@[simp] theorem State.modJob_freeCtr (id : Nat) (f : Job → Job) : (s.modJob id f).freeCtr = s.freeCtr := rfl
@[simp] theorem State.modJob_todo (id : Nat) (f : Job → Job) : (s.modJob id f).todo = s.todo := rfl
@[simp] theorem State.modJob_now (id : Nat) (f : Job → Job) : (s.modJob id f).now = s.now := rfl
@[simp] theorem State.modJob_mem (id : Nat) (f : Job → Job) : (s.modJob id f).mem = s.mem := rfl
@[simp] theorem State.modJob_poison (id : Nat) (f : Job → Job) : (s.modJob id f).poison = s.poison := rfl
@[simp] theorem State.modJob_upsets (id : Nat) (f : Job → Job) : (s.modJob id f).upsets = s.upsets := rfl
@[simp] theorem State.modJob_poisonMap (id : Nat) (f : Job → Job) : (s.modJob id f).poisonMap = s.poisonMap := rfl
@[simp] theorem State.modJob_pool (id : Nat) (f : Job → Job) : (s.modJob id f).pool = s.pool := rfl
@[simp] theorem State.modJob_home (id : Nat) (f : Job → Job) : (s.modJob id f).home = s.home := rfl
@[simp] theorem State.modJob_cache (id : Nat) (f : Job → Job) : (s.modJob id f).cache = s.cache := rfl
@[simp] theorem State.modJob_xl (id : Nat) (f : Job → Job) : (s.modJob id f).xl = s.xl := rfl
@[simp] theorem State.modJob_pfx (id : Nat) (f : Job → Job) : (s.modJob id f).pfx = s.pfx := rfl
@[simp] theorem State.modJob_stn (id : Nat) (f : Job → Job) : (s.modJob id f).stn = s.stn := rfl
@[simp] theorem State.modJob_mbx (id : Nat) (f : Job → Job) : (s.modJob id f).mbx = s.mbx := rfl
@[simp] theorem State.modJob_fw (id : Nat) (f : Job → Job) : (s.modJob id f).fw = s.fw := rfl
@[simp] theorem State.modJob_sec (id : Nat) (f : Job → Job) : (s.modJob id f).sec = s.sec := rfl
@[simp] theorem State.modJob_twin (id : Nat) (f : Job → Job) : (s.modJob id f).twin = s.twin := rfl
@[simp] theorem State.modJob_flt (id : Nat) (f : Job → Job) : (s.modJob id f).flt = s.flt := rfl
@[simp] theorem State.modJob_pwr (id : Nat) (f : Job → Job) : (s.modJob id f).pwr = s.pwr := rfl
@[simp] theorem State.modJob_mod (id : Nat) (f : Job → Job) : (s.modJob id f).mod = s.mod := rfl
@[simp] theorem State.modJob_pins (id : Nat) (f : Job → Job) : (s.modJob id f).pins = s.pins := rfl

@[simp] theorem State.modHome_pending (f : Home → Home) : (s.modHome f).pending = s.pending := rfl
@[simp] theorem State.modHome_out (f : Home → Home) : (s.modHome f).out = s.out := rfl
@[simp] theorem State.modHome_freeCtr (f : Home → Home) : (s.modHome f).freeCtr = s.freeCtr := rfl
@[simp] theorem State.modHome_todo (f : Home → Home) : (s.modHome f).todo = s.todo := rfl
@[simp] theorem State.modHome_now (f : Home → Home) : (s.modHome f).now = s.now := rfl
@[simp] theorem State.modHome_mem (f : Home → Home) : (s.modHome f).mem = s.mem := rfl
@[simp] theorem State.modHome_poison (f : Home → Home) : (s.modHome f).poison = s.poison := rfl
@[simp] theorem State.modHome_upsets (f : Home → Home) : (s.modHome f).upsets = s.upsets := rfl
@[simp] theorem State.modHome_poisonMap (f : Home → Home) : (s.modHome f).poisonMap = s.poisonMap := rfl
@[simp] theorem State.modHome_pool (f : Home → Home) : (s.modHome f).pool = s.pool := rfl
@[simp] theorem State.modHome_cache (f : Home → Home) : (s.modHome f).cache = s.cache := rfl
@[simp] theorem State.modHome_xl (f : Home → Home) : (s.modHome f).xl = s.xl := rfl
@[simp] theorem State.modHome_jobs (f : Home → Home) : (s.modHome f).jobs = s.jobs := rfl
@[simp] theorem State.modHome_pfx (f : Home → Home) : (s.modHome f).pfx = s.pfx := rfl
@[simp] theorem State.modHome_stn (f : Home → Home) : (s.modHome f).stn = s.stn := rfl
@[simp] theorem State.modHome_mbx (f : Home → Home) : (s.modHome f).mbx = s.mbx := rfl
@[simp] theorem State.modHome_fw (f : Home → Home) : (s.modHome f).fw = s.fw := rfl
@[simp] theorem State.modHome_sec (f : Home → Home) : (s.modHome f).sec = s.sec := rfl
@[simp] theorem State.modHome_twin (f : Home → Home) : (s.modHome f).twin = s.twin := rfl
@[simp] theorem State.modHome_flt (f : Home → Home) : (s.modHome f).flt = s.flt := rfl
@[simp] theorem State.modHome_pwr (f : Home → Home) : (s.modHome f).pwr = s.pwr := rfl
@[simp] theorem State.modHome_mod (f : Home → Home) : (s.modHome f).mod = s.mod := rfl
@[simp] theorem State.modHome_pins (f : Home → Home) : (s.modHome f).pins = s.pins := rfl
@[simp] theorem State.modHome_home (f : Home → Home) : (s.modHome f).home = f s.home := rfl

@[simp] theorem State.modTwin_pending (f : Twin → Twin) : (s.modTwin f).pending = s.pending := rfl
@[simp] theorem State.modTwin_out (f : Twin → Twin) : (s.modTwin f).out = s.out := rfl
@[simp] theorem State.modTwin_freeCtr (f : Twin → Twin) : (s.modTwin f).freeCtr = s.freeCtr := rfl
@[simp] theorem State.modTwin_todo (f : Twin → Twin) : (s.modTwin f).todo = s.todo := rfl
@[simp] theorem State.modTwin_now (f : Twin → Twin) : (s.modTwin f).now = s.now := rfl
@[simp] theorem State.modTwin_mem (f : Twin → Twin) : (s.modTwin f).mem = s.mem := rfl
@[simp] theorem State.modTwin_poison (f : Twin → Twin) : (s.modTwin f).poison = s.poison := rfl
@[simp] theorem State.modTwin_upsets (f : Twin → Twin) : (s.modTwin f).upsets = s.upsets := rfl
@[simp] theorem State.modTwin_poisonMap (f : Twin → Twin) : (s.modTwin f).poisonMap = s.poisonMap := rfl
@[simp] theorem State.modTwin_pool (f : Twin → Twin) : (s.modTwin f).pool = s.pool := rfl
@[simp] theorem State.modTwin_home (f : Twin → Twin) : (s.modTwin f).home = s.home := rfl
@[simp] theorem State.modTwin_cache (f : Twin → Twin) : (s.modTwin f).cache = s.cache := rfl
@[simp] theorem State.modTwin_xl (f : Twin → Twin) : (s.modTwin f).xl = s.xl := rfl
@[simp] theorem State.modTwin_jobs (f : Twin → Twin) : (s.modTwin f).jobs = s.jobs := rfl
@[simp] theorem State.modTwin_pfx (f : Twin → Twin) : (s.modTwin f).pfx = s.pfx := rfl
@[simp] theorem State.modTwin_stn (f : Twin → Twin) : (s.modTwin f).stn = s.stn := rfl
@[simp] theorem State.modTwin_mbx (f : Twin → Twin) : (s.modTwin f).mbx = s.mbx := rfl
@[simp] theorem State.modTwin_fw (f : Twin → Twin) : (s.modTwin f).fw = s.fw := rfl
@[simp] theorem State.modTwin_sec (f : Twin → Twin) : (s.modTwin f).sec = s.sec := rfl
@[simp] theorem State.modTwin_flt (f : Twin → Twin) : (s.modTwin f).flt = s.flt := rfl
@[simp] theorem State.modTwin_pwr (f : Twin → Twin) : (s.modTwin f).pwr = s.pwr := rfl
@[simp] theorem State.modTwin_mod (f : Twin → Twin) : (s.modTwin f).mod = s.mod := rfl
@[simp] theorem State.modTwin_pins (f : Twin → Twin) : (s.modTwin f).pins = s.pins := rfl
@[simp] theorem State.modTwin_twin (f : Twin → Twin) : (s.modTwin f).twin = f s.twin := rfl

@[simp] theorem State.modPool_pending (f : Pool → Pool) : (s.modPool f).pending = s.pending := rfl
@[simp] theorem State.modPool_out (f : Pool → Pool) : (s.modPool f).out = s.out := rfl
@[simp] theorem State.modPool_freeCtr (f : Pool → Pool) : (s.modPool f).freeCtr = s.freeCtr := rfl
@[simp] theorem State.modPool_todo (f : Pool → Pool) : (s.modPool f).todo = s.todo := rfl
@[simp] theorem State.modPool_now (f : Pool → Pool) : (s.modPool f).now = s.now := rfl
@[simp] theorem State.modPool_mem (f : Pool → Pool) : (s.modPool f).mem = s.mem := rfl
@[simp] theorem State.modPool_poison (f : Pool → Pool) : (s.modPool f).poison = s.poison := rfl
@[simp] theorem State.modPool_upsets (f : Pool → Pool) : (s.modPool f).upsets = s.upsets := rfl
@[simp] theorem State.modPool_poisonMap (f : Pool → Pool) : (s.modPool f).poisonMap = s.poisonMap := rfl
@[simp] theorem State.modPool_home (f : Pool → Pool) : (s.modPool f).home = s.home := rfl
@[simp] theorem State.modPool_cache (f : Pool → Pool) : (s.modPool f).cache = s.cache := rfl
@[simp] theorem State.modPool_xl (f : Pool → Pool) : (s.modPool f).xl = s.xl := rfl
@[simp] theorem State.modPool_jobs (f : Pool → Pool) : (s.modPool f).jobs = s.jobs := rfl
@[simp] theorem State.modPool_pfx (f : Pool → Pool) : (s.modPool f).pfx = s.pfx := rfl
@[simp] theorem State.modPool_stn (f : Pool → Pool) : (s.modPool f).stn = s.stn := rfl
@[simp] theorem State.modPool_mbx (f : Pool → Pool) : (s.modPool f).mbx = s.mbx := rfl
@[simp] theorem State.modPool_fw (f : Pool → Pool) : (s.modPool f).fw = s.fw := rfl
@[simp] theorem State.modPool_sec (f : Pool → Pool) : (s.modPool f).sec = s.sec := rfl
@[simp] theorem State.modPool_twin (f : Pool → Pool) : (s.modPool f).twin = s.twin := rfl
@[simp] theorem State.modPool_flt (f : Pool → Pool) : (s.modPool f).flt = s.flt := rfl
@[simp] theorem State.modPool_pwr (f : Pool → Pool) : (s.modPool f).pwr = s.pwr := rfl
@[simp] theorem State.modPool_mod (f : Pool → Pool) : (s.modPool f).mod = s.mod := rfl
@[simp] theorem State.modPool_pins (f : Pool → Pool) : (s.modPool f).pins = s.pins := rfl
@[simp] theorem State.modPool_pool (f : Pool → Pool) : (s.modPool f).pool = f s.pool := rfl

@[simp] theorem State.modMbx_pending (f : MbxS → MbxS) : (s.modMbx f).pending = s.pending := rfl
@[simp] theorem State.modMbx_out (f : MbxS → MbxS) : (s.modMbx f).out = s.out := rfl
@[simp] theorem State.modMbx_freeCtr (f : MbxS → MbxS) : (s.modMbx f).freeCtr = s.freeCtr := rfl
@[simp] theorem State.modMbx_todo (f : MbxS → MbxS) : (s.modMbx f).todo = s.todo := rfl
@[simp] theorem State.modMbx_now (f : MbxS → MbxS) : (s.modMbx f).now = s.now := rfl
@[simp] theorem State.modMbx_mem (f : MbxS → MbxS) : (s.modMbx f).mem = s.mem := rfl
@[simp] theorem State.modMbx_poison (f : MbxS → MbxS) : (s.modMbx f).poison = s.poison := rfl
@[simp] theorem State.modMbx_upsets (f : MbxS → MbxS) : (s.modMbx f).upsets = s.upsets := rfl
@[simp] theorem State.modMbx_poisonMap (f : MbxS → MbxS) : (s.modMbx f).poisonMap = s.poisonMap := rfl
@[simp] theorem State.modMbx_pool (f : MbxS → MbxS) : (s.modMbx f).pool = s.pool := rfl
@[simp] theorem State.modMbx_home (f : MbxS → MbxS) : (s.modMbx f).home = s.home := rfl
@[simp] theorem State.modMbx_cache (f : MbxS → MbxS) : (s.modMbx f).cache = s.cache := rfl
@[simp] theorem State.modMbx_xl (f : MbxS → MbxS) : (s.modMbx f).xl = s.xl := rfl
@[simp] theorem State.modMbx_jobs (f : MbxS → MbxS) : (s.modMbx f).jobs = s.jobs := rfl
@[simp] theorem State.modMbx_pfx (f : MbxS → MbxS) : (s.modMbx f).pfx = s.pfx := rfl
@[simp] theorem State.modMbx_stn (f : MbxS → MbxS) : (s.modMbx f).stn = s.stn := rfl
@[simp] theorem State.modMbx_fw (f : MbxS → MbxS) : (s.modMbx f).fw = s.fw := rfl
@[simp] theorem State.modMbx_sec (f : MbxS → MbxS) : (s.modMbx f).sec = s.sec := rfl
@[simp] theorem State.modMbx_twin (f : MbxS → MbxS) : (s.modMbx f).twin = s.twin := rfl
@[simp] theorem State.modMbx_flt (f : MbxS → MbxS) : (s.modMbx f).flt = s.flt := rfl
@[simp] theorem State.modMbx_pwr (f : MbxS → MbxS) : (s.modMbx f).pwr = s.pwr := rfl
@[simp] theorem State.modMbx_mod (f : MbxS → MbxS) : (s.modMbx f).mod = s.mod := rfl
@[simp] theorem State.modMbx_pins (f : MbxS → MbxS) : (s.modMbx f).pins = s.pins := rfl
@[simp] theorem State.modMbx_mbx (f : MbxS → MbxS) : (s.modMbx f).mbx = f s.mbx := rfl

@[simp] theorem State.modMb_pending (m : Mbx) (f : Mailbox → Mailbox) : (s.modMb m f).pending = s.pending := by cases m <;> rfl
@[simp] theorem State.modMb_out (m : Mbx) (f : Mailbox → Mailbox) : (s.modMb m f).out = s.out := by cases m <;> rfl
@[simp] theorem State.modMb_freeCtr (m : Mbx) (f : Mailbox → Mailbox) : (s.modMb m f).freeCtr = s.freeCtr := by cases m <;> rfl
@[simp] theorem State.modMb_todo (m : Mbx) (f : Mailbox → Mailbox) : (s.modMb m f).todo = s.todo := by cases m <;> rfl
@[simp] theorem State.modMb_now (m : Mbx) (f : Mailbox → Mailbox) : (s.modMb m f).now = s.now := by cases m <;> rfl
@[simp] theorem State.modMb_mem (m : Mbx) (f : Mailbox → Mailbox) : (s.modMb m f).mem = s.mem := by cases m <;> rfl
@[simp] theorem State.modMb_poison (m : Mbx) (f : Mailbox → Mailbox) : (s.modMb m f).poison = s.poison := by cases m <;> rfl
@[simp] theorem State.modMb_upsets (m : Mbx) (f : Mailbox → Mailbox) : (s.modMb m f).upsets = s.upsets := by cases m <;> rfl
@[simp] theorem State.modMb_poisonMap (m : Mbx) (f : Mailbox → Mailbox) : (s.modMb m f).poisonMap = s.poisonMap := by cases m <;> rfl
@[simp] theorem State.modMb_pool (m : Mbx) (f : Mailbox → Mailbox) : (s.modMb m f).pool = s.pool := by cases m <;> rfl
@[simp] theorem State.modMb_home (m : Mbx) (f : Mailbox → Mailbox) : (s.modMb m f).home = s.home := by cases m <;> rfl
@[simp] theorem State.modMb_cache (m : Mbx) (f : Mailbox → Mailbox) : (s.modMb m f).cache = s.cache := by cases m <;> rfl
@[simp] theorem State.modMb_xl (m : Mbx) (f : Mailbox → Mailbox) : (s.modMb m f).xl = s.xl := by cases m <;> rfl
@[simp] theorem State.modMb_jobs (m : Mbx) (f : Mailbox → Mailbox) : (s.modMb m f).jobs = s.jobs := by cases m <;> rfl
@[simp] theorem State.modMb_pfx (m : Mbx) (f : Mailbox → Mailbox) : (s.modMb m f).pfx = s.pfx := by cases m <;> rfl
@[simp] theorem State.modMb_stn (m : Mbx) (f : Mailbox → Mailbox) : (s.modMb m f).stn = s.stn := by cases m <;> rfl
@[simp] theorem State.modMb_fw (m : Mbx) (f : Mailbox → Mailbox) : (s.modMb m f).fw = s.fw := by cases m <;> rfl
@[simp] theorem State.modMb_sec (m : Mbx) (f : Mailbox → Mailbox) : (s.modMb m f).sec = s.sec := by cases m <;> rfl
@[simp] theorem State.modMb_twin (m : Mbx) (f : Mailbox → Mailbox) : (s.modMb m f).twin = s.twin := by cases m <;> rfl
@[simp] theorem State.modMb_flt (m : Mbx) (f : Mailbox → Mailbox) : (s.modMb m f).flt = s.flt := by cases m <;> rfl
@[simp] theorem State.modMb_pwr (m : Mbx) (f : Mailbox → Mailbox) : (s.modMb m f).pwr = s.pwr := by cases m <;> rfl
@[simp] theorem State.modMb_mod (m : Mbx) (f : Mailbox → Mailbox) : (s.modMb m f).mod = s.mod := by cases m <;> rfl
@[simp] theorem State.modMb_pins (m : Mbx) (f : Mailbox → Mailbox) : (s.modMb m f).pins = s.pins := by cases m <;> rfl

@[simp] theorem State.modSec_pending (f : Sec → Sec) : (s.modSec f).pending = s.pending := rfl
@[simp] theorem State.modSec_out (f : Sec → Sec) : (s.modSec f).out = s.out := rfl
@[simp] theorem State.modSec_freeCtr (f : Sec → Sec) : (s.modSec f).freeCtr = s.freeCtr := rfl
@[simp] theorem State.modSec_todo (f : Sec → Sec) : (s.modSec f).todo = s.todo := rfl
@[simp] theorem State.modSec_now (f : Sec → Sec) : (s.modSec f).now = s.now := rfl
@[simp] theorem State.modSec_mem (f : Sec → Sec) : (s.modSec f).mem = s.mem := rfl
@[simp] theorem State.modSec_poison (f : Sec → Sec) : (s.modSec f).poison = s.poison := rfl
@[simp] theorem State.modSec_upsets (f : Sec → Sec) : (s.modSec f).upsets = s.upsets := rfl
@[simp] theorem State.modSec_poisonMap (f : Sec → Sec) : (s.modSec f).poisonMap = s.poisonMap := rfl
@[simp] theorem State.modSec_pool (f : Sec → Sec) : (s.modSec f).pool = s.pool := rfl
@[simp] theorem State.modSec_home (f : Sec → Sec) : (s.modSec f).home = s.home := rfl
@[simp] theorem State.modSec_cache (f : Sec → Sec) : (s.modSec f).cache = s.cache := rfl
@[simp] theorem State.modSec_xl (f : Sec → Sec) : (s.modSec f).xl = s.xl := rfl
@[simp] theorem State.modSec_jobs (f : Sec → Sec) : (s.modSec f).jobs = s.jobs := rfl
@[simp] theorem State.modSec_pfx (f : Sec → Sec) : (s.modSec f).pfx = s.pfx := rfl
@[simp] theorem State.modSec_stn (f : Sec → Sec) : (s.modSec f).stn = s.stn := rfl
@[simp] theorem State.modSec_mbx (f : Sec → Sec) : (s.modSec f).mbx = s.mbx := rfl
@[simp] theorem State.modSec_fw (f : Sec → Sec) : (s.modSec f).fw = s.fw := rfl
@[simp] theorem State.modSec_twin (f : Sec → Sec) : (s.modSec f).twin = s.twin := rfl
@[simp] theorem State.modSec_flt (f : Sec → Sec) : (s.modSec f).flt = s.flt := rfl
@[simp] theorem State.modSec_pwr (f : Sec → Sec) : (s.modSec f).pwr = s.pwr := rfl
@[simp] theorem State.modSec_mod (f : Sec → Sec) : (s.modSec f).mod = s.mod := rfl
@[simp] theorem State.modSec_pins (f : Sec → Sec) : (s.modSec f).pins = s.pins := rfl
@[simp] theorem State.modSec_sec (f : Sec → Sec) : (s.modSec f).sec = f s.sec := rfl

@[simp] theorem State.modMod_pending (f : Mod → Mod) : (s.modMod f).pending = s.pending := rfl
@[simp] theorem State.modMod_out (f : Mod → Mod) : (s.modMod f).out = s.out := rfl
@[simp] theorem State.modMod_freeCtr (f : Mod → Mod) : (s.modMod f).freeCtr = s.freeCtr := rfl
@[simp] theorem State.modMod_todo (f : Mod → Mod) : (s.modMod f).todo = s.todo := rfl
@[simp] theorem State.modMod_now (f : Mod → Mod) : (s.modMod f).now = s.now := rfl
@[simp] theorem State.modMod_mem (f : Mod → Mod) : (s.modMod f).mem = s.mem := rfl
@[simp] theorem State.modMod_poison (f : Mod → Mod) : (s.modMod f).poison = s.poison := rfl
@[simp] theorem State.modMod_upsets (f : Mod → Mod) : (s.modMod f).upsets = s.upsets := rfl
@[simp] theorem State.modMod_poisonMap (f : Mod → Mod) : (s.modMod f).poisonMap = s.poisonMap := rfl
@[simp] theorem State.modMod_pool (f : Mod → Mod) : (s.modMod f).pool = s.pool := rfl
@[simp] theorem State.modMod_home (f : Mod → Mod) : (s.modMod f).home = s.home := rfl
@[simp] theorem State.modMod_cache (f : Mod → Mod) : (s.modMod f).cache = s.cache := rfl
@[simp] theorem State.modMod_xl (f : Mod → Mod) : (s.modMod f).xl = s.xl := rfl
@[simp] theorem State.modMod_jobs (f : Mod → Mod) : (s.modMod f).jobs = s.jobs := rfl
@[simp] theorem State.modMod_pfx (f : Mod → Mod) : (s.modMod f).pfx = s.pfx := rfl
@[simp] theorem State.modMod_stn (f : Mod → Mod) : (s.modMod f).stn = s.stn := rfl
@[simp] theorem State.modMod_mbx (f : Mod → Mod) : (s.modMod f).mbx = s.mbx := rfl
@[simp] theorem State.modMod_fw (f : Mod → Mod) : (s.modMod f).fw = s.fw := rfl
@[simp] theorem State.modMod_sec (f : Mod → Mod) : (s.modMod f).sec = s.sec := rfl
@[simp] theorem State.modMod_twin (f : Mod → Mod) : (s.modMod f).twin = s.twin := rfl
@[simp] theorem State.modMod_flt (f : Mod → Mod) : (s.modMod f).flt = s.flt := rfl
@[simp] theorem State.modMod_pwr (f : Mod → Mod) : (s.modMod f).pwr = s.pwr := rfl
@[simp] theorem State.modMod_pins (f : Mod → Mod) : (s.modMod f).pins = s.pins := rfl
@[simp] theorem State.modMod_mod (f : Mod → Mod) : (s.modMod f).mod = f s.mod := rfl

@[simp] theorem State.modFlt_pending (f : Flt → Flt) : (s.modFlt f).pending = s.pending := rfl
@[simp] theorem State.modFlt_out (f : Flt → Flt) : (s.modFlt f).out = s.out := rfl
@[simp] theorem State.modFlt_freeCtr (f : Flt → Flt) : (s.modFlt f).freeCtr = s.freeCtr := rfl
@[simp] theorem State.modFlt_todo (f : Flt → Flt) : (s.modFlt f).todo = s.todo := rfl
@[simp] theorem State.modFlt_now (f : Flt → Flt) : (s.modFlt f).now = s.now := rfl
@[simp] theorem State.modFlt_mem (f : Flt → Flt) : (s.modFlt f).mem = s.mem := rfl
@[simp] theorem State.modFlt_poison (f : Flt → Flt) : (s.modFlt f).poison = s.poison := rfl
@[simp] theorem State.modFlt_upsets (f : Flt → Flt) : (s.modFlt f).upsets = s.upsets := rfl
@[simp] theorem State.modFlt_poisonMap (f : Flt → Flt) : (s.modFlt f).poisonMap = s.poisonMap := rfl
@[simp] theorem State.modFlt_pool (f : Flt → Flt) : (s.modFlt f).pool = s.pool := rfl
@[simp] theorem State.modFlt_home (f : Flt → Flt) : (s.modFlt f).home = s.home := rfl
@[simp] theorem State.modFlt_cache (f : Flt → Flt) : (s.modFlt f).cache = s.cache := rfl
@[simp] theorem State.modFlt_xl (f : Flt → Flt) : (s.modFlt f).xl = s.xl := rfl
@[simp] theorem State.modFlt_jobs (f : Flt → Flt) : (s.modFlt f).jobs = s.jobs := rfl
@[simp] theorem State.modFlt_pfx (f : Flt → Flt) : (s.modFlt f).pfx = s.pfx := rfl
@[simp] theorem State.modFlt_stn (f : Flt → Flt) : (s.modFlt f).stn = s.stn := rfl
@[simp] theorem State.modFlt_mbx (f : Flt → Flt) : (s.modFlt f).mbx = s.mbx := rfl
@[simp] theorem State.modFlt_fw (f : Flt → Flt) : (s.modFlt f).fw = s.fw := rfl
@[simp] theorem State.modFlt_sec (f : Flt → Flt) : (s.modFlt f).sec = s.sec := rfl
@[simp] theorem State.modFlt_twin (f : Flt → Flt) : (s.modFlt f).twin = s.twin := rfl
@[simp] theorem State.modFlt_pwr (f : Flt → Flt) : (s.modFlt f).pwr = s.pwr := rfl
@[simp] theorem State.modFlt_mod (f : Flt → Flt) : (s.modFlt f).mod = s.mod := rfl
@[simp] theorem State.modFlt_pins (f : Flt → Flt) : (s.modFlt f).pins = s.pins := rfl
@[simp] theorem State.modFlt_flt (f : Flt → Flt) : (s.modFlt f).flt = f s.flt := rfl

@[simp] theorem State.modPwr_pending (f : Pwr → Pwr) : (s.modPwr f).pending = s.pending := rfl
@[simp] theorem State.modPwr_out (f : Pwr → Pwr) : (s.modPwr f).out = s.out := rfl
@[simp] theorem State.modPwr_freeCtr (f : Pwr → Pwr) : (s.modPwr f).freeCtr = s.freeCtr := rfl
@[simp] theorem State.modPwr_todo (f : Pwr → Pwr) : (s.modPwr f).todo = s.todo := rfl
@[simp] theorem State.modPwr_now (f : Pwr → Pwr) : (s.modPwr f).now = s.now := rfl
@[simp] theorem State.modPwr_mem (f : Pwr → Pwr) : (s.modPwr f).mem = s.mem := rfl
@[simp] theorem State.modPwr_poison (f : Pwr → Pwr) : (s.modPwr f).poison = s.poison := rfl
@[simp] theorem State.modPwr_upsets (f : Pwr → Pwr) : (s.modPwr f).upsets = s.upsets := rfl
@[simp] theorem State.modPwr_poisonMap (f : Pwr → Pwr) : (s.modPwr f).poisonMap = s.poisonMap := rfl
@[simp] theorem State.modPwr_pool (f : Pwr → Pwr) : (s.modPwr f).pool = s.pool := rfl
@[simp] theorem State.modPwr_home (f : Pwr → Pwr) : (s.modPwr f).home = s.home := rfl
@[simp] theorem State.modPwr_cache (f : Pwr → Pwr) : (s.modPwr f).cache = s.cache := rfl
@[simp] theorem State.modPwr_xl (f : Pwr → Pwr) : (s.modPwr f).xl = s.xl := rfl
@[simp] theorem State.modPwr_jobs (f : Pwr → Pwr) : (s.modPwr f).jobs = s.jobs := rfl
@[simp] theorem State.modPwr_pfx (f : Pwr → Pwr) : (s.modPwr f).pfx = s.pfx := rfl
@[simp] theorem State.modPwr_stn (f : Pwr → Pwr) : (s.modPwr f).stn = s.stn := rfl
@[simp] theorem State.modPwr_mbx (f : Pwr → Pwr) : (s.modPwr f).mbx = s.mbx := rfl
@[simp] theorem State.modPwr_fw (f : Pwr → Pwr) : (s.modPwr f).fw = s.fw := rfl
@[simp] theorem State.modPwr_sec (f : Pwr → Pwr) : (s.modPwr f).sec = s.sec := rfl
@[simp] theorem State.modPwr_twin (f : Pwr → Pwr) : (s.modPwr f).twin = s.twin := rfl
@[simp] theorem State.modPwr_flt (f : Pwr → Pwr) : (s.modPwr f).flt = s.flt := rfl
@[simp] theorem State.modPwr_mod (f : Pwr → Pwr) : (s.modPwr f).mod = s.mod := rfl
@[simp] theorem State.modPwr_pins (f : Pwr → Pwr) : (s.modPwr f).pins = s.pins := rfl
@[simp] theorem State.modPwr_pwr (f : Pwr → Pwr) : (s.modPwr f).pwr = f s.pwr := rfl

@[simp] theorem State.modFw_pending (f : Fw → Fw) : (s.modFw f).pending = s.pending := rfl
@[simp] theorem State.modFw_out (f : Fw → Fw) : (s.modFw f).out = s.out := rfl
@[simp] theorem State.modFw_freeCtr (f : Fw → Fw) : (s.modFw f).freeCtr = s.freeCtr := rfl
@[simp] theorem State.modFw_todo (f : Fw → Fw) : (s.modFw f).todo = s.todo := rfl
@[simp] theorem State.modFw_now (f : Fw → Fw) : (s.modFw f).now = s.now := rfl
@[simp] theorem State.modFw_mem (f : Fw → Fw) : (s.modFw f).mem = s.mem := rfl
@[simp] theorem State.modFw_poison (f : Fw → Fw) : (s.modFw f).poison = s.poison := rfl
@[simp] theorem State.modFw_upsets (f : Fw → Fw) : (s.modFw f).upsets = s.upsets := rfl
@[simp] theorem State.modFw_poisonMap (f : Fw → Fw) : (s.modFw f).poisonMap = s.poisonMap := rfl
@[simp] theorem State.modFw_pool (f : Fw → Fw) : (s.modFw f).pool = s.pool := rfl
@[simp] theorem State.modFw_home (f : Fw → Fw) : (s.modFw f).home = s.home := rfl
@[simp] theorem State.modFw_cache (f : Fw → Fw) : (s.modFw f).cache = s.cache := rfl
@[simp] theorem State.modFw_xl (f : Fw → Fw) : (s.modFw f).xl = s.xl := rfl
@[simp] theorem State.modFw_jobs (f : Fw → Fw) : (s.modFw f).jobs = s.jobs := rfl
@[simp] theorem State.modFw_pfx (f : Fw → Fw) : (s.modFw f).pfx = s.pfx := rfl
@[simp] theorem State.modFw_stn (f : Fw → Fw) : (s.modFw f).stn = s.stn := rfl
@[simp] theorem State.modFw_mbx (f : Fw → Fw) : (s.modFw f).mbx = s.mbx := rfl
@[simp] theorem State.modFw_sec (f : Fw → Fw) : (s.modFw f).sec = s.sec := rfl
@[simp] theorem State.modFw_twin (f : Fw → Fw) : (s.modFw f).twin = s.twin := rfl
@[simp] theorem State.modFw_flt (f : Fw → Fw) : (s.modFw f).flt = s.flt := rfl
@[simp] theorem State.modFw_pwr (f : Fw → Fw) : (s.modFw f).pwr = s.pwr := rfl
@[simp] theorem State.modFw_mod (f : Fw → Fw) : (s.modFw f).mod = s.mod := rfl
@[simp] theorem State.modFw_pins (f : Fw → Fw) : (s.modFw f).pins = s.pins := rfl
@[simp] theorem State.modFw_fw (f : Fw → Fw) : (s.modFw f).fw = f s.fw := rfl

@[simp] theorem State.modPfx_pending (f : Pfx → Pfx) : (s.modPfx f).pending = s.pending := rfl
@[simp] theorem State.modPfx_out (f : Pfx → Pfx) : (s.modPfx f).out = s.out := rfl
@[simp] theorem State.modPfx_freeCtr (f : Pfx → Pfx) : (s.modPfx f).freeCtr = s.freeCtr := rfl
@[simp] theorem State.modPfx_todo (f : Pfx → Pfx) : (s.modPfx f).todo = s.todo := rfl
@[simp] theorem State.modPfx_now (f : Pfx → Pfx) : (s.modPfx f).now = s.now := rfl
@[simp] theorem State.modPfx_mem (f : Pfx → Pfx) : (s.modPfx f).mem = s.mem := rfl
@[simp] theorem State.modPfx_poison (f : Pfx → Pfx) : (s.modPfx f).poison = s.poison := rfl
@[simp] theorem State.modPfx_upsets (f : Pfx → Pfx) : (s.modPfx f).upsets = s.upsets := rfl
@[simp] theorem State.modPfx_poisonMap (f : Pfx → Pfx) : (s.modPfx f).poisonMap = s.poisonMap := rfl
@[simp] theorem State.modPfx_pool (f : Pfx → Pfx) : (s.modPfx f).pool = s.pool := rfl
@[simp] theorem State.modPfx_home (f : Pfx → Pfx) : (s.modPfx f).home = s.home := rfl
@[simp] theorem State.modPfx_cache (f : Pfx → Pfx) : (s.modPfx f).cache = s.cache := rfl
@[simp] theorem State.modPfx_xl (f : Pfx → Pfx) : (s.modPfx f).xl = s.xl := rfl
@[simp] theorem State.modPfx_jobs (f : Pfx → Pfx) : (s.modPfx f).jobs = s.jobs := rfl
@[simp] theorem State.modPfx_stn (f : Pfx → Pfx) : (s.modPfx f).stn = s.stn := rfl
@[simp] theorem State.modPfx_mbx (f : Pfx → Pfx) : (s.modPfx f).mbx = s.mbx := rfl
@[simp] theorem State.modPfx_fw (f : Pfx → Pfx) : (s.modPfx f).fw = s.fw := rfl
@[simp] theorem State.modPfx_sec (f : Pfx → Pfx) : (s.modPfx f).sec = s.sec := rfl
@[simp] theorem State.modPfx_twin (f : Pfx → Pfx) : (s.modPfx f).twin = s.twin := rfl
@[simp] theorem State.modPfx_flt (f : Pfx → Pfx) : (s.modPfx f).flt = s.flt := rfl
@[simp] theorem State.modPfx_pwr (f : Pfx → Pfx) : (s.modPfx f).pwr = s.pwr := rfl
@[simp] theorem State.modPfx_mod (f : Pfx → Pfx) : (s.modPfx f).mod = s.mod := rfl
@[simp] theorem State.modPfx_pins (f : Pfx → Pfx) : (s.modPfx f).pins = s.pins := rfl
@[simp] theorem State.modPfx_pfx (f : Pfx → Pfx) : (s.modPfx f).pfx = f s.pfx := rfl

@[simp] theorem State.modJobs_pending (f : Jobs → Jobs) : (s.modJobs f).pending = s.pending := rfl
@[simp] theorem State.modJobs_out (f : Jobs → Jobs) : (s.modJobs f).out = s.out := rfl
@[simp] theorem State.modJobs_freeCtr (f : Jobs → Jobs) : (s.modJobs f).freeCtr = s.freeCtr := rfl
@[simp] theorem State.modJobs_todo (f : Jobs → Jobs) : (s.modJobs f).todo = s.todo := rfl
@[simp] theorem State.modJobs_now (f : Jobs → Jobs) : (s.modJobs f).now = s.now := rfl
@[simp] theorem State.modJobs_mem (f : Jobs → Jobs) : (s.modJobs f).mem = s.mem := rfl
@[simp] theorem State.modJobs_poison (f : Jobs → Jobs) : (s.modJobs f).poison = s.poison := rfl
@[simp] theorem State.modJobs_upsets (f : Jobs → Jobs) : (s.modJobs f).upsets = s.upsets := rfl
@[simp] theorem State.modJobs_poisonMap (f : Jobs → Jobs) : (s.modJobs f).poisonMap = s.poisonMap := rfl
@[simp] theorem State.modJobs_pool (f : Jobs → Jobs) : (s.modJobs f).pool = s.pool := rfl
@[simp] theorem State.modJobs_home (f : Jobs → Jobs) : (s.modJobs f).home = s.home := rfl
@[simp] theorem State.modJobs_cache (f : Jobs → Jobs) : (s.modJobs f).cache = s.cache := rfl
@[simp] theorem State.modJobs_xl (f : Jobs → Jobs) : (s.modJobs f).xl = s.xl := rfl
@[simp] theorem State.modJobs_pfx (f : Jobs → Jobs) : (s.modJobs f).pfx = s.pfx := rfl
@[simp] theorem State.modJobs_stn (f : Jobs → Jobs) : (s.modJobs f).stn = s.stn := rfl
@[simp] theorem State.modJobs_mbx (f : Jobs → Jobs) : (s.modJobs f).mbx = s.mbx := rfl
@[simp] theorem State.modJobs_fw (f : Jobs → Jobs) : (s.modJobs f).fw = s.fw := rfl
@[simp] theorem State.modJobs_sec (f : Jobs → Jobs) : (s.modJobs f).sec = s.sec := rfl
@[simp] theorem State.modJobs_twin (f : Jobs → Jobs) : (s.modJobs f).twin = s.twin := rfl
@[simp] theorem State.modJobs_flt (f : Jobs → Jobs) : (s.modJobs f).flt = s.flt := rfl
@[simp] theorem State.modJobs_pwr (f : Jobs → Jobs) : (s.modJobs f).pwr = s.pwr := rfl
@[simp] theorem State.modJobs_mod (f : Jobs → Jobs) : (s.modJobs f).mod = s.mod := rfl
@[simp] theorem State.modJobs_pins (f : Jobs → Jobs) : (s.modJobs f).pins = s.pins := rfl
@[simp] theorem State.modJobs_jobs (f : Jobs → Jobs) : (s.modJobs f).jobs = f s.jobs := rfl

@[simp] theorem State.modXl_pending (f : Xl → Xl) : (s.modXl f).pending = s.pending := rfl
@[simp] theorem State.modXl_out (f : Xl → Xl) : (s.modXl f).out = s.out := rfl
@[simp] theorem State.modXl_freeCtr (f : Xl → Xl) : (s.modXl f).freeCtr = s.freeCtr := rfl
@[simp] theorem State.modXl_todo (f : Xl → Xl) : (s.modXl f).todo = s.todo := rfl
@[simp] theorem State.modXl_now (f : Xl → Xl) : (s.modXl f).now = s.now := rfl
@[simp] theorem State.modXl_mem (f : Xl → Xl) : (s.modXl f).mem = s.mem := rfl
@[simp] theorem State.modXl_poison (f : Xl → Xl) : (s.modXl f).poison = s.poison := rfl
@[simp] theorem State.modXl_upsets (f : Xl → Xl) : (s.modXl f).upsets = s.upsets := rfl
@[simp] theorem State.modXl_poisonMap (f : Xl → Xl) : (s.modXl f).poisonMap = s.poisonMap := rfl
@[simp] theorem State.modXl_pool (f : Xl → Xl) : (s.modXl f).pool = s.pool := rfl
@[simp] theorem State.modXl_home (f : Xl → Xl) : (s.modXl f).home = s.home := rfl
@[simp] theorem State.modXl_cache (f : Xl → Xl) : (s.modXl f).cache = s.cache := rfl
@[simp] theorem State.modXl_jobs (f : Xl → Xl) : (s.modXl f).jobs = s.jobs := rfl
@[simp] theorem State.modXl_pfx (f : Xl → Xl) : (s.modXl f).pfx = s.pfx := rfl
@[simp] theorem State.modXl_stn (f : Xl → Xl) : (s.modXl f).stn = s.stn := rfl
@[simp] theorem State.modXl_mbx (f : Xl → Xl) : (s.modXl f).mbx = s.mbx := rfl
@[simp] theorem State.modXl_fw (f : Xl → Xl) : (s.modXl f).fw = s.fw := rfl
@[simp] theorem State.modXl_sec (f : Xl → Xl) : (s.modXl f).sec = s.sec := rfl
@[simp] theorem State.modXl_twin (f : Xl → Xl) : (s.modXl f).twin = s.twin := rfl
@[simp] theorem State.modXl_flt (f : Xl → Xl) : (s.modXl f).flt = s.flt := rfl
@[simp] theorem State.modXl_pwr (f : Xl → Xl) : (s.modXl f).pwr = s.pwr := rfl
@[simp] theorem State.modXl_mod (f : Xl → Xl) : (s.modXl f).mod = s.mod := rfl
@[simp] theorem State.modXl_pins (f : Xl → Xl) : (s.modXl f).pins = s.pins := rfl
@[simp] theorem State.modXl_xl (f : Xl → Xl) : (s.modXl f).xl = f s.xl := rfl

end Sys2Proof.Machine
end

