-- ==== Sys2Proof/Laws/Data.lean ====
section
/-! SUPPORT. Data at rest: what recording a fault leaves of memory, poison and cache, and what the reads and writes of DRAM give. -/
namespace Sys2Proof.Machine

/-- Two states agree in what holds data: memory, poison, upsets, the cache, and the pool that places it. -/
structure SameData (s t : State) : Prop where
  mem : t.mem = s.mem
  poison : t.poison = s.poison
  upsets : t.upsets = s.upsets
  cache : t.cache = s.cache
  pool : t.pool = s.pool

theorem SameData.refl (s : State) : SameData s s := ⟨rfl, rfl, rfl, rfl, rfl⟩

theorem SameData.trans {s t u : State} (h : SameData s t) (k : SameData t u) : SameData s u :=
  ⟨k.mem.trans h.mem, k.poison.trans h.poison, k.upsets.trans h.upsets, k.cache.trans h.cache, k.pool.trans h.pool⟩

theorem SameData.forAll {α : Type} (f : α → State → State) (hf : ∀ s a, SameData s (f a s)) (l : List α) (s : State) :
    SameData s (forAll l f s) := by
  unfold Machine.forAll
  induction l generalizing s with
  | nil => exact .refl s
  | cons a l ih => exact (hf s a).trans (ih _)

theorem modStn_sameData (s : State) (n : Nat) (f : Stn → Stn) : SameData s (s.modStn n f) := by constructor <;> simp

theorem modRecord_sameData (s : State) (q : Nat) (f : FaultRec → FaultRec) : SameData s (s.modRecord q f) := ⟨rfl, rfl, rfl, rfl, rfl⟩

theorem setVec_sameData (s : State) (n v : Nat) (x : Vec) : SameData s (s.setVec n v x) := modStn_sameData ..

theorem sendVec_sameData (s : State) (n v : Nat) : SameData s (s.sendVec n v) := by
  unfold State.sendVec
  dsimp only
  split
  · exact (setVec_sameData ..).trans ⟨rfl, rfl, rfl, rfl, rfl⟩
  · exact .refl s

theorem raiseVec_sameData (s : State) (n v : Nat) : SameData s (s.raiseVec n v) := (setVec_sameData ..).trans (sendVec_sameData ..)

theorem tell_sameData (s : State) (q : Nat) (l : List Nat) : SameData s (s.tell q l) :=
  SameData.forAll _ (fun _ _ => (modStn_sameData ..).trans (raiseVec_sameData ..)) _ _

theorem react_sameData (s : State) (x : Source) (k u : Nat) (r : React) : SameData s (s.react x k u r) := by
  unfold State.react; dsimp only; repeat' split
  all_goals exact ⟨rfl, rfl, rfl, rfl, rfl⟩

theorem addHist_sameData (s : State) (a b c d e f : Nat) (i : Bool) : SameData s (s.addHist a b c d e f i) := ⟨rfl, rfl, rfl, rfl, rfl⟩

theorem judged_sameData (s : State) (k u q : Nat) (i : Bool) : SameData s (s.judged k u q i) := by
  unfold State.judged; dsimp only; repeat' split
  all_goals constructor <;> simp [State.modRecord]

theorem ringRoom_sameData (s : State) : SameData s s.ringRoom := by
  unfold State.ringRoom; dsimp only; split
  · exact .refl s
  · exact ⟨rfl, rfl, rfl, rfl, rfl⟩

theorem openRecord_sameData (s : State) (x : Source) (e : Event) : SameData s (s.openRecord x e) := by
  unfold State.openRecord State.report
  dsimp only
  refine .trans (.trans ?_ (tell_sameData ..)) (react_sameData ..)
  refine (ringRoom_sameData s).trans ?_
  constructor <;> simp only [State.emit] <;> repeat' split
  all_goals rfl

theorem recordUp_sameData (s : State) (x : Source) (r : FaultRec) : SameData s (s.recordUp x r) := by
  unfold State.recordUp; dsimp only; split
  · exact .refl s
  · exact ⟨rfl, rfl, rfl, rfl, rfl⟩

theorem recordOnce_sameData (s : State) (e : Event) : SameData s (s.recordOnce e) := by
  unfold State.recordOnce; split
  · exact .refl s
  · rename_i x _
    extract_lets u
    have hu : SameData s u := by unfold u; repeat' split
                                 all_goals first | exact addHist_sameData .. | exact .refl s
    refine hu.trans ?_
    clear_value u
    split
    · have hz : ∀ (on : List Nat) (q : Nat) (f : Nat → Stn → Stn) (g : FaultRec → FaultRec) (new : List Nat),
          SameData u (((forAll on (fun n s => s.modStn n (f n)) u).modRecord q g).tell q new) := fun on q f g new =>
        (SameData.forAll _ (fun _ _ => modStn_sameData ..) on u).trans ((modRecord_sameData ..).trans (tell_sameData ..))
      dsimp only
      split
      · exact (hz _ _ (fun _ => _) _ _).trans ((recordUp_sameData ..).trans (react_sameData ..))
      · exact hz _ _ (fun _ => _) _ _
    · split
      · exact openRecord_sameData ..
      · split
        · exact ⟨rfl, rfl, rfl, rfl, rfl⟩
        · refine .trans ?_ (openRecord_sameData ..)
          exact ⟨rfl, rfl, rfl, rfl, rfl⟩

/-- Recording a fault touches no data. -/
theorem record_sameData (s : State) (e : Event) : SameData s (s.record e) := by
  unfold State.record; split
  · exact .refl s
  · rename_i x _
    dsimp only
    generalize (if (x.kind == 8 || x.kind == 9) = true then e.object else e.unit) = key
    split
    · split
      · exact (recordOnce_sameData ..).trans (judged_sameData ..)
      · exact recordOnce_sameData ..
    · split
      · split
        · refine .trans ?_ (recordOnce_sameData ..)
          exact ⟨rfl, rfl, rfl, rfl, rfl⟩
        · refine .trans (.trans ?_ (addHist_sameData ..)) (recordOnce_sameData ..)
          exact ⟨rfl, rfl, rfl, rfl, rfl⟩
      · split
        · refine .trans (.trans ?_ (recordOnce_sameData ..)) (judged_sameData ..)
          exact ⟨rfl, rfl, rfl, rfl, rfl⟩
        · split
          all_goals
            refine .trans (.trans (.trans ?_ (recordOnce_sameData ..)) (recordOnce_sameData ..)) (judged_sameData ..)
            exact ⟨rfl, rfl, rfl, rfl, rfl⟩

/-! ## Lines of bytes -/

@[simp] theorem le_length (n v : Nat) : (le n v).length = n := by induction n generalizing v <;> simp [le, *]

theorem ofLe_le (n v : Nat) : ofLe (le n v) = v % 256 ^ n := by
  induction n generalizing v with
  | zero => simp [le, ofLe, Nat.mod_one]
  | succ n ih =>
    simp only [le, ofLe, ih, BitVec.toNat_ofNat]
    rw [show (256 : Nat) ^ (n + 1) = 256 * 256 ^ n by ring, Nat.mod_mul]

theorem two_pow_512 : (256 : Nat) ^ 64 = 2 ^ 512 := by rw [show (256 : Nat) = 2 ^ 8 by norm_num, ← pow_mul]

@[simp] theorem lineBytes_length (d : Line) : (lineBytes d).length = 64 := le_length ..

set_option exponentiation.threshold 600 in
@[simp] theorem bytesLine_lineBytes (d : Line) : bytesLine (lineBytes d) = d := by
  unfold bytesLine
  rw [List.take_of_length_le (by simp)]
  unfold lineBytes
  rw [ofLe_le]
  apply BitVec.eq_of_toNat_eq
  simp only [BitVec.toNat_ofNat]
  have := d.isLt
  rw [two_pow_512, Nat.mod_mod, Nat.mod_eq_of_lt this]

theorem le_ofLe (bs : List Byte) : le bs.length (ofLe bs) = bs := by
  induction bs with
  | nil => rfl
  | cons b bs ih =>
    simp only [List.length_cons, le, ofLe]
    have hb := b.isLt
    rw [show (b.toNat + 256 * ofLe bs) / 256 = ofLe bs by omega, ih]
    congr 1
    apply BitVec.eq_of_toNat_eq
    simp only [BitVec.toNat_ofNat]; omega

theorem ofLe_lt (bs : List Byte) : ofLe bs < 256 ^ bs.length := by
  induction bs with
  | nil => simp [ofLe]
  | cons b bs ih =>
    have hb := b.isLt
    simp only [ofLe, List.length_cons, Nat.pow_succ]; omega

set_option exponentiation.threshold 600 in
theorem lineBytes_bytesLine (bs : List Byte) (h : bs.length = 64) : lineBytes (bytesLine bs) = bs := by
  unfold lineBytes bytesLine
  rw [List.take_of_length_le (by omega)]
  have := ofLe_lt bs
  rw [h, two_pow_512] at this
  rw [BitVec.toNat_ofNat, Nat.mod_eq_of_lt this, ← h, le_ofLe]

/-- Byte by byte, a merge takes the new bytes of the mask and keeps the others (07 R209). -/
theorem mergeLine_byte (old new : Line) (mask : BitVec 64) (i : Nat) :
    (lineBytes (mergeLine old new mask))[i]? = (if mask.getLsbD i then lineBytes new else lineBytes old)[i]? := by
  unfold mergeLine
  rw [lineBytes_bytesLine _ (by simp)]
  by_cases hi : i < 64
  · have ho : i < (lineBytes old).length := by simpa using hi
    have hn : i < (lineBytes new).length := by simpa using hi
    simp only [List.getElem?_map, List.getElem?_zipIdx, List.zip, List.getElem?_zipWith,
      List.getElem?_eq_getElem ho, List.getElem?_eq_getElem hn, Option.map_some, Nat.zero_add]
    split <;> simp [hi]
  · have : ∀ d : Line, (lineBytes d)[i]? = none := fun d => List.getElem?_eq_none (by simp; omega)
    rw [List.getElem?_eq_none (by simp; omega)]
    split <;> simp [this]

/-! ## DRAM -/

theorem lineIns_contains (l : List Nat) (a b : Nat) : (lineIns l a).contains b = (b == a || l.contains b) := by
  induction l with
  | nil => rfl
  | cons k l ih =>
    unfold lineIns
    split
    · simp only [List.contains_cons]
    · split
      · subst k; simp only [List.contains_cons]; cases b == a <;> rfl
      · simp only [List.contains_cons, ih]; cases b == a <;> cases b == k <;> rfl

theorem memRead_memWrite_self (m : List Host.Cell) (a : Nat) (bs : List Byte) : memRead (memWrite m a bs) a bs.length = bs := by
  apply List.ext_getElem
  · simp
  · intro i h1 h2
    rw [memGet_memRead_elem _ _ _ _ h2, memWrite_self _ _ _ _ h2]

theorem memRead_memWrite_other (m : List Host.Cell) (a : Nat) (bs : List Byte) (b n : Nat) (h : b + n ≤ a ∨ a + bs.length ≤ b) :
    memRead (memWrite m a bs) b n = memRead m b n := by
  apply List.ext_getElem
  · simp
  · intro i h1 h2
    have hi : i < n := by simpa using h1
    rw [memGet_memRead_elem _ _ _ _ hi, memGet_memRead_elem _ _ _ _ hi, memWrite_other _ _ _ _ (by omega)]

theorem wakeDie_sameData (s : State) (d : Nat) : SameData s (s.wakeDie d) := by
  unfold State.wakeDie; repeat' split
  all_goals exact ⟨rfl, rfl, rfl, rfl, rfl⟩

theorem touch_sameData (s : State) (a : Nat) : SameData s (s.touch a) := by
  unfold State.touch; dsimp only; repeat' split
  · exact wakeDie_sameData ..
  · exact ⟨rfl, rfl, rfl, rfl, rfl⟩
  · exact .refl s

theorem judgeStack_sameData (s : State) (k : Nat) : SameData s (s.judgeStack k) := by
  unfold State.judgeStack; dsimp only; split
  · exact record_sameData ..
  · exact .refl s

theorem rowJudged_sameData (s : State) (k l : Nat) (i : Bool) : SameData s (s.rowJudged k l i) :=
  (record_sameData ..).trans (judgeStack_sameData ..)

theorem SameData.cached {s t : State} (h : SameData s t) (k : CKey) : t.cached k = s.cached k := by
  simp only [State.cached, State.looksUp, State.slice, h.cache]

theorem SameData.homeOf {s t : State} (h : SameData s t) (a : Nat) : t.homeOf a = s.homeOf a := by
  simp only [State.homeOf, State.granule, h.pool]

theorem SameData.upsetOf {s t : State} (h : SameData s t) (a : Nat) : t.upsetOf a = s.upsetOf a := by
  simp only [State.upsetOf, h.upsets]

/-- Two states agree in everything that holds data but for the line at `a`, whose stored poison bit is `p` and which meets no upset. -/
structure SameBut (a : Nat) (d : Line) (p : Bool) (s t : State) : Prop where
  dram : t.dram a = d
  poison : t.poison.contains a = p
  upset : t.upsetOf a = none
  cache : t.cache = s.cache
  pool : t.pool = s.pool
  others : ∀ b, b + 64 ≤ a ∨ a + 64 ≤ b → t.dram b = s.dram b
  otherPoison : ∀ b, b ≠ a → t.poison.contains b = s.poison.contains b

theorem SameBut.after {a : Nat} {d : Line} {p : Bool} {s t u : State} (h : SameData s t) (k : SameBut a d p t u) : SameBut a d p s u :=
  ⟨k.dram, k.poison, k.upset, k.cache.trans h.cache, k.pool.trans h.pool,
   fun b hb => (k.others b hb).trans (by simp only [State.dram, h.mem]), fun b hb => (k.otherPoison b hb).trans (by rw [h.poison])⟩

theorem SameBut.then {a : Nat} {d : Line} {p : Bool} {s t u : State} (h : SameBut a d p s t) (k : SameData t u) : SameBut a d p s u :=
  ⟨by simp only [State.dram, k.mem]; exact h.dram, by rw [k.poison]; exact h.poison, (k.upsetOf a).trans h.upset, k.cache.trans h.cache,
   k.pool.trans h.pool, fun b hb => by simp only [State.dram, k.mem]; exact h.others b hb, fun b hb => by rw [k.poison]; exact h.otherPoison b hb⟩

theorem upsetOf_filter (l : List (Nat × Nat × Bool)) (a : Nat) : ((l.filter (·.1 != a)).find? (·.1 == a)) = none := by
  rw [List.find?_eq_none]; intro x hx
  have := (List.mem_filter.1 hx).2
  simpa using this

theorem contains_filter (l : List Nat) (a b : Nat) : (l.filter (· != a)).contains b = (l.contains b && b != a) := by
  induction l with
  | nil => rfl
  | cons k l ih =>
    by_cases h : k = a
    · subst k; simp only [List.filter_cons, bne_self_eq_false, List.contains_cons]
      cases hb : b == a <;> simp [bne, hb]
    · have : (k != a) = true := by simpa using h
      simp only [List.filter_cons, this, ih, List.contains_cons, if_true]
      cases hb : b == k
      · simp
      · have : b = k := by simpa using hb
        subst b; simp [h]

/-- A write of DRAM: the line holds what was written, and no other line changes. -/
theorem writeDram_sameBut (s : State) (a : Nat) (d : Line) (p : Bool) : SameBut a d p s (s.writeDram a d p) := by
  have ht := touch_sameData s a
  refine SameBut.after ht ?_
  unfold State.writeDram
  generalize s.touch a = s
  have hd : bytesLine (memRead (memWrite s.mem a (lineBytes d)) a 64) = d := by
    have := memRead_memWrite_self s.mem a (lineBytes d)
    rw [lineBytes_length] at this
    rw [this, bytesLine_lineBytes]
  have ho : ∀ b, b + 64 ≤ a ∨ a + 64 ≤ b → bytesLine (memRead (memWrite s.mem a (lineBytes d)) b 64) = s.dram b := fun b hb => by
    rw [memRead_memWrite_other _ _ _ _ _ (by simpa using hb)]; rfl
  cases p
  · exact ⟨hd, by simp [State.clearPoison, State.setMem], by simp [State.clearPoison, State.setMem, State.upsetOf], rfl, rfl, ho,
      fun b hb => by
        show (s.poison.filter (· != a)).contains b = _
        rw [contains_filter]; simp [hb]⟩
  · exact ⟨hd, by show (lineIns s.poison a).contains a = true; rw [lineIns_contains]; simp,
      by show (((s.upsets.filter (·.1 != a)).find? (·.1 == a)).map fun x => x.2) = none; rw [upsetOf_filter]; rfl, rfl, rfl, ho,
      fun b hb => by
        show (lineIns s.poison a).contains b = _
        rw [lineIns_contains]; simp [hb]⟩

theorem poisonLine_sameBut (s : State) (a c : Nat) : SameBut a (s.dram a) true s (s.poisonLine a c) := by
  have base : SameBut a (s.dram a) true s { (s.setPoison a) with upsets := (s.setPoison a).upsets.filter (·.1 != a) } :=
    ⟨rfl, by show (lineIns s.poison a).contains a = true; rw [lineIns_contains]; simp,
      by show (((s.upsets.filter (·.1 != a)).find? (·.1 == a)).map fun x => x.2) = none; rw [upsetOf_filter]; rfl, rfl, rfl, fun _ _ => rfl,
      fun b hb => by
        show (lineIns s.poison a).contains b = _
        rw [lineIns_contains]; simp [hb]⟩
  unfold State.poisonLine
  dsimp only
  split
  · exact base
  · split
    · exact base.then ⟨rfl, rfl, rfl, rfl, rfl⟩
    · exact base.then (record_sameData ..)

theorem uncorrectable_sameBut (s : State) (e : Event) (a : Nat) (h : lineOf e.address = a) : SameBut a (s.dram a) true s (s.uncorrectable e) := by
  have key : ∀ t, SameData s t → SameBut a (s.dram a) true s (t.poisonLine a 1) := fun t k => by
    have := SameBut.after k (poisonLine_sameBut t a 1)
    simpa only [State.dram, k.mem] using this
  subst h
  unfold State.uncorrectable
  dsimp only
  split
  · refine key _ ?_
    repeat' split
    all_goals first
      | (refine .trans (.trans ?_ (record_sameData ..)) (rowJudged_sameData ..); exact ⟨rfl, rfl, rfl, rfl, rfl⟩)
      | (refine .trans ?_ (record_sameData ..); exact ⟨rfl, rfl, rfl, rfl, rfl⟩)
  · refine key _ (.trans ?_ (record_sameData ..))
    repeat' split
    all_goals first
      | exact ⟨rfl, rfl, rfl, rfl, rfl⟩
      | (refine .trans ?_ (rowJudged_sameData ..); exact ⟨rfl, rfl, rfl, rfl, rfl⟩)

/-- A read of DRAM: the line's data, poison as stored unless the read itself is uncorrectable; nothing else changes. -/
theorem readDram_sameBut (s : State) (a : Nat) (h : lineOf a = a) :
    (s.readDram a).1 = s.dram a ∧ (s.readDram a).2.1 = (s.poison.contains a || (s.upsetOf a).any (1 < ·.1)) ∧
    SameBut a (s.dram a) (s.readDram a).2.1 s (s.readDram a).2.2 := by
  have ht := touch_sameData s a
  have hm : (s.touch a).dram a = s.dram a := by simp only [State.dram, ht.mem]
  have hu := ht.upsetOf a
  unfold State.readDram
  dsimp only
  split
  · rename_i e
    rw [hu] at e
    exact ⟨hm, by rw [ht.poison, e]; simp, SameBut.after ht ⟨hm, rfl, hu.trans e, rfl, rfl, fun _ _ => rfl, fun _ _ => rfl⟩⟩
  · rename_i k inj e
    rw [hu] at e
    split
    · refine ⟨hm, by rw [ht.poison, e]; simp; intro; omega, SameBut.after ht ?_⟩
      dsimp only
      refine .then ?_ (record_sameData ..)
      exact ⟨hm, rfl, by show ((((s.touch a).upsets.filter (·.1 != a)).find? (·.1 == a)).map fun x => x.2) = none; rw [upsetOf_filter]; rfl,
        rfl, rfl, fun _ _ => rfl, fun _ _ => rfl⟩
    · refine ⟨hm, by rw [e]; simp; right; omega, SameBut.after ht ?_⟩
      rw [← hm]
      generalize s.touch a = t
      exact uncorrectable_sameBut t _ a h

/-! ## The cache -/

/-- What a look-up of the cache answers: data and poison of the line. -/
def State.viewed (s : State) (k : CKey) : Option (Line × Bool) := (s.cached k).map fun c => (c.data, c.pois)

/-- Two states agree in what holds data, and every look-up of the cache answers alike. -/
structure SameView (s t : State) : Prop where
  mem : t.mem = s.mem
  poison : t.poison = s.poison
  upsets : t.upsets = s.upsets
  pool : t.pool = s.pool
  slices : t.cache.slices = s.cache.slices
  view : ∀ k, t.viewed k = s.viewed k

theorem SameView.refl (s : State) : SameView s s := ⟨rfl, rfl, rfl, rfl, rfl, fun _ => rfl⟩

theorem SameView.trans {s t u : State} (h : SameView s t) (k : SameView t u) : SameView s u :=
  ⟨k.mem.trans h.mem, k.poison.trans h.poison, k.upsets.trans h.upsets, k.pool.trans h.pool, k.slices.trans h.slices,
   fun x => (k.view x).trans (h.view x)⟩

theorem SameData.sameView {s t : State} (h : SameData s t) : SameView s t :=
  ⟨h.mem, h.poison, h.upsets, h.pool, by rw [h.cache], fun k => by rw [State.viewed, h.cached]; rfl⟩

/-- What is kept of every line of the cache is kept of what a look-up answers. -/
theorem mapLines_sameView (s : State) (f : CLine → CLine) (hf : ∀ c, (f c).key = c.key ∧ (f c).retained = c.retained ∧ (f c).die = c.die ∧
    (f c).data = c.data ∧ (f c).pois = c.pois) : SameView s (s.setLines (s.cache.lines.map f)) := by
  refine ⟨rfl, rfl, rfl, rfl, rfl, fun k => ?_⟩
  simp only [State.viewed, State.cached, State.setLines, List.find?_map, Option.map_map]
  have hp : ((fun c : CLine => c.key == k && !c.retained && State.looksUp (s.setLines (s.cache.lines.map f)) c.die) ∘ f) =
      fun c => c.key == k && !c.retained && s.looksUp c.die := by
    funext c; obtain ⟨h1, h2, h3, _⟩ := hf c; simp only [Function.comp, h1, h2, h3]; rfl
  have hv : ((fun c : CLine => (c.data, c.pois)) ∘ f) = fun c => (c.data, c.pois) := by
    funext c; obtain ⟨_, _, _, h4, h5⟩ := hf c; simp only [Function.comp, h4, h5]
  rw [hv]
  exact congrArg _ (congrArg (fun p => s.cache.lines.find? p) hp)

theorem touchLine_sameView (s : State) (k : CKey) : SameView s (s.touchLine k) := by
  unfold State.touchLine
  split
  · exact .refl s
  · dsimp only
    refine SameView.trans (t := _) ?_ (mapLines_sameView _ _ fun c => ?_)
    · have : ∀ (l : List CLine) (s : State), SameView s (forAll l (fun x s =>
          (s.freshAge.2.setLines (s.freshAge.2.cache.lines.map fun y =>
            if y.key == x.key && y.retained == x.retained then { y with age := s.freshAge.1 } else y))) s) := by
        intro l
        unfold Machine.forAll
        induction l with
        | nil => exact fun s => .refl s
        | cons x l ih =>
          intro s
          refine SameView.trans (SameView.trans (t := s.freshAge.2) ⟨rfl, rfl, rfl, rfl, rfl, fun _ => rfl⟩ (mapLines_sameView _ _ fun c => ?_)) (ih _)
          split <;> simp
      exact this _ s
    · split <;> simp

theorem SameView.peekLine {s t : State} (h : SameView s t) (a : Nat) : t.peekLine a = s.peekLine a := by
  have := h.view (.pool a)
  unfold State.viewed at this
  unfold State.peekLine
  cases hs : s.cached (.pool a) <;> cases ht : t.cached (.pool a) <;> simp_all [State.dram, h.mem, h.poison]

theorem SameBut.cached {a : Nat} {d : Line} {p : Bool} {s t : State} (h : SameBut a d p s t) (k : CKey) : t.cached k = s.cached k := by
  simp only [State.cached, State.looksUp, State.slice, h.cache]

theorem evict_keeps (s : State) (c : CLine) : (s.evict c).pool = s.pool ∧ (s.evict c).cache.slices = s.cache.slices := by
  unfold State.evict
  split
  · dsimp only
    split
    · exact ⟨(writeDram_sameBut ..).pool, by rw [(writeDram_sameBut ..).cache]; rfl⟩
    · exact ⟨rfl, rfl⟩
  · split <;> exact ⟨rfl, rfl⟩

theorem pick_sameData {α : Type} (s : State) (l : List α) : SameData s (s.pick l).2 := by
  unfold State.pick; split <;> exact ⟨rfl, rfl, rfl, rfl, rfl⟩

theorem takeWay_keeps (s : State) (d set : Nat) : (s.takeWay d set).2.pool = s.pool ∧ (s.takeWay d set).2.cache.slices = s.cache.slices := by
  unfold State.takeWay
  dsimp only
  split
  · exact ⟨rfl, rfl⟩
  · split
    · exact ⟨rfl, rfl⟩
    · split <;> rename_i e <;> have h := congrArg Prod.snd e ▸ pick_sameData s _
      · exact ⟨h.pool, by rw [h.cache]⟩
      · exact ⟨(evict_keeps ..).1.trans h.pool, (evict_keeps ..).2.trans (by rw [h.cache])⟩

theorem viewed_cons (u : State) (c : CLine) (rest : List CLine) (hr : c.retained = false) (hl : u.looksUp c.die = true) :
    (u.setLines (c :: rest)).viewed c.key = some (c.data, c.pois) := by
  show Option.map (fun c : CLine => (c.data, c.pois))
    (List.find? (fun x => x.key == c.key && !x.retained && u.looksUp x.die) (c :: rest)) = _
  simp [hr, hl]

/-- A line that is placed is what a look-up of its key then answers. -/
theorem place_viewed {s t : State} {c : CLine} (hr : c.retained = false) (h : s.place c = some t) :
    t.viewed c.key = some (c.data, c.pois) ∧ t.pool = s.pool ∧ t.cache.slices = s.cache.slices := by
  unfold State.place at h
  split at h
  · cases h
  · rename_i d set hp
    split at h
    · cases h
    · rename_i ha
      have hk := takeWay_keeps s d set
      generalize s.takeWay d set = x at h hk
      obtain ⟨w, u⟩ := x
      cases w with
      | none => cases h
      | some w =>
        obtain rfl := Option.some.inj h
        have hv := touchLine_sameView (u.setLines ({ c with die := d, set := set, way := w } :: u.cache.lines)) c.key
        refine ⟨(hv.view _).trans ?_, hv.pool.trans hk.1, hv.slices.trans hk.2⟩
        have hl : s.looksUp d = true := by
          simp only [State.allocates, Bool.not_eq_true', Bool.not_eq_false, Bool.and_eq_true] at ha
          exact ha.1
        refine viewed_cons u { c with die := d, set := set, way := w } _ hr ?_
        have hu : u.cache.slices = s.cache.slices := hk.2
        simpa only [State.looksUp, State.slice, hu] using hl

end Sys2Proof.Machine
end

