-- ==== Sys2Proof/Laws/Directory.lean ====
section
/-! SUPPORT. The directory: what its operations leave of `OneOwner`, that an entry in E or M has exactly one holder. -/
namespace Sys2Proof.Machine

variable {s t : State} {key n : Nat}

/-- `OneOwner` depends on the directory alone. -/
theorem OneOwner.of_dir (h : OneOwner s) (d : t.home.dir = s.home.dir) : OneOwner t := fun e he => h e (d ▸ he)

/-- A directory with no entry more keeps it. -/
theorem OneOwner.of_subset (h : OneOwner s) (d : ∀ e ∈ t.home.dir, e ∈ s.home.dir) : OneOwner t := fun e he => h e (d e he)

/-- A directory whose new entries each have one owner keeps it. -/
theorem OneOwner.of_new (h : OneOwner s) (d : ∀ e ∈ t.home.dir, e ∈ s.home.dir ∨ e.owned) : OneOwner t := fun e he => (d e he).elim (h e) id

theorem OneOwner.modEnt (h : OneOwner s) (f : DirEnt → DirEnt) (hf : ∀ e, e.owned → (f e).owned) : OneOwner (s.modEnt key f) := by
  intro e he
  obtain ⟨x, hx, rfl⟩ := List.mem_map.1 he
  split
  · exact hf x (h x hx)
  · exact h x hx

theorem OneOwner.delEnt (h : OneOwner s) : OneOwner (s.delEnt key) := h.of_subset fun _ he => (List.mem_filter.1 he).1

@[simp] theorem DirEnt.fit_owned (e : DirEnt) : e.fit.owned ↔ e.owned := by
  unfold DirEnt.fit DirEnt.owned; split <;> rfl

theorem OneOwner.foldl {α : Type} (l : List α) (f : State → α → State) (hf : ∀ s a, OneOwner s → OneOwner (f s a)) :
    ∀ s, OneOwner s → OneOwner (l.foldl f s) := by
  induction l with
  | nil => exact fun _ h => h
  | cons a l ih => exact fun s h => ih _ (hf s a h)

theorem grantRecord_dir (key n : Nat) (g m : Bool) : (s.grantRecord key n g m).home.dir = s.home.dir := by
  unfold State.grantRecord; split
  · split <;> rfl
  · rfl

theorem OneOwner.touchEnt (h : OneOwner s) : OneOwner (s.touchEnt key) := by
  unfold State.touchEnt; split
  · exact h
  · refine OneOwner.modEnt (OneOwner.foldl _ _ (fun u x hu => ?_) _ h) _ fun _ he => he
    exact OneOwner.modEnt (hu.of_dir (t := u.freshAge.2) rfl) _ fun _ he => he

theorem OneOwner.leaveExcl (h : OneOwner s) : OneOwner (s.leaveExcl key) := by
  unfold State.leaveExcl; split
  · split
    · exact h
    · exact OneOwner.foldl _ _ (fun _ _ hu => hu.of_dir (grantRecord_dir ..)) _ (h.modEnt _ fun _ _ hx => absurd rfl hx)
  · exact h

theorem OneOwner.grantShared (h : OneOwner s) : OneOwner (s.grantShared key n) :=
  (h.leaveExcl.modEnt _ fun _ _ hx => absurd rfl hx).touchEnt

theorem OneOwner.grantExcl (h : OneOwner s) (x : Excl) : OneOwner (s.grantExcl key n x) :=
  (h.modEnt _ fun _ _ => (DirEnt.fit_owned _).2 fun _ => rfl).touchEnt

theorem OneOwner.dropHolder (h : OneOwner s) : OneOwner (s.dropHolder key n) := by
  have keep : ∀ e : DirEnt, e.owned →
      ({ e with excl := if e.holders.contains n then .none else e.excl, holders := e.holders.filter (· != n) } : DirEnt).fit.owned := by
    intro e he
    rw [DirEnt.fit_owned]
    intro hx
    by_cases hn : e.holders.contains n = true
    · exact absurd (if_pos hn) hx
    · have hx : e.excl ≠ .none := fun h0 => hx ((if_neg hn).trans h0)
      have : e.holders.filter (· != n) = e.holders := by
        rw [List.filter_eq_self]; intro a ha; simp only [bne_iff_ne]; rintro rfl; exact hn (by simpa using ha)
      simpa [this] using he hx
  unfold State.dropHolder; split
  · exact h
  · dsimp only
    split <;> [split; split] <;> first
      | exact ((OneOwner.leaveExcl h).modEnt _ keep).delEnt
      | exact (h.modEnt _ keep).delEnt
      | exact (OneOwner.leaveExcl h).modEnt _ keep
      | exact h.modEnt _ keep

theorem OneOwner.applyRsp (h : OneOwner s) (rsp : BiRsp) : OneOwner (s.applyRsp key n rsp) := by
  unfold State.applyRsp; split
  · exact h.leaveExcl
  · exact h.modEnt _ fun e he hx => he (by intro h0; simp [h0] at hx)
  · exact h.dropHolder

end Sys2Proof.Machine
end

