-- ==== Sys2Proof/Laws/Mailbox.lean ====
section
/-! SUPPORT. What an accepted mailbox command does, once for all of them: its own effect is that of its `Apply` on a state that
differs from the one before it in mailboxes, audit log, pending vectors and what was sent alone. -/
namespace Sys2Proof.Machine

theorem Same.refl (s : State) : Same s s := by
  constructor <;> first | rfl | (intros; exact ⟨_, rfl⟩) | (intros; simp)

theorem Same.trans {s t u : State} (h : Same s t) (k : Same t u) : Same s u := by
  constructor
  · exact k.pending.trans h.pending
  · exact k.freeCtr.trans h.freeCtr
  · exact k.todo.trans h.todo
  · exact k.now.trans h.now
  · exact k.mem.trans h.mem
  · exact k.poison.trans h.poison
  · exact k.upsets.trans h.upsets
  · exact k.poisonMap.trans h.poisonMap
  · exact k.pool.trans h.pool
  · exact k.home.trans h.home
  · exact k.cache.trans h.cache
  · exact k.xl.trans h.xl
  · exact k.jobs.trans h.jobs
  · exact k.pfx.trans h.pfx
  · exact k.fw.trans h.fw
  · exact k.twin.trans h.twin
  · exact k.flt.trans h.flt
  · exact k.pwr.trans h.pwr
  · exact k.mod.trans h.mod
  · exact k.pins.trans h.pins
  · intro n
    obtain ⟨v, hv⟩ := h.stn n
    obtain ⟨w, hw⟩ := k.stn n
    exact ⟨w, by rw [hw, hv]⟩
  · intro m
    obtain ⟨h1, h2, h3, h4, h5, h6, h7, h8⟩ := h.session m
    obtain ⟨k1, k2, k3, k4, k5, k6, k7, k8⟩ := k.session m
    exact ⟨k1.trans h1, k2.trans h2, k3.trans h3, k4.trans h4, k5.trans h5, k6.trans h6, k7.trans h7, k8.trans h8⟩
  · exact k.creds.trans h.creds
  · exact k.keys.trans h.keys
  · exact k.spdm.trans h.spdm

theorem stnAt_eq (s : State) {n : Nat} (h : n < 48) : s.stnAt n = s.stn[n] := by
  simp [State.stnAt, List.getD_eq_getElem?_getD, h]

theorem stnAt_ge (s : State) {n : Nat} (h : ¬ n < 48) : s.stnAt n = {} := by
  simp [State.stnAt, List.getD_eq_getElem?_getD, h]

theorem stnAt_modStn (s : State) (n k : Nat) (f : Stn → Stn) :
    (s.modStn n f).stnAt k = if n = k ∧ n < 48 then f (s.stnAt k) else s.stnAt k := by
  unfold State.modStn
  by_cases hn : n < 48
  · rw [dif_pos hn]
    by_cases hk : k < 48
    · simp only [stnAt_eq _ hk, hn, and_true]
      by_cases e : n = k
      · subst e; simp
      · rw [if_neg e]; exact Vector.getElem_set_ne _ _ e
    · have e : n ≠ k := by omega
      rw [stnAt_ge _ hk, stnAt_ge _ hk, if_neg (by simp [e])]
  · rw [dif_neg hn, if_neg (by simp [hn])]

theorem mb_modMb (s : State) (m k : Mbx) (f : Mailbox → Mailbox) : (s.modMb m f).mb k = if m = k then f (s.mb k) else s.mb k := by
  cases m <;> cases k <;> try (first | rfl | simp [State.modMb, State.mb])
  rename_i i j
  by_cases e : i = j
  · subst e; simp
  · have : i.val ≠ j.val := fun h => e (Fin.ext h)
    simp [e, Vector.getElem_set_ne _ _ this]

theorem same_emit (s : State) (o : Output) : Same s (s.emit o) := by
  constructor <;> first | rfl | (intros; exact ⟨_, rfl⟩) | (intros; exact ⟨rfl, rfl, rfl, rfl, rfl, rfl, rfl, rfl⟩)

/-- A change of the mailboxes that leaves sessions alone. -/
theorem same_modMbx (s : State) (f : MbxS → MbxS) (hf : ∀ x, (f x).stn = x.stn ∧ (f x).eth = x.eth ∧ (f x).i3c = x.i3c := by exact fun _ => ⟨rfl, rfl, rfl⟩) : Same s (s.modMbx f) := by
  obtain ⟨h1, h2, h3⟩ := hf s.mbx
  constructor <;> first | rfl | (intros; exact ⟨_, rfl⟩) | skip
  intro m
  have e : (s.modMbx f).mb m = s.mb m := by cases m <;> simp [State.mb, h1, h2, h3]
  simp [e]

/-- A change of one mailbox that leaves its session alone. -/
theorem same_modMb (s : State) (m : Mbx) (f : Mailbox → Mailbox)
    (hf : ∀ x : Mailbox, (f x).session = x.session ∧ (f x).cred = x.cred ∧ (f x).credSlot = x.credSlot ∧ (f x).sender = x.sender ∧
      (f x).challenge = x.challenge ∧ (f x).failures = x.failures ∧ (f x).lockUntil = x.lockUntil ∧ (f x).handover = x.handover := by exact fun _ => ⟨rfl, rfl, rfl, rfl, rfl, rfl, rfl, rfl⟩) : Same s (s.modMb m f) := by
  constructor <;> first | (simp; done) | skip
  · intro n; exact ⟨(s.stnAt n).vecs, by cases m <;> rfl⟩
  · intro k
    rw [mb_modMb]
    split
    · exact hf _
    · simp

theorem same_modSec (s : State) (f : Sec → Sec) (hf : ∀ x, (f x).creds = x.creds ∧ (f x).keys = x.keys ∧ (f x).spdm = x.spdm := by exact fun _ => ⟨rfl, rfl, rfl⟩) : Same s (s.modSec f) := by
  obtain ⟨h1, h2, h3⟩ := hf s.sec
  constructor <;> first | rfl | (intros; exact ⟨_, rfl⟩) | (intros; exact ⟨rfl, rfl, rfl, rfl, rfl, rfl, rfl, rfl⟩) | skip
  · exact h1
  · exact h2
  · exact h3

theorem same_setVec (s : State) (n v : Nat) (x : Vec) : Same s (s.setVec n v x) := by
  unfold State.setVec
  constructor <;> first | (simp; done) | skip
  · intro k
    rw [stnAt_modStn]
    split
    · exact ⟨_, rfl⟩
    · exact ⟨_, rfl⟩
  · intro m
    have e : (s.modStn n fun t => { t with vecs := tset t.vecs v x }).mb m = s.mb m := by cases m <;> simp [State.mb]
    simp [e]

theorem same_ite {s t u : State} (c : Prop) [Decidable c] (ht : Same s t) (hu : Same s u) : Same s (if c then t else u) := by
  split
  · exact ht
  · exact hu

theorem same_forAll {α : Type} (l : List α) (f : α → State → State) (s : State) (h : ∀ a t, Same t (f a t)) : Same s (forAll l f s) := by
  unfold forAll
  induction l generalizing s with
  | nil => exact .refl s
  | cons a l ih => exact (h a s).trans (ih _)

theorem same_foldl {α : Type} (l : List α) (f : State → α → State) (s : State) (h : ∀ a t, Same t (f t a)) : Same s (l.foldl f s) := by
  induction l generalizing s with
  | nil => exact .refl s
  | cons a l ih => exact (h a s).trans (ih _)

theorem same_sendVec (s : State) (n v : Nat) : Same s (s.sendVec n v) := by
  unfold State.sendVec
  simp only []
  split
  · exact (same_setVec s n _ _).trans (same_emit _ _)
  · exact .refl s

theorem same_raiseVec (s : State) (n v : Nat) : Same s (s.raiseVec n v) := (same_setVec s n _ _).trans (same_sendVec _ n v)

theorem same_auditPut (s : State) (a : Audit) : Same s (s.auditPut a) := by
  unfold State.auditPut
  exact same_ite _ ((same_modSec s _).trans (same_emit _ _)) (same_modSec s _)

theorem same_resumeAudit (s : State) : Same s s.resumeAudit := by
  unfold State.resumeAudit
  dsimp only
  exact same_ite _ (.refl s) (((same_modSec s _).trans (same_auditPut _ _)).trans (same_foldl _ _ _ fun _ t => same_auditPut t _))

theorem same_auditMbx (s : State) (m : Mbx) (snd : BitVec 64) (k wb op st : Nat) (d : BitVec 128) (dt : Nat) (c : Option (BitVec 64)) :
    Same s (s.auditMbx m snd k wb op st d dt c) := (same_resumeAudit s).trans (same_auditPut _ _)

theorem same_crossThresholds (s : State) (k : Nat) : Same s (s.crossThresholds k) :=
  same_foldl _ _ _ fun n t => by
    simp only []
    split
    · exact same_raiseVec t n 3
    · exact .refl t

theorem same_writeEntry (s : State) (e : JEntry) : Same s (s.writeEntry e) := by
  unfold State.writeEntry
  simp only []
  split
  · exact ((same_crossThresholds s _).trans (same_modMbx _ _)).trans (same_emit _ _)
  · exact (same_crossThresholds s _).trans (same_modMbx _ _)

theorem same_modEntry (s : State) (wb : Nat) (f : JEntry → JEntry) : Same s (s.modEntry wb f) := by
  unfold State.modEntry
  split
  · split
    · exact .refl s
    · simp only []
      split
      · exact (same_modMbx s _).trans (same_emit _ _)
      · exact same_modMbx s _
  · exact .refl s

theorem same_ownEntry (s : State) (op obj : Nat) (res : List Byte) : Same s (s.ownEntry op obj res) :=
  same_ite _ ((same_modMbx s _).trans (same_emit _ _)) (same_writeEntry s _)

theorem same_bootEntry (s : State) : Same s s.bootEntry := by
  unfold State.bootEntry
  split
  · exact same_ownEntry s _ _ _
  · exact .refl s

theorem same_reply (s : State) (h : CmdHdr) (r : Reply) : Same s (s.reply h r) := (same_modMb s _ _).trans (same_emit _ _)

/-- A command that its mailbox holds changes nothing but the mailbox. -/
theorem same_keepCommand (s : State) (h : CmdHdr) (ask : Bool) : Same s (s.keepCommand h ask) := by
  unfold State.keepCommand
  have e := same_modMb s h.mbx fun x =>
    { x with checking := true, asked := x.asked || (ask && s.asksWaybill && !s.xoUp.isEmpty && !(s.mb h.mbx).asked) }
  exact same_ite _ (e.trans (same_emit _ _)) e

theorem Same.well {s t : State} (h : Same s t) (i : Nat) : t.well i = s.well i := by unfold State.well; rw [h.pool]
theorem Same.cis {s t : State} (h : Same s t) (i : Nat) : t.cis i = s.cis i := by unfold State.cis; rw [h.pool]
theorem Same.named {s t : State} (h : Same s t) (x : Nat) : t.named x = s.named x := by unfold State.named State.well; rw [h.pool]
theorem Same.namedCis {s t : State} (h : Same s t) (x : Nat) : t.namedCis x = s.namedCis x := by
  unfold State.namedCis State.cis; rw [h.pool]
theorem Same.namedNs {s t : State} (h : Same s t) (x : Nat) : t.namedNs x = s.namedNs x := by unfold State.namedNs State.ns; rw [h.pfx]
theorem Same.grantDecoder {s t : State} (h : Same s t) (n d : Nat) : t.grantDecoder n d = s.grantDecoder n d := by
  unfold State.grantDecoder; obtain ⟨v, hv⟩ := h.stn n; rw [hv]

theorem same_noteUse (s : State) (h : CmdHdr) : Same s (s.noteUse h) := by
  unfold State.noteUse
  split
  · exact .refl s
  · split
    · exact .refl s
    · exact same_modMb s _ _

theorem same_journalIn (s : State) (h : CmdHdr) (c : Cmd) : Same s (s.journalIn h c) := by
  unfold State.journalIn
  extract_lets t wb r e u v
  have hu : Same s u := ((same_bootEntry s).trans (same_ite _ (same_emit t _) (.refl t))).trans (same_writeEntry r e)
  have hv : Same s v := hu.trans (same_ite _ (.refl u) (same_auditMbx u _ _ _ _ _ _ _ _ _))
  exact hv.trans (same_ite _ (same_modMbx v _) (.refl v))

theorem reply_head (s : State) (h : CmdHdr) (r : Reply) : (s.reply h r).out.head? = some (.reply h.mbx h.sender r) := rfl

theorem mb_noteUse (s : State) (h : CmdHdr) : ((s.noteUse h).mb h.mbx).handover = (s.mb h.mbx).handover := by
  unfold State.noteUse
  cases hm : h.mbx <;> simp only [] <;> first | rfl | (split <;> rfl)

theorem role_noteUse (s : State) (h : CmdHdr) : (s.noteUse h).role h.mbx h.sender = s.role h.mbx h.sender := by
  unfold State.noteUse
  cases hm : h.mbx <;> simp only [] <;> first | rfl | (split <;> rfl)

theorem journal_noteUse (s : State) (h : CmdHdr) : (s.noteUse h).mbx.journal = s.mbx.journal := by
  unfold State.noteUse
  cases hm : h.mbx <;> simp only [] <;> first | rfl | (split <;> rfl)

theorem ringAwaits_noteUse (s : State) (h : CmdHdr) : (s.noteUse h).ringAwaits h = s.ringAwaits h := by
  have hs := same_noteUse s h
  have e : (s.noteUse h).mbx.shared = s.mbx.shared ∧ (s.noteUse h).mbx.keeper = s.mbx.keeper := by
    unfold State.noteUse
    cases hm : h.mbx <;> first | exact ⟨rfl, rfl⟩ | (dsimp only; split <;> exact ⟨rfl, rfl⟩)
  unfold State.ringAwaits State.isPaired State.xoUp
  rw [hs.twin, e.1, e.2]

/-- A command that passes the common checks is refused by its own check or not at all. -/
theorem refusal_fit {s : State} {h : CmdHdr} {c : Cmd} {own : State → Option Refuse} (hf : Fit s h c.roles (segsLen c.segs) c.boot c.recov c.query)
    (hfac : c.factory = true → s.mod.phase = .factory) : (s.noteUse h).refusal h c own = own (s.noteUse h) := by
  have hs := same_noteUse s h
  have hg : (s.noteUse h).gapNow = s.gapNow := by unfold State.gapNow State.inGap; rw [hs.twin]
  obtain ⟨i1, i2, i3⟩ := hf.idle
  obtain ⟨p1, p2⟩ := hf.phase
  obtain ⟨h1, h2, h3⟩ := hf.header
  obtain ⟨l1, l2⟩ := hf.length
  have hr : rsvBad c h = false := by
    unfold rsvBad
    rw [List.any_eq_false]
    intro b hb
    simp [hf.reserved b (List.mem_of_mem_take hb)]
  have hd : (if (c.query || h.tag == 0) = true then none else (s.noteUse h).mbx.journal.find? (·.tag == h.tag)) = none := by
    rw [journal_noteUse]; rcases hf.tag with e | e | e <;> simp [e]
  unfold State.refusal State.mailboxBusy
  simp only [firstOf, mb_noteUse, role_noteUse, hs.fw, hg, hs.mod, i1, i2, i3, hd, hr, h1, h2]
  have e1 : (s.mod.phase == Phase.bringUp && !c.boot) = false := by cases hp : s.mod.phase <;> simp_all
  have e2 : (s.mod.phase == Phase.recovery && !c.recov) = false := by cases hp : s.mod.phase <;> simp_all
  have e3 : (c.factory && s.mod.phase != Phase.factory) = false := by
    cases hc : c.factory
    · rfl
    · simp [hfac hc]
  have e4 : h.flags.toNat / 2 = 0 := by omega
  have e5 : ¬ 4032 < h.len.toNat := by omega
  have e6 : ¬ h.len.toNat < segsLen c.segs := by omega
  have e7 : c.roles.contains (s.role h.mbx h.sender) = true := by simpa using hf.role
  simp [e1, e2, e3, e4, e5, e6, e7, -List.contains_eq_mem]

/-- A query that passes its checks: it answers with its payload, and nothing else changes. -/
theorem mailbox_query {s : State} {h : CmdHdr} {c : Cmd} {own : State → Option Refuse} {apply : Apply}
    (hf : Fit s h c.roles (segsLen c.segs) c.boot c.recov c.query) (hfac : c.factory = true → s.mod.phase = .factory) (hq : c.query = true)
    (hown : own (s.noteUse h) = none) :
    s.mailbox h c own apply = (apply 0 (s.noteUse h)).2.2.reply h
      { opcode := c.opcode, status := .ok, tag := h.tag, seq := h.seq, time := (apply 0 (s.noteUse h)).2.2.now,
        payload := (apply 0 (s.noteUse h)).1 } := by
  unfold State.mailbox
  rw [if_neg (by simp [hf.reached]), if_neg (by simp [hf.core])]
  simp only [refusal_fit hf hfac, hown, State.accept, hq, if_true, Bool.not_true, Bool.false_and, Bool.false_eq_true, if_false]

/-- A command that passes its checks and is no query: its effect, its journal entry, its audit record and its reply. -/
theorem mailbox_takes {s : State} {h : CmdHdr} {c : Cmd} {own : State → Option Refuse} {apply : Apply}
    (hf : Fit s h c.roles (segsLen c.segs) c.boot c.recov c.query) (hfac : c.factory = true → s.mod.phase = .factory) (hq : c.query = false)
    (hown : own (s.noteUse h) = none) :
    ∃ wb t, Same s t ∧ Same (apply wb t).2.2 (s.mailbox h c own apply) ∧
      Replied h c.opcode (if c.async then .accepted else .ok) (s.mailbox h c own apply) := by
  have e : s.mailbox h c own apply = (s.noteUse h).accept h c apply := by
    have hr : s.ringAwaits h = false := hf.ring.resolve_left (by simp [hq])
    unfold State.mailbox
    rw [if_neg (by simp [hf.reached]), if_neg (by simp [hf.core])]
    simp only [refusal_fit hf hfac, hown, ringAwaits_noteUse, hr, Bool.and_false, Bool.false_eq_true, if_false]
  rw [e]
  unfold State.accept
  rw [if_neg (by simp [hq])]
  exact ⟨_, (s.noteUse h).journalIn h c, (same_noteUse s h).trans (same_journalIn _ h c), (same_modEntry _ _ _).trans (same_reply _ _ _),
    _, reply_head _ _ _, rfl, rfl, rfl⟩

/-- A mailbox command that passes its checks has the effect of its `Apply`. -/
theorem effects_mailbox {i : Instr} {s : State} {h : CmdHdr} {c : Cmd} {own : State → Option Refuse} {apply : Apply} {E : Nat → State → State}
    (he : exec i s = done (s.mailbox h c own apply)) (hf : Fit s h c.roles (segsLen c.segs) c.boot c.recov c.query)
    (hfac : c.factory = true → s.mod.phase = .factory) (hq : c.query = false) (hown : own (s.noteUse h) = none)
    (hE : ∀ wb t, Same s t → (apply wb t).2.2 = E wb t) {op : Nat} {st : Status} (hop : c.opcode = op)
    (hst : (if c.async then Status.accepted else .ok) = st) : Effects i s h op st E := by
  obtain ⟨wb, t, h1, h2, h3⟩ := mailbox_takes (apply := apply) hf hfac hq hown
  exact ⟨wb, t, _, he, h1, by rwa [← hE wb t h1], hop ▸ hst ▸ h3⟩

/-- A query that passes its checks answers and changes nothing else. -/
theorem answers_query {i : Instr} {s : State} {h : CmdHdr} {c : Cmd} {own : State → Option Refuse} {apply : Apply} {pay : List Byte}
    (he : exec i s = done (s.mailbox h c own apply)) (hf : Fit s h c.roles (segsLen c.segs) c.boot c.recov c.query)
    (hfac : c.factory = true → s.mod.phase = .factory) (hq : c.query = true) (hown : own (s.noteUse h) = none)
    (hs : (apply 0 (s.noteUse h)).2.2 = s.noteUse h) (hp : (apply 0 (s.noteUse h)).1 = pay) {op : Nat}
    (hop : c.opcode = op) : Answers i s h op pay := by
  refine ⟨_, he, ?_⟩
  rw [mailbox_query hf hfac hq hown, hs, hp]
  exact ⟨(same_noteUse s h).trans (same_reply _ _ _), _, reply_head _ _ _, hop, rfl, rfl, rfl⟩

/-- A mailbox command takes effect: what holds of every state that its own effect leads to. -/
theorem leads_mailbox {i : Instr} {s : State} {h : CmdHdr} {c : Cmd} {own : State → Option Refuse} {apply : Apply} {P : State → Prop}
    (he : exec i s = done (s.mailbox h c own apply)) (hf : Fit s h c.roles (segsLen c.segs) c.boot c.recov c.query)
    (hfac : c.factory = true → s.mod.phase = .factory) (hq : c.query = false) (hown : own (s.noteUse h) = none)
    (hP : ∀ wb t u, Same s t → Same (apply wb t).2.2 u → Replied h c.opcode (if c.async then .accepted else .ok) u → P u) :
    Leads i s P := by
  obtain ⟨wb, t, h1, h2, h3⟩ := mailbox_takes (apply := apply) hf hfac hq hown
  exact ⟨_, he, hP wb t _ h1 h2 h3⟩

/-- A query takes effect: it answers with its payload, on the state as it is. -/
theorem leads_query {i : Instr} {s : State} {h : CmdHdr} {c : Cmd} {own : State → Option Refuse} {apply : Apply} {P : State → Prop}
    (he : exec i s = done (s.mailbox h c own apply)) (hf : Fit s h c.roles (segsLen c.segs) c.boot c.recov c.query)
    (hfac : c.factory = true → s.mod.phase = .factory) (hq : c.query = true) (hown : own (s.noteUse h) = none)
    (hP : P ((apply 0 (s.noteUse h)).2.2.reply h
      { opcode := c.opcode, status := .ok, tag := h.tag, seq := h.seq, time := (apply 0 (s.noteUse h)).2.2.now,
        payload := (apply 0 (s.noteUse h)).1 })) : Leads i s P :=
  ⟨_, he, by rw [mailbox_query hf hfac hq hown]; exact hP⟩

end Sys2Proof.Machine
end

