-- ==== Sys2Proof/WellFormed.lean ====
section
/-! DEFINITION. Well-formed commands: what a link, a mailbox or the block's own clocks can carry, beyond what
the types say. A value the spec makes a client's error (a reserved bit, a field out of range) is no breach
here: its command has the effect the spec gives, which is a refusal by a status. -/
namespace Sys2Proof

/-- An address names a whole line (04 R109). -/
def lineAligned (a : Nat) : Bool := a % 64 == 0

/-- A mailbox carries at most 4,032 bytes of payload and its command area holds no more (15 R446). -/
def CmdHdr.wf (h : CmdHdr) : Bool := h.extra.length ≤ 4032 && h.rsvPay.length ≤ 64

/-- What the command's carrier ensures. -/
def Instr.wf : Instr → Bool
  | .identify h => h.wf
  | .getState h => h.wf
  | .journalReadEntries h _ _ => h.wf
  | .journalReadRejects h _ _ => h.wf
  | .journalFindTag h _ => h.wf
  | .wellCreate h _ _ _ _ _ _ => h.wf
  | .wellDestroy h _ => h.wf
  | .wellResize h _ _ _ => h.wf
  | .wellGrant h _ _ _ _ => h.wf
  | .wellRevoke h _ _ => h.wf
  | .wellQuery h _ => h.wf
  | .wellQuerySummary h => h.wf
  | .migrate h _ _ _ _ => h.wf
  | .migrateCancel h _ _ _ _ => h.wf
  | .cisternCreate h _ _ => h.wf
  | .cisternJoin h _ _ => h.wf
  | .cisternLeave h _ _ => h.wf
  | .cisternRecoverZero h _ => h.wf
  | .cisternRecoverKeep h _ => h.wf
  | .cisternRecoverDissolve h _ => h.wf
  | .cisternQuery h _ => h.wf
  | .contextCreate h _ _ => h.wf
  | .contextDestroy h _ => h.wf
  | .rangeTableSet h _ _ count entries _ => h.wf && entries.length == count.toNat
  | .rangeInvalidateSpan h _ _ _ _ => h.wf
  | .rangeInvalidateWell h _ _ _ _ => h.wf
  | .adviseNormal h _ _ _ _ => h.wf
  | .adviseWillUse h _ _ _ _ => h.wf
  | .adviseDontNeed h _ _ _ _ => h.wf
  | .adviseSetDiePref h _ _ _ _ => h.wf
  | .stationXlateMode h _ _ => h.wf
  | .platformCreate h _ _ _ _ _ _ _ _ _ => h.wf
  | .platformDestroy h _ => h.wf
  | .platformDrainFinish h _ => h.wf
  | .platformDrainAbort h _ => h.wf
  | .platformDrainResume h _ => h.wf
  | .partitionSet h _ _ _ _ => h.wf
  | .namespaceCreate h _ _ _ _ _ _ _ _ => h.wf
  | .namespaceDestroy h _ => h.wf
  | .namespaceQuota h _ _ _ _ => h.wf
  | .cacheEnable h _ _ _ _ => h.wf
  | .cacheDisable h _ _ _ _ => h.wf
  | .cacheFlush h _ _ _ _ => h.wf
  | .cacheInvalidate h _ _ _ _ => h.wf
  | .cacheSetThreshold h _ _ _ _ => h.wf
  | .cacheSetTHold h _ _ _ _ => h.wf
  | .cacheSetQuota h _ _ _ _ => h.wf
  | .cacheStatus h _ _ _ _ => h.wf
  | .twinPair h _ _ => h.wf
  | .twinUnpairEmpty h => h.wf
  | .twinUnpairSplit h => h.wf
  | .twinSwitchover h _ _ _ => h.wf
  | .twinTakeover h _ _ _ => h.wf
  | .twinStatus h _ => h.wf
  | .faultStatus h _ _ _ => h.wf
  | .faultAck h _ _ => h.wf
  | .faultPolicySet h _ _ _ _ _ => h.wf
  | .unitHistoryRead h _ _ _ _ => h.wf
  | .fieldTestPolicy h _ _ _ _ => h.wf
  | .powerLimitSet h _ _ _ _ _ => h.wf
  | .powerStatus h => h.wf
  | .fwStage h _ _ _ _ => h.wf
  | .fwActivate h _ _ _ => h.wf
  | .fwManifestRead h _ _ => h.wf
  | .roleAuthChallenge h _ _ _ => h.wf
  | .roleAuthRespond h _ _ _ => h.wf
  | .roleDrop h => h.wf
  | .keyGenerate h _ => h.wf
  | .keyBind h _ => h.wf
  | .keyErase h _ => h.wf
  | .credSet h _ => h.wf
  | .credErase h _ => h.wf
  | .auditRead h _ _ _ => h.wf
  | .moduleDrain h _ => h.wf
  | .moduleDrainOff h _ => h.wf
  | .moduleDrainResume h _ => h.wf
  | .moduleDrainEmpty h _ => h.wf
  | .spareActivate h _ _ _ => h.wf
  | .factoryTestEnter h _ => h.wf
  | .injectRaise h _ => h.wf
  | .injectFlip1 h _ => h.wf
  | .injectFlip2 h _ => h.wf
  | .injectPoison h _ => h.wf
  | .injectParity h _ => h.wf
  | .injectChecksum h _ => h.wf
  | .injectLinkCrc h _ => h.wf
  | .injectClearHistory h _ => h.wf
  | .asyncCommandComplete _ => true
  | .crossoverMailboxMessage _ => true
  | .platformDoorbell _ _ size _ _ _ => 1 ≤ size.toNat && size.toNat ≤ 8
  | .platformRestart _ _ size _ _ _ => 1 ≤ size.toNat && size.toNat ≤ 8
  | .nop _ _ => true
  | .draw _ _ => true
  | .drawTree _ _ => true
  | .merge _ _ => true
  | .encode _ _ => true
  | .fetch _ _ => true
  | .copy _ _ => true
  | .fill _ _ => true
  | .gather _ _ => true
  | .scatter _ _ => true
  | .atomic _ _ => true
  | .atomicOperationAtHome _ _ _ => true
  | .gemm _ _ => true
  | .lowrank _ _ => true
  | .checksum _ _ => true
  | .prefixLookup _ _ => true
  | .prefixInsert _ _ => true
  | .prefixRelease _ _ => true
  | .prefixRenew _ _ => true
  | .evenLookupCommit _ _ => true
  | .prefixPendingResolved _ _ => true
  | .holdLeaseExpire _ => true
  | .pumpJobHandoff _ => true
  | .tileLoadDone _ lines _ => 1 ≤ lines.toNat && lines.toNat ≤ 4096
  | .tileStepDone _ _ => true
  | .stepReplayDone _ _ => true
  | .pumpHangTimeout _ => true
  | .rangeCacheFill _ _ _ _ => true
  | .rangeSwitchTimeout _ => true
  | .jobEnd _ _ => true
  | .completionRecordWrite _ => true
  | .sealWrite _ _ => true
  | .deviceWriteGo _ _ _ => true
  | .stationCtoExpire _ _ => true
  | .atsTranslationCompletion _ _ answer => answer.k.toNat ≤ 52
  | .atsInvalidateRequest _ _ _ => true
  | .memRdS _ hpa => lineAligned hpa.toNat
  | .memRdA _ hpa => lineAligned hpa.toNat
  | .memRdOwn _ hpa => lineAligned hpa.toNat
  | .memRdCur _ hpa => lineAligned hpa.toNat
  | .memInvOwn _ hpa => lineAligned hpa.toNat
  | .memDrop _ hpa => lineAligned hpa.toNat
  | .memSpecRd _ hpa => lineAligned hpa.toNat
  | .memWb _ hpa _ _ => lineAligned hpa.toNat
  | .memWbS _ hpa _ => lineAligned hpa.toNat
  | .memUcWr _ hpa _ _ => lineAligned hpa.toNat
  | .plainMemRead _ hpa => lineAligned hpa.toNat
  | .plainMemWrite _ hpa _ _ => lineAligned hpa.toNat
  | .biRsp _ hpa _ => lineAligned hpa.toNat
  | .biConflict _ hpa => lineAligned hpa.toNat
  | .holdEnd dpa => lineAligned dpa.toNat
  | .biTimerExpire _ dpa => lineAligned dpa.toNat
  | .downWalkEnd _ => true
  | .cisternRecoveryDone _ => true
  | .retryStoreRepresent _ => true
  | .apertureRead _ offset size => 1 ≤ size.toNat && size.toNat ≤ 4096 && offset.toNat + size.toNat ≤ 0x4000000
  | .apertureWrite _ offset data => 1 ≤ data.length && data.length ≤ 4096 && offset.toNat + data.length ≤ 0x4000000
  | .winBaseWrite _ _ _ => true
  | .jnlMarkWrite _ _ _ => true
  | .jnlThresholdWrite _ _ => true
  | .registerWrite _ _ size _ => 1 ≤ size.toNat && size.toNat ≤ 8
  | .msixVectorUnmask _ _ => true
  | .hdmDecoderCommit _ _ _ _ _ => true
  | .hdmDecoderUncommit _ _ => true
  | .d3hotEntry _ => true
  | .d0Return _ => true
  | .perstAssert _ => true
  | .perstDeassert _ => true
  | .hotReset _ => true
  | .functionLevelReset _ => true
  | .linkDlUp _ _ _ _ _ _ _ => true
  | .linkDlDown _ => true
  | .linkRecoveryEntry _ => true
  | .linkRecoveryEnd _ => true
  | .flitAck _ _ _ _ => true
  | .memoryActiveReturn _ => true
  | .h2dSnoop _ hpa _ => lineAligned hpa.toNat
  | .streamTrackerRelease _ _ => true
  | .cacheWalkDone _ => true
  | .zeroFillDone _ => true
  | .resizeGrowDone _ => true
  | .revocationDrainTimeout _ _ => true
  | .revocationComplete _ _ => true
  | .backgroundZeroing dpa length => dpa.toNat % 65536 == 0 && length.toNat % 65536 == 0
  | .migrateChunkCommit _ => true
  | .migrateChunkStart _ => true
  | .migrateCancelComplete _ => true
  | .twinPresenceLost => true
  | .crossoverLinkDown _ => true
  | .crossoverSilence => true
  | .presenceWaitExpire => true
  | .keepaliveSend _ => true
  | .mirrorWriteReceive _ _ off _ _ _ => lineAligned off.toNat
  | .mirrorWriteAck _ => true
  | .mirrorAckTimeout _ => true
  | .twinAnnounceReceive _ => true
  | .fenceOrderReceive => true
  | .switchoverGapEnd => true
  | .grantRecordReceive _ _ off _ => lineAligned off.toNat
  | .healthReportSend => true
  | .healthReportReceive _ => true
  | .twinReportsMissed => true
  | .mirrorAuditPage _ _ other => other.length == 64
  | .resyncPageCopy _ _ image => image.length == 64
  | .auditRecordReceive _ => true
  | .faultDetected _ _ _ _ _ => true
  | .scrubLine dpa => lineAligned dpa.toNat
  | .modErrOneShotEnd => true
  | .aliveToggle => true
  | .aliveToggleMissed => true
  | .signalBoxWatchdogExpire => true
  | .coreWatchdogExpire _ => true
  | .blockResetDone _ _ => true
  | .katTurn _ => true
  | .katPartDone _ _ => true
  | .drainDelayExpire => true
  | .ideIntegrityFail _ => true
  | .ideStreamEnd _ => true
  | .spdmSessionEstablish _ _ _ => true
  | .spdmRequest _ _ => true
  | .mgmtSessionIdle _ => true
  | .authLockoutEnd _ => true
  | .challengeExpire _ => true
  | .vinSample _ _ => true
  | .converterLost _ => true
  | .railFault rail => rail.toNat < 21
  | .railSample rail _ _ _ => rail.toNat < 25
  | .powerManagerStep _ => true
  | .thermalSample sensors dram => sensors.length == 7 && dram.length == 24
  | .stackDormantEntry _ => true
  | .stackWakeDone _ => true
  | .pumpHotToWarm _ => true
  | .pumpWarmToCold _ => true
  | .pumpWakeDone _ => true
  | .sbImageCheckDone _ _ => true
  | .componentCheckDone passes => passes.length == 8
  | .stackTrainingDone _ => true
  | .metadataRestoreDone _ => true
  | .bringUpComplete _ => true
  | .fwComponentSwitchDone _ => true
  | .crossoverLinkUp _ _ _ _ => true
  | .twinAccessReceive _ => true
  | .twinResponseReceive _ _ _ => true
  | .twinSnoopReceive _ _ off => lineAligned off.toNat
  | .twinDeclarationReceive _ _ => true
  | .nmiCaptureDone _ _ => true
  | .replayPumpWaitExpire _ => true
  | .vinOvervoltageTrip => true
  | .inputFail => true
  | .vinLow => true
  | .vinHigh => true
  | .currentLimitTimeout => true
  | .hotSwapRetry => true
  | .hotSwapClose => true
  | .inrushSlopeEnd => true
  | .thermalShutdown => true
  | .attnButtonPress => true
  | .attnCancelWindowEnd => true
  | .modRstAssert => true
  | .bringUpStart => true
  | .restoredWellFillDone => true
  | .metadataLogFlush => true
  | .sbHandoverEnd => true
  | .spareSpanCopyDone => true
  | .twinPresenceGained => true
  | .standbySupplyLost => true
  | .standbySupplyReturn => true

end Sys2Proof
end

