-- ==== Sys2Proof/Laws/PerInstr.lean ====
section
/-! SUPPORT. The family `Listed`: facts about each command as syntax. -/
namespace Sys2Proof.Laws.Listed

/-- No table word spells the command, since the table gives its row no bits. -/
def Statement (i : Instr) : Prop := ∀ nbits w : Nat, decodeTableWord nbits w ≠ some i

theorem identify (x0 : CmdHdr) : Statement (.identify x0) := fun _ _ => nofun
theorem getState (x0 : CmdHdr) : Statement (.getState x0) := fun _ _ => nofun
theorem journalReadEntries (x0 : CmdHdr) (x1 : BitVec 64) (x2 : Byte) : Statement (.journalReadEntries x0 x1 x2) := fun _ _ => nofun
theorem journalReadRejects (x0 : CmdHdr) (x1 : BitVec 64) (x2 : Byte) : Statement (.journalReadRejects x0 x1 x2) := fun _ _ => nofun
theorem journalFindTag (x0 : CmdHdr) (x1 : BitVec 64) : Statement (.journalFindTag x0 x1) := fun _ _ => nofun
theorem wellCreate (x0 : CmdHdr) (x1 : BitVec 64) (x2 : Byte) (x3 : Byte) (x4 : BitVec 16) (x5 : BitVec 32) (x6 : PeerAnswer) : Statement (.wellCreate x0 x1 x2 x3 x4 x5 x6) := fun _ _ => nofun
theorem wellDestroy (x0 : CmdHdr) (x1 : BitVec 32) : Statement (.wellDestroy x0 x1) := fun _ _ => nofun
theorem wellResize (x0 : CmdHdr) (x1 : BitVec 32) (x2 : BitVec 64) (x3 : PeerAnswer) : Statement (.wellResize x0 x1 x2 x3) := fun _ _ => nofun
theorem wellGrant (x0 : CmdHdr) (x1 : BitVec 32) (x2 : Byte) (x3 : Byte) (x4 : Byte) : Statement (.wellGrant x0 x1 x2 x3 x4) := fun _ _ => nofun
theorem wellRevoke (x0 : CmdHdr) (x1 : BitVec 32) (x2 : Byte) : Statement (.wellRevoke x0 x1 x2) := fun _ _ => nofun
theorem wellQuery (x0 : CmdHdr) (x1 : BitVec 32) : Statement (.wellQuery x0 x1) := fun _ _ => nofun
theorem wellQuerySummary (x0 : CmdHdr) : Statement (.wellQuerySummary x0) := fun _ _ => nofun
theorem migrate (x0 : CmdHdr) (x1 : BitVec 32) (x2 : Byte) (x3 : BitVec 7) (x4 : BitVec 16) : Statement (.migrate x0 x1 x2 x3 x4) := fun _ _ => nofun
theorem migrateCancel (x0 : CmdHdr) (x1 : BitVec 32) (x2 : Byte) (x3 : BitVec 7) (x4 : BitVec 16) : Statement (.migrateCancel x0 x1 x2 x3 x4) := fun _ _ => nofun
theorem cisternCreate (x0 : CmdHdr) (x1 : BitVec 128) (x2 : BitVec 16) : Statement (.cisternCreate x0 x1 x2) := fun _ _ => nofun
theorem cisternJoin (x0 : CmdHdr) (x1 : BitVec 32) (x2 : Byte) : Statement (.cisternJoin x0 x1 x2) := fun _ _ => nofun
theorem cisternLeave (x0 : CmdHdr) (x1 : BitVec 32) (x2 : Byte) : Statement (.cisternLeave x0 x1 x2) := fun _ _ => nofun
theorem cisternRecoverZero (x0 : CmdHdr) (x1 : BitVec 32) : Statement (.cisternRecoverZero x0 x1) := fun _ _ => nofun
theorem cisternRecoverKeep (x0 : CmdHdr) (x1 : BitVec 32) : Statement (.cisternRecoverKeep x0 x1) := fun _ _ => nofun
theorem cisternRecoverDissolve (x0 : CmdHdr) (x1 : BitVec 32) : Statement (.cisternRecoverDissolve x0 x1) := fun _ _ => nofun
theorem cisternQuery (x0 : CmdHdr) (x1 : BitVec 32) : Statement (.cisternQuery x0 x1) := fun _ _ => nofun
theorem contextCreate (x0 : CmdHdr) (x1 : BitVec 128) (x2 : Byte) : Statement (.contextCreate x0 x1 x2) := fun _ _ => nofun
theorem contextDestroy (x0 : CmdHdr) (x1 : BitVec 16) : Statement (.contextDestroy x0 x1) := fun _ _ => nofun
theorem rangeTableSet (x0 : CmdHdr) (x1 : BitVec 16) (x2 : Byte) (x3 : Byte) (x4 : List RangeWords) (x5 : PeerAnswer) : Statement (.rangeTableSet x0 x1 x2 x3 x4 x5) := fun _ _ => nofun
theorem rangeInvalidateSpan (x0 : CmdHdr) (x1 : BitVec 16) (x2 : BitVec 32) (x3 : BitVec 64) (x4 : BitVec 64) : Statement (.rangeInvalidateSpan x0 x1 x2 x3 x4) := fun _ _ => nofun
theorem rangeInvalidateWell (x0 : CmdHdr) (x1 : BitVec 16) (x2 : BitVec 32) (x3 : BitVec 64) (x4 : BitVec 64) : Statement (.rangeInvalidateWell x0 x1 x2 x3 x4) := fun _ _ => nofun
theorem adviseNormal (x0 : CmdHdr) (x1 : BitVec 16) (x2 : Byte) (x3 : BitVec 64) (x4 : BitVec 64) : Statement (.adviseNormal x0 x1 x2 x3 x4) := fun _ _ => nofun
theorem adviseWillUse (x0 : CmdHdr) (x1 : BitVec 16) (x2 : Byte) (x3 : BitVec 64) (x4 : BitVec 64) : Statement (.adviseWillUse x0 x1 x2 x3 x4) := fun _ _ => nofun
theorem adviseDontNeed (x0 : CmdHdr) (x1 : BitVec 16) (x2 : Byte) (x3 : BitVec 64) (x4 : BitVec 64) : Statement (.adviseDontNeed x0 x1 x2 x3 x4) := fun _ _ => nofun
theorem adviseSetDiePref (x0 : CmdHdr) (x1 : BitVec 16) (x2 : Byte) (x3 : BitVec 64) (x4 : BitVec 64) : Statement (.adviseSetDiePref x0 x1 x2 x3 x4) := fun _ _ => nofun
theorem stationXlateMode (x0 : CmdHdr) (x1 : Byte) (x2 : Byte) : Statement (.stationXlateMode x0 x1 x2) := fun _ _ => nofun
theorem platformCreate (x0 : CmdHdr) (x1 : BitVec 32) (x2 : Byte) (x3 : Byte) (x4 : BitVec 16) (x5 : BitVec 64) (x6 : BitVec 16) (x7 : Byte) (x8 : BitVec 32) (x9 : BitVec 64) : Statement (.platformCreate x0 x1 x2 x3 x4 x5 x6 x7 x8 x9) := fun _ _ => nofun
theorem platformDestroy (x0 : CmdHdr) (x1 : BitVec 16) : Statement (.platformDestroy x0 x1) := fun _ _ => nofun
theorem platformDrainFinish (x0 : CmdHdr) (x1 : BitVec 16) : Statement (.platformDrainFinish x0 x1) := fun _ _ => nofun
theorem platformDrainAbort (x0 : CmdHdr) (x1 : BitVec 16) : Statement (.platformDrainAbort x0 x1) := fun _ _ => nofun
theorem platformDrainResume (x0 : CmdHdr) (x1 : BitVec 16) : Statement (.platformDrainResume x0 x1) := fun _ _ => nofun
theorem partitionSet (x0 : CmdHdr) (x1 : Byte) (x2 : Byte) (x3 : BitVec 32) (x4 : BitVec 16) : Statement (.partitionSet x0 x1 x2 x3 x4) := fun _ _ => nofun
theorem namespaceCreate (x0 : CmdHdr) (x1 : BitVec 32) (x2 : Byte) (x3 : Byte) (x4 : BitVec 16) (x5 : BitVec 16) (x6 : BitVec 16) (x7 : BitVec 32) (x8 : Byte) : Statement (.namespaceCreate x0 x1 x2 x3 x4 x5 x6 x7 x8) := fun _ _ => nofun
theorem namespaceDestroy (x0 : CmdHdr) (x1 : BitVec 32) : Statement (.namespaceDestroy x0 x1) := fun _ _ => nofun
theorem namespaceQuota (x0 : CmdHdr) (x1 : BitVec 32) (x2 : BitVec 32) (x3 : BitVec 16) (x4 : Byte) : Statement (.namespaceQuota x0 x1 x2 x3 x4) := fun _ _ => nofun
theorem cacheEnable (x0 : CmdHdr) (x1 : Byte) (x2 : Byte) (x3 : Byte) (x4 : BitVec 32) : Statement (.cacheEnable x0 x1 x2 x3 x4) := fun _ _ => nofun
theorem cacheDisable (x0 : CmdHdr) (x1 : Byte) (x2 : Byte) (x3 : Byte) (x4 : BitVec 32) : Statement (.cacheDisable x0 x1 x2 x3 x4) := fun _ _ => nofun
theorem cacheFlush (x0 : CmdHdr) (x1 : Byte) (x2 : Byte) (x3 : Byte) (x4 : BitVec 32) : Statement (.cacheFlush x0 x1 x2 x3 x4) := fun _ _ => nofun
theorem cacheInvalidate (x0 : CmdHdr) (x1 : Byte) (x2 : Byte) (x3 : Byte) (x4 : BitVec 32) : Statement (.cacheInvalidate x0 x1 x2 x3 x4) := fun _ _ => nofun
theorem cacheSetThreshold (x0 : CmdHdr) (x1 : Byte) (x2 : Byte) (x3 : Byte) (x4 : BitVec 32) : Statement (.cacheSetThreshold x0 x1 x2 x3 x4) := fun _ _ => nofun
theorem cacheSetTHold (x0 : CmdHdr) (x1 : Byte) (x2 : Byte) (x3 : Byte) (x4 : BitVec 32) : Statement (.cacheSetTHold x0 x1 x2 x3 x4) := fun _ _ => nofun
theorem cacheSetQuota (x0 : CmdHdr) (x1 : Byte) (x2 : Byte) (x3 : Byte) (x4 : BitVec 32) : Statement (.cacheSetQuota x0 x1 x2 x3 x4) := fun _ _ => nofun
theorem cacheStatus (x0 : CmdHdr) (x1 : Byte) (x2 : Byte) (x3 : Byte) (x4 : BitVec 32) : Statement (.cacheStatus x0 x1 x2 x3 x4) := fun _ _ => nofun
theorem twinPair (x0 : CmdHdr) (x1 : BitVec 16) (x2 : PeerInfo) : Statement (.twinPair x0 x1 x2) := fun _ _ => nofun
theorem twinUnpairEmpty (x0 : CmdHdr) : Statement (.twinUnpairEmpty x0) := fun _ _ => nofun
theorem twinUnpairSplit (x0 : CmdHdr) : Statement (.twinUnpairSplit x0) := fun _ _ => nofun
theorem twinSwitchover (x0 : CmdHdr) (x1 : Byte) (x2 : Byte) (x3 : BitVec 7) : Statement (.twinSwitchover x0 x1 x2 x3) := fun _ _ => nofun
theorem twinTakeover (x0 : CmdHdr) (x1 : Byte) (x2 : Byte) (x3 : BitVec 7) : Statement (.twinTakeover x0 x1 x2 x3) := fun _ _ => nofun
theorem twinStatus (x0 : CmdHdr) (x1 : BitVec 32) : Statement (.twinStatus x0 x1) := fun _ _ => nofun
theorem faultStatus (x0 : CmdHdr) (x1 : BitVec 64) (x2 : Byte) (x3 : Byte) : Statement (.faultStatus x0 x1 x2 x3) := fun _ _ => nofun
theorem faultAck (x0 : CmdHdr) (x1 : BitVec 64) (x2 : Byte) : Statement (.faultAck x0 x1 x2) := fun _ _ => nofun
theorem faultPolicySet (x0 : CmdHdr) (x1 : BitVec 16) (x2 : Byte) (x3 : Byte) (x4 : BitVec 32) (x5 : BitVec 16) : Statement (.faultPolicySet x0 x1 x2 x3 x4 x5) := fun _ _ => nofun
theorem unitHistoryRead (x0 : CmdHdr) (x1 : Byte) (x2 : Byte) (x3 : BitVec 32) (x4 : Byte) : Statement (.unitHistoryRead x0 x1 x2 x3 x4) := fun _ _ => nofun
theorem fieldTestPolicy (x0 : CmdHdr) (x1 : Byte) (x2 : BitVec 16) (x3 : BitVec 16) (x4 : BitVec 16) : Statement (.fieldTestPolicy x0 x1 x2 x3 x4) := fun _ _ => nofun
theorem powerLimitSet (x0 : CmdHdr) (x1 : BitVec 16) (x2 : Byte) (x3 : BitVec 32) (x4 : BitVec 32) (x5 : BitVec 32) : Statement (.powerLimitSet x0 x1 x2 x3 x4 x5) := fun _ _ => nofun
theorem powerStatus (x0 : CmdHdr) : Statement (.powerStatus x0) := fun _ _ => nofun
theorem fwStage (x0 : CmdHdr) (x1 : BitVec 32) (x2 : BitVec 64) (x3 : BitVec 64) (x4 : FwPackage) : Statement (.fwStage x0 x1 x2 x3 x4) := fun _ _ => nofun
theorem fwActivate (x0 : CmdHdr) (x1 : Byte) (x2 : Byte) (x3 : Versions) : Statement (.fwActivate x0 x1 x2 x3) := fun _ _ => nofun
theorem fwManifestRead (x0 : CmdHdr) (x1 : Byte) (x2 : Byte) : Statement (.fwManifestRead x0 x1 x2) := fun _ _ => nofun
theorem roleAuthChallenge (x0 : CmdHdr) (x1 : Byte) (x2 : BitVec 64) (x3 : BitVec 768) : Statement (.roleAuthChallenge x0 x1 x2 x3) := fun _ _ => nofun
theorem roleAuthRespond (x0 : CmdHdr) (x1 : Byte) (x2 : BitVec 64) (x3 : BitVec 768) : Statement (.roleAuthRespond x0 x1 x2 x3) := fun _ _ => nofun
theorem roleDrop (x0 : CmdHdr) : Statement (.roleDrop x0) := fun _ _ => nofun
theorem keyGenerate (x0 : CmdHdr) (x1 : KeyPay) : Statement (.keyGenerate x0 x1) := fun _ _ => nofun
theorem keyBind (x0 : CmdHdr) (x1 : KeyPay) : Statement (.keyBind x0 x1) := fun _ _ => nofun
theorem keyErase (x0 : CmdHdr) (x1 : KeyPay) : Statement (.keyErase x0 x1) := fun _ _ => nofun
theorem credSet (x0 : CmdHdr) (x1 : KeyPay) : Statement (.credSet x0 x1) := fun _ _ => nofun
theorem credErase (x0 : CmdHdr) (x1 : KeyPay) : Statement (.credErase x0 x1) := fun _ _ => nofun
theorem auditRead (x0 : CmdHdr) (x1 : Byte) (x2 : Byte) (x3 : BitVec 64) : Statement (.auditRead x0 x1 x2 x3) := fun _ _ => nofun
theorem moduleDrain (x0 : CmdHdr) (x1 : Byte) : Statement (.moduleDrain x0 x1) := fun _ _ => nofun
theorem moduleDrainOff (x0 : CmdHdr) (x1 : Byte) : Statement (.moduleDrainOff x0 x1) := fun _ _ => nofun
theorem moduleDrainResume (x0 : CmdHdr) (x1 : Byte) : Statement (.moduleDrainResume x0 x1) := fun _ _ => nofun
theorem moduleDrainEmpty (x0 : CmdHdr) (x1 : Byte) : Statement (.moduleDrainEmpty x0 x1) := fun _ _ => nofun
theorem spareActivate (x0 : CmdHdr) (x1 : Byte) (x2 : Byte) (x3 : BitVec 64) : Statement (.spareActivate x0 x1 x2 x3) := fun _ _ => nofun
theorem factoryTestEnter (x0 : CmdHdr) (x1 : BitVec 64) : Statement (.factoryTestEnter x0 x1) := fun _ _ => nofun
theorem injectRaise (x0 : CmdHdr) (x1 : InjectPay) : Statement (.injectRaise x0 x1) := fun _ _ => nofun
theorem injectFlip1 (x0 : CmdHdr) (x1 : InjectPay) : Statement (.injectFlip1 x0 x1) := fun _ _ => nofun
theorem injectFlip2 (x0 : CmdHdr) (x1 : InjectPay) : Statement (.injectFlip2 x0 x1) := fun _ _ => nofun
theorem injectPoison (x0 : CmdHdr) (x1 : InjectPay) : Statement (.injectPoison x0 x1) := fun _ _ => nofun
theorem injectParity (x0 : CmdHdr) (x1 : InjectPay) : Statement (.injectParity x0 x1) := fun _ _ => nofun
theorem injectChecksum (x0 : CmdHdr) (x1 : InjectPay) : Statement (.injectChecksum x0 x1) := fun _ _ => nofun
theorem injectLinkCrc (x0 : CmdHdr) (x1 : InjectPay) : Statement (.injectLinkCrc x0 x1) := fun _ _ => nofun
theorem injectClearHistory (x0 : CmdHdr) (x1 : InjectPay) : Statement (.injectClearHistory x0 x1) := fun _ _ => nofun
theorem asyncCommandComplete (x0 : BitVec 64) : Statement (.asyncCommandComplete x0) := fun _ _ => nofun
theorem crossoverMailboxMessage (x0 : XMsg) : Statement (.crossoverMailboxMessage x0) := fun _ _ => nofun
theorem platformDoorbell (x0 : Station) (x1 : BitVec 12) (x2 : BitVec 4) (x3 : BitVec 24) (x4 : BitVec 24) (x5 : BitVec 15) : Statement (.platformDoorbell x0 x1 x2 x3 x4 x5) := fun _ _ => nofun
theorem platformRestart (x0 : Station) (x1 : BitVec 12) (x2 : BitVec 4) (x3 : BitVec 24) (x4 : BitVec 24) (x5 : BitVec 15) : Statement (.platformRestart x0 x1 x2 x3 x4 x5) := fun _ _ => nofun
theorem nop (x0 : BitVec 12) (x1 : BitVec 24) : Statement (.nop x0 x1) := fun _ _ => nofun
theorem draw (x0 : BitVec 12) (x1 : BitVec 24) : Statement (.draw x0 x1) := fun _ _ => nofun
theorem drawTree (x0 : BitVec 12) (x1 : BitVec 24) : Statement (.drawTree x0 x1) := fun _ _ => nofun
theorem merge (x0 : BitVec 12) (x1 : BitVec 24) : Statement (.merge x0 x1) := fun _ _ => nofun
theorem encode (x0 : BitVec 12) (x1 : BitVec 24) : Statement (.encode x0 x1) := fun _ _ => nofun
theorem fetch (x0 : BitVec 12) (x1 : BitVec 24) : Statement (.fetch x0 x1) := fun _ _ => nofun
theorem copy (x0 : BitVec 12) (x1 : BitVec 24) : Statement (.copy x0 x1) := fun _ _ => nofun
theorem fill (x0 : BitVec 12) (x1 : BitVec 24) : Statement (.fill x0 x1) := fun _ _ => nofun
theorem gather (x0 : BitVec 12) (x1 : BitVec 24) : Statement (.gather x0 x1) := fun _ _ => nofun
theorem scatter (x0 : BitVec 12) (x1 : BitVec 24) : Statement (.scatter x0 x1) := fun _ _ => nofun
theorem atomic (x0 : BitVec 12) (x1 : BitVec 24) : Statement (.atomic x0 x1) := fun _ _ => nofun
theorem atomicOperationAtHome (x0 : BitVec 12) (x1 : BitVec 24) (x2 : BitVec 17) : Statement (.atomicOperationAtHome x0 x1 x2) := fun _ _ => nofun
theorem gemm (x0 : BitVec 12) (x1 : BitVec 24) : Statement (.gemm x0 x1) := fun _ _ => nofun
theorem lowrank (x0 : BitVec 12) (x1 : BitVec 24) : Statement (.lowrank x0 x1) := fun _ _ => nofun
theorem checksum (x0 : BitVec 12) (x1 : BitVec 24) : Statement (.checksum x0 x1) := fun _ _ => nofun
theorem prefixLookup (x0 : BitVec 12) (x1 : BitVec 24) : Statement (.prefixLookup x0 x1) := fun _ _ => nofun
theorem prefixInsert (x0 : BitVec 12) (x1 : BitVec 24) : Statement (.prefixInsert x0 x1) := fun _ _ => nofun
theorem prefixRelease (x0 : BitVec 12) (x1 : BitVec 24) : Statement (.prefixRelease x0 x1) := fun _ _ => nofun
theorem prefixRenew (x0 : BitVec 12) (x1 : BitVec 24) : Statement (.prefixRenew x0 x1) := fun _ _ => nofun
theorem evenLookupCommit (x0 : BitVec 12) (x1 : BitVec 24) : Statement (.evenLookupCommit x0 x1) := fun _ _ => nofun
theorem prefixPendingResolved (x0 : BitVec 12) (x1 : BitVec 24) : Statement (.prefixPendingResolved x0 x1) := fun _ _ => nofun
theorem holdLeaseExpire (x0 : BitVec 20) : Statement (.holdLeaseExpire x0) := fun _ _ => nofun
theorem pumpJobHandoff (x0 : PumpId) : Statement (.pumpJobHandoff x0) := fun _ _ => nofun
theorem tileLoadDone (x0 : PumpId) (x1 : BitVec 13) (x2 : PageImage) : Statement (.tileLoadDone x0 x1 x2) := fun _ _ => nofun
theorem tileStepDone (x0 : PumpId) (x1 : Option StepOp) : Statement (.tileStepDone x0 x1) := fun _ _ => nofun
theorem stepReplayDone (x0 : PumpId) (x1 : Bool) : Statement (.stepReplayDone x0 x1) := fun _ _ => nofun
theorem pumpHangTimeout (x0 : PumpId) : Statement (.pumpHangTimeout x0) := fun _ _ => nofun
theorem rangeCacheFill (x0 : PumpId) (x1 : BitVec 12) (x2 : BitVec 8) (x3 : PeerAnswer) : Statement (.rangeCacheFill x0 x1 x2 x3) := fun _ _ => nofun
theorem rangeSwitchTimeout (x0 : PumpId) : Statement (.rangeSwitchTimeout x0) := fun _ _ => nofun
theorem jobEnd (x0 : BitVec 12) (x1 : BitVec 24) : Statement (.jobEnd x0 x1) := fun _ _ => nofun
theorem completionRecordWrite (x0 : BitVec 12) : Statement (.completionRecordWrite x0) := fun _ _ => nofun
theorem sealWrite (x0 : BitVec 12) (x1 : BitVec 24) : Statement (.sealWrite x0 x1) := fun _ _ => nofun
theorem deviceWriteGo (x0 : Station) (x1 : BitVec 32) (x2 : Line) : Statement (.deviceWriteGo x0 x1 x2) := fun _ _ => nofun
theorem stationCtoExpire (x0 : Station) (x1 : BitVec 32) : Statement (.stationCtoExpire x0 x1) := fun _ _ => nofun
theorem atsTranslationCompletion (x0 : Station) (x1 : BitVec 56) (x2 : AtsAnswer) : Statement (.atsTranslationCompletion x0 x1 x2) := fun _ _ => nofun
theorem atsInvalidateRequest (x0 : Station) (x1 : BitVec 56) (x2 : BitVec 6) : Statement (.atsInvalidateRequest x0 x1 x2) := fun _ _ => nofun
theorem memRdS (x0 : Station) (x1 : BitVec 64) : Statement (.memRdS x0 x1) := fun _ _ => nofun
theorem memRdA (x0 : Station) (x1 : BitVec 64) : Statement (.memRdA x0 x1) := fun _ _ => nofun
theorem memRdOwn (x0 : Station) (x1 : BitVec 64) : Statement (.memRdOwn x0 x1) := fun _ _ => nofun
theorem memRdCur (x0 : Station) (x1 : BitVec 64) : Statement (.memRdCur x0 x1) := fun _ _ => nofun
theorem memInvOwn (x0 : Station) (x1 : BitVec 64) : Statement (.memInvOwn x0 x1) := fun _ _ => nofun
theorem memDrop (x0 : Station) (x1 : BitVec 64) : Statement (.memDrop x0 x1) := fun _ _ => nofun
theorem memSpecRd (x0 : Station) (x1 : BitVec 64) : Statement (.memSpecRd x0 x1) := fun _ _ => nofun
theorem memWb (x0 : Station) (x1 : BitVec 64) (x2 : Line) (x3 : BitVec 64) : Statement (.memWb x0 x1 x2 x3) := fun _ _ => nofun
theorem memWbS (x0 : Station) (x1 : BitVec 64) (x2 : Line) : Statement (.memWbS x0 x1 x2) := fun _ _ => nofun
theorem memUcWr (x0 : Station) (x1 : BitVec 64) (x2 : Line) (x3 : BitVec 64) : Statement (.memUcWr x0 x1 x2 x3) := fun _ _ => nofun
theorem plainMemRead (x0 : Station) (x1 : BitVec 64) : Statement (.plainMemRead x0 x1) := fun _ _ => nofun
theorem plainMemWrite (x0 : Station) (x1 : BitVec 64) (x2 : Line) (x3 : BitVec 64) : Statement (.plainMemWrite x0 x1 x2 x3) := fun _ _ => nofun
theorem biRsp (x0 : Station) (x1 : BitVec 64) (x2 : BiRsp) : Statement (.biRsp x0 x1 x2) := fun _ _ => nofun
theorem biConflict (x0 : Station) (x1 : BitVec 64) : Statement (.biConflict x0 x1) := fun _ _ => nofun
theorem holdEnd (x0 : BitVec 48) : Statement (.holdEnd x0) := fun _ _ => nofun
theorem biTimerExpire (x0 : Fin 49) (x1 : BitVec 48) : Statement (.biTimerExpire x0 x1) := fun _ _ => nofun
theorem downWalkEnd (x0 : BitVec 12) : Statement (.downWalkEnd x0) := fun _ _ => nofun
theorem cisternRecoveryDone (x0 : BitVec 12) : Statement (.cisternRecoveryDone x0) := fun _ _ => nofun
theorem retryStoreRepresent (x0 : Option Station) : Statement (.retryStoreRepresent x0) := fun _ _ => nofun
theorem apertureRead (x0 : Station) (x1 : BitVec 26) (x2 : BitVec 13) : Statement (.apertureRead x0 x1 x2) := fun _ _ => nofun
theorem apertureWrite (x0 : Station) (x1 : BitVec 26) (x2 : List Byte) : Statement (.apertureWrite x0 x1 x2) := fun _ _ => nofun
theorem winBaseWrite (x0 : Station) (x1 : Half) (x2 : BitVec 64) : Statement (.winBaseWrite x0 x1 x2) := fun _ _ => nofun
theorem jnlMarkWrite (x0 : Station) (x1 : Half) (x2 : BitVec 64) : Statement (.jnlMarkWrite x0 x1 x2) := fun _ _ => nofun
theorem jnlThresholdWrite (x0 : Station) (x1 : BitVec 32) : Statement (.jnlThresholdWrite x0 x1) := fun _ _ => nofun
theorem registerWrite (x0 : Station) (x1 : BitVec 26) (x2 : BitVec 4) (x3 : BitVec 64) : Statement (.registerWrite x0 x1 x2 x3) := fun _ _ => nofun
theorem msixVectorUnmask (x0 : Station) (x1 : Option (BitVec 11)) : Statement (.msixVectorUnmask x0 x1) := fun _ _ => nofun
theorem hdmDecoderCommit (x0 : Station) (x1 : BitVec 5) (x2 : BitVec 64) (x3 : BitVec 64) (x4 : BitVec 4) : Statement (.hdmDecoderCommit x0 x1 x2 x3 x4) := fun _ _ => nofun
theorem hdmDecoderUncommit (x0 : Station) (x1 : BitVec 5) : Statement (.hdmDecoderUncommit x0 x1) := fun _ _ => nofun
theorem d3hotEntry (x0 : Station) : Statement (.d3hotEntry x0) := fun _ _ => nofun
theorem d0Return (x0 : Station) : Statement (.d0Return x0) := fun _ _ => nofun
theorem perstAssert (x0 : Station) : Statement (.perstAssert x0) := fun _ _ => nofun
theorem perstDeassert (x0 : Station) : Statement (.perstDeassert x0) := fun _ _ => nofun
theorem hotReset (x0 : Station) : Statement (.hotReset x0) := fun _ _ => nofun
theorem functionLevelReset (x0 : Station) : Statement (.functionLevelReset x0) := fun _ _ => nofun
theorem linkDlUp (x0 : Station) (x1 : LinkMode) (x2 : Bool) (x3 : Bool) (x4 : Bool) (x5 : Bool) (x6 : BitVec 4) : Statement (.linkDlUp x0 x1 x2 x3 x4 x5 x6) := fun _ _ => nofun
theorem linkDlDown (x0 : Station) : Statement (.linkDlDown x0) := fun _ _ => nofun
theorem linkRecoveryEntry (x0 : Station) : Statement (.linkRecoveryEntry x0) := fun _ _ => nofun
theorem linkRecoveryEnd (x0 : Station) : Statement (.linkRecoveryEnd x0) := fun _ _ => nofun
theorem flitAck (x0 : Station) (x1 : BitVec 11) (x2 : BitVec 10) (x3 : BitVec 9) : Statement (.flitAck x0 x1 x2 x3) := fun _ _ => nofun
theorem memoryActiveReturn (x0 : Station) : Statement (.memoryActiveReturn x0) := fun _ _ => nofun
theorem h2dSnoop (x0 : Station) (x1 : BitVec 64) (x2 : H2D) : Statement (.h2dSnoop x0 x1 x2) := fun _ _ => nofun
theorem streamTrackerRelease (x0 : DieId) (x1 : BitVec 6) : Statement (.streamTrackerRelease x0 x1) := fun _ _ => nofun
theorem cacheWalkDone (x0 : DieId) : Statement (.cacheWalkDone x0) := fun _ _ => nofun
theorem zeroFillDone (x0 : BitVec 16) : Statement (.zeroFillDone x0) := fun _ _ => nofun
theorem resizeGrowDone (x0 : BitVec 16) : Statement (.resizeGrowDone x0) := fun _ _ => nofun
theorem revocationDrainTimeout (x0 : BitVec 16) (x1 : Station) : Statement (.revocationDrainTimeout x0 x1) := fun _ _ => nofun
theorem revocationComplete (x0 : BitVec 16) (x1 : Station) : Statement (.revocationComplete x0 x1) := fun _ _ => nofun
theorem backgroundZeroing (x0 : BitVec 48) (x1 : BitVec 48) : Statement (.backgroundZeroing x0 x1) := fun _ _ => nofun
theorem migrateChunkCommit (x0 : BitVec 16) : Statement (.migrateChunkCommit x0) := fun _ _ => nofun
theorem migrateChunkStart (x0 : BitVec 16) : Statement (.migrateChunkStart x0) := fun _ _ => nofun
theorem migrateCancelComplete (x0 : BitVec 16) : Statement (.migrateCancelComplete x0) := fun _ _ => nofun
theorem twinPresenceLost : Statement (.twinPresenceLost) := fun _ _ => nofun
theorem crossoverLinkDown (x0 : Fin 4) : Statement (.crossoverLinkDown x0) := fun _ _ => nofun
theorem crossoverSilence : Statement (.crossoverSilence) := fun _ _ => nofun
theorem presenceWaitExpire : Statement (.presenceWaitExpire) := fun _ _ => nofun
theorem keepaliveSend (x0 : Fin 4) : Statement (.keepaliveSend x0) := fun _ _ => nofun
theorem mirrorWriteReceive (x0 : BitVec 32) (x1 : BitVec 32) (x2 : BitVec 64) (x3 : Line) (x4 : BitVec 64) (x5 : Bool) : Statement (.mirrorWriteReceive x0 x1 x2 x3 x4 x5) := fun _ _ => nofun
theorem mirrorWriteAck (x0 : BitVec 32) : Statement (.mirrorWriteAck x0) := fun _ _ => nofun
theorem mirrorAckTimeout (x0 : BitVec 32) : Statement (.mirrorAckTimeout x0) := fun _ _ => nofun
theorem twinAnnounceReceive (x0 : Announce) : Statement (.twinAnnounceReceive x0) := fun _ _ => nofun
theorem fenceOrderReceive : Statement (.fenceOrderReceive) := fun _ _ => nofun
theorem switchoverGapEnd : Statement (.switchoverGapEnd) := fun _ _ => nofun
theorem grantRecordReceive (x0 : BitVec 32) (x1 : BitVec 32) (x2 : BitVec 64) (x3 : GrantNote) : Statement (.grantRecordReceive x0 x1 x2 x3) := fun _ _ => nofun
theorem healthReportSend : Statement (.healthReportSend) := fun _ _ => nofun
theorem healthReportReceive (x0 : Report) : Statement (.healthReportReceive x0) := fun _ _ => nofun
theorem twinReportsMissed : Statement (.twinReportsMissed) := fun _ _ => nofun
theorem mirrorAuditPage (x0 : BitVec 32) (x1 : BitVec 32) (x2 : PageImage) : Statement (.mirrorAuditPage x0 x1 x2) := fun _ _ => nofun
theorem resyncPageCopy (x0 : BitVec 32) (x1 : BitVec 32) (x2 : PageImage) : Statement (.resyncPageCopy x0 x1 x2) := fun _ _ => nofun
theorem auditRecordReceive (x0 : AuditWords) : Statement (.auditRecordReceive x0) := fun _ _ => nofun
theorem faultDetected (x0 : BitVec 16) (x1 : Byte) (x2 : BitVec 64) (x3 : BitVec 64) (x4 : BitVec 128) : Statement (.faultDetected x0 x1 x2 x3 x4) := fun _ _ => nofun
theorem scrubLine (x0 : BitVec 48) : Statement (.scrubLine x0) := fun _ _ => nofun
theorem modErrOneShotEnd : Statement (.modErrOneShotEnd) := fun _ _ => nofun
theorem aliveToggle : Statement (.aliveToggle) := fun _ _ => nofun
theorem aliveToggleMissed : Statement (.aliveToggleMissed) := fun _ _ => nofun
theorem signalBoxWatchdogExpire : Statement (.signalBoxWatchdogExpire) := fun _ _ => nofun
theorem coreWatchdogExpire (x0 : Fin 6) : Statement (.coreWatchdogExpire x0) := fun _ _ => nofun
theorem blockResetDone (x0 : Byte) (x1 : Byte) : Statement (.blockResetDone x0 x1) := fun _ _ => nofun
theorem katTurn (x0 : PumpId) : Statement (.katTurn x0) := fun _ _ => nofun
theorem katPartDone (x0 : PumpId) (x1 : Bool) : Statement (.katPartDone x0 x1) := fun _ _ => nofun
theorem drainDelayExpire : Statement (.drainDelayExpire) := fun _ _ => nofun
theorem ideIntegrityFail (x0 : Station × IdeKind) : Statement (.ideIntegrityFail x0) := fun _ _ => nofun
theorem ideStreamEnd (x0 : SecLink) : Statement (.ideStreamEnd x0) := fun _ _ => nofun
theorem spdmSessionEstablish (x0 : SpdmPort) (x1 : SpdmOpen) (x2 : BitVec 384) : Statement (.spdmSessionEstablish x0 x1 x2) := fun _ _ => nofun
theorem spdmRequest (x0 : SpdmPort) (x1 : SpdmAsk) : Statement (.spdmRequest x0 x1) := fun _ _ => nofun
theorem mgmtSessionIdle (x0 : Mbx) : Statement (.mgmtSessionIdle x0) := fun _ _ => nofun
theorem authLockoutEnd (x0 : Mbx) : Statement (.authLockoutEnd x0) := fun _ _ => nofun
theorem challengeExpire (x0 : Mbx) : Statement (.challengeExpire x0) := fun _ _ => nofun
theorem vinSample (x0 : BitVec 32) (x1 : BitVec 32) : Statement (.vinSample x0 x1) := fun _ _ => nofun
theorem converterLost (x0 : Fin 8) : Statement (.converterLost x0) := fun _ _ => nofun
theorem railFault (x0 : BitVec 5) : Statement (.railFault x0) := fun _ _ => nofun
theorem railSample (x0 : BitVec 5) (x1 : BitVec 16) (x2 : BitVec 16) (x3 : Byte) : Statement (.railSample x0 x1 x2 x3) := fun _ _ => nofun
theorem powerManagerStep (x0 : BitVec 16) : Statement (.powerManagerStep x0) := fun _ _ => nofun
theorem thermalSample (x0 : List Byte) (x1 : List Byte) : Statement (.thermalSample x0 x1) := fun _ _ => nofun
theorem stackDormantEntry (x0 : DieId) : Statement (.stackDormantEntry x0) := fun _ _ => nofun
theorem stackWakeDone (x0 : DieId) : Statement (.stackWakeDone x0) := fun _ _ => nofun
theorem pumpHotToWarm (x0 : PumpId) : Statement (.pumpHotToWarm x0) := fun _ _ => nofun
theorem pumpWarmToCold (x0 : PumpId) : Statement (.pumpWarmToCold x0) := fun _ _ => nofun
theorem pumpWakeDone (x0 : PumpId) : Statement (.pumpWakeDone x0) := fun _ _ => nofun
theorem sbImageCheckDone (x0 : Bool) (x1 : Bool) : Statement (.sbImageCheckDone x0 x1) := fun _ _ => nofun
theorem componentCheckDone (x0 : List Bool) : Statement (.componentCheckDone x0) := fun _ _ => nofun
theorem stackTrainingDone (x0 : Option (Fin 24)) : Statement (.stackTrainingDone x0) := fun _ _ => nofun
theorem metadataRestoreDone (x0 : Bool) : Statement (.metadataRestoreDone x0) := fun _ _ => nofun
theorem bringUpComplete (x0 : List PumpId) : Statement (.bringUpComplete x0) := fun _ _ => nofun
theorem fwComponentSwitchDone (x0 : Bool) : Statement (.fwComponentSwitchDone x0) := fun _ _ => nofun
theorem crossoverLinkUp (x0 : Fin 4) (x1 : Option (Fin 16)) (x2 : Bool) (x3 : Bool) : Statement (.crossoverLinkUp x0 x1 x2 x3) := fun _ _ => nofun
theorem twinAccessReceive (x0 : TwinAccess) : Statement (.twinAccessReceive x0) := fun _ _ => nofun
theorem twinResponseReceive (x0 : BitVec 32) (x1 : Line) (x2 : TwinMark) : Statement (.twinResponseReceive x0 x1 x2) := fun _ _ => nofun
theorem twinSnoopReceive (x0 : BitVec 32) (x1 : BitVec 32) (x2 : BitVec 64) : Statement (.twinSnoopReceive x0 x1 x2) := fun _ _ => nofun
theorem twinDeclarationReceive (x0 : BitVec 32) (x1 : Byte) : Statement (.twinDeclarationReceive x0 x1) := fun _ _ => nofun
theorem nmiCaptureDone (x0 : Byte) (x1 : Byte) : Statement (.nmiCaptureDone x0 x1) := fun _ _ => nofun
theorem replayPumpWaitExpire (x0 : PumpId) : Statement (.replayPumpWaitExpire x0) := fun _ _ => nofun
theorem vinOvervoltageTrip : Statement (.vinOvervoltageTrip) := fun _ _ => nofun
theorem inputFail : Statement (.inputFail) := fun _ _ => nofun
theorem vinLow : Statement (.vinLow) := fun _ _ => nofun
theorem vinHigh : Statement (.vinHigh) := fun _ _ => nofun
theorem currentLimitTimeout : Statement (.currentLimitTimeout) := fun _ _ => nofun
theorem hotSwapRetry : Statement (.hotSwapRetry) := fun _ _ => nofun
theorem hotSwapClose : Statement (.hotSwapClose) := fun _ _ => nofun
theorem inrushSlopeEnd : Statement (.inrushSlopeEnd) := fun _ _ => nofun
theorem thermalShutdown : Statement (.thermalShutdown) := fun _ _ => nofun
theorem attnButtonPress : Statement (.attnButtonPress) := fun _ _ => nofun
theorem attnCancelWindowEnd : Statement (.attnCancelWindowEnd) := fun _ _ => nofun
theorem modRstAssert : Statement (.modRstAssert) := fun _ _ => nofun
theorem bringUpStart : Statement (.bringUpStart) := fun _ _ => nofun
theorem restoredWellFillDone : Statement (.restoredWellFillDone) := fun _ _ => nofun
theorem metadataLogFlush : Statement (.metadataLogFlush) := fun _ _ => nofun
theorem sbHandoverEnd : Statement (.sbHandoverEnd) := fun _ _ => nofun
theorem spareSpanCopyDone : Statement (.spareSpanCopyDone) := fun _ _ => nofun
theorem twinPresenceGained : Statement (.twinPresenceGained) := fun _ _ => nofun
theorem standbySupplyLost : Statement (.standbySupplyLost) := fun _ _ => nofun
theorem standbySupplyReturn : Statement (.standbySupplyReturn) := fun _ _ => nofun

end Sys2Proof.Laws.Listed
end

