-- ==== Sys2Proof/Laws/Step.lean ====
section
/-! SUPPORT. What every command does beside its own effect: it answers a next state, leaves no raised reaction, and its pins have
the levels that its state gives them. -/
namespace Sys2Proof.Machine

theorem pinsOf_pins (s : State) (p : Pins) : pinsOf { s with pins := p } = pinsOf s := rfl

theorem finish_todo (s : State) : (finish s).todo = [] := by
  unfold finish
  generalize s.steps.settle.steps.settle.powerSeq = t
  rfl

theorem finish_pins (s : State) : (finish s).pins = pinsOf (finish s) := by
  unfold finish
  generalize s.steps.settle.steps.settle.powerSeq = t
  rfl

theorem exec_done (c : Instr) (s : State) : ∃ u, exec c s = .next (finish u) := by
  cases c <;> (unfold exec; dsimp only; exact ⟨_, rfl⟩)

theorem step_idle {s : State} (h : s.pending = []) : step s = .next s.idle := by
  unfold step; rw [h]

theorem step_command {s : State} {c : Instr} {rest : List Instr} (h : s.pending = c :: rest) :
    step s = exec c { s with pending := rest } := by
  unfold step; rw [h]

end Sys2Proof.Machine
end

