-- ==== Sys2Proof/Machine/ConfigSpace.lean ====
section
/-! DEFINITION. What a station function shows beside its apertures: its configuration header, the DVSECs, the CDAT's
content, and the station table in the expansion ROM (14 R414 to R422; 21 R612, R613). No row of the table reads them:
they are views of the state and constants of revision B. -/
namespace Sys2Proof.Machine

/-- Bytes of ASCII text. -/
def ascii (t : String) : List Byte := t.toList.map fun c => BitVec.ofNat 8 c.toNat

/-! ## Configuration header and capabilities (R414 to R416, R418, R419) -/

/-- A BAR: its number, whether 64-bit and prefetchable, and its bytes. -/
structure Bar where
  index : Nat
  wide : Bool
  prefetch : Bool
  bytes : Nat
  deriving DecidableEq, Repr

/-- The configuration header of a station function (R414). -/
structure CfgHeader where
  vendor : Nat
  device : Nat
  revision : Nat
  classCode : Nat
  headerType : Nat
  interruptPin : Nat
  bars : List Bar
  romBytes : Nat
  deriving DecidableEq, Repr

def cfgHeader : CfgHeader :=
  { vendor := 0x1F6C, device := 0x5C48, revision := 2, classCode := 0x050210, headerType := 0, interruptPin := 0
    bars := [⟨0, true, true, 0x4000000⟩, ⟨2, true, true, 0x4000000⟩, ⟨4, true, false, 0x20000⟩], romBytes := 0x40000 }

/-- The capabilities among the CXL component registers that R414 names. -/
inductive CxlCap where
  | hdmDecoder | biDecoder | ras | link | ide
  deriving DecidableEq, Repr

/-- The CXL register block: the BAR that holds it, where its component and device status registers lie, and what the component
registers hold (R414). -/
structure CxlRegs where
  bar : Nat
  component : Nat
  device : Nat
  caps : List CxlCap
  deriving DecidableEq, Repr

def cxlRegs : CxlRegs := { bar := 4, component := 0x0, device := 0x10000, caps := [.hdmDecoder, .biDecoder, .ras, .link, .ide] }

/-- A read of a byte of the block: the spec names the registers and gives none of their contents, so that they are free (R414;
notes/assumptions/162). -/
def State.cxlRegister (s : State) (n o : Nat) : Byte × State := (Config.cxlRegister s.freeCtr n o, { s with freeCtr := s.freeCtr + 1 })

/-- The PCI Express capability (R415, R419). -/
structure PcieCap where
  maxPayload : Nat
  flr : Bool
  tagRequester10 : Bool
  tagCompleter10 : Bool
  atomicCompleter : Bool
  ltr : Bool
  obff : Bool
  aspm : Bool
  ctoRanges : Nat
  ctoDisable : Bool
  deriving DecidableEq, Repr

def pcieCap : PcieCap :=
  { maxPayload := 512, flr := true, tagRequester10 := true, tagCompleter10 := true, atomicCompleter := false, ltr := false, obff := false, aspm := false
    ctoRanges := 7, ctoDisable := false }

/-- The Power Management capability (R415). -/
structure PmCap where
  d0 : Bool
  d3hot : Bool
  noSoftReset : Bool
  pme : Bool
  deriving DecidableEq, Repr

def pmCap : PmCap := { d0 := true, d3hot := true, noSoftReset := true, pme := false }

/-- The errors that AER reports (R415); `Stn.aer` holds those it has logged. -/
def aerReports : List AerErr := [.completionTimeout, .unsupportedRequest, .poisonedTlp, .uncorrectableInternal]

/-- The data objects that the DOE mailbox exchanges (R415; 19 R587). -/
inductive DoeType where
  | cmaSpdm | securedCmaSpdm | cdat
  deriving DecidableEq, Repr

def doeTypes : List DoeType := [.cmaSpdm, .securedCmaSpdm, .cdat]

/-- The ATS capability (13 R404). -/
structure AtsCap where
  queueDepth : Nat
  pageAligned : Bool
  globalInvalidate : Bool
  pasid : Bool
  pageRequest : Bool
  deriving DecidableEq, Repr

def atsCap : AtsCap := { queueDepth := 0, pageAligned := true, globalInvalidate := false, pasid := false, pageRequest := false }

/-- The Flex Bus Port DVSEC (ID 0x0007, R415). -/
structure FlexBus where
  cache : Bool
  io : Bool
  mem : Bool
  flit68 : Bool
  flit256 : Bool
  deriving DecidableEq, Repr

def flexBus : FlexBus := { cache := true, io := true, mem := true, flit68 := true, flit256 := true }

/-- The Register Locator DVSEC (ID 0x0008): each block's kind, BAR and offset (R415). -/
inductive RegBlock where
  | component | device
  deriving DecidableEq, Repr

def registerLocator : List (RegBlock × Nat × Nat) := [(.component, cxlRegs.bar, cxlRegs.component), (.device, cxlRegs.bar, cxlRegs.device)]

/-- Capabilities a station function carries without values of its own in R415. -/
inductive PlainCap where
  | phys16 | phys32 | phys64 | laneMargining | dataLinkFeature | ide
  deriving DecidableEq, Repr

def plainCaps : List PlainCap := [.phys16, .phys32, .phys64, .laneMargining, .dataLinkFeature, .ide]

/-- Scaled Flow Control of the Data Link Feature capability (R415). -/
def scaledFlowControl : Bool := true

/-- The DVSEC for CXL Devices (R416), with the two bits that change. -/
structure CxlDvsec where
  cacheCapable : Bool
  ioCapable : Bool
  memCapable : Bool
  memHwInit : Bool
  hdmCount : Nat
  wbInvCapable : Bool
  resetCapable : Bool
  viralCapable : Bool
  cacheSizeUnit : Nat
  cacheSize : Nat
  rangeBytes : Nat
  activeTimeout : Nat
  infoValid : Bool
  active : Bool
  deriving DecidableEq, Repr

def State.cxlDvsec (s : State) (n : Nat) : CxlDvsec :=
  { cacheCapable := true, ioCapable := true, memCapable := true, memHwInit := false, hdmCount := 1, wbInvCapable := false
    resetCapable := false, viralCapable := false, cacheSizeUnit := 2, cacheSize := 0xFF, rangeBytes := 3008 * Config.gib
    activeTimeout := 4, infoValid := s.mod.memInfoValid, active := (s.stnAt n).memActive }

/-- Decoder Count of the HDM Decoder Capability (R418) and the decoders it stands for. -/
def decoderCountCode : Nat := 0xC
def decodersPerStation : Nat := 32

/-- Vectors of the MSI-X capability (R428). -/
def msixTableSize : Nat := 0x7FF

/-- The CDAT that the DOE returns: the DPA span, read and write latency in ns, and read bandwidth in MB/s (R415). -/
structure Cdat where
  first : Nat
  last : Nat
  readNs : Nat
  writeNs : Nat
  readMBs : Nat
  deriving DecidableEq, Repr

def cdat : Cdat := { first := 0, last := Config.poolEnd - 1, readNs := 187, writeNs := 82, readMBs := 56250 }

/-! ## The station table (R422; 21 R612, R613) -/

/-- An entry of BLOCKS: name, offset and size (R612). -/
def blockEntry (name : String) (offset size : Nat) : List Byte := ascii name ++ le 4 offset ++ le 4 size ++ le 4 1

def blocksSection : List Byte :=
  blockEntry "IDNT" 0x0000 0x1000 ++ blockEntry "STNB" 0x1000 0x1000 ++ blockEntry "WINB" 0x2000 0x1000 ++
  blockEntry "FLTB" 0x3000 0x1000 ++ blockEntry "BAYB" 0x4000 0x1000 ++ blockEntry "MBXC" 0x10000 0x1000 ++
  blockEntry "MBXR" 0x11000 0x800 ++ blockEntry "MBXS" 0x11800 0x20 ++ blockEntry "PDBL" 0x20000 0x8000 ++
  blockEntry "MSXT" 0x30000 0x8000 ++ blockEntry "MSXP" 0x38000 0x100 ++ blockEntry "JNLB" 0x40000 0x1000

/-- LIMITS: 8-byte counts in the order R422 lists them. -/
def limitsSection : List Byte :=
  [Config.maxWells, 4096, 4096, 4096, Config.maxNamespaces, 32, 2048, 1024, 4032].flatMap (le 8)

/-- TIMERS: 4-byte values in ns in the order R422 lists them. -/
def timersSection : List Byte := [160, 2000, 20000, 5000, 200000, 400000, 2000000].flatMap (le 4)

/-- VECTORS: the four fixed vectors and their use codes (R613). -/
def vectorsSection : List Byte := (List.range 4).flatMap fun v => le 2 v ++ le 2 (v + 1)

/-- The sections by ID with their versions; the spec states the versions of 1 and 4 only. -/
def tableSections : List (Nat × List Byte × Nat) :=
  [(1, blocksSection, 1), (2, limitsSection, (Config.sectionVersion 2).toNat), (3, timersSection, (Config.sectionVersion 3).toNat),
   (4, vectorsSection, 1)]

/-- The section directory, for sections laid one after the other from `off` on (DESIGN CHOICE,
notes/assumptions/118). -/
def tableDirectory : Nat → List (Nat × List Byte × Nat) → List Byte
  | _, [] => []
  | off, (id, body, version) :: rest => le 4 id ++ le 4 off ++ le 4 body.length ++ le 4 version ++ tableDirectory (off + body.length) rest

/-- The table with a CHECKSUM byte (R422). -/
def tableWith (checksum : Nat) : List Byte :=
  let body := tableSections.flatMap fun x => x.2.1
  let dir := tableDirectory (16 + 16 * tableSections.length) tableSections
  ascii "HSTB" ++ le 2 0x0100 ++ le 2 tableSections.length ++ le 4 (16 + dir.length + body.length) ++ le 1 checksum ++ zeros 3 ++ dir ++ body

/-- The station table: its CHECKSUM makes the sum of all its bytes zero modulo 256. -/
def stationTable : List Byte := tableWith ((256 - sumOf BitVec.toNat (tableWith 0) % 256) % 256)

/-- A byte of the expansion ROM image (R421, R422). What the spec does not state of it is free; the places inside the
PCI Data Structure are those of the PCI Firmware Specification (PRESUMED, notes/assumptions/178). -/
def romByte (o : Nat) : Byte :=
  let pcir := ascii "PCIR" ++ le 2 0x1F6C ++ le 2 0x5C48
  if o == 0 then 0x55
  else if o == 1 then 0xAA
  else if o == 0x18 || o == 0x19 then (le 2 0x20).getD (o - 0x18) 0
  else if 0x20 ≤ o && o < 0x28 then pcir.getD (o - 0x20) 0
  else if 0x2D ≤ o && o < 0x30 then (le 3 0x050210).getD (o - 0x2D) 0
  else if o == 0x30 || o == 0x31 then (le 2 0x200).getD (o - 0x30) 0
  else if o == 0x34 then 0x70
  else if o == 0x35 then 0x80
  else if 0x40 ≤ o && o < 0x40 + stationTable.length then stationTable.getD (o - 0x40) 0
  else Config.romFill o

/-! ## The Holmujo DVSEC (R420) -/

/-- Its 32 bytes on a station. The next pointer is free; the places of ID, version and length inside the two headers
are PCI Express's (PRESUMED, notes/assumptions/178). -/
def State.holmujoDvsec (s : State) (n : Nat) : List Byte :=
  le 4 (bits [(0, 0x0023), (16, 1), (20, Config.nextCapability.toNat)]) ++ le 4 (bits [(0, 0x1F6C), (16, 1), (20, 0x20)]) ++ le 2 1 ++
  le 1 n ++ le 1 2 ++ le 1 (2 * 8) ++ le 1 (s.idState % 4) ++ le 2 0x0100 ++ le 4 0x40 ++ le 4 stationTable.length ++ le 8 s.mod.serial.toNat

end Sys2Proof.Machine
end

