-- ==== Sys2Proof/Tests/Slice0.lean ====
section
/-! SUPPORT. The model's own tests: for every statement that has hypotheses, clause by clause, a state that meets them; ill-formed
commands that the check refuses; values from published test vectors; single steps. -/
namespace Sys2Proof.Tests
open Sys2Proof.Machine
set_option Elab.async false

/-! ## Small states -/

/-- `Fit` as a check. -/
def fits (s : State) (h : CmdHdr) (roles : List Role) (len : Nat) (boot recov query : Bool := false) : Bool :=
  s.reaches h.mbx && !s.captured 6 (coreOf h.mbx) && (query || !s.ringAwaits h) && !(s.mb h.mbx).handover && !s.fw.handover && !s.gapNow && (boot || s.mod.phase != .bringUp) &&
    (recov || s.mod.phase != .recovery) && roles.contains (s.role h.mbx h.sender) && h.ver == 1 && h.rsvHdr == 0 && decide (h.flags.toNat ≤ 1) &&
    decide (len ≤ h.len.toNat) && decide (h.len.toNat ≤ 4032) &&
    (query || h.tag == 0 || (s.mbx.journal.find? (·.tag == h.tag)).isNone) && h.rsvPay.all (· == 0)

theorem fits_fit {s : State} {h : CmdHdr} {roles : List Role} {len : Nat} {boot recov query : Bool}
    (e : fits s h roles len boot recov query = true) : Fit s h roles len boot recov query := by
  simp only [fits, Bool.and_eq_true, Bool.or_eq_true, Bool.not_eq_true', decide_eq_true_eq, beq_iff_eq, bne_iff_ne,
    List.contains_eq_mem, List.all_eq_true, Option.isNone_iff_eq_none, or_assoc] at e
  obtain ⟨⟨⟨⟨⟨⟨⟨⟨⟨⟨⟨⟨⟨⟨⟨h1, hc⟩, hr⟩, h2⟩, h3⟩, h4⟩, h5⟩, h6⟩, h7⟩, h8⟩, h9⟩, h10⟩, h11⟩, h12⟩, h13⟩, h14⟩ := e
  exact ⟨h1, hc, hr, ⟨h2, h3, h4⟩, ⟨h5, h6⟩, h7, ⟨h8, h9, h10⟩, ⟨h11, h12⟩, h13, h14⟩

/-- A command of the Ethernet mailbox with `n` bytes of payload. -/
def hdr (n : BitVec 16) : CmdHdr := { mbx := .eth, len := n }

/-- The Ethernet mailbox holds a session of this role. -/
def under (r : Role) (s : State) : State := s.modMb .eth fun x => { x with session := r }

/-- In service. -/
def svc : State := State.reset.modMod fun m => { m with phase := .service, stage := .done, errForced := false }

/-- Station 5 is up, with decoder 0 over one window and the link's features on. -/
def stn5 : State := svc.modStn 5 fun t => { t with
  up := true, barsSet := true, memActive := true, flit := 1, biEn := true, memEn := true, cacheEn := true, atsEnable := true, decoders := [(0, { size := 2 ^ 28, committed := true })] }

/-- Well 3, LIVE on die 0, of context 0; context 0 is LIVE. -/
def w3 : Well := { st := .live, place := .loc 0, start := 44 * 2 ^ 30, length := 2 ^ 20 }

def welled (w : Well) : State := ((stn5.modPool fun p => { p with granules := [(44, { place := .loc 0, q0 := 88 })], wells := [(3, w)] }).modCtx 0
  fun c => { c with st := .live })

/-- Cistern 2 is LIVE with station 5 a member. -/
def cis2 (f : Cistern → Cistern) : State := stn5.modCis 2 fun c => f { c with st := .live, members := [5] }

/-! ## What each statement's hypotheses ask of, met by a state -/

/-- With well 3 and an operator. -/
def ws : State := under .operator (welled w3)
def wsWith (w : Well) : State := under .operator (welled w)

/-- A place is found wherever one lies at an edge, whatever the free choice proposes first. -/
theorem findRun_edge {s : State} {p : Place} {n : Nat}
    (h : (((edges s.spans) ++ ((edges s.spans).filter (n ≤ ·)).map (· - n)).find? fun a =>
      (s.choose (Config.poolEnd / 65536)).2.runFits p s.spans (s.framesFor p) a n).isSome = true) : (s.findRun p n).1.isNone = false := by
  unfold State.findRun
  dsimp only
  split
  · rfl
  · cases hf : List.find? _ _ with
    | none => rw [hf] at h; cases h
    | some a => rfl

theorem placed : (ws.findRun .spread 65536).1.isNone = false := findRun_edge (by decide +kernel)
theorem placedFor3 : (ws.findRun .spread (ws.well 3).length).1.isNone = false := findRun_edge (by decide +kernel)

theorem wit_WellCreate : Fit ws (hdr 16) [.operator] 16 ∧ createCheck 65536 1 0 0 0xFFFFFFFF {} ws = none := by
  refine ⟨fits_fit (by decide +kernel), ?_⟩
  unfold createCheck
  rw [show Place.ofCode 1 = some .spread from rfl]
  dsimp only
  rw [placed]
  decide +kernel

theorem wit_Migrate : migrateCheck (hdr 8) 3 1 0 1000 ws = none := by
  unfold migrateCheck State.onWell
  rw [show ws.named 3 = some 3 by decide +kernel]
  rw [show Place.ofCode 1 = some .spread from rfl]
  dsimp only [Option.getD]
  rw [placedFor3]
  decide +kernel

def migrating : Well := { w3 with st := .migrating, mig := some { start := 45 * 2 ^ 30, place := .spread, rate := 1, wb := 1 } }

theorem wit_WellCommands :
    (Fit ws (hdr 4) [.operator] 4 ∧ destroyCheck (hdr 4) 3 ws = none ∧ ws.named 3 = some 3) ∧
    (Fit ws (hdr 16) [.operator] 16 ∧ resizeCheck (hdr 16) 3 (2 ^ 21) {} ws = none ∧ resizeCheck (hdr 16) 3 (2 ^ 16) {} ws = none) ∧
    (Fit ws (hdr 8) [.operator] 8 ∧ grantCheck 3 5 3 0xFF ws = none ∧ ws.grantDecoder 5 0xFF = some 0) ∧
    (Fit (wsWith { w3 with grants := [(5, ⟨false, true, 0⟩)] }) (hdr 5) [.operator] 5 ∧
      revokeCheck 3 5 (wsWith { w3 with grants := [(5, ⟨false, true, 0⟩)] }) = none) ∧
    Place.ofCode 1 = some .spread ∧
    (Fit (wsWith migrating) (hdr 8) [.operator] 8 ∧ cancelCheck (hdr 8) 3 0 0 (wsWith migrating) = none) := by
  constructorm* _ ∧ _ <;> first | exact fits_fit (by decide +kernel) | decide +kernel

/-- Cistern 2 with station 5 a member. -/
def cs (f : Cistern → Cistern) : State := under .operator (cis2 f)

theorem wit_CisternCreate : Fit ws (hdr 18) [.operator] 18 ∧ ∃ c, ws.freeCisIdx.1 = some c :=
  ⟨fits_fit (by decide +kernel), _, rfl⟩

theorem wit_CisternCommands :
    (Fit (cs id) (hdr 5) [.operator] 5 ∧ (cs id).namedCis 2 = some 2 ∧ joinCheck 2 47 (cs id) = none ∧ leaveCheck 2 5 (cs id) = none) ∧
    (Fit (cs fun c => { c with st := .down }) (hdr 5) [.operator] 5 ∧ recoverCheck 2 .zero (cs fun c => { c with st := .down }) = none ∧
      recoverCheck 2 .keep (cs fun c => { c with st := .down }) = none ∧ recoverCheck 2 .dissolve (cs id) = none) := by
  constructorm* _ ∧ _ <;> first | exact fits_fit (by decide +kernel) | decide +kernel

theorem wit_WellQueries :
    Fit ws (hdr 4) (wellQueryRoles (hdr 4) 3 ws) 4 false true true ∧ Fit ws (hdr 4) [.operator] 4 false true true ∧
    Fit (cs id) (hdr 4) (cisQueryRoles (hdr 4) 2 (cs id)) 4 false true true := by
  constructorm* _ ∧ _ <;> exact fits_fit (by decide +kernel)

def entry : RangeWords := { vbase := 0, length := 65536, well := 3, rights := 3, flags := 1, offset := 0 }

theorem wit_Translation :
    (Fit ws (hdr 32) [.operator] 32 ∧ ws.freeCtx = some 1) ∧
    (Fit (under .operator (stn5.modCtx 0 fun c => { c with st := .live })) (hdr 2) [.operator] 2 ∧
      ((under .operator (stn5.modCtx 0 fun c => { c with st := .live })).ctx 0).st = .live ∧
      (under .operator (stn5.modCtx 0 fun c => { c with st := .live })).ctxWells 0 = 0 ∧
      (under .operator (stn5.modCtx 0 fun c => { c with st := .live })).ctxPlats 0 = 0 ∧
      (under .operator (stn5.modCtx 0 fun c => { c with st := .live })).ctxNss 0 = 0) ∧
    (Fit ws (hdr 40) [.operator] (segsLen (rangeSetCmd 0 255 1 [entry]).segs) ∧ rangeSetCheck 0 255 1 [entry] {} ws = none) ∧
    (Fit ws (hdr 24) [.operator] 24 ∧ spanOk 0 65536 = true ∧ (ws.ctx 0).st = .live) ∧
    (Fit ws (hdr 8) [.operator] 8 ∧ (ws.stnAt 5).atsEnable = true ∧ ws.stnJobs 5 = 0) := by
  constructorm* _ ∧ _ <;> first | exact fits_fit (by decide +kernel) | decide +kernel

def granted : Well := { w3 with grants := [(5, ⟨false, true, 0⟩)] }
/-- Platform 7 in this state. -/
def plat7 (st : PlatSt) : State := (wsWith granted).modPlat 7 fun x => { x with st := st, station := 5, ringWell := 3 }

theorem wit_PlatformCreate : Fit (wsWith granted) (hdr 32) [.operator] 32 ∧
    platCreateCheck 3 5 0 2047 0 0 4 16 1 (wsWith granted) = none ∧ ∃ p, (wsWith granted).freePlat.1 = some p :=
  ⟨fits_fit (by decide +kernel), by decide +kernel, _, rfl⟩

theorem wit_Platforms :
    (Fit (plat7 .active) (hdr 2) [.operator] 2 ∧ ((plat7 .active).plat 7).st ≠ .free ∧ ((plat7 .active).plat 7).st ≠ .destroying) ∧
    (Fit (plat7 .active) (hdr 3) [.operator] 3 ∧ ((plat7 .active).plat 7).st = .active) ∧
    (Fit (plat7 .draining) (hdr 3) [.operator] 3 ∧ ((plat7 .draining).plat 7).st = .draining) ∧
    (Fit (plat7 .drained) (hdr 3) [.operator] 3 ∧ ((plat7 .drained).plat 7).st = .drained) ∧
    (Fit (plat7 .stopped) (hdr 3) [.operator] 3 ∧ ((plat7 .stopped).plat 7).st = .stopped ∧ ((plat7 .stopped).plat 7).held = 0) ∧
    (Fit ws (hdr 16) [.operator] 16 ∧ partCheck 0 12 0 0xFFFF ws = none) := by
  constructorm* _ ∧ _ <;> first | exact fits_fit (by decide +kernel) | decide +kernel

/-- Namespace 1 over well 3. -/
def ns1 : State := ws.modNs 1 fun x => { x with st := .live, store := 3 }

theorem wit_Namespaces :
    (Fit (wsWith { w3 with kvb16 := true }) (hdr 32) [.operator] 32 ∧ nsCreateCheck 3 1 0 1 1 3600 1 1 (wsWith { w3 with kvb16 := true }) = none ∧
      ∃ i, (wsWith { w3 with kvb16 := true }).freeNs.1 = some i) ∧
    (Fit ns1 (hdr 4) [.operator] 4 ∧ ns1.namedNs 1 = some 1 ∧ (ns1.ns 1).st ≠ .destroying) ∧
    (Fit ns1 (hdr 11) [.operator] 11 ∧ nsQuotaCheck 1 1 0xFFFF 2 ns1 = none) := by
  constructorm* _ ∧ _ <;> first | exact ⟨_, rfl⟩ | exact fits_fit (by decide +kernel) | decide +kernel

theorem wit_Caches :
    (Fit (ws.onSlices 15 fun x => { x with st := .disabled }) (hdr 16) [.operator] 16 ∧ (∀ d ∈ slicesOf 15, ((ws.onSlices 15 fun x => { x with st := .disabled }).slice d).st = .disabled)) ∧
    (Fit (ws.onSlices 15 fun x => { x with st := .enabled }) (hdr 16) [.operator] 16 ∧
      (∀ d ∈ slicesOf 15, ((ws.onSlices 15 fun x => { x with st := .enabled }).slice d).st = .enabled)) ∧
    Fit ws (hdr 16) [.operator] 16 false true true := by
  constructorm* _ ∧ _ <;> first | exact fits_fit (by decide +kernel) | decide +kernel

def is : State := under .installer (welled w3)
def peer : PeerInfo := { serial := 9, versions := 1, next := 1 }

/-- The twin is there, its link up and no pair. -/
def apart : State := is.modTwin fun t => { t with present := true, links := Vector.replicate 4 true }
/-- A pair, whose twin holds well 3's copy. -/
def paired : State := (apart.modTwin fun t => { t with st := .paired })
def mirrored3 : State := paired.modWell 3 fun w => { w with mirror := some { primary := true, origin := true, st := .sync, twinStart := 0 } }

theorem wit_Twin :
    (Fit apart (hdr 8) [.installer] 8 ∧ apart.pairRefusal peer = none) ∧
    (Fit paired (hdr 8) [.installer] 8 ∧ paired.isPaired = true ∧ paired.twin.unpairing = none ∧ paired.mirrored = []) ∧
    (Fit mirrored3 (hdr 8) [.installer] 8 ∧ switchCheck 0 0 0 mirrored3 = none) ∧
    (Fit (is.modTwin fun t => { t with st := .fenced }) (hdr 8) [.installer] 8 ∧ (is.modTwin fun t => { t with st := .fenced }).twin.st = .fenced) ∧
    (Fit mirrored3 (hdr 4) anyRole 4 false true true ∧ mirrored3.namedMir 3 = some 3) := by
  constructorm* _ ∧ _ <;> first | exact fits_fit (by decide +kernel) | decide +kernel

def rec1 : FaultRec :=
  { seq := 1, time := 0, source := 0x0401, cls := 1, react := .int, pin := false, unitKind := 4, unit := 5, temp := 0, rail := 0, object := 0,
    address := 0, detail := 0, stns := [5] }
def recorded : State := ws.modFlt fun f => { f with records := [rec1], nextSeq := 2 }

theorem wit_Faults :
    Fit ws (hdr 16) anyRole 16 true true true ∧
    (Fit recorded (hdr 16) [.operator] 16 false true ∧ recorded.recordOf 1 = some rec1 ∧ rec1.acked = false) ∧
    (Fit is (hdr 16) [.installer] 16 ∧ policyOk 0x0301 0 0 1 1 = true) ∧
    Fit ws (hdr 16) [.operator, .installer, .maker] 16 true true true ∧
    (keepOr 3600 10 3600 = true ∧ keepOr 10000 500 10000 = true ∧ keepOr 168 1 168 = true) := by
  constructorm* _ ∧ _ <;> first | exact fits_fit (by decide +kernel) | decide +kernel

theorem wit_Power : Fit is (hdr 16) [.installer] 16 ∧ limitOk 2200 0 1000000 60000000 3600000 = true ∧
    limitOk 0xFFFF 0xFF 0xFFFFFFFF 0xFFFFFFFE 0 = true ∧ Fit is (hdr 0) anyRole 0 true true true := by
  constructorm* _ ∧ _ <;> first | exact fits_fit (by decide +kernel) | decide +kernel

def running1 : Versions := ⟨0x01000000, 0x01000000, 0x01000000, 0x01000000, 0x01000000⟩

theorem wit_Firmware :
    (Fit is (hdr 24) [.installer] 24 ∧ stageCheck 3 0 4096 is = none) ∧
    (Fit is (hdr 28) (if (0 : Byte).getLsbD 0 then [.maker] else [.installer]) 28 ∧ activateCheck 0 0 running1 is = none ∧
      is.fwTarget 0 running1 = some (versionList running1)) ∧
    (Fit (under .maker svc) (hdr 28) (if (1 : Byte).getLsbD 0 then [.maker] else [.installer]) 28) ∧
    Fit is (hdr 2) [.installer] 2 false true true := by
  constructorm* _ ∧ _ <;> first | exact fits_fit (by decide +kernel) | decide +kernel

/-- The base point of P-384 as a public key. -/
def key1 : BitVec 768 := 0x5f0eea907c1d437a9d817e1dceb1600ac0b8f0b51331dae97c149a28bd1df4f829dc9292bf989e5d6f2c26964ade1736b70a7672385e543a6c2955bf5df20255382a5482e041f759989ba78b623b1d6e74ad20f31ec7b18e37058bbe22ca87aa
/-- A public key and a signature by it over the challenge below, made outside the model (s = e, so that both scalars are 1). -/
def key2 : BitVec 768 := 0xb2d54371fa69a4331ca78d9e829c68bba81a79cf65ec1db7e988646cd104a7128c7a7271125e8b0bde0722aca054e0ca5e3cb6acf3cfb723b8d6caac88f3df7602aa59aa50056225487674d0e7ce8e395822785eda85241378943c78dd5539bc
def sig2 : BitVec 768 := 0xdb43950306e191f836faf7d3e59c4ff87150e9febcf935582bbb3b2784def61c75ff55f6c933e2f8e6e34035c396e197db43950306e191f836faf7d3e59c4ff87150e9febcf935582bbb3b2784def61c75ff55f6c933e2f8e6e34035c396e197

/-- A challenge for the operator's role waits on the Ethernet mailbox. -/
def challenged : State := (svc.modSec fun x => { x with creds := [(5, ⟨1, 7, key2⟩)] }).modMb .eth fun x =>
  { x with challenge := some { nonce := 0, role := 1, cred := 7, expires := 1000 } }

theorem wit_Respond : Fit challenged (hdr 112) anyRole 112 true true ∧ roleOk 1 = true ∧ challenged.authVerdict (hdr 112) 1 7 sig2 = 0 := by
  constructorm* _ ∧ _ <;> first | exact fits_fit (by decide +kernel) | decide +kernel

/-- A signature of zeros is refused. -/
theorem test_respond_bad : challenged.authVerdict (hdr 112) 1 7 0 = 3 := by decide +kernel

def keyed : State := is.modSec fun x => { x with keys := [(300, { keys := 0, station := 5, context := 0xFFFF, peer := 0 })] }

theorem wit_Security :
    (Fit svc (hdr 112) anyRole 112 true true ∧ svc.heldByOther (hdr 112) = false ∧ svc.lockedOut .eth = false) ∧
    (Fit is (hdr 0) anyRole 0 true true ∧ is.role .eth 0 ≠ .none) ∧
    (Fit is (hdr 176) [.installer] 176 ∧ keyGenerateCheck { slot := 4095 } is = none) ∧
    (Fit keyed (hdr 176) [.installer] 176 ∧ keyBindCheck { slot := 300, well := 3 } keyed = none ∧ keyed.named 3 = some 3 ∧
      keyEraseCheck { slot := 300 } keyed = none) ∧
    credSetCheck { slot := 63, roles := 3, credId := 7, pubkey := key1 } is = none ∧
    credEraseCheck { slot := 1 } is = none ∧
    Fit is (hdr 16) [.operator, .installer, .maker] 16 false true true := by
  constructorm* _ ∧ _ <;> first | exact fits_fit (by decide +kernel) | decide +kernel

def inPhase (p : Phase) : State := (under .installer svc).modMod fun m => { m with phase := p, metaBad := true }

theorem wit_Service :
    (Fit is (hdr 8) [.installer] 8 false true ∧ moduleDrainCheck [.service] 1 is = none) ∧
    (Fit (inPhase .recovery) (hdr 8) [.installer] 8 false true ∧ moduleDrainCheck [.service, .drained, .recovery] 1 (inPhase .recovery) = none) ∧
    (Fit (inPhase .drained) (hdr 8) [.installer] 8 false true ∧ (inPhase .drained).mod.phase = .drained ∧ (inPhase .drained).flt.replaceFlag = false ∧
      (inPhase .drained).mod.drain = none ∧ (inPhase .drained).pwr.powerDown = false) ∧
    ((inPhase .recovery).mod.metaBad = true ∧ (inPhase .recovery).mod.otherBad = false ∧ (inPhase .recovery).mod.drain = none) ∧
    (Fit is (hdr 16) [.installer] 16 ∧ spareCheck 23 1 0 is = none ∧ is.mod.drain = none) ∧
    (Fit (under .maker svc) (hdr 16) [.maker] 16 ∧ (under .maker svc).isPaired = false ∧ (under .maker svc).gapNow = false ∧
      (∀ x ∈ (under .maker svc).pool.wells, x.2.grants = [])) := by
  constructorm* _ ∧ _ <;> first | exact fits_fit (by decide +kernel) | decide +kernel

def maker : State := (under .maker (welled w3)).modMod fun m => { m with phase := .factory }

theorem wit_Injections : Fit maker (hdr 16) [.maker] 16 ∧ maker.mod.phase = .factory ∧ raiseOk ⟨4, 47, 1, 0x0401, 0⟩ = true ∧
    storedLine (44 * 2 ^ 30 + 2 ^ 30 - 1) maker = true ∧ 3 < unitsOf 5 ∧ 47 < unitsOf 4 := by
  constructorm* _ ∧ _ <;> first | exact fits_fit (by decide +kernel) | decide +kernel

theorem wit_Interface : Fit svc (hdr 0) anyRole 0 true true true ∧ Fit svc (hdr 16) anyRole 16 false true true ∧
    Fit svc (hdr 8) anyRole 8 false true true := by
  constructorm* _ ∧ _ <;> exact fits_fit (by decide +kernel)

/-! ## Roles, and general statements -/

theorem wit_Settled : Settled State.reset := by
  refine ⟨rfl, ?_, ?_⟩ <;> decide +kernel

theorem wit_Step : step { State.reset with pending := [.aliveToggle] } = exec .aliveToggle State.reset ∧ State.reset.pending = [] := ⟨rfl, rfl⟩

/-- A command without its role: an installer's on a mailbox without a session. -/
theorem wit_Role : svc.mailOf (.moduleDrain (hdr 8) 0) = some (hdr 8, [.installer]) ∧ svc.role .eth 0 ∉ [Role.installer] ∧
    svc.reaches .eth = true ∧ (svc.mb .eth).handover = false ∧ svc.fw.handover = false ∧ svc.gapNow = false ∧ svc.mod.phase ≠ .bringUp ∧
    svc.mailOf (.moduleDrain { hdr 8 with mbx := .stn 5 } 0) = some ({ hdr 8 with mbx := .stn 5 }, [.installer]) ∧ svc.reaches (.stn 5) = false := by
  decide +kernel

/-- A command that its own check refuses. -/
theorem wit_Refused : ws.reaches .eth = true ∧ (match exec (.wellDestroy (hdr 4) 9) ws with
    | .next u => u.out.head?.any fun o => match o with | .reply .eth 0 r => r.status == .badArgument | _ => false
    | _ => false) = true := by decide +kernel

/-- The worked example of 04 R101, by hand from its formula: tag 0x4B00, hash 0x70700, and L's low bits 0x48D29 (the example's text
divides 0x0123_4A40 by 64 to 0x48D31: notes/assumptions/29). -/
theorem test_directory_example : dirTagOf (2400 * 2 ^ 28 + 0x1234A40) = 0x4B00 ∧
    dirSetOf (2400 * 2 ^ 28 + 0x1234A40) = 0x48D29 ^^^ 0x70700 := by decide +kernel

theorem wit_Addresses : ((welled w3).granule 44).place = .loc 0 ∧ (State.reset.granule 44).place = .free ∧
    ((svc.modPool fun p => { p with granules := [(50, { place := .spread })] }).granule 50).place = .spread := by decide +kernel

/-! ## Hosts and stations -/

theorem wit_Requests : (stn5.stnAt 5).up = true ∧ 0 < (stn5.stnAt 5).reqFree ∧ 0 < (stn5.stnAt 5).rwdFree := by decide +kernel

/-- A coherent well of cistern 2 granted to station 5 through decoder 0. -/
def w3coh : Well := { w3 with coh := true, cistern := some 2, grants := [(5, ⟨false, true, 0⟩)] }
def coh : State := ((welled w3coh).modCis 2 fun c => { c with st := .live, members := [5] }).modStn 5 fun t =>
  { t with decoders := [(0, { size := 2 ^ 28, committed := true, well := some 3 })] }

theorem wit_Decoders :
    ((coh.stnAt 5).memActive = true ∧ (coh.stnAt 5).decoders.find? (fun y => y.2.covers (2 ^ 20 - 64)) =
        some (0, { size := 2 ^ 28, committed := true, well := some 3 }) ∧ 2 ^ 20 - 64 - 0 < (coh.well 3).length ∧
      tget (coh.well 3).grants 5 = some ⟨false, true, 0⟩ ∧ (coh.well 3).tail (2 ^ 20 - 64) = false ∧ (coh.well 3).coh = true ∧
      (coh.stnAt 5).flit ≠ 0 ∧ (coh.stnAt 5).biEn = true) ∧
    ((coh.stnAt 5).decoders.find? (fun y => y.2.covers (2 ^ 28)) = none) := by decide +kernel

/-- A snoop of station 5's line 64 of well 3 waits for its response. -/
def snooped : State := coh.modHome fun h =>
  { h with snoops := [{ key := 44 * 2 ^ 30 + 64, holder := 5, hpa := 64, kind := .cur, deadline := 1000, cistern := 2 }] }

theorem wit_SnoopResponses : (snooped.stnAt 5).up = true ∧ 0 < (snooped.stnAt 5).rspFree ∧
    ((snooped.rspSlot 5).snoopAt 5 64).map (·.kind) = some .cur ∧ BiKind.cur.allows .e = true ∧ BiKind.inv.allows .s = false := by decide +kernel

def held1 : DirEnt := { key := 44 * 2 ^ 30, die := 0, set := 0, ways := [0], excl := .e, holders := [5], held := true, holdEnd := 500 }

theorem wit_HomeTimers :
    (((coh.modHome fun h => { h with dir := [held1] }).ent (44 * 2 ^ 30)).map (·.held) = some true) ∧
    ((snooped.home.snoops.find? fun p => p.holder == 5 && p.key == 44 * 2 ^ 30 + 64).isSome = true) ∧
    (((coh.modTwin fun t => { t with st := .paired }).modHome fun h => { h with snoops :=
      [{ key := 0, holder := 48, hpa := 0, kind := .inv, deadline := 9, cistern := 2 }] }).isPaired = true) ∧
    (((cis2 fun c => { c with walking := true }).cis 2).walking = true ∧ (∀ e ∈ (cis2 fun c => { c with walking := true }).home.dir, False) ∧
      (∀ t ∈ (cis2 fun c => { c with walking := true }).home.txns, False)) ∧
    (((cis2 fun c => { c with st := .recovering, recover := some (.zero, some 9) }).cis 2).walking = false ∧
      (cis2 fun c => { c with st := .recovering, recover := some (.zero, some 9) }).pool.revs = []) ∧
    ((ws.onSlices 8 fun x => { x with st := .flushing, wb := some 4 }).slice 3).st = .flushing := by decide +kernel

def tracker0 : Tracker := { die := 1, slot := 63, src := .stn 5, host := false, start := 0, high := 0, threshold := 0, last := 7 }

theorem wit_Tracker : ({ coh with cache := { coh.cache with trackers := [tracker0] } } : State).cache.trackers.find?
    (fun t => t.die == 1 && t.slot == 63) = some tracker0 := by decide +kernel

def hostLine (h : HostSt) : CLine := { key := .host 5 64, die := 0, set := 0, way := 0, data := 0, hst := h }
def holding (h : HostSt) : State := { coh with cache := { coh.cache with lines := [hostLine h] } }

theorem wit_HostSnoops : coh.cached (.host 5 (lineOf 64)) = none ∧ (holding .s).cached (.host 5 (lineOf 64)) = some (hostLine .s) ∧
    (holding .m).cached (.host 5 (lineOf 64)) = some (hostLine .m) := by decide +kernel

theorem wit_Registers : (stn5.stnAt 5).up = true ∧ (stn5.stnAt 5).barsSet = true ∧ (stn5.stnAt 5).d3hot = false ∧
    ((stn5.modStn 5 fun t => { t with barsSet := false }).stnAt 5).barsSet = false ∧ (stn5.stnAt 5).winEnable = false ∧
    ((stn5.modStn 5 fun t => { t with winEnable := true }).stnAt 5).winEnable = true ∧ ((stn5.modStn 5 fun t => { t with d3hot := true }).stnAt 5).d3hot = true ∧
    (welled w3coh).regionBacked (44 * 2 ^ 30) = true ∧ (welled w3coh).regionAllowed 5 (44 * 2 ^ 30) = true := by decide +kernel

theorem wit_Hdm : (tgetD (stn5.stnAt 5).decoders 31 {}).committed = false ∧
    tget (stn5.stnAt 5).decoders 0 = some { size := 2 ^ 28, committed := true } ∧
    tget (coh.stnAt 5).decoders 0 = some { size := 2 ^ 28, committed := true, well := some 3 } := by decide +kernel

theorem wit_StationEvents : (stn5.stnAt 5).recovery = false ∧ ((stn5.modStn 5 fun t => { t with recovery := true }).stnAt 5).recovery = true ∧
    (stn5.stnAt 5).perst = false ∧ (stn5.stnAt 6).up = false ∧ stn5.heldDown 6 = false ∧ modeOk ⟨3, 8, 1, 2⟩ = true ∧ stn5.answers = true ∧
    (stn5.stnAt 6).barsSet = false ∧ ((stn5.modStn 6 fun t => { t with barsSet := true }).stnAt 6).barsSet = true ∧
    ((stn5.modStn 6 fun t => { t with barsSet := true }).stnAt 6).up = false ∧
    ((stn5.modStn 5 fun t => { t with memReturn := true }).stnAt 5).memReturn = true ∧ stn5.mod.phase = .service := by decide +kernel

/-! ## Wells' moments -/

theorem wit_NewBytes : ((welled { w3 with st := .creating }).well 3).st = .creating ∧
    ((welled { w3 with st := .resizing, resize := some { newLen := 2 ^ 21, wb := 4 } }).well 3).st = .resizing ∧
    ((welled { w3 with st := .resizing, resize := some { newLen := 2 ^ 21, wb := 4 } }).well 3).length < 2 ^ 21 := by decide +kernel

def rev3 : Rev := { well := 3, station := 5, start := 0, cause := .revoke 4 }
def revoking : State := (welled { w3 with grants := [(5, ⟨true, true, 0⟩)] }).modPool fun p => { p with revs := [rev3] }
def freed : State := welled w3 |>.modPool fun p => { p with dirtyRuns := [(45 * 2 ^ 30, 65536)] }
def mig1 (transit : Bool) (point : Nat) (cancel : Option Nat) : Mig :=
  { start := 45 * 2 ^ 30, place := .loc 0, rate := 1, wb := 1, transit := transit, point := point, cancel := cancel }
def moving (m : Mig) : State := welled { w3 with st := .migrating, mig := some m }

theorem wit_WellMoments :
    (revoking.pool.revs.find? (fun v => v.well == 3 && v.station == 5) = some rev3 ∧ revoking.revDrained rev3 = true ∧ rev3.frm = 0 ∧
      rev3.deadHost = false) ∧
    (freed.pool.dirtyRuns = [(45 * 2 ^ 30, 65536)] ∧ (∀ r ∈ freed.spans, overlaps (45 * 2 ^ 30) 65536 r = false)) ∧
    (((moving (mig1 false 0 none)).well 3).mig = some (mig1 false 0 none) ∧ (moving (mig1 false 0 none)).isDown ((moving (mig1 false 0 none)).well 3) = false) ∧
    ((mig1 true 65536 none).transit = true) ∧ ((moving (mig1 false 65536 (some 2))).well 3).doomed = false ∧
    (moving (mig1 false 65536 (some 2))).isDown ((moving (mig1 false 65536 (some 2))).well 3) = false ∧ (mig1 true 65536 (some 2)).back = true ∧
    ((moving (mig1 false 0 (some 2))).wellSwitched 3 = true) := by decide +kernel

/-! ## The pair -/

theorem wit_Crossover : apart.twin.present = true ∧ (apart.modTwin fun t => { t with st := .pairing }).twin.st = .pairing ∧ svc.twin.present = false ∧
    svc.answers = true ∧ 3 ∈ paired.xoUp ∧ paired.isPaired = true ∧ paired.twin.retired[3] = false ∧ paired.twin.laneFails[3] = [] ∧
    (paired.modTwin fun t => { t with laneFails := t.laneFails.set 3 [15] }).twin.laneFails[3] = [15] ∧
    (paired.modTwin fun t => { t with presenceWait := true }).twin.presenceWait = true ∧ (paired.modMbx fun x => { x with keeper := true }).mbx.keeper = true ∧
    (paired.modMbx fun x => { x with keeper := false }).mbx.keeper = false := by decide +kernel

/-- The twin's side of a mirrored well: this module holds the copy that is not primary. -/
def copy3 (st : MirSt) : State := (paired.modWell 3 fun w => { w with coh := true, mirror := some { primary := false, origin := false, st := st, twinStart := 0 } })

theorem wit_TwinMessages :
    ((copy3 .sync).isPaired = true ∧ (copy3 .sync).namedMir 3 = some 3 ∧ ((copy3 .sync).well 3).isHome = false ∧ ((copy3 .sync).well 3).coh = true) ∧
    (paired.named 3 = some 3 ∧ paired.namedMir 3 = none) ∧
    ((paired.modCis 2 fun c => { c with st := .live }).namedCis 2 = some 2 ∧ ((paired.modCis 2 fun c => { c with st := .live }).cis 2).st = .live) ∧
    ((paired.ctx 4095).st = .free ∧ paired.answers = true) ∧
    ((paired.modTwin fun t => { t with st := .gap }).twin.st = .gap) ∧
    ((paired.modTwin fun t => { t with swo := some ⟨some 1, [], [], true⟩ }).twin.swo = some ⟨some 1, [], [], true⟩ ∧ paired.twin.st ≠ .gap) := by decide +kernel

def req1 : Req := { org := .host 5 0, kind := .plainRd, well := 3, gen := 0, off := 0 }
def mirOut1 : MirOut := { id := 1, req := req1, well := 3, off := 0, data := 0, pois := false, deadline := 10 }
def fwdOut1 : FwdOut := { id := 1, req := some req1 }

theorem wit_TwinAnswers :
    (paired.modTwin fun t => { t with mirOut := [mirOut1] }).twin.mirOut.find? (·.id == 1) = some mirOut1 ∧
    (paired.modTwin fun t => { t with fwdOut := [fwdOut1] }).twin.fwdOut.find? (·.id == 1) = some fwdOut1 := by decide +kernel

theorem wit_Upkeep : ((copy3 .sync).well 3).mirSt = some .sync ∧ (mirrored3.well 3).mirSt = some .sync ∧ (mirrored3.well 3).isHome = true ∧
    ((copy3 .sync).modTwin fun t => { t with auditLast := some (3, 253) }).auditNext = some (3, 254) ∧ (copy3 .sync).auditNext = some (3, 0) ∧ 4096 * (254 + 1) < ((copy3 .sync).well 3).length ∧
    ((copy3 .resync).well 3).mirSt = some .resync ∧ ((copy3 .resync).well 3).isHome = false ∧
    ((paired.modWell 3 fun w => { w with mirror := some { primary := true, origin := true, st := .resync, twinStart := 0 } }).well 3).isHome = true ∧
    ((paired.modWell 3 fun w => { w with mirror := some { primary := true, origin := true, st := .resync, twinStart := 0 } }).modTwin fun t =>
      { t with bitmap := [((44 * 2 ^ 30) / 4096)] }).resyncNext = some (3, 0) := by decide +kernel

/-! ## Faults and tests -/

theorem wit_Checks :
    (svc.answers = true ∧ (sourceOf 0x0401).map (·.kind) = some 4 ∧ 47 < unitsOf 4 ∧ svc.flt.linkCrc = []) ∧
    (ws.flt.scrubEn = true ∧ ws.homeOf (44 * 2 ^ 30 + 64) = some (0, 88 * 2 ^ 28 + 64) ∧ ws.dieDormant 0 = false ∧
      ws.flt.scrubAt < (stackOf 0 (88 * 2 ^ 28 + 64)).1 * 2 ^ 48 + (stackOf 0 (88 * 2 ^ 28 + 64)).2 ∧ ws.upsetOf (44 * 2 ^ 30 + 64) = none) ∧
    (ws.homeOf (Config.locale0End - 64) = some (3, 14 * 2 ^ 30 - 64) ∧ (ws.quartersUsed 3).isEmpty = true ∧
      (ws.modPwr fun p => { p with dormant := p.dormant.set 3 true }).dieDormant 3 = true) ∧
    (svc.flt.katEn = true ∧ (∀ q < 16, (svc.pumpAt q).test = none) ∧ (svc.pumpAt 15).permanent = none ∧ (svc.pumpAt 15).updating = false ∧
      (svc.pumpAt 15).resetting = false ∧ (svc.pumpAt 15).moving = none) ∧
    (((svc.modPump 15 fun x => { x with test := some 6 }).pumpAt 15).test = some 6 ∧ (svc.pumpAt 15).job = none ∧ (svc.pumpAt 15).katFails = 0 ∧
      (svc.pumpAt 15).parityInj = 0 ∧ (svc.pumpAt 15).csumInj = 0 ∧ 0 < ((svc.modPump 15 fun x => { x with csumInj := 1 }).pumpAt 15).csumInj ∧
      (svc.pumpAt 15).katRun + 1 < svc.flt.maxOutUs / 150) ∧
    ((svc.modPump 15 fun x => { x with test := some 7, katFails := 1 }).pumpAt 15).katFails = 1 := by decide +kernel

theorem wit_Reactions :
    (maker.toggles = true ∧ maker.answers = true ∧ maker.toggleStopped = false) ∧
    ((svc.modFlt fun f => { f with busy := [(4, 5, true), (3, 15, true), (4, 6, false)] }).flt.busy = [(4, 5, true), (3, 15, true), (4, 6, false)]) ∧
    ((paired.modFlt fun f => { f with flaggedAt := some 5, drainDelay := some 60 }).flt.drainDelay = some 60 ∧ paired.isPaired = true ∧
      paired.mod.drain = none ∧ paired.pwr.powerDown = false) := by decide +kernel

theorem wit_Sessions : ((challenged.mb .eth).challenge.isSome = true) ∧
    (((svc.modMb .i3c fun x => { x with lockUntil := some 9 }).mb .i3c).lockUntil = some 9) ∧ (ws.mb .eth).session ≠ .none := by decide +kernel

/-- Station 5 with three secured sessions, I3C with four. -/
def secured : State := stn5.modSec fun x => { x with spdm := [(5, [1, 2, 3]), (48, [1, 2, 3, 4])] }

theorem wit_LinkSecurity : (tgetD secured.sec.spdm 5 []).length < 4 ∧ ((stn5.modStn 5 fun t => { t with ide := true }).stnAt 5).ide = true ∧
    (0 : Fin 3) ∈ ((stn5.modStn 5 fun t => { t with pcieIde := [0, 2] }).stnAt 5).pcieIde ∧ stn5.answers = true ∧ (stn5.stnAt 5).flit ≠ 0 ∧
    (stn5.stnAt 5).hasIde .cxl = false ∧ (stn5.stnAt 5).hasIde (.pcie 2) = false ∧ (tgetD secured.sec.spdm 48 [])[3]? = some 4 ∧
    (tgetD secured.sec.spdm 5 [])[2]? = some 3 ∧ (secured.stnAt 5).idePeer ≠ 3 := by decide +kernel

/-! ## Power and bring-up -/

theorem wit_Input : svc.pwr.hotSwap = .closed ∧ (svc.modPwr fun p => { p with limiting := true }).pwr.limiting = true ∧
    (svc.modPwr fun p => { p with hotSwap := .open_, holdOpen := 4 }).pwr.holdOpen = 4 ∧
    (svc.modPwr fun p => { p with hotSwap := .open_ }).pwr.holdOpen = 0 ∧ svc.pwr.standby = true ∧ svc.pwr.hot = false ∧
    (svc.modPwr fun p => { p with hotSwap := .sloping }).pwr.hotSwap = .sloping := by decide +kernel

theorem wit_PowerSteps : svc.answers = true ∧ svc.powerHeld = false ∧ svc.effectiveW < 2400 ∧ 2 < svc.pwr.duty ∧
    (svc.modPwr fun p => { p with duty := 2 }).pwr.duty ≤ 2 ∧ 6 < svc.pwr.memStep ∧ svc.pwr.below < 9 ∧ 1000 + 50 ≤ svc.effectiveW ∧
    (svc.modPwr fun p => { p with below := 9, memStep := 15 }).pwr.memStep < 16 ∧ State.reset.answers = false := by
  decide +kernel

def die1 : State := (svc.modPool fun p => { p with granules := [(44, { place := .loc 1, q0 := 56 })] }).modPwr fun p => { p with dormantMs := some 1 }

theorem wit_Idle : ((svc.quartersUsed 1).isEmpty = true ∧ svc.pwr.emptySince.toList.getD 1 none = some 0 ∧ svc.dieDormant 1 = false ∧ svc.answers = true) ∧
    (die1.dieDormant 1 = false ∧ (die1.quartersUsed 1).isEmpty = false ∧ die1.pwr.dormantMs = some 1) ∧
    ((svc.modPwr fun p => { p with waking := p.waking.set 1 true }).pwr.waking.toList.getD 1 false = true) ∧
    ((svc.pumpAt 15).idle = true ∧ ((svc.modPump 15 fun x => { x with clk := .hot }).pumpAt 15).clk = .hot ∧
      ((svc.modPump 15 fun x => { x with clk := .warm }).pumpAt 15).clk = .warm ∧ svc.pwr.warmIdleUs = some 1000) ∧
    ((svc.modPump 15 fun x => { x with waking := true, job := some 3 }).pumpAt 15).waking = true := by decide +kernel

theorem wit_Pins : svc.answers = true ∧ svc.mod.drain = none ∧ svc.pwr.powerDown = false ∧ (inPhase .drained).mod.phase = .drained ∧
    (inPhase .recovery).mod.attnUntil = none ∧ svc.twinHealthy = false ∧
    (svc.modMod fun m => { m with attnUntil := some 7 }).mod.attnUntil = some 7 ∧ State.reset.mod.stage = .reset ∧ State.reset.pwr.inputGood = true := by
  decide +kernel

def atStage (b : BootStage) : State := State.reset.modMod fun m => { m with stage := b }

theorem wit_BringUp : (atStage .rom).mod.stage = .rom ∧ (atStage .sb).mod.phase = .bringUp ∧ (atStage .checked).mod.stage = .checked ∧
    (∀ x ∈ (atStage .checked).mod.spares, x.done = true) ∧ (atStage .trained).mod.stage = .trained ∧ (atStage .restored).mod.stage = .restored ∧
    (atStage .filled).mod.stage = .filled := by decide +kernel

/-! ## Jobs -/

/-- A descriptor with the values of some fields, (offset, length, value), and all other bytes zero. -/
def descOf (l : List (Nat × Nat × Nat)) : List Byte :=
  l.foldl (fun b (o, n, v) => b.take o ++ le n v ++ b.drop (o + n)) (zeros 128)

/-- Job 1 of platform 7, at index 4. -/
def job1 (op : Nat) (st : JobStage) (l : List (Nat × Nat × Nat)) : Job := { id := 1, plat := 7, idx := 4, stage := st, opcode := op, desc := descOf l }

/-- Platform 7 with job 1, context 0's range 0 over well 3 and namespace 1 of that context. -/
def jobs (j : Job) : State :=
  (((plat7 .active).modJobs fun x => { x with jobs := [j], pumps := x.pumps.set 15 { x.pumps[15] with job := some 1 } }).modCtx 0 fun c =>
    { c with ranges := [(0, { vbase := 0, length := 2 ^ 20, well := 3, r := true, w := true, a := true, twin := false, offset := 0 })] }).modNs 1
      fun x => { x with st := .live, store := 3 }

/-- Operands 2 to 6 null. -/
def nulls : List (Nat × Nat × Nat) := (List.range 5).map fun k => (0x30 + 8 * k, 8, nullOp)
def prefixDesc (mode : Nat) : List (Nat × Nat × Nat) := nulls ++ [(0x28, 8, 4096), (0x58, 1, mode), (0x5C, 4, 1), (0x60, 4, 1)]
def fillDesc : List (Nat × Nat × Nat) := nulls ++ [(0x10, 8, nullOp), (0x28, 8, nullOp), (0x60, 8, 64)]
def lookup1 : Job := job1 0x50 (.running 16) (prefixDesc 0)
def release1 (mode : Nat) : Job := job1 0x52 (.running 16) (prefixDesc mode)

/-- What PrefixJobsAnswer asks of a state, for an operation. -/
def prefixReady (s : State) (j : Job) (op : Nat) : Bool :=
  s.jobAt 7 4 (fun j => j.opcode == op && (j.stage == .ready 16 || j.stage == .running 16)) == some j && j.stage == .running 16 &&
    s.job j.id == some j && j.status == none && s.namedNs (j.par 0x5C 4) == some 1 &&
    (let u := s.loadTurn j.id 16 4096 []
     match u.job j.id with
      | some j' => j'.status == none && u.loadsFull j' &&
        (let r := if j'.opcode == 0x52 then u.release j' 1 (j'.work.buf 0) else u.lookup j' 1 (j'.work.buf 0)
         (u.writesWait j' 16 (([{ opnd := 1, off := 0, bytes := r.1 }] : List Wr).flatMap (cutWr 8))).isNone)
      | none => false)

theorem wit_PrefixJobs : prefixReady (jobs lookup1) lookup1 0x50 = true ∧ prefixReady (jobs (release1 0)) (release1 0) 0x52 = true ∧
    prefixReady (jobs (release1 1)) (release1 1) 0x52 = true ∧ (release1 0).par 0x58 1 = 0 ∧ (release1 1).par 0x58 1 = 1 := by decide +kernel

theorem wit_ReadyJobs : (∀ op ∈ [0x00, 0x01, 0x02, 0x03, 0x10, 0x11, 0x20, 0x21, 0x22, 0x23, 0x24, 0x30, 0x31, 0x40, 0x51],
      (jobs (job1 op (.ready 15) [])).jobAt 7 4 (fun j => j.opcode == op && j.readyOn.isSome) = some (job1 op (.ready 15) [])) ∧
    (jobs (job1 0x40 (.ready 15) [])).descBad (job1 0x40 (.ready 15) []) ≠ none ∧
    (jobs (job1 0x21 (.ready 15) fillDesc)).descBad (job1 0x21 (.ready 15) fillDesc) = none ∧
    (jobs (job1 0x21 (.ready 15) fillDesc)).scratchBad (job1 0x21 (.ready 15) fillDesc) = none := by
  decide +kernel

def nopDesc : List (Nat × Nat × Nat) := nulls ++ [(0x10, 8, nullOp), (0x20, 8, nullOp), (0x28, 8, nullOp)]
def copyDesc (dst : Nat) : List (Nat × Nat × Nat) := nulls ++ [(0x10, 8, nullOp), (0x28, 8, dst), (0x60, 8, 64)]
/-- What ReadyJobsStart asks of the start of a job. -/
def startOk (op : Nat) (l : List (Nat × Nat × Nat)) : Bool :=
  ((jobs (job1 op (.ready 15) l)).descBad (job1 op (.ready 15) l)).isNone && ((jobs (job1 op (.ready 15) l)).scratchBad (job1 op (.ready 15) l)).isNone

theorem wit_Starts : startOk 0x00 nopDesc = true ∧ startOk 0x20 (copyDesc 64) = true ∧ startOk 0x20 (copyDesc 63) = true ∧ startOk 0x50 (prefixDesc 0 ++ [(0x10, 8, nullOp)]) = true ∧
    startOk 0x52 (prefixDesc 1 ++ [(0x10, 8, nullOp)]) = true ∧ rangesMeet ((job1 0x20 (.ready 15) (copyDesc 64)).op 0) 0 64 ((job1 0x20 (.ready 15) (copyDesc 64)).op 1) 0 64 = false ∧
    rangesMeet ((job1 0x20 (.ready 15) (copyDesc 63)).op 0) 0 64 ((job1 0x20 (.ready 15) (copyDesc 63)).op 1) 0 64 = true ∧
    (jobs lookup1).nsFor 7 1 = (1, none) ∧ ((jobs lookup1).nsFor 7 2).2 ≠ none := by decide +kernel

def even1 : Job := { lookup1 with stage := .stopped, even := some 9, status := some .done }
def ins1 : Job := { job1 0x51 (.running 16) [] with ins := some { ns := 1, depth0 := 0, parent := none, waits := true } }

theorem wit_PrefixMoments :
    (jobs even1).jobAt 7 4 (fun j => j.even.isSome && (j.stage == .stopped || j.stage == .ended)) = some even1 ∧
    (({ jobs even1 with now := tick 9 } : State).endOf 1).firstEnded 7 ≠ none ∧
    ((({ jobs even1 with now := tick 9 } : State).endOf 1).plat 7).slotFree = true ∧
    (jobs ins1).jobAt 7 4 (fun j => j.status.isNone && (jobs ins1).insertWaiting j) = some ins1 ∧
    tget (svc.modPfx fun p => { p with holds := [(8, { live := true, leaseS := 60, expiry := 9 })] }).pfx.holds 8 =
      some { live := true, leaseS := 60, expiry := 9 } := by decide +kernel

def fill1 (st : JobStage) : Job := job1 0x21 st fillDesc

theorem wit_Pumps :
    ((svc.modPump 15 fun x => { x with queue := [1] }).pumpAt 15).queue = [1] ∧ (svc.pumpAt 15).takes 0 = true ∧ svc.pumpCaptured 15 = false ∧
    (jobs (fill1 (.running 15))).onPump 15 = some (fill1 (.running 15)) ∧ (jobs (fill1 (.running 15))).stepReady (fill1 (.running 15)) = true ∧
    (jobs { fill1 (.running 15) with replay := .first .load }).job 1 = some { fill1 (.running 15) with replay := .first .load } ∧
    (jobs { fill1 (.running 15) with replay := .wait .load 9 }).onPump 15 = some { fill1 (.running 15) with replay := .wait .load 9 } := by
  decide +kernel

def tile1 : Tile := { id := 2, load := 0, opnd := 0, addr := 0, reads := [], entries := [0] }
def switch1 : Switch := { tiles := [(1, 2)], deadline := 20000, cause := .cmd 4 }
def moving1 : Job := { fill1 (.running 15) with tiles := [tile1], lastPump := 15 }
def switching : State := (jobs moving1).modXl fun x => { x with switches := [switch1] }

theorem wit_RangeCaches :
    (tget ((jobs lookup1).ctx 0).ranges 0).map (·.well) = some 3 ∧ (jobs lookup1).rcHit 15 0 0 = none ∧ (jobs lookup1).named 3 = some 3 ∧
    switching.job 1 = some moving1 ∧ switching.xl.switches = [switch1] ∧ (switch1.tiles ++ switch1.writes).map (·.1) = [1] ∧
    moving1.movingTile switch1.tiles switch1.writes = some (0, 5, 0) := by decide +kernel

def atom1 : Job := { job1 0x24 (.running 15) [(0x5C, 4, 2)] with work := { phase := 1, issued := 0, atoms := [] } }

theorem wit_JobsEnd :
    (jobs (fill1 .stopped)).jobAt 7 4 (fun j => j.stage == .stopped && j.even.isNone) = some (fill1 .stopped) ∧
    ((jobs (fill1 .ended)).modJobs fun x => { x with endOrder := [1] }).firstEnded 7 = some (fill1 .ended) ∧
    ((jobs (fill1 .ended)).plat 7).slotFree = true ∧
    (((jobs (fill1 .ended)).modPlat 7 fun x => { x with cqWritten := 16 }).plat 7).slotFree = false ∧
    (jobs (fill1 .recorded)).jobAt 7 4 (fun j => j.stage == .recorded) = some (fill1 .recorded) ∧
    (jobs atom1).jobAt 7 4 (fun j => j.opcode == 0x24) = some atom1 ∧ 0 < atom1.par 0x5C 4 := by decide +kernel

def read1 : DevOut := { id := 1, stn := 5, hpa := 64, kind := .read true }
def ats1 : AtsReq := { page := 1, job := 1, opnd := 0, addr := 4096, step := 6, deadline := 9 }

theorem wit_StationAnswers :
    (stn5.modJobs fun x => { x with devOut := [read1] }).jobs.devOut.find? (fun o => o.id == 1 && o.stn == 5) = some read1 ∧
    ((stn5.modStn 5 fun t => { t with atsReqs := [ats1] }).stnAt 5).atsReqs = [ats1] ∧ ats1.inv = [] ∧ (read1.job = none ∧ read1.kind ≠ .flush) := by decide +kernel

/-! ## Commands that end -/

def async1 (ready : Option (Status × List Byte)) : Async := { wb := 1, mbx := some .eth, opcode := 0x0900, ready := ready }
def pkg1 : FwPackage := { valid := true, versions := running1, manifestSeq := 2, combinations := [running1] }

theorem wit_Async :
    (ws.modMbx fun x => { x with asyncs := [async1 (some (.ok, []))] }).mbx.asyncs.find? (fun a => a.wb == 1) = some (async1 (some (.ok, []))) ∧
    ((((ws.modMbx fun x => { x with asyncs := [async1 none] }).modFw fun f => { f with staging := some (1, pkg1) }).stageEnd 1 pkg1).mbx.asyncs.find?
      (fun a => a.wb == 1)).bind (·.ready) ≠ none ∧
    ((((ws.modMbx fun x => { x with asyncs := [async1 none] }).modSec fun x =>
      { x with keys := [(300, { keys := 0, station := 5, context := 0, peer := 0, binding := [(3, 1)] })] }).bindEnd 1).mbx.asyncs.find?
      (fun a => a.wb == 1)).bind (·.ready) = some (.ok, []) := by decide +kernel

def run1 (l : List Nat) : FwRun := { wb := 1, todo := l, target := versionList running1, force := false, fromStaged := false }

theorem wit_ServiceMoments : (is.modFw fun f => { f with run := some (run1 [0, 1]) }).fw.run = some (run1 [0, 1]) ∧ (run1 [0, 1]).todo.headD 9 = 0 ∧
    (is.modFw fun f => { f with run := some { run1 [1] with turn := 15 } }).fw.run = some { run1 [1] with turn := 15 } ∧
    (is.pumpAt 15).job = none ∧ (is.pumpAt 15).test = none ∧ compTurns 1 ≤ 15 + 1 ∧ 14 + 1 < compTurns 1 ∧ compTurns 0 ≤ 0 + 1 ∧
    (is.modMod fun m => { m with spares := [{ stack := 23, span := 5, wb := some 1 }] }).mod.spares.find? (fun x => x.wb.isSome && !x.done) =
      some { stack := 23, span := 5, wb := some 1 } := by decide +kernel

/-! ## Clauses on waits, transfers and refills -/

theorem wit_PlaceOf : Place.ofCode 1 = some .spread := rfl

theorem wit_Reserve : Config.poolEnd - 1 < Config.poolEnd ∧ (2 ^ 33 - 1 < 2 ^ 33) ∧ (3 < 4 ∧ 14 * 2 ^ 30 - 1 < 14 * 2 ^ 30) ∧
    Config.locale0End ≤ Config.locale0End ∧ State.reset.homeOf (Config.poolEnd + 2 ^ 33) = some (0, 2 ^ 33) ∧
    State.reset.homeOf (Config.locale0End - 1) = some (3, 14 * 2 ^ 30 - 1) := by decide +kernel

/-- A write-back of station 5 to line 64 is held. -/
def heldWb : State := snooped.modHome fun h => { h with held := [{ org := .host 5 64, kind := .wb, well := 3, gen := 0, off := 64 }] }

theorem wit_SnoopWaits : (heldWb.rspSlot 5).wbHeld 5 64 = true ∧ (snooped.rspSlot 5).wbHeld 5 64 = false ∧ snooped.home.rsps = [] := by decide +kernel

def retried (n : Nat) : Req := { org := .host 5 (64 * n), kind := .rdS, well := 3, gen := 0, off := 64 * n, seq := n, since := 10 }

theorem wit_Retry : (coh.modHome fun h => { h with retry := [retried 1, retried 2] }).home.retry.filter (fun r => r.ofStn 5) = [retried 1, retried 2] ∧
    (∀ q ∈ [retried 2], (retried 1).seq < q.seq) := by decide +kernel

def zeroing (m : Option Mirror) : State := (coh.modCis 2 fun c => { c with st := .recovering, recover := some (.zero, some 9), dead := [5] }).modWell 3 fun w =>
  { w with mirror := m, grants := [] }

theorem wit_Recovery : (((zeroing none).endDead 2).zeroHomes 2).zeroOver 2 = true ∧
    (((zeroing (some { primary := false, origin := false, st := .sync, twinStart := 0 })).endDead 2).zeroHomes 2).zeroOver 2 = false ∧
    (∀ v ∈ ((zeroing none).endDead 2).pool.revs, False) ∧
    ((cis2 fun c => { c with st := .dissolving, recover := some (.dissolve, some 9) }).cis 2).recover = some (.dissolve, some 9) ∧
    ((cis2 fun c => { c with st := .dissolving, recover := some (.dissolve, some 9) }).cis 2).walking = false ∧
    (cis2 fun c => { c with st := .dissolving, recover := some (.dissolve, some 9) }).wellsOf 2 = [] := by decide +kernel

def devOut1 (k : DevKind) : DevOut := { id := 1, stn := 5, hpa := 64, kind := k }
def withOut (k : DevKind) : State := coh.modJobs fun x => { x with devOut := [devOut1 k] }

theorem wit_InMotion : (withOut .evict).inMotion 5 (lineOf 64) = true ∧ (withOut (.rdOwn 1)).inMotion 5 64 = true ∧ coh.inMotion 5 (lineOf 64) = false := by
  decide +kernel

theorem wit_Go : (∀ k ∈ [DevKind.read true, .read false, .rdOwn 1, .evict, .write 1 true, .write 1 false, .merge 1, .ioWrite 1, .flush],
      (withOut k).jobs.devOut.find? (fun o => o.id == 1 && o.stn == 5) = some (devOut1 k)) ∧
    coh.jobs.devOut.find? (fun o => o.id == 1 && o.stn == 5) = none ∧
    ((withOut (.rdOwn 1)).putMoving 1 (hostLine .m)).isNone = true ∧
    (({ withOut (.rdOwn 1) with cache := { coh.cache with moving := [(1, 2, 3, 4)] } } : State).putMoving 1 (hostLine .m)).isSome = true := by decide +kernel

theorem wit_Commit : ((moving (mig1 true 65536 none)).chunkRoom (44 * 2 ^ 30 + 65536) (45 * 2 ^ 30 + 65536) 65536).1 = true ∧
    (moving (mig1 false 0 (some 2))).isDown ((moving (mig1 false 0 (some 2))).well 3) = false ∧ (mig1 false 0 (some 2)).point = 0 := by decide +kernel

theorem wit_MemoryReturns : stn5.inService = true ∧ (stn5.stnAt 5).up = true := by decide +kernel

theorem wit_QueueBusy : (jobs (fill1 (.ready 15))).queueBusy (fill1 (.ready 15)) 15 = false ∧
    ((jobs (fill1 (.ready 15))).modHome fun h => { h with retry :=
      [{ org := .jobWrite 9 15 0, kind := .ucWr, well := 3, gen := 0, off := 0 }] }).queueBusy (fill1 (.ready 15)) 15 = true := by decide +kernel

theorem wit_TwinRange : (((jobs lookup1).modTwin fun t => { t with st := .paired }).modCtx 0 fun c =>
      { c with ranges := [(1, { vbase := 0, length := 2 ^ 20, well := 3, r := true, w := true, a := true, twin := true, offset := 0 })] }).isPaired = true ∧
    (jobs lookup1).rcHit 15 0 1 = none ∧ ({} : PeerAnswer).status = 0 ∧ ({ status := 0x10 } : PeerAnswer).status ≠ 0 := by decide +kernel

/-- A lockout of the Ethernet mailbox. -/
theorem wit_Lockout : (svc.modMb .eth fun x => { x with lockUntil := some 9 }).lockedOut .eth = true ∧ svc.reaches .eth = true ∧
    svc.mailboxBusy .eth true = false := by decide +kernel

def allPass : List Bool := List.replicate 8 true
def atSb : State := (atStage .sb).modFw fun f => { f with comps := f.comps.map fun c => { c with ok0 := true, ok1 := true } }
/-- `atSb` after the check of its other components. -/
def sbChecked (ps : List Bool) : State := (atSb.modFw fun f => { f with
  comps := Vector.ofFn fun i => if i.val = 0 then f.comps[i] else f.comps[i].checked (ps.getD (2 * i.val - 2) false) (ps.getD (2 * i.val - 1) false) })

theorem wit_Components : atSb.mod.stage = .sb ∧ atSb.mod.phase = .bringUp ∧ (sbChecked allPass).fw.comps.toList.all Comp.passes = true ∧
    (sbChecked []).fw.comps.toList.all Comp.passes = false ∧ ((sbChecked allPass).modFw fun f => { f with forced := true }).fw.forced = true := by
  decide +kernel

/-! ## The homes -/

def owned1 : State := coh.modHome fun h => { h with dir := [held1] }

theorem wit_OneOwner : (∀ e ∈ owned1.home.dir, e.excl ≠ .none → e.holders.length = 1) ∧
    (match step owned1 with | .next t => t.home.dir == [held1] | _ => false) = true := by decide +kernel

theorem wit_Idle1 : State.reset.pending = [] ∧ State.reset.pwr.powerDown = false ∧ (svc.modPwr fun p => { p with powerDown := true }).pwr.powerDown = true := by
  decide +kernel

def line1 : CLine := { key := .pool (44 * 2 ^ 30 + 64), die := 0, set := 0, way := 0, data := 7, dirty := true }
def cachedLine : State := { (ws.onSlices 15 fun x => { x with st := .enabled }) with cache := { (ws.onSlices 15 fun x => { x with st := .enabled }).cache with lines := [line1] } }

theorem wit_Home : lineOf (44 * 2 ^ 30 + 64) = 44 * 2 ^ 30 + 64 ∧ (cachedLine.homeOf (44 * 2 ^ 30 + 64)).isSome = true ∧
    cachedLine.cached (.pool (44 * 2 ^ 30 + 64)) = some line1 ∧ cachedLine.cached (.pool (44 * 2 ^ 30)) = none ∧
    (ws.onSlices 15 fun x => { x with st := .disabled }).looksUp 0 = false ∧ lineOf (44 * 2 ^ 30) = 44 * 2 ^ 30 ∧ w3.isHome = true ∧
    ((owned1.ent (44 * 2 ^ 30)).isSome = true) := by decide +kernel

/-- A write of one byte is read back over the cached line's other bytes. -/
theorem test_home_readback : (cachedLine.homeWrite (44 * 2 ^ 30 + 64) (BitVec.ofNat 512 0xAB00) 2 false (.stn 5)).peekLine (44 * 2 ^ 30 + 64) =
    (BitVec.ofNat 512 0xAB07, false) := by decide +kernel

/-- A grant of another station takes the E of the first. -/
theorem test_one_owner : ((owned1.grantExcl (44 * 2 ^ 30) 6 .m).home.dir.map fun e => (e.holders, e.excl)) = [([6], .m)] := by decide +kernel

/-- `coh` with decoder 0 bound to `w`. -/
def routed (w : Well) (f : Stn → Stn) : State := ((welled w).modCis 2 fun c => { c with st := .live, members := [5] }).modStn 5 fun t =>
  f { t with decoders := [(0, { size := 2 ^ 28, committed := true, well := some 3 })] }

/-- What DecodersRouteRequests asks of a request that is not refused at the grant. -/
def routesOn (s : State) : Bool := (s.stnAt 5).memActive && decide (2 ^ 20 - 64 < (s.well 3).length) && (tget (s.well 3).grants 5).isSome &&
  ((s.stnAt 5).decoders.find? fun y => y.2.covers (2 ^ 20 - 64)) == some (0, { size := 2 ^ 28, committed := true, well := some 3 })

theorem wit_Routes : routesOn (routed w3coh id) = true ∧ routesOn (routed granted id) = true ∧ (routed granted id |>.well 3).coh = false ∧
    (routesOn (routed { w3coh with grants := [(5, ⟨true, true, 0⟩)] } id) = true ∧
      ¬((routed { w3coh with grants := [(5, ⟨true, true, 0⟩)] } id).ownsLine 5 (44 * 2 ^ 30) = true)) ∧
    (routesOn (routed { w3coh with grants := [(5, ⟨false, false, 0⟩)] } id) = true ∧ ReqKind.ucWr.isWrite = true) ∧
    ((routed w3coh fun t => { t with biEn := false }).stnAt 5).biEn = false ∧ (coh.well 3).length ≤ 2 ^ 20 ∧
    tget ((routed { w3coh with grants := [] } id).well 3).grants 5 = none ∧
    ((stn5.stnAt 5).decoders.find? fun y => y.2.covers 0) = some (0, { size := 2 ^ 28, committed := true }) ∧
    ((stn5.modStn 5 fun t => { t with memActive := false }).stnAt 5).memActive = false ∧
    ReqKind.wb.isWrite = true ∧ ReqKind.rdCur.isWrite = false := by decide +kernel

/-! ## A GO of the doorbell register -/

/-- The command area of station 5's mailbox holds a command of this opcode. -/
def areaOf (op : Nat) : State := stn5.modMb (.stn 5) fun x => { x with area := memWrite [] 0 (le 2 op ++ [1, 0]) }

theorem wit_Go8 : (areaOf 2).answers = true ∧ ((areaOf 2).mb (.stn 5)).checking = false ∧
    num (memRead ((areaOf 2).mb (.stn 5)).area 0 64) 0 2 = 2 ∧ 2 ∈ mailboxCodes ∧
    unlisted 2 (memRead ((areaOf 2).mb (.stn 5)).area 64 ((areaOf 2).areaHdr 5).len.toNat) = none ∧
    num (memRead ((areaOf 0x7777).mb (.stn 5)).area 0 64) 0 2 = 0x7777 ∧ 0x7777 ∉ mailboxCodes ∧ (areaOf 0x7777).mailboxBusy (.stn 5) false = false ∧
    (((areaOf 2).modMb (.stn 5) fun x => { x with checking := true }).mb (.stn 5)).checking = true := by decide +kernel

/-! ## Stacks that sleep, and drains that are late -/

def asleep3 : State := (copy3 .sync).modPwr fun p => { p with dormant := p.dormant.set 0 true }

theorem wit_Asleep : asleep3.asleep ((asleep3.well 3).dpa 0) = true ∧ (copy3 .sync).asleep (((copy3 .sync).well 3).dpa 0) = false ∧
    (asleep3.stacksReady (pageKeys (asleep3.well 3) 254)).1 = false ∧ ((copy3 .sync).stacksReady (pageKeys ((copy3 .sync).well 3) 254)).1 = true ∧
    (((moving (mig1 true 65536 none)).modPwr fun p => { p with dormant := p.dormant.set 0 true }).stacksReady [44 * 2 ^ 30]).1 = false ∧
    ((moving (mig1 true 65536 none)).stacksReady [44 * 2 ^ 30, 45 * 2 ^ 30]).1 = true ∧
    revoking.pool.revs.find? (fun v => v.well == 3 && v.station == 5 && !v.late) = some rev3 ∧
    revoking.pool.revs.find? (fun v => v.well == 3 && v.station == 5 && revoking.revDrained v) = some rev3 := by decide +kernel

theorem wit_Sleeps : die1.pwr.dormantMs = some 1 ∧ (svc.modPwr fun p => { p with dormantMs := some 1 }).pwr.dormantMs = some 1 ∧
    ((svc.modPwr fun p => { p with dormantMs := some 1 }).quartersUsed 1).isEmpty = true ∧
    (svc.modPwr fun p => { p with dormantMs := some 1 }).pwr.emptySince.toList.getD 1 none = some 0 ∧
    ((die1.modPwr fun p => { p with dormantMs := none }).quartersUsed 1).isEmpty = false := by decide +kernel

theorem wit_Wakes : ((jobs (job1 0x21 (.queued 15) fillDesc)).modPump 15 fun x => { x with waking := true }).job 1 = some (job1 0x21 (.queued 15) fillDesc) ∧
    (((jobs (job1 0x21 (.queued 15) fillDesc)).modPump 15 fun x => { x with waking := true }).pumpAt 15).job = some 1 ∧
    JobStage.running 15 ≠ .queued 15 := by decide +kernel

/-! ## Secured sessions -/

def keyed5 : State := secured.modStn 5 fun t => { t with ide := true, idePeer := 2, ideSession := 2 }

theorem wit_Sessions5 : (tgetD secured.sec.spdm 5 [])[2]? = some (3, 3) ∧ (secured.stnAt 5).ide = false ∧ (secured.stnAt 5).flit ≠ 0 ∧
    (tgetD keyed5.sec.spdm 5 [])[1]? = some (2, 2) ∧ (keyed5.stnAt 5).ide = true ∧ (keyed5.stnAt 5).idePeer = 2 ∧ (keyed5.stnAt 5).ideSession = 2 ∧
    (keyed5.stnAt 5).idePeer ≠ 3 ∧ (keyed5.stnAt 5).ideSession ≠ 3 ∧ (secured.stnAt 5).hasIde .cxl = false := by decide +kernel

/-! ## Jobs -/

def scratchDesc : List (Nat × Nat × Nat) := fillDesc ++ [(0x20, 8, 2 ^ 63 + 64)]

theorem wit_Overlap : (jobs (job1 0x20 (.ready 15) (copyDesc 63))).descBad (job1 0x20 (.ready 15) (copyDesc 63)) = none ∧
    (jobs (job1 0x21 (.ready 15) [])).descBad (job1 0x21 (.ready 15) []) ≠ none ∧
    (jobs (job1 0x21 (.ready 15) scratchDesc)).descBad (job1 0x21 (.ready 15) scratchDesc) = none ∧
    (jobs (job1 0x21 (.ready 15) scratchDesc)).scratchBad (job1 0x21 (.ready 15) scratchDesc) = some (0, 64) := by decide +kernel

theorem wit_PrefixDue : ((jobs lookup1).prefixDue lookup1.started).job 1 = some lookup1 ∧ lookup1.status = none := by decide +kernel

theorem wit_Moving16 : ({ moving1 with lastPump := 16 } : Job).lastPump = 16 ∧ { moving1 with lastPump := 16 }.movingTile switch1.tiles switch1.writes = some (0, 5, 0) := by
  decide +kernel

def host1 : Job := { job1 0x40 (.running 15) [(0x20, 8, 2 ^ 62 + 5 * 2 ^ 56)] with lastPump := 15 }
/-- Station 5 has answered that job 1's page 0 has no translation, and the job asks for the tile at 0. -/
def failed5 : State := ((jobs host1).modStn 5 fun t => { t with ats := true, atsFailed := [(1, 0)] })
def ats5 : AtsReq := { ats1 with step := 5, tile := some (0, 4096) }

theorem wit_AtsStop : failed5.job ats5.job = some host1 ∧ ats5.tile = some (0, 4096) ∧ ats5.ahead = false ∧
    (match failed5.xlateTile host1 host1.lastPump (host1.op 0) 0 0 4096 .r 5 with | .fault .xlateFault 0 => true | _ => false) = true ∧
    (1, 0) ∈ (failed5.stnAt 5).atsFailed ∧ (∀ m < 48, (stn5.stnAt m).atsFailed = []) := by decide +kernel

/-! ## Ill-formed commands, one for each check of `Instr.wf` -/

theorem test_wf_extra : Instr.wf (.identify { mbx := .eth, len := 0, extra := zeros 4033 }) = false := by decide +kernel
theorem test_wf_reserved : Instr.wf (.getState { mbx := .eth, len := 0, rsvPay := zeros 65 }) = false := by decide +kernel
theorem test_wf_entries : Instr.wf (.rangeTableSet (hdr 8) 0 0 1 [] {}) = false := by decide +kernel
theorem test_wf_doorbell : Instr.wf (.platformDoorbell 5 7 0 0 0 0) = false ∧ Instr.wf (.platformRestart 5 7 9 0 0 0) = false := by decide +kernel
theorem test_wf_lines : Instr.wf (.tileLoadDone 0 0 []) = false ∧ Instr.wf (.tileLoadDone 0 4097 []) = false := by decide +kernel
theorem test_wf_ats : Instr.wf (.atsTranslationCompletion 5 0 ⟨true, true, true, 0, 53⟩) = false := by decide +kernel
theorem test_wf_line : Instr.wf (.memRdS 5 63) = false ∧ Instr.wf (.memWb 5 65 0 0) = false ∧ Instr.wf (.biRsp 5 32 .i) = false ∧
    Instr.wf (.holdEnd 1) = false ∧ Instr.wf (.h2dSnoop 5 16 .inv) = false ∧ Instr.wf (.scrubLine 8) = false ∧
    Instr.wf (.twinSnoopReceive 1 3 4) = false ∧ Instr.wf (.mirrorWriteReceive 1 3 4 0 0 false) = false := by decide +kernel
theorem test_wf_aperture : Instr.wf (.apertureRead 5 0 0) = false ∧ Instr.wf (.apertureRead 5 0x3FFFFFF 2) = false ∧
    Instr.wf (.apertureWrite 5 0 []) = false := by decide +kernel
theorem test_wf_register : Instr.wf (.registerWrite 5 0x2008 0 0) = false ∧ Instr.wf (.registerWrite 5 0x2008 9 0) = false := by decide +kernel
theorem test_wf_zeroing : Instr.wf (.backgroundZeroing 4096 65536) = false ∧ Instr.wf (.backgroundZeroing 65536 1) = false := by decide +kernel
theorem test_wf_pages : Instr.wf (.mirrorAuditPage 3 0 []) = false ∧ Instr.wf (.resyncPageCopy 3 0 []) = false := by decide +kernel
theorem test_wf_rail : Instr.wf (.railFault 21) = false ∧ Instr.wf (.railSample 31 0 0 0) = false := by decide +kernel
theorem test_wf_thermal : Instr.wf (.thermalSample [] []) = false := by decide +kernel
theorem test_wf_components : Instr.wf (.componentCheckDone [true]) = false := by decide +kernel

/-! ## Values from published test vectors and from the spec's own examples -/

/-- FIPS 180-4: SHA-384 of "abc". -/
theorem test_sha384 : num (sha384 [0x61, 0x62, 0x63]).reverse 0 48 =
    0xcb00753f45a35e8bb5a03d699ac65007272c32ab0eded1631a8b605a43ff5bed8086072ba1e7cc2358baeca134c825a7 := by decide +kernel
/-- RFC 7693: BLAKE2s with a 16-byte digest of "abc". -/
theorem test_blake2s : num (blake2s 16 [] [0x61, 0x62, 0x63]).reverse 0 16 = 0xaa4938119b1dc7b87cbad0ffd200d0ae := by decide +kernel
/-- The check value of CRC-64/XZ, of "123456789" (11 R334). -/
theorem test_crc64 : crc64 [0x31, 0x32, 0x33, 0x34, 0x35, 0x36, 0x37, 0x38, 0x39] = 0x995DC9BBDF1939FA := by decide +kernel
/-- A byte of the worked example of 02: die address 2,400 × 2^28 + 0x0123_4A40 of die 2, by R24. -/
theorem test_stack_example : stackOf 2 (2400 * 2 ^ 28 + 0x1234A40) =
    (12 + (2400 * 2 ^ 20 + 0x1234A) % 6, (2400 * 2 ^ 20 + 0x1234A) / 6 * 256 + 0x40) := by decide +kernel

/-! ## Single steps -/

/-- With the window disabled an aperture read answers ones (02 R42). -/
theorem test_aperture_disabled : (match step { stn5 with pending := [.apertureRead 5 0 4] } with
    | .next t => t.out.head? == some (.io 5 0 [0xFF, 0xFF, 0xFF, 0xFF] false) && t.pending == []
    | _ => false) = true := by decide +kernel
/-- A read that no decoder covers answers poisoned ones (02 R35). -/
theorem test_unbacked_read : (match exec (.memRdS 5 0x70000000) stn5 with
    | .next t => t.out.contains (.mem 5 0x70000000 .cmp (some (onesLine, true)))
    | _ => false) = true := by decide +kernel
/-- An installer's command without a session answers NO_RIGHT (19 R565). -/
theorem test_no_right : (match exec (.moduleDrain (hdr 8) 0) svc with
    | .next t => t.out.head?.any fun o => match o with | .reply _ _ r => r.status == .noRight | _ => false
    | _ => false) = true := by decide +kernel
/-- A granted well appears in its station's decoder (03 R70). -/
theorem test_grant : (tgetD ((grantApply 3 5 3 0xFF 0 ws).2.2.stnAt 5).decoders 0 {}).well = some 3 ∧
    (tget ((grantApply 3 5 3 0xFF 0 ws).2.2.well 3).grants 5).isSome = true := by decide +kernel
/-- The pin rises when the signal box starts and falls with a watchdog that expires (17 R525). -/
theorem test_watchdog_pin : (match exec .signalBoxWatchdogExpire svc with
    | .next t => t.pins.modErrLow && !t.pins.presenceLow
    | _ => false) = true := by decide +kernel
/-- A host's write to a line of its plain well waits dirty in the enabled device cache, its other bytes as stored (05 R136). -/
theorem test_plain_write : (match exec (.plainMemWrite 5 64 (BitVec.ofNat 512 0xAB) 1) ((welled granted).modStn 5 fun t =>
      { t with decoders := [(0, { size := 2 ^ 28, committed := true, well := some 3 })] }) with
    | .next t => (t.cached (.pool (44 * 2 ^ 30 + 64))).map (fun c => (c.data, c.dirty)) == some (BitVec.ofNat 512 0xAB, true) && t.mem == []
    | _ => false) = true := by decide +kernel
/-- What State.reset's memory lists: nothing, in canonical form. -/
theorem test_reset_memory : Memory.wf State.reset.mem = true := by decide

/-- 21 R612: BLOCKS is 192 bytes, and its second entry is the STN block's. -/
theorem test_blocksSection : blocksSection.length = 192 ∧
    (blocksSection.drop 16).take 16 = [0x53, 0x54, 0x4E, 0x42, 0, 0x10, 0, 0, 0, 0x10, 0, 0, 1, 0, 0, 0] := by decide +kernel

/-- 21 R613: VECTORS. -/
theorem test_vectorsSection : vectorsSection = [0, 0, 1, 0, 1, 0, 2, 0, 2, 0, 3, 0, 3, 0, 4, 0] := by decide +kernel

end Sys2Proof.Tests
end

section
/-! PROOF. Stations and mailboxes: what a change of one reads back, where a BAR answers, and what a refused command leaves. -/
namespace Sys2Proof.Machine

theorem Does.of_eq {c : Instr} {s u v : State} (h : Does c s u) (e : u = v) : Does c s v := e ▸ h

/-! ## Stations -/

section Stations
variable (s : State)

/-- A station changed reads back changed. -/
@[simp] theorem stnAt_modStn_self (n : Station) (f : Stn → Stn) : (s.modStn n.val f).stnAt n.val = f (s.stnAt n.val) := by
  rw [stnAt_modStn, if_pos ⟨rfl, n.isLt⟩]

theorem stnAt_modStn_ne {n m : Nat} (f : Stn → Stn) (h : m ≠ n) : (s.modStn n f).stnAt m = s.stnAt m := by
  rw [stnAt_modStn, if_neg fun e => h e.1.symm]

/-- Only what a change makes of the station as it stands matters. -/
theorem modStn_congr {n : Station} {f g : Stn → Stn} (h : f (s.stnAt n.val) = g (s.stnAt n.val)) : s.modStn n.val f = s.modStn n.val g := by
  rw [stnAt_eq s n.isLt] at h
  simp only [State.modStn, n.isLt, dif_pos, h]

theorem modMb_congr {n : Station} {f g : Mailbox → Mailbox} (h : f (s.mb (.stn n)) = g (s.mb (.stn n))) :
    s.modMb (.stn n) f = s.modMb (.stn n) g := by
  have h' : f s.mbx.stn[n] = g s.mbx.stn[n] := h
  simp only [State.modMb, State.modMbx, h']

@[simp] theorem stnAt_emit (o : Output) (m : Nat) : (s.emit o).stnAt m = s.stnAt m := rfl

/-- A returned slot changes the link's counts alone (14 R434, R435). -/
theorem stnAt_slotDone (n m : Nat) (rwd : Bool) : ∃ a b c d,
    (s.slotDone n rwd).stnAt m = { s.stnAt m with reqSent := a, rwdSent := b, reqHeld := c, rwdHeld := d } := by
  rw [State.slotDone, stnAt_modStn]
  split
  · split <;> split <;> exact ⟨_, _, _, _, rfl⟩
  · exact ⟨_, _, _, _, rfl⟩

/-! ## Where a BAR answers (14 R439) -/

theorem barsUp_of {n : Nat} (hup : (s.stnAt n).up = true) (hbar : (s.stnAt n).barsSet = true) (hd0 : (s.stnAt n).d3hot = false) :
    s.barsUp n = true := by
  simp only [State.barsUp, hup, hbar, hd0, Bool.not_false, Bool.and_self]

theorem barsUp_not {n : Nat} (h : (s.stnAt n).barsSet = false ∨ (s.stnAt n).d3hot = true) : s.barsUp n = false := by
  rcases h with h | h <;> simp [State.barsUp, h]

/-- With the link up an access that no BAR answers is an Unsupported Request. -/
theorem noBar_of_up {n : Nat} (hup : (s.stnAt n).up = true) : s.noBar n = s.unsupported n := if_pos hup

theorem barWrite_of_barsUp {n : Nat} (f : State → State) (h : s.barsUp n = true) : s.barWrite n f = f s := if_pos h

theorem barWrite_of_not_barsUp {n : Nat} (f : State → State) (h : s.barsUp n = false) : s.barWrite n f = s.noBar n := by
  rw [State.barWrite, h]; rfl

end Stations

/-! ## Commands that are refused -/

/-- A refusal changes only what carries a mailbox command (15 R458). -/
theorem same_reject (s : State) (h : CmdHdr) (c : Cmd) (r : Refuse) : Same s (s.reject h c r) :=
  ((same_ite _ (same_auditMbx ..) (Same.refl s)).trans (same_modMb ..)).trans (same_reply ..)

theorem replied_reject (s : State) (h : CmdHdr) (c : Cmd) (r : Refuse) : Replied h c.opcode r.st (s.reject h c r) :=
  ⟨_, reply_head .., rfl, rfl, rfl⟩

end Sys2Proof.Machine
end

section
/-! PROOF. Where a byte lies: its home die, die address and stack (02 R24, R27, R30). -/
namespace Sys2Proof.Machine

theorem stackOf_eq (d a : Nat) :
    stackOf d a = (6 * d + (a >>> 8) % 6, ((a >>> 8) / 6) * 256 + (a &&& 0xFF)) := by
  have hlow : a &&& 0xFF = a % 256 := Nat.and_two_pow_sub_one_eq_mod a 8
  rw [hlow, Nat.shiftRight_eq_div_pow]
  rfl

/-- Bits 13:12 of an offset in a spread granule choose the die (02 R27). -/
theorem spread_die (x : Nat) : (x >>> 12) &&& 3 = x / 4096 % 4 := by
  rw [Nat.shiftRight_eq_div_pow]
  exact Nat.and_two_pow_sub_one_eq_mod (x / 4096) 2

/-- What is left of the offset without those two bits is the offset in the die's quarter (02 R27). -/
theorem spread_offset (x : Nat) : ((x >>> 14) <<< 12) ||| (x &&& 0xFFF) = x / 16384 * 4096 + x % 4096 := by
  have hlow : x &&& 0xFFF = x % 4096 := Nat.and_two_pow_sub_one_eq_mod x 12
  have hlt : x % 4096 < 2 ^ 12 := Nat.mod_lt x (by decide)
  rw [hlow, ← Nat.shiftLeft_add_eq_or_of_lt hlt, Nat.shiftLeft_eq, Nat.shiftRight_eq_div_pow]

section Homes
variable (s : State) {dpa : Nat}

theorem homeOf_free (h : dpa < Config.poolEnd) (hp : (s.granule (dpa / 2 ^ 30)).place = .free) : s.homeOf dpa = none := by
  have hg : (s.granule (dpa / Config.gib)).place = .free := hp
  simp only [State.homeOf, Nat.not_le.2 h, if_false, hg]

theorem homeOf_loc (h : dpa < Config.poolEnd) {d : DieId} (hp : (s.granule (dpa / 2 ^ 30)).place = .loc d) :
    s.homeOf dpa = some (d.val, (s.granule (dpa / 2 ^ 30)).q0 * 2 ^ 28 + dpa % 2 ^ 30) := by
  have hg : (s.granule (dpa / Config.gib)).place = .loc d := hp
  simp only [State.homeOf, Nat.not_le.2 h, if_false, hg]
  rfl

/-- A spread granule lays one quarter on each die. -/
theorem homeOf_spread (h : dpa < Config.poolEnd) (hp : (s.granule (dpa / 2 ^ 30)).place = .spread) :
    let g := s.granule (dpa / 2 ^ 30)
    let x := dpa % 2 ^ 30
    ∃ q, [g.q0, g.q1, g.q2, g.q3][x / 4096 % 4]? = some q ∧
      s.homeOf dpa = some (x / 4096 % 4, q * 2 ^ 28 + (x / 16384 * 4096 + x % 4096)) := by
  intro g x
  have hg : (s.granule (dpa / Config.gib)).place = .spread := hp
  have hd : x / 4096 % 4 < 4 := Nat.mod_lt _ (by decide)
  have hx : dpa % Config.gib / 4096 % 4 = x / 4096 % 4 := rfl
  simp only [State.homeOf, Nat.not_le.2 h, if_false, hg, hx]
  generalize x / 4096 % 4 = die at hd ⊢
  match die, hd with
  | 0, _ | 1, _ | 2, _ | 3, _ => exact ⟨_, rfl, rfl⟩

theorem homeOf_reserve {o : Nat} (h : o < 2 ^ 36) : s.homeOf (Config.poolEnd + o) = some (reserveHome o) := by
  have hend : Config.poolEnd + o < Config.locale0End := by
    simp only [Config.poolEnd, Config.locale0End]; omega
  simp only [State.homeOf, Nat.le_add_right, if_true, hend, Nat.add_sub_cancel_left]

theorem homeOf_beyond (h : Config.locale0End ≤ dpa) : s.homeOf dpa = none := by
  have hpool : Config.poolEnd ≤ dpa := Nat.le_trans (by decide) h
  simp only [State.homeOf, hpool, if_true, Nat.not_lt.2 h, if_false]

end Homes

/-- The tables of the reserve lie on die 0 at their own offset (02 R30). -/
theorem reserveHome_tables {o : Nat} (h : o < 2 ^ 33) : reserveHome o = (0, o) := if_pos h

/-- Sub-area `d` of the reserve lies on die `d`, on die 0 behind the tables (02 R26, R30). -/
theorem reserveHome_subArea (d : Nat) {z : Nat} (h : z < 14 * 2 ^ 30) :
    reserveHome (2 ^ 33 + d * (14 * 2 ^ 30) + z) = (d, if d = 0 then z + 2 ^ 33 else z) := by
  have hdiv : (2 ^ 33 + d * (14 * 2 ^ 30) + z - 2 ^ 33) / 0x380000000 = d := by omega
  have hmod : (2 ^ 33 + d * (14 * 2 ^ 30) + z - 2 ^ 33) % 0x380000000 = z := by omega
  rw [reserveHome, if_neg (by omega), hdiv, hmod]
  simp only [beq_iff_eq]

end Sys2Proof.Machine

open Sys2Proof Sys2Proof.Machine

/-- Settles O8: the bit fields of R24 and R27 are the quotients and remainders by which the model divides an address. -/
theorem addressesAreDivided : Obligations.AddressesAreDivided := by
  refine ⟨stackOf_eq, fun s dpa h => ⟨homeOf_free s h, fun d => homeOf_loc s h, fun hp => ?_⟩, fun s o h => ?_, fun s d z hd hz => ?_,
    fun s dpa => homeOf_beyond s⟩
  · obtain ⟨q, hq, hhome⟩ := homeOf_spread s h hp
    refine ⟨_, q, hhome.trans ?_, (spread_die _).symm, hq⟩
    rw [spread_offset]
  · rw [homeOf_reserve s (by omega), reserveHome_tables h]
  · rw [Nat.add_assoc, Nat.add_assoc, ← Nat.add_assoc (2 ^ 33), homeOf_reserve s (by omega), reserveHome_subArea d hz]
end

section
/-! PROOF. HDM decoders: what a commit and an uncommit leave (02 R32, R37; 03 R81). -/
namespace Sys2Proof.Machine

section Hdm
variable (s : State) (n : Station) (k : BitVec 5)

theorem does_hdmDecoderCommit (base size : BitVec 64) (ways : BitVec 4) (hb : s.barsUp n.val = true) :
    Does (.hdmDecoderCommit n k base size ways) s (s.hdmCommit n.val k.toNat base.toNat size.toNat ways.toNat) :=
  congrArg done (barWrite_of_barsUp s _ hb)

theorem does_hdmDecoderUncommit (hb : s.barsUp n.val = true) :
    Does (.hdmDecoderUncommit n k) s (s.hdmUncommit n.val k.toNat) :=
  congrArg done (barWrite_of_barsUp s _ hb)

end Hdm

theorem hdmCommit_frame (s : State) (n k base size ways : Nat) :
    (s.hdmCommit n k base size ways).mem = s.mem ∧ (s.hdmCommit n k base size ways).pool = s.pool ∧
      ∀ m, m ≠ n → (s.hdmCommit n k base size ways).stnAt m = s.stnAt m :=
  ⟨State.modStn_mem .., State.modStn_pool .., fun _ hm => stnAt_modStn_ne s _ hm⟩

/-- One way and whole 256 MiB units commit. -/
theorem hdmCommit_commits (s : State) (n : Station) {k base size : Nat} (hc : (tgetD (s.stnAt n.val).decoders k {}).committed = false)
    (hb : base % hdmUnit = 0) (hs : size % hdmUnit = 0) (hz : size ≠ 0) :
    tget ((s.hdmCommit n.val k base size 1).stnAt n.val).decoders k = some { base := base, size := size, committed := true } := by
  simp [State.hdmCommit, hc, hb, hs, hz]

/-- Any other request leaves the decoder not committed, with the error. -/
theorem hdmCommit_refuses (s : State) (n : Station) {k base size ways : Nat} (hc : (tgetD (s.stnAt n.val).decoders k {}).committed = false)
    (h : ways ≠ 1 ∨ base % hdmUnit ≠ 0 ∨ size % hdmUnit ≠ 0 ∨ size = 0) :
    let d := tgetD ((s.hdmCommit n.val k base size ways).stnAt n.val).decoders k {}
    d.committed = false ∧ d.notCommitted = true := by
  have hno : (ways == 1 && base % hdmUnit == 0 && size % hdmUnit == 0 && size != 0) = false := by
    rcases h with h | h | h | h <;> simp [h]
  simp [State.hdmCommit, hc, hno]

theorem hdmUncommit_unbound (s : State) {n k : Nat} {d : Decoder} (hd : tget (s.stnAt n).decoders k = some d) (hc : d.committed = true)
    (hw : d.well = none) :
    s.hdmUncommit n k = s.modStn n fun t => { t with decoders := tset t.decoders k { d with committed := false } } := by
  simp [State.hdmUncommit, tgetD, hd, hc, hw]

theorem hdmUncommit_bound (s : State) {n k i : Nat} {d : Decoder} (hd : tget (s.stnAt n).decoders k = some d) (hc : d.committed = true)
    (hw : d.well = some i) :
    s.hdmUncommit n k = (s.modStn n fun t => { t with decoders := tset t.decoders k { d with uncommit := true } }).startRev
      { well := i, station := n, start := s.now, cause := .uncommit } := by
  simp [State.hdmUncommit, tgetD, hd, hc, hw]

end Sys2Proof.Machine

open Sys2Proof Sys2Proof.Machine

/-- Settles O32: the two outcomes of a commit by its operands, those of an uncommit by the decoder's well. -/
theorem hdmDecodersCommit : Obligations.HdmDecodersCommit := by
  intro s n k base size hup hbar hd0
  have hb := barsUp_of s hup hbar hd0
  refine ⟨fun ways hc => ⟨?_, fun h => ?_⟩, fun d hd hc => ⟨fun hw => ?_, fun i hw => ?_⟩⟩
  · rintro rfl hbase hsize hz
    exact ⟨_, does_hdmDecoderCommit s n k base size 1 hb, hdmCommit_commits s n hc hbase hsize hz, hdmCommit_frame ..⟩
  · have hways : ways ≠ 1 → ways.toNat ≠ 1 := fun hne e => hne (BitVec.eq_of_toNat_eq e)
    exact ⟨_, does_hdmDecoderCommit s n k base size ways hb, hdmCommit_refuses s n hc (h.imp_left hways)⟩
  · exact (does_hdmDecoderUncommit s n k hb).of_eq (hdmUncommit_unbound s hd hc hw)
  · exact (does_hdmDecoderUncommit s n k hb).of_eq (hdmUncommit_bound s hd hc hw)
end

section
/-! PROOF. Where a CXL.mem request goes: what a refusal leaves, and how the decoders route (02 R22, R34, R35; 03 R72, R81; 14 R417; 17 R527). -/
namespace Sys2Proof.Machine

/-! ## Requests the station answers itself -/

/-- What a refusal writes to the station's log: a write, and a read that is to be logged (17 R527, R528). -/
def State.refuseLog (s : State) (n hpa : Nat) (kind : ReqKind) (code dec handle : Nat) (logRead : Bool) : State :=
  if kind.isWrite || logRead then s.logFlt n code 0 dec hpa handle kind.isWrite else s

/-- How a refused request is completed: a read with poisoned ones, every other without data; its slot is returned and a poisoned
read counted. -/
def State.refuseAnswer (s : State) (n hpa : Nat) (kind : ReqKind) : State :=
  if kind.isWrite then (s.emit (.mem n hpa .cmp none)).slotDone n true
  else if kind = .invOwn ∨ kind = .drop then (s.emit (.mem n hpa .cmp none)).slotDone n false
  else ((s.emit (.mem n hpa .cmp (some (onesLine, true)))).slotDone n false).countPoisoned n

section Refusals
variable (s : State) (n hpa code dec handle : Nat) {kind : ReqKind} (both : Bool)

theorem refuseMem_eq : s.refuseMem n hpa kind code dec handle both = (s.refuseLog n hpa kind code dec handle both).refuseAnswer n hpa kind := by
  simp only [State.refuseMem]
  split
  case h_1 => rfl
  case h_2 => rfl
  case h_3 hi hd => rw [State.refuseAnswer, if_neg (not_or.2 ⟨hi, hd⟩)]; rfl

theorem refuseAnswer_write (h : kind.isWrite = true) : s.refuseAnswer n hpa kind = (s.emit (.mem n hpa .cmp none)).slotDone n true := if_pos h

theorem refuseAnswer_read (h : kind.isWrite = false) (hi : kind ≠ .invOwn) (hd : kind ≠ .drop) : s.refuseAnswer n hpa kind =
    ((s.emit (.mem n hpa .cmp (some (onesLine, true)))).slotDone n false).countPoisoned n := by
  rw [State.refuseAnswer, h, if_neg Bool.false_ne_true, if_neg (not_or.2 ⟨hi, hd⟩)]

theorem refuseLog_frame : let u := s.refuseLog n hpa kind code dec handle both
    u.mem = s.mem ∧ u.home = s.home ∧ u.pool = s.pool ∧ u.cache = s.cache := by
  unfold State.refuseLog State.logFlt
  split <;> simp

theorem refuseAnswer_frame : let u := s.refuseAnswer n hpa kind
    u.mem = s.mem ∧ u.home = s.home ∧ u.pool = s.pool ∧ u.cache = s.cache := by
  unfold State.refuseAnswer State.slotDone State.countPoisoned
  split
  · simp
  · split <;> simp

/-- An answer changes the counts of slots and poisoned reads alone, not the entries of the log. -/
theorem stnAt_refuseAnswer (m : Nat) : ∃ a b c d p, (s.refuseAnswer n hpa kind).stnAt m =
    { s.stnAt m with reqSent := a, rwdSent := b, reqHeld := c, rwdHeld := d, fltPoisoned := p } := by
  have hslot := fun o rwd => stnAt_slotDone (s.emit o) n m rwd
  unfold State.refuseAnswer State.countPoisoned
  split
  · obtain ⟨a, b, c, d, h⟩ := hslot (.mem n hpa .cmp none) true
    exact ⟨a, b, c, d, _, h⟩
  · split
    · obtain ⟨a, b, c, d, h⟩ := hslot (.mem n hpa .cmp none) false
      exact ⟨a, b, c, d, _, h⟩
    · obtain ⟨a, b, c, d, h⟩ := hslot (.mem n hpa .cmp (some (onesLine, true))) false
      rw [stnAt_modStn, h]
      split <;> exact ⟨a, b, c, d, _, rfl⟩

end Refusals

section RefusalsOfAStation
variable (s : State) (n : Station) (hpa code dec handle : Nat) {kind : ReqKind} (both : Bool)

theorem stnAt_refuseLog (h : kind.isWrite = true ∨ both = true) :
    let t := (s.refuseLog n.val hpa kind code dec handle both).stnAt n.val
    ∃ e, t.fltLog.head? = some e ∧ e.kind = code ∧ e.decoder = dec ∧ e.hpa = BitVec.ofNat 64 hpa ∧
      t.fltNext = (s.stnAt n.val).fltNext + 1 := by
  have hlog : (kind.isWrite || both) = true := by simpa using h
  rw [State.refuseLog, if_pos hlog, State.logFlt, stnAt_modStn_self]
  exact ⟨_, rfl, rfl, rfl, rfl, rfl⟩

theorem fltDropped_refuseLog (h : kind.isWrite = true) :
    ((s.refuseLog n.val hpa kind code dec handle both).stnAt n.val).fltDropped = sat 32 ((s.stnAt n.val).fltDropped + 1) := by
  simp only [State.refuseLog, State.logFlt, h, Bool.true_or, if_true, stnAt_modStn_self]

theorem fltPoisoned_refuseLog :
    ((s.refuseLog n.val hpa kind code dec handle both).stnAt n.val).fltPoisoned = (s.stnAt n.val).fltPoisoned := by
  unfold State.refuseLog State.logFlt
  split
  · rw [stnAt_modStn_self]
  · rfl

theorem refuseMem_frame (n : Nat) : let u := s.refuseMem n hpa kind code dec handle both
    u.mem = s.mem ∧ u.home = s.home ∧ u.pool = s.pool ∧ u.cache = s.cache := by
  obtain ⟨hm, hh, hp, hc⟩ := refuseLog_frame s n hpa code dec handle (kind := kind) both
  obtain ⟨hm', hh', hp', hc'⟩ := refuseAnswer_frame (s.refuseLog n hpa kind code dec handle both) n hpa (kind := kind)
  rw [refuseMem_eq]
  exact ⟨hm'.trans hm, hh'.trans hh, hp'.trans hp, hc'.trans hc⟩

/-- A refused write is completed and counted in DROPPED (02 R35; 17 R527). -/
theorem refuseMem_write (h : kind.isWrite = true) : let u := s.refuseMem n.val hpa kind code dec handle both
    .mem n.val hpa .cmp none ∈ u.out ∧ (u.stnAt n.val).fltDropped = sat 32 ((s.stnAt n.val).fltDropped + 1) := by
  rw [refuseMem_eq, refuseAnswer_write _ _ _ h]
  obtain ⟨_, _, _, _, hslot⟩ :=
    stnAt_slotDone ((s.refuseLog n.val hpa kind code dec handle both).emit (.mem n.val hpa .cmp none)) n.val n.val true
  refine ⟨by simp [State.slotDone], ?_⟩
  rw [hslot]
  exact fltDropped_refuseLog s n hpa code dec handle both h

/-- A refused read is answered with poisoned ones and counted in POISONED (02 R35; 17 R527). -/
theorem refuseMem_read (h : kind.isWrite = false) (hi : kind ≠ .invOwn) (hd : kind ≠ .drop) :
    let u := s.refuseMem n.val hpa kind code dec handle both
    .mem n.val hpa .cmp (some (onesLine, true)) ∈ u.out ∧ (u.stnAt n.val).fltPoisoned = sat 32 ((s.stnAt n.val).fltPoisoned + 1) := by
  rw [refuseMem_eq, refuseAnswer_read _ _ _ h hi hd]
  obtain ⟨_, _, _, _, hslot⟩ := stnAt_slotDone
    ((s.refuseLog n.val hpa kind code dec handle both).emit (.mem n.val hpa .cmp (some (onesLine, true)))) n.val n.val false
  refine ⟨by simp [State.slotDone, State.countPoisoned], ?_⟩
  rw [State.countPoisoned, stnAt_modStn_self, hslot, stnAt_emit, fltPoisoned_refuseLog]

/-- A refused write, and a read that is logged, is the newest entry of the station's log (17 R528). -/
theorem refuseMem_entry (h : kind.isWrite = true ∨ both = true) : let t := (s.refuseMem n.val hpa kind code dec handle both).stnAt n.val
    ∃ e, t.fltLog.head? = some e ∧ e.kind = code ∧ e.decoder = dec ∧ e.hpa = BitVec.ofNat 64 hpa ∧
      t.fltNext = (s.stnAt n.val).fltNext + 1 := by
  obtain ⟨_, _, _, _, _, hanswer⟩ := stnAt_refuseAnswer (s.refuseLog n.val hpa kind code dec handle both) n.val hpa (kind := kind) n.val
  rw [refuseMem_eq, hanswer]
  exact stnAt_refuseLog s n hpa code dec handle both h

end RefusalsOfAStation

/-! ## The decoders' cases in order -/

/-- The request that reaches the home of the line of well `i` (02 R34). -/
def State.homeReq (s : State) (n hpa : Nat) (kind : ReqKind) (d : Line) (mask : BitVec 64) (i off : Nat) : Req :=
  { org := .host n hpa, kind := kind, well := i, gen := (s.well i).gen, off := lineOf off, data := d, mask := mask }

/-- The grant is fenced, or the offset lies in a tail that is being removed (03 R81). -/
def State.atFence (s : State) (g : Grant) (i off : Nat) : Bool := g.fenced || (s.well i).tail off

/-- A write-back of a line that the station still owns, which a fence lets pass (03 R81). -/
def State.takesBack (s : State) (n : Nat) (kind : ReqKind) (i off : Nat) : Bool :=
  (kind == .wb || kind == .wbS) && (s.well i).coh && s.ownsLine n ((s.well i).dpa off)

/-- The request kind at the home of a CISTERN well's line: a plain access of a host is a coherent one there (04 R109). -/
def ReqKind.coherent : ReqKind → ReqKind
  | .plainRd => .rdCur
  | .plainWr => .ucWr
  | k => k

theorem ReqKind.coherent_other {k : ReqKind} (hr : k ≠ .plainRd) (hw : k ≠ .plainWr) : k.coherent = k := by
  unfold ReqKind.coherent
  split
  · exact absurd rfl hr
  · exact absurd rfl hw
  · rfl

section Routes
variable (s : State) (n hpa : Nat) (kind : ReqKind) (d : Line) (mask : BitVec 64)

theorem atFence_iff (g : Grant) (i off : Nat) : s.atFence g i off = true ↔ g.fenced = true ∨ (s.well i).tail off = true := by
  simp only [State.atFence, Bool.or_eq_true]

theorem takesBack_iff (i off : Nat) : s.takesBack n kind i off = true ↔
    (kind = .wb ∨ kind = .wbS) ∧ (s.well i).coh = true ∧ s.ownsLine n ((s.well i).dpa off) = true := by
  simp only [State.takesBack, Bool.and_eq_true, Bool.or_eq_true, beq_iff_eq, and_assoc]

theorem hostMemAt_inactive (h : (s.stnAt n).memActive = false) :
    s.hostMemAt n hpa kind d mask = s.refuseMem n hpa kind 7 0xFF Config.noHandle false := by
  simp only [State.hostMemAt, h, Bool.not_false, if_true]

variable (hact : (s.stnAt n).memActive = true)
include hact

theorem hostMemAt_uncovered (h : (s.stnAt n).decoders.find? (fun y => y.2.covers hpa) = none) : s.hostMemAt n hpa kind d mask =
    (s.refuseMem n hpa kind 8 0xFF Config.noHandle true).record { source := 0x0403, unit := n, address := hpa } := by
  simp only [State.hostMemAt, hact, h, Bool.not_true, Bool.false_eq_true, if_false]

variable {k : Nat} {x : Decoder} (hcov : (s.stnAt n).decoders.find? (fun y => y.2.covers hpa) = some (k, x))
include hcov

theorem hostMemAt_unbound (h : x.well = none) : s.hostMemAt n hpa kind d mask = s.refuseMem n hpa kind 2 k Config.noHandle false := by
  simp only [State.hostMemAt, hact, hcov, h, Bool.not_true, Bool.false_eq_true, if_false]

variable {i : Nat} (hw : x.well = some i)
include hw

/-- Beyond the well's length, or without a grant. -/
theorem hostMemAt_ungranted (h : (s.well i).length ≤ hpa - x.base ∨ tget (s.well i).grants n = none) :
    s.hostMemAt n hpa kind d mask = s.refuseMem n hpa kind 2 k (s.wellHandle i) false := by
  simp only [State.hostMemAt, hact, hcov, hw, Bool.not_true, Bool.false_eq_true, if_false]
  by_cases hlen : (s.well i).length ≤ hpa - x.base
  · rw [if_pos hlen]
  · rw [if_neg hlen, h.resolve_left hlen]

variable {g : Grant} (hlen : hpa - x.base < (s.well i).length) (hg : tget (s.well i).grants n = some g)
include hlen hg

/-- At a fence every request is refused but a write-back of what the station still owns (03 R81). -/
theorem hostMemAt_fenced (hf : s.atFence g i (hpa - x.base) = true) (hback : s.takesBack n kind i (hpa - x.base) = false) :
    s.hostMemAt n hpa kind d mask = s.refuseMem n hpa kind 1 k (s.wellHandle i) false := by
  unfold State.atFence at hf
  unfold State.takesBack at hback
  simp only [State.hostMemAt, hact, hcov, hw, Bool.not_true, Bool.false_eq_true, if_false, Nat.not_le.2 hlen, hg, hf, hback, Bool.not_false,
    Bool.and_self, if_true]

/-- Past the fence, rights, features and the well's kind decide (03 R72; 04 R98, R100, R109). -/
theorem hostMemAt_passed (hpass : ¬s.atFence g i (hpa - x.base) = true ∨ s.takesBack n kind i (hpa - x.base) = true) :
    s.hostMemAt n hpa kind d mask =
      if kind.isWrite && !g.w then s.refuseMem n hpa kind 3 k (s.wellHandle i) false
      else if (s.well i).coh && ((s.stnAt n).flit == 0 || !(s.stnAt n).biEn) then s.refuseMem n hpa kind 4 k (s.wellHandle i) true
      else s.submit (s.homeReq n hpa (if (s.well i).coh then kind.coherent else kind) d mask i (hpa - x.base)) := by
  have hgo : (s.atFence g i (hpa - x.base) && !s.takesBack n kind i (hpa - x.base)) = false := by
    rcases hpass with h | h <;> simp [h]
  unfold State.atFence State.takesBack at hgo
  have hkind : (if (s.well i).coh then kind.coherent else kind) = if !(s.well i).coh then kind else kind.coherent := by
    cases (s.well i).coh <;> rfl
  simp only [State.hostMemAt, hact, hcov, hw, Bool.not_true, Bool.false_eq_true, if_false, Nat.not_le.2 hlen, hg, hgo, hkind]
  rfl

end Routes
end Sys2Proof.Machine

open Sys2Proof Sys2Proof.Machine

/-- Settles O27: the cases of the decoders in their order, and what a refusal leaves. -/
theorem decodersRouteRequests : Obligations.DecodersRouteRequests := by
  refine ⟨fun s n hpa k kind d mask x hact hcov => ⟨hostMemAt_unbound s n hpa kind d mask hact hcov, fun i hw =>
      ⟨hostMemAt_ungranted s n hpa kind d mask hact hcov hw, fun g hlen hg => ?_⟩⟩,
    fun s n hpa kind d mask => ⟨hostMemAt_inactive s n hpa kind d mask, hostMemAt_uncovered s n hpa kind d mask⟩,
    fun s n hpa code dec handle kind both => ?_⟩
  · dsimp only
    rw [← atFence_iff, ← takesBack_iff]
    refine ⟨fun hf hback => hostMemAt_fenced s n hpa kind d mask hact hcov hw hlen hg hf (Bool.not_eq_true _ ▸ hback), fun hpass => ?_⟩
    have hroute := hostMemAt_passed s n hpa kind d mask hact hcov hw hlen hg hpass
    refine ⟨fun hwrite hro => hroute.trans (if_pos (by simp [hwrite, hro])), fun hright => ?_⟩
    rw [if_neg (by simpa using hright)] at hroute
    refine ⟨fun hc hoff => hroute.trans (if_pos (by simpa [hc] using hoff)), fun hc => ?_, fun hc hflit hbi => ?_⟩
    · rw [hroute, hc]; rfl
    · have hsent : s.hostMemAt n hpa kind d mask = s.submit (s.homeReq n hpa kind.coherent d mask i (hpa - x.base)) := by
        rw [hroute, if_neg (by simp [hflit, hbi]), if_pos hc]
      exact ⟨by rintro rfl; exact hsent, by rintro rfl; exact hsent, fun hr hw => by rw [hsent, ReqKind.coherent_other hr hw]; rfl⟩
  · obtain ⟨hm, hh, hp, hc⟩ := refuseMem_frame s hpa code dec handle (kind := kind) both n.val
    exact ⟨hm, hh, hp, hc, refuseMem_write s n hpa code dec handle both, refuseMem_read s n hpa code dec handle both,
      refuseMem_entry s n hpa code dec handle both⟩
end

section
/-! PROOF. What reaches a station's BARs: its apertures, its registers, the bits that a write of one clears, and GO (02 R38 to R44; 14 R424,
R426, R439; 15 R450 to R454, R466). -/
namespace Sys2Proof.Machine

/-! ## Bits that a write clears -/

/-- Taking away the bits that two numbers share borrows from no other bit. -/
theorem testBit_sub_and (a m k : Nat) : (a - (a &&& m)).testBit k = (a.testBit k && !m.testBit k) := by
  induction k generalizing a m with
  | zero =>
    have hlow := @Nat.and_mod_two_eq_one a m
    have hle : a &&& m ≤ a := Nat.and_le_left
    rw [Bool.eq_iff_iff]
    simp only [Nat.testBit_zero, decide_eq_true_eq, Bool.and_eq_true, Bool.not_eq_true', decide_eq_false_iff_not]
    omega
  | succ k ih =>
    have hhalf : (a - (a &&& m)) / 2 = a / 2 - (a / 2 &&& m / 2) := by
      have hlow := @Nat.and_mod_two_eq_one a m
      have hdiv := @Nat.and_div_two a m
      have hle : a &&& m ≤ a := Nat.and_le_left
      omega
    simp only [Nat.testBit_succ, hhalf, ih]

/-- A 32-bit write clears the bits of the low half that it writes as one. -/
theorem testBit_halfClear_lo (old : Nat) (v : BitVec 64) {k : Nat} (hk : k < 32) :
    (halfClear old .lo (v.toNat % 2 ^ 32)).testBit k = (old.testBit k && !v.getLsbD k) := by
  simp only [halfClear, testBit_sub_and, Nat.testBit_mod_two_pow, hk, decide_true, Bool.true_and, BitVec.testBit_toNat]

theorem testBit_halfClear_full (old : Nat) (v : BitVec 64) (k : Nat) :
    (halfClear old .full (v.toNat % 2 ^ 64)).testBit k = (old.testBit k && !v.getLsbD k) := by
  simp only [halfClear, testBit_sub_and, Nat.mod_eq_of_lt v.isLt, BitVec.testBit_toNat]

theorem testBit_linkCounts (v : BitVec 64) (old : Nat) {k : Nat} (hk : k < 32) :
    let x := halfClear old .lo (v.toNat % 2 ^ 32)
    (x % 2 ^ 16 + 2 ^ 16 * (x / 2 ^ 16 % 2 ^ 16)).testBit k = (old.testBit k && !v.getLsbD k) := by
  intro x
  have hx : x % 2 ^ 16 + 2 ^ 16 * (x / 2 ^ 16 % 2 ^ 16) = x % 2 ^ 32 := by omega
  rw [hx, Nat.testBit_mod_two_pow, decide_eq_true hk, Bool.true_and, testBit_halfClear_lo old v hk]

theorem testBit_cplLost (v : BitVec 64) (old k : Nat) :
    (halfClear (old * 2 ^ 48) .full (v.toNat % 2 ^ 64) / 2 ^ 48).testBit k = (old.testBit k && !v.getLsbD (48 + k)) := by
  rw [Nat.testBit_div_two_pow, testBit_halfClear_full, Nat.testBit_mul_two_pow, Nat.add_sub_cancel, decide_eq_true (Nat.le_add_left ..),
    Bool.true_and, Nat.add_comm]

/-! ## What a step does with an access -/

section Station
variable (s : State) (n : Station)

section Access
variable (o : BitVec 26) (size : BitVec 13) (data : List Byte) (half : Half) (v : BitVec 64) (w : BitVec 32) (k : BitVec 4)

theorem does_apertureRead : Does (.apertureRead n o size) s (s.aperRead n.val o.toNat size.toNat) := rfl
theorem does_apertureWrite : Does (.apertureWrite n o data) s (s.aperWrite n.val o.toNat data) := rfl
theorem does_winBaseWrite : Does (.winBaseWrite n half v) s (s.barWrite n.val fun s => s.winBaseSet n.val half v.toNat) := rfl
theorem does_jnlMarkWrite : Does (.jnlMarkWrite n half v) s (s.barWrite n.val fun s => s.jnlMarkSet n.val half v.toNat) := rfl
theorem does_jnlThresholdWrite : Does (.jnlThresholdWrite n w) s (s.barWrite n.val fun s => s.jnlThresholdSet n.val w.toNat) := rfl
theorem does_registerWrite : Does (.registerWrite n o k v) s (s.regWrite n o.toNat k.toNat v.toNat) := rfl
theorem does_msixVectorUnmask (x : Option (BitVec 11)) : Does (.msixVectorUnmask n x) s (s.unmask n.val (x.map (·.toNat))) := rfl

end Access

/-! ## Accesses that no BAR answers -/

section NoBar
variable (hn : s.barsUp n.val = false)
include hn

theorem aperRead_noBar (off size : Nat) : s.aperRead n.val off size = s.noBar n.val := by simp only [State.aperRead, hn]; rfl
theorem aperWrite_noBar (off : Nat) (data : List Byte) : s.aperWrite n.val off data = s.noBar n.val := by simp only [State.aperWrite, hn]; rfl
theorem regWrite_noBar (off size v : Nat) : s.regWrite n off size v = s.noBar n.val := by simp only [State.regWrite, hn]; rfl

end NoBar

/-! ## The apertures -/

/-- A WIN_BASE write of a region that is backed and permitted (02 R39). -/
theorem winBaseSet_full {v : Nat} (hback : s.regionBacked (v % 2 ^ 48 / windowSize * windowSize) = true)
    (hallow : s.regionAllowed n.val (v % 2 ^ 48 / windowSize * windowSize) = true) : s.winBaseSet n.val .full v =
    s.modStn n.val fun t => { t with winRefuse := 0, winBase := v % 2 ^ 48 / windowSize * windowSize } := by
  simp only [State.winBaseSet, halfSet, hback, hallow, Bool.not_true, Bool.false_eq_true, if_false]

section Bar
variable (hb : s.barsUp n.val = true)
include hb

theorem aperRead_disabled {off size : Nat} (hpos : 0 < size) (hmax : size ≤ 4096) (hin : off + size ≤ windowSize)
    (he : (s.stnAt n.val).winEnable = false) : s.aperRead n.val off size = s.ioData n.val off (List.replicate size 0xFF) false := by
  have hsize : min (min size 4096) (windowSize - off) = size := by omega
  simp only [State.aperRead, hb, hsize, he, beq_eq_false_iff_ne.2 (Nat.ne_of_gt hpos)]
  rfl

/-- An aperture read is entered among the station's reads and asks for each of its lines (02 R40). -/
theorem aperRead_enabled {off size : Nat} (hpos : 0 < size) (hin : off < windowSize) (he : (s.stnAt n.val).winEnable = true) :
    let k := min (min size 4096) (windowSize - off)
    let id := (s.stnAt n.val).nextRead
    s.aperRead n.val off size = (aperLines off k).zipIdx.foldl (fun t ((a, _), i) =>
      t.aperLine n.val id i (lineOf a) ((s.stnAt n.val).winBase + lineOf a)) (s.modStn n.val fun t =>
        { t with nextRead := id + 1, reads := t.reads ++ [⟨id, off, k, List.replicate (aperLines off k).length none⟩] }) := by
  have hk : (min (min size 4096) (windowSize - off) == 0) = false := beq_eq_false_iff_ne.2 (by omega)
  simp only [State.aperRead, hb, hk, he, stnAt_modStn_self]
  rfl

theorem aperWrite_enabled (off : Nat) (data : List Byte) (he : (s.stnAt n.val).winEnable = true) :
    s.aperWrite n.val off data = (aperLines off data.length).foldl (fun t (a, k) =>
      t.aperPut n.val a ((s.stnAt n.val).winBase + a) (Machine.slice data (a - off) k)) s := by
  simp only [State.aperWrite, hb, he]
  rfl

/-! ## Registers -/

theorem regWrite_winCtl (v : BitVec 64) : s.regWrite n 0x2008 4 v.toNat =
    s.modStn n.val fun t => { t with winEnable := nbit (v.toNat % 2 ^ 32) 0, winWrite := nbit (v.toNat % 2 ^ 32) 1 } := by
  simp [State.regWrite, hb]

/-- The two 16-bit counts of STN_LINK_EVENTS (14 R426). -/
theorem regWrite_linkCounts (v : BitVec 64) : s.regWrite n 0x1010 4 v.toNat = s.modStn n.val fun t =>
    let x := halfClear (t.retrains + 2 ^ 16 * t.dlDowns) .lo (v.toNat % 2 ^ 32)
    { t with retrains := x % 2 ^ 16, dlDowns := x / 2 ^ 16 % 2 ^ 16 } := by
  simp [State.regWrite, hb]

theorem regWrite_winDeny (v : BitVec 64) : s.regWrite n 0x2018 4 v.toNat =
    s.modStn n.val fun t => { t with winDeny := halfClear t.winDeny .lo (v.toNat % 2 ^ 32) } := by
  simp [State.regWrite, hb]

/-- DROPPED and POISONED are the halves of FLT_COUNTS (17 R527). -/
theorem regWrite_fltCounts (v : BitVec 64) : s.regWrite n 0x3010 8 v.toNat = s.modStn n.val fun t =>
    let x := halfClear (t.fltDropped + 2 ^ 32 * t.fltPoisoned) .full (v.toNat % 2 ^ 64)
    { t with fltDropped := x % 2 ^ 32, fltPoisoned := x / 2 ^ 32 } := by
  simp [State.regWrite, hb, halfOf]

theorem regWrite_rejectCount (v : BitVec 64) : s.regWrite n 0x11810 4 v.toNat =
    s.modMb (.stn n) fun x => { x with rejectCount := halfClear x.rejectCount .lo (v.toNat % 2 ^ 32) } := by
  simp [State.regWrite, hb]

/-- CPL_LOST stands in the highest 16 bits of MBX_STATUS (15 R450). -/
theorem regWrite_cplLost (v : BitVec 64) : s.regWrite n 0x11808 8 v.toNat =
    s.modMb (.stn n) fun x => { x with cplLost := halfClear (x.cplLost * 2 ^ 48) .full (v.toNat % 2 ^ 64) / 2 ^ 48 } := by
  simp [State.regWrite, hb, halfOf]

theorem regWrite_cplAck (v : BitVec 64) :
    s.regWrite n 0x11818 4 v.toNat = s.modMb (.stn n) fun x => { x with cplAck := v.toNat % 2 ^ 16 } := by
  simp [State.regWrite, hb]

/-- Bit 0 of MBX_DOORBELL is GO (15 R450, R451). -/
theorem regWrite_go (v : BitVec 64) : s.regWrite n 0x11800 8 v.toNat = if v.getLsbD 0 && s.answers then s.go n else s := by
  have hv : v.toNat % 18446744073709551616 = v.toNat := Nat.mod_eq_of_lt v.isLt
  rw [← BitVec.testBit_toNat]
  simp [State.regWrite, hb, nbit, hv]

end Bar

/-! ## Interrupts (14 R428, R429) -/

theorem unmask_vector (hb : s.barsUp n.val = true) (v : Nat) :
    s.unmask n.val (some v) = (s.setVec n.val v { s.vec n.val v with mask := false }).sendVec n.val v := by
  rw [State.unmask, barWrite_of_barsUp s _ hb]

theorem unmask_function (hup : (s.stnAt n.val).up = true) :
    s.unmask n.val none = (s.modStn n.val fun t => { t with msixEnable := true, msixMask := false }).sendVecs n.val := if_pos hup

/-! ## GO (15 R451, R452, R457) -/

/-- While a command is held, a further GO is discarded and counted. -/
theorem go_checking (h : (s.mb (.stn n)).checking = true) :
    s.go n = s.modMb (.stn n) fun x => { x with rejectCount := sat 32 (x.rejectCount + 1) } := if_pos h

/-- A listed command is held in its mailbox until its own row answers it. -/
theorem go_listed (h : (s.mb (.stn n)).checking = false) (hc : num (memRead (s.mb (.stn n)).area 0 64) 0 2 ∈ mailboxCodes)
    (hu : unlisted (num (memRead (s.mb (.stn n)).area 0 64) 0 2) (memRead (s.mb (.stn n)).area 64 (s.areaHdr n).len.toNat) = none) :
    s.go n = s.modMb (.stn n) fun x => { x with checking := true } := by
  simp only [State.go, h, List.contains_iff_mem.2 hc, hu]
  rfl

/-- A code that the maps do not list is answered at once. -/
theorem go_unlistedCode (h : (s.mb (.stn n)).checking = false) (hc : num (memRead (s.mb (.stn n)).area 0 64) 0 2 ∉ mailboxCodes)
    (hbusy : s.mailboxBusy (.stn n) false = false) :
    s.go n = s.reject (s.areaHdr n) { opcode := num (memRead (s.mb (.stn n)).area 0 64) 0 2, roles := anyRole } ⟨.badOpcode, [], 0⟩ := by
  have hno : mailboxCodes.contains (num (memRead (s.mb (.stn n)).area 0 64) 0 2) = false := by simpa using hc
  simp only [State.go, h, hno, hbusy]
  rfl

end Station

end Sys2Proof.Machine

open Sys2Proof Sys2Proof.Machine

/-- Settles O31: each access is followed through the BAR to the register or aperture it reaches, and without a BAR to the Unsupported Request. -/
theorem stationRegistersTakeAccesses : Obligations.StationRegistersTakeAccesses := by
  refine ⟨fun s n hup hbar hd0 => ?_, fun s n hup hnone o size data half v w k => ?_⟩
  · have hb := barsUp_of s hup hbar hd0
    refine ⟨fun o size hpos hmax hin he => (does_apertureRead ..).of_eq (aperRead_disabled s n hb hpos hmax hin he),
      fun o size hpos he => (does_apertureRead ..).of_eq (aperRead_enabled s n hb hpos o.isLt he),
      fun o data he => (does_apertureWrite ..).of_eq (aperWrite_enabled s n hb o.toNat data he),
      fun v hback hallow => (does_winBaseWrite ..).of_eq ((barWrite_of_barsUp s _ hb).trans (winBaseSet_full s n hback hallow)),
      fun half v => (does_jnlMarkWrite ..).of_eq (barWrite_of_barsUp s _ hb),
      fun v => (does_jnlThresholdWrite ..).of_eq (barWrite_of_barsUp s _ hb),
      fun v => (does_registerWrite ..).of_eq (regWrite_winCtl s n hb v), fun v => ?_, fun v => ?_,
      fun v => (does_msixVectorUnmask ..).of_eq (unmask_vector s n hb v.toNat), (does_msixVectorUnmask ..).of_eq (unmask_function s n hup)⟩
    · have hhalf : ∀ x, x % 2 ^ 16 < 2 ^ 16 := fun x => Nat.mod_lt x (by decide)
      refine ⟨⟨_, _, hhalf _, hhalf _, fun k hk => ?_, (does_registerWrite ..).of_eq ((regWrite_linkCounts s n hb v).trans (modStn_congr s rfl))⟩,
        ⟨_, fun k hk => ?_, (does_registerWrite ..).of_eq ((regWrite_winDeny s n hb v).trans (modStn_congr s rfl))⟩,
        ⟨_, _, Nat.mod_lt _ (by decide), fun k _ => ?_, (does_registerWrite ..).of_eq ((regWrite_fltCounts s n hb v).trans (modStn_congr s rfl))⟩,
        ⟨_, fun k hk => ?_, (does_registerWrite ..).of_eq ((regWrite_rejectCount s n hb v).trans (modMb_congr s rfl))⟩,
        ⟨_, fun k _ => testBit_cplLost v _ k, (does_registerWrite ..).of_eq ((regWrite_cplLost s n hb v).trans (modMb_congr s rfl))⟩,
        (does_registerWrite ..).of_eq (regWrite_cplAck s n hb v)⟩
      · rw [Nat.zero_add]; exact testBit_linkCounts v _ hk
      · rw [Nat.zero_add]; exact testBit_halfClear_lo _ v hk
      · rw [Nat.zero_add, Nat.mod_add_div]; exact testBit_halfClear_full _ v k
      · rw [Nat.zero_add]; exact testBit_halfClear_lo _ v hk
    · have hreg := regWrite_go s n hb v
      refine ⟨fun h0 => (does_registerWrite ..).of_eq (hreg.trans (if_neg (by rw [h0]; exact Bool.false_ne_true))), fun h1 hans => ?_⟩
      have hgo : s.regWrite n 0x11800 8 v.toNat = s.go n := hreg.trans (if_pos (by rw [h1, hans]; rfl))
      refine ⟨fun hc => (does_registerWrite ..).of_eq (hgo.trans (go_checking s n hc)),
        fun hc hcode hun => (does_registerWrite ..).of_eq (hgo.trans (go_listed s n hc hcode hun)), fun hc hcode hbusy => ?_⟩
      have hsame := same_reject s (s.areaHdr n) { opcode := num (memRead (s.mb (.stn n)).area 0 64) 0 2, roles := anyRole } ⟨.badOpcode, [], 0⟩
      exact ⟨_, (does_registerWrite ..).of_eq (hgo.trans (go_unlistedCode s n hc hcode hbusy)), replied_reject .., hsame.mem, hsame.pool⟩
  · have hn := barsUp_not s hnone
    have hur := noBar_of_up s hup
    have hwrite := fun f => (barWrite_of_not_barsUp s f hn).trans hur
    exact ⟨(does_apertureRead ..).of_eq ((aperRead_noBar s n hn ..).trans hur), (does_apertureWrite ..).of_eq ((aperWrite_noBar s n hn ..).trans hur),
      (does_winBaseWrite ..).of_eq (hwrite _), (does_jnlMarkWrite ..).of_eq (hwrite _), (does_jnlThresholdWrite ..).of_eq (hwrite _),
      (does_registerWrite ..).of_eq ((regWrite_noBar s n hn ..).trans hur)⟩
end

section
/-! PROOF. The commands on wells and cisterns and the queries of both: the checks read no mailbox, and each effect is that of the pool the
command finds (03 R62 to R80, R89 to R94; 15 R464, R471 to R473). -/
namespace Sys2Proof.Machine

/-! ## Checks that a use of a management session does not touch (19 R573) -/

/-- A use noted changes the mailboxes alone. -/
theorem noteUse_eq (s : State) (h : CmdHdr) : ∃ x, s.noteUse h = { s with mbx := x } := by
  unfold State.noteUse
  cases h.mbx with
  | stn n => exact ⟨_, rfl⟩
  | eth | i3c => dsimp only; split <;> exact ⟨_, rfl⟩

/-- A check that reads no mailbox passes after the use is noted where it passed before. -/
theorem check_noteUse {own : State → Option Refuse} {s : State} (h : CmdHdr) (hmbx : ∀ x, own { s with mbx := x } = own s)
    (hown : own s = none) : own (s.noteUse h) = none := by
  obtain ⟨x, hx⟩ := noteUse_eq s h
  rw [hx, hmbx, hown]

/-! ## Free choices -/

section Choices
variable (s : State)

theorem findRun_fst (p : Place) (n : Nat) : (s.findRun p n).1 =
    let k := (s.choose (Config.poolEnd / 65536)).1 * 65536
    let fits := fun a => (s.choose (Config.poolEnd / 65536)).2.runFits p s.spans (s.framesFor p) a n
    if fits k then some k else (edges s.spans ++ ((edges s.spans).filter (n ≤ ·)).map (· - n)).find? fits := by
  simp only [State.findRun, apply_ite Prod.fst]

/-- A search for a run takes one free value and changes nothing else. -/
theorem findRun_snd (p : Place) (n : Nat) : (s.findRun p n).2 = (s.choose (Config.poolEnd / 65536)).2 :=
  (apply_ite Prod.snd ..).trans (ite_self _)

theorem freeWellIdx_snd : s.freeWellIdx.2 = (s.choose 65536).2 := (apply_ite Prod.snd ..).trans (ite_self _)

theorem freeCisIdx_fst : s.freeCisIdx.1 = let k := (s.choose 4096).1
    if ((s.choose 4096).2.cis k).st == .free then some k else (List.range 4096).find? fun c => ((s.choose 4096).2.cis c).st == .free := by
  simp only [State.freeCisIdx, apply_ite Prod.fst]

theorem freeCisIdx_mbx (x : MbxS) : (State.freeCisIdx { s with mbx := x }).1 = s.freeCisIdx.1 := by
  simp only [freeCisIdx_fst]
  rfl

theorem freeCisIdx_same {s t : State} (h : Same s t) : t.freeCisIdx.1 = s.freeCisIdx.1 := by
  simp only [freeCisIdx_fst, State.choose, State.cis, h.pool, h.freeCtr]
  rfl

theorem createCheck_mbx (length place flags owner cis : Nat) (peer : PeerAnswer) (x : MbxS) :
    createCheck length place flags owner cis peer { s with mbx := x } = createCheck length place flags owner cis peer s := by
  simp only [createCheck, findRun_fst]
  rfl

theorem migrateCheck_mbx (h : CmdHdr) (handle place rsv rate : Nat) (x : MbxS) :
    migrateCheck h handle place rsv rate { s with mbx := x } = migrateCheck h handle place rsv rate s := by
  simp only [migrateCheck, findRun_fst]
  rfl

end Choices

/-! ## What placing a run leaves alone (03 R66; 18 R560) -/

/-- Two states agree in the wells, the cisterns and the bytes of the pool. -/
structure SameWells (s t : State) : Prop where
  wells : t.pool.wells = s.pool.wells
  cisterns : t.pool.cisterns = s.pool.cisterns
  mem : t.mem = s.mem

namespace SameWells
variable {s t u : State}

theorem refl (s : State) : SameWells s s := ⟨rfl, rfl, rfl⟩
theorem trans (h : SameWells s t) (k : SameWells t u) : SameWells s u :=
  ⟨k.wells.trans h.wells, k.cisterns.trans h.cisterns, k.mem.trans h.mem⟩

theorem of_data (h : SameData s t) : SameWells s t := ⟨by rw [h.pool], by rw [h.pool], h.mem⟩

theorem foldl {α : Type} (f : State → α → State) (hf : ∀ s a, SameWells s (f s a)) (l : List α) (s : State) : SameWells s (l.foldl f s) := by
  induction l generalizing s with
  | nil => exact refl s
  | cons a l ih => exact (hf s a).trans (ih _)

theorem well (h : SameWells s t) (i : Nat) : t.well i = s.well i := by rw [State.well, h.wells]; rfl
theorem namedCis (h : SameWells s t) (x : Nat) : t.namedCis x = s.namedCis x := by
  simp only [State.namedCis, State.cis, h.cisterns]
  rfl

end SameWells

theorem setGranule_sameWells (s : State) (g : Nat) (x : Granule) : SameWells s (s.setGranule g x) := ⟨rfl, rfl, rfl⟩

theorem placeGranule_sameWells (s : State) (p : Place) (g : Nat) : SameWells s (s.placeGranule p g) := by
  have hpick := fun (t : State) (l : List Nat) => SameWells.of_data (pick_sameData t l)
  unfold State.placeGranule
  split
  · exact .refl s
  · cases p with
    | free => exact .refl s
    | loc d =>
      dsimp only
      exact (hpick _ _).trans (setGranule_sameWells _ g _)
    | spread =>
      dsimp only
      exact ((((hpick _ _).trans (hpick _ _)).trans (hpick _ _)).trans (hpick _ _)).trans (setGranule_sameWells _ g _)

theorem takeRun_sameWells (s : State) (p : Place) (a n : Nat) : SameWells s (s.takeRun p a n) :=
  (SameWells.foldl _ (fun _ _ => placeGranule_sameWells ..) _ s).trans
    (SameWells.foldl _ (fun _ _ => SameWells.of_data (wakeDie_sameData ..)) _ _)

theorem choose_sameWells (s : State) (n : Nat) : SameWells s (s.choose n).2 := ⟨rfl, rfl, rfl⟩

theorem findRun_sameWells (s : State) (p : Place) (n : Nat) : SameWells s (s.findRun p n).2 :=
  findRun_snd s p n ▸ choose_sameWells ..

theorem relay_sameWells (s : State) (wb op : Nat) : SameWells s (s.relay wb op) := by
  unfold State.relay
  split <;> exact ⟨rfl, rfl, rfl⟩

theorem relayWell_sameWells (s : State) (i wb op : Nat) : SameWells s (s.relayWell i wb op) := by
  unfold State.relayWell
  split
  · exact relay_sameWells ..
  · exact .refl s

/-! ## Wells changed -/

@[simp] theorem well_modWell_self (s : State) (i : Nat) (f : Well → Well) : (s.modWell i f).well i = f (s.well i) := tgetD_tset_self ..

theorem well_modWell_ne (s : State) {i j : Nat} (f : Well → Well) (h : j ≠ i) : (s.modWell i f).well j = s.well j :=
  tgetD_tset_ne _ _ _ h.symm

/-- Only what a change makes of the well as it stands matters. -/
theorem modWell_congr (s : State) {i : Nat} {f g : Well → Well} (h : f (s.well i) = g (s.well i)) : s.modWell i f = s.modWell i g := by
  rw [State.modWell, h]; rfl

/-! ## What a step does with a query -/

section Queries
variable (s : State) (h : CmdHdr)

theorem exec_wellQuery (handle : BitVec 32) : exec (.wellQuery h handle) s = execWellQuery h handle s := rfl
theorem exec_wellQuerySummary : exec (.wellQuerySummary h) s = execWellQuerySummary h s := rfl
theorem exec_cisternQuery (cis : BitVec 32) : exec (.cisternQuery h cis) s = execCisternQuery h cis s := rfl
theorem exec_identify : exec (.identify h) s = execIdentify h s := rfl
theorem exec_getState : exec (.getState h) s = execGetState h s := rfl
theorem exec_journalReadEntries (frm : BitVec 64) (count : Byte) :
    exec (.journalReadEntries h frm count) s = execJournalReadEntries h frm count s := rfl
theorem exec_journalReadRejects (frm : BitVec 64) (count : Byte) :
    exec (.journalReadRejects h frm count) s = execJournalReadRejects h frm count s := rfl
theorem exec_journalFindTag (tag : BitVec 64) : exec (.journalFindTag h tag) s = execJournalFindTag h tag s := rfl

end Queries

/-- COUNT of a JOURNAL_READ passes its check from 1 up to the reply's room. -/
theorem countOk {count most : Nat} (hpos : 1 ≤ count) (hmax : count ≤ most) : (if count == 0 || most < count then bad else none) = none :=
  if_neg (by simp; omega)

end Sys2Proof.Machine

open Sys2Proof Sys2Proof.Machine

/-- Settles O25: the reply of a query is computed from the state as it is, which its own check does not refuse. -/
theorem queriesAnswer : Obligations.QueriesAnswer := by
  refine ⟨fun s h handle i hf hn hall => ?_, fun s h hf => ?_, fun s h cis c hf hn => ?_, fun s h hf => ⟨?_, ?_⟩,
    fun s h frm count hf hpos => ⟨fun hmax => ?_, fun hmax => ?_⟩, fun s h tag hf htag => ?_⟩
  · have hone : (handle.toNat == Config.noHandle) = false := beq_eq_false_iff_ne.2 hall
    have hnamed := ((same_noteUse s h).named handle.toNat).trans hn
    refine answers_query (exec_wellQuery s h handle) hf nofun rfl ?_ rfl ?_ rfl
    · simp only [hone, State.onWell, hnamed]; rfl
    · simp only [hone, hnamed]; rfl
  · exact answers_query (exec_wellQuerySummary s h) hf nofun rfl rfl rfl rfl rfl
  · have hnamed := ((same_noteUse s h).namedCis cis.toNat).trans hn
    refine answers_query (exec_cisternQuery s h cis) hf nofun rfl ?_ rfl ?_ rfl
    · simp only [State.onCis, hnamed]
    · simp only [hnamed]; rfl
  · exact answers_query (exec_identify s h) hf nofun rfl rfl rfl rfl rfl
  · exact answers_query (exec_getState s h) hf nofun rfl rfl rfl rfl rfl
  · exact answers_query (exec_journalReadEntries s h frm count) hf nofun rfl (countOk hpos hmax) rfl rfl rfl
  · exact answers_query (exec_journalReadRejects s h frm count) hf nofun rfl (countOk hpos hmax) rfl rfl rfl
  · exact answers_query (exec_journalFindTag s h tag) hf nofun rfl (if_neg (by simpa using htag)) rfl rfl rfl
end

section
/-! PROOF. WELL_CREATE: the bytes it takes, the well it makes, and what it leaves alone (03 R53, R66). -/
namespace Sys2Proof.Machine

section Commands
variable (s : State) (h : CmdHdr) (handle cis : BitVec 32) (len : BitVec 64) (peer : PeerAnswer) (station : Byte)

theorem exec_wellCreate (place flags : Byte) (owner : BitVec 16) :
    exec (.wellCreate h len place flags owner cis peer) s = execWellCreate h len place flags owner cis peer s := rfl
theorem exec_wellDestroy : exec (.wellDestroy h handle) s = execWellDestroy h handle s := rfl
theorem exec_wellResize : exec (.wellResize h handle len peer) s = execWellResize h handle len peer s := rfl
theorem exec_wellGrant (rights decoder : Byte) :
    exec (.wellGrant h handle station rights decoder) s = execWellGrant h handle station rights decoder s := rfl
theorem exec_wellRevoke : exec (.wellRevoke h handle station) s = execWellRevoke h handle station s := rfl
theorem exec_migrate (place : Byte) (rsv : BitVec 7) (rate : BitVec 16) :
    exec (.migrate h handle place rsv rate) s = execMigrate h handle place rsv rate s := rfl
theorem exec_migrateCancel (place : Byte) (rsv : BitVec 7) (rate : BitVec 16) :
    exec (.migrateCancel h handle place rsv rate) s = execMigrateCancel h handle place rsv rate s := rfl
theorem exec_cisternCreate (name : BitVec 128) (tbi : BitVec 16) :
    exec (.cisternCreate h name tbi) s = execCisternCreate h name tbi s := rfl
theorem exec_cisternJoin : exec (.cisternJoin h cis station) s = execCisternJoin h cis station s := rfl
theorem exec_cisternLeave : exec (.cisternLeave h cis station) s = execCisternLeave h cis station s := rfl
theorem exec_cisternRecoverZero : exec (.cisternRecoverZero h cis) s = execCisternRecoverZero h cis s := rfl
theorem exec_cisternRecoverKeep : exec (.cisternRecoverKeep h cis) s = execCisternRecoverKeep h cis s := rfl
theorem exec_cisternRecoverDissolve : exec (.cisternRecoverDissolve h cis) s = execCisternRecoverDissolve h cis s := rfl

end Commands

/-! ## WELL_CREATE (03 R66) -/

/-- The well that a WELL_CREATE makes of a free index. -/
def wellMade (p : Place) (length flags owner start : Nat) (c : Option Nat) (mirror : Option Mirror) (wb : Nat) (w : Well) : Well :=
  { gen := w.gen, st := .creating, place := p, coh := nbit flags 0, kvb16 := nbit flags 2, owner := owner, cistern := c, start := start,
    length := length, mirror := mirror, wb := some wb }

/-- The cistern that a WELL_CREATE names. -/
def State.createCis (s : State) (flags cis : Nat) : Option Nat := if nbit flags 0 then s.namedCis cis else none

/-- The mirror that a WELL_CREATE asks for. -/
def createMirror (flags : Nat) (peer : PeerAnswer) : Option Mirror :=
  if nbit flags 1 then some { primary := true, origin := true, st := .sync, twinStart := peer.start.toNat } else none

/-- The twin belongs to the cistern of a new well or not (03 R53). -/
def State.createTwin (s : State) (c : Option Nat) : State :=
  match c with
  | some c => s.cisTwin c
  | none => s

/-- The state with the bytes of a new well taken, at an index that is free. -/
def State.createTake (s : State) (p : Place) (length : Nat) : State :=
  (s.freeWellIdx.2.findRun p length).2.takeRun p ((s.freeWellIdx.2.findRun p length).1.getD 0) length

/-- The state with the well itself. -/
def State.createWell (s : State) (p : Place) (length flags owner cis : Nat) (peer : PeerAnswer) (wb : Nat) : State :=
  ((s.createTake p length).modWell s.freeWellIdx.1 (wellMade p length flags owner ((s.freeWellIdx.2.findRun p length).1.getD 0)
    (s.createCis flags cis) (createMirror flags peer) wb)).createTwin (s.createCis flags cis)

theorem createTake_sameWells (s : State) (p : Place) (length : Nat) : SameWells s (s.createTake p length) :=
  ((freeWellIdx_snd s ▸ choose_sameWells s 65536).trans (findRun_sameWells ..)).trans (takeRun_sameWells ..)

theorem createApply_state {place : Nat} {p : Place} (hp : Place.ofCode place = some p) (length flags owner cis : Nat) (peer : PeerAnswer)
    (wb : Nat) (t : State) : (createApply length place flags owner cis peer wb t).2.2 =
      if nbit flags 1 then (t.createWell p length flags owner cis peer wb).relay wb 0x0100 else t.createWell p length flags owner cis peer wb := by
  have hc : (if nbit flags 0 then (t.createTake p length).namedCis cis else none) = t.createCis flags cis := by
    rw [(createTake_sameWells t p length).namedCis]; rfl
  have hmirror : (createMirror flags peer).isSome = nbit flags 1 := by unfold createMirror; cases nbit flags 1 <;> rfl
  rw [← hmirror, State.createWell, ← hc]
  unfold createApply
  rw [hp]
  rfl

section Create
variable (s : State) (p : Place) (length flags owner cis : Nat) (peer : PeerAnswer) (wb : Nat)

theorem well_createTwin (c : Option Nat) (i : Nat) : (s.createTwin c).well i = s.well i := by cases c <;> rfl

theorem well_createWell_self : (s.createWell p length flags owner cis peer wb).well s.freeWellIdx.1 =
    wellMade p length flags owner ((s.freeWellIdx.2.findRun p length).1.getD 0) (s.createCis flags cis) (createMirror flags peer) wb
      (s.well s.freeWellIdx.1) := by
  rw [State.createWell, well_createTwin, well_modWell_self, (createTake_sameWells s p length).well]

theorem well_createWell_ne {j : Nat} (h : j ≠ s.freeWellIdx.1) : (s.createWell p length flags owner cis peer wb).well j = s.well j := by
  rw [State.createWell, well_createTwin, well_modWell_ne _ _ h, (createTake_sameWells s p length).well]

theorem createWell_mem : (s.createWell p length flags owner cis peer wb).mem = s.mem := by
  have htwin : ∀ (t : State) c, (t.createTwin c).mem = t.mem := fun _ c => by cases c <;> rfl
  rw [State.createWell, htwin, State.modWell_mem, (createTake_sameWells s p length).mem]

theorem createApply_sameWells {place : Nat} (hp : Place.ofCode place = some p) :
    SameWells (s.createWell p length flags owner cis peer wb) (createApply length place flags owner cis peer wb s).2.2 := by
  rw [createApply_state hp]
  split
  · exact relay_sameWells ..
  · exact .refl _

end Create

/-- A PLACEMENT that passes the check is listed (03 R66). -/
theorem createCheck_place {length place flags owner cis : Nat} {peer : PeerAnswer} {s : State}
    (h : createCheck length place flags owner cis peer s = none) : ∃ p, Place.ofCode place = some p := by
  cases hp : Place.ofCode place with
  | none => rw [createCheck, hp] at h; nomatch h
  | some p => exact ⟨p, rfl⟩

end Sys2Proof.Machine

open Sys2Proof Sys2Proof.Machine

/-- Settles O10: where its check passes, the well that the operation makes is read back at its index, and every other index reads as before. -/
theorem wellCreateTakesEffect : Obligations.WellCreateTakesEffect := by
  refine ⟨fun s h length place flags owner cis peer hf hown => ?_, fun s h length place flags owner cis peer p hf hp hown => ?_⟩
  · obtain ⟨p, hp⟩ := createCheck_place hown
    refine leads_mailbox (exec_wellCreate s h cis length peer place flags owner) hf nofun rfl
      (check_noteUse h (fun x => createCheck_mbx s _ _ _ _ _ _ x) hown) (fun wb t u ht hu hreply => ?_)
    have hmade := createApply_sameWells t p length.toNat flags.toNat owner.toNat cis.toNat peer wb hp
    have hwell : ∀ j, u.well j = (t.createWell p length.toNat flags.toNat owner.toNat cis.toNat peer wb).well j := fun j =>
      (hu.well j).trans (hmade.well j)
    have hmem := (hu.mem.trans hmade.mem).trans ((createWell_mem ..).trans ht.mem)
    refine ⟨hreply, hmem, t.freeWellIdx.1, ?_⟩
    rw [hwell, well_createWell_self, ht.well]
    exact ⟨rfl, rfl, rfl, rfl, rfl, rfl, rfl, fun j hj => (hwell j).trans ((well_createWell_ne _ _ _ _ _ _ _ _ hj).trans (ht.well j))⟩
  · refine effects_mailbox (exec_wellCreate s h cis length peer place flags owner) hf nofun rfl
      (check_noteUse h (fun x => createCheck_mbx s _ _ _ _ _ _ x) hown) (fun wb t ht => ?_) rfl rfl
    rw [createApply_state hp]
    rfl
end

section
/-! PROOF. The commands on a well that its handle names: each has the effect of its own operation on the wells (03 R64, R67 to R73, R89 to R94). -/
namespace Sys2Proof.Machine

/-! ## Effects on a well that its handle names (03 R64) -/

section Effects
variable (s : State) {handle i : Nat} (wb : Nat)

theorem destroyApply_state (h : s.named handle = some i) :
    (destroyApply handle wb s).2.2 = (s.relayWell i wb 0x0101).destroyWell i (some wb) := by simp only [destroyApply, h]

theorem resizeApply_state (h : s.named handle = some i) (len : Nat) : (resizeApply handle len wb s).2.2 =
    if (s.well i).length < len then (s.relayWell i wb 0x0102).growWell i len wb else (s.relayWell i wb 0x0102).shrinkWell i len wb := by
  simp only [resizeApply, h, (relayWell_sameWells s i wb 0x0102).well]

theorem grantApply_state (h : s.named handle = some i) {n dec k : Nat} (rights : Nat) (hk : s.grantDecoder n dec = some k) :
    (grantApply handle n rights dec wb s).2.2 =
      (s.modWell i fun w => { w with grants := tset w.grants n { w := rights == 3, dec := k } }).modStn n
        fun x => { x with decoders := tmod x.decoders k fun d => { d with well := some i } } := by
  simp only [grantApply, h, hk]

/-- A grant that a revocation may end is fenced, and its sequence begins (03 R81). -/
theorem startRev_open (v : Rev) {g : Grant} (hg : tget (s.well v.well).grants v.station = some g) (hf : g.fenced = false)
    (hfrm : v.frm = 0) : s.startRev v =
      (s.modWell v.well fun w => { w with grants := tset w.grants v.station { g with fenced := true } }).modPool
        fun p => { p with revs := p.revs ++ [v] } := by
  simp only [State.startRev, hg, hf, hfrm, Bool.false_eq_true, if_false, beq_self_eq_true, if_true]

theorem revokeApply_state (h : s.named handle = some i) (n : Nat) :
    (revokeApply handle n wb s).2.2 = s.startRev { well := i, station := n, start := s.now, cause := .revoke wb } := by
  simp only [revokeApply, h]

/-- A WELL_REVOKE that passes its check finds the grant open. -/
theorem revokeCheck_open (h : s.named handle = some i) {n : Nat} {g : Grant} (hg : tget (s.well i).grants n = some g)
    (hown : revokeCheck handle n s = none) : g.fenced = false := by
  simp only [revokeCheck, State.onWell, h, hg, firstOf] at hown
  cases hf : g.fenced with
  | false => rfl
  | true => simp only [hf, if_true] at hown; split_ifs at hown <;> nomatch hown

theorem migrateApply_state (h : s.named handle = some i) {place : Nat} {p : Place} (hp : Place.ofCode place = some p) (rate : Nat) :
    (migrateApply handle place rate wb s).2.2 =
      let a := (s.findRun p (s.well i).length).1.getD 0
      ((((s.findRun p (s.well i).length).2.takeRun p a (s.well i).length).modWell i fun w =>
        { w with st := .migrating,
                 mig := some { start := a, place := p, rate := if rate = 0 then 100 else rate, wb := wb } }).markMig).startChunk i := by
  simp only [migrateApply, h, hp, Option.getD_some, beq_iff_eq]

theorem cancelApply_state (h : s.named handle = some i) : (cancelApply handle wb s).2.2 =
      let c := (s.commitChunk i).modWell i fun w => { w with mig := w.mig.map fun m => { m with cancel := some wb, turning := m.transit } }
      (if (c.well i).mig.all (fun m => m.point == 0 && !m.transit) then c.dropWellRanges i else c.startChunk i).releaseHeld := by
  simp only [cancelApply, h]
  split
  · rename_i m hm
    rw [hm]; rfl
  · rename_i hm
    rw [hm]; rfl

end Effects

end Sys2Proof.Machine

open Sys2Proof Sys2Proof.Machine

/-- Settles O11: each command passes its check, and its effect is that of its operation on the named well. -/
theorem wellCommandsTakeEffect : Obligations.WellCommandsTakeEffect := by
  refine ⟨fun s h handle i hf hown hn => ?_, fun s h handle len peer i hf hown hn => ?_, fun s h handle station rights decoder i k hf hown hn hk => ?_,
    fun s h handle station i g hf hown hn hg => ?_, fun s h handle place rsv rate i p hf hown hn hp => ?_, fun s h handle place rsv rate i hf hown hn => ?_⟩
  · exact effects_mailbox (exec_wellDestroy s h handle) hf nofun rfl (check_noteUse h (fun _ => rfl) hown)
      (fun wb t ht => destroyApply_state t wb ((ht.named _).trans hn)) rfl rfl
  · refine effects_mailbox (exec_wellResize s h handle len peer) hf nofun rfl (check_noteUse h (fun _ => rfl) hown)
      (fun wb t ht => ?_) rfl rfl
    rw [resizeApply_state t wb ((ht.named _).trans hn), ht.well]
  · exact effects_mailbox (exec_wellGrant s h handle station rights decoder) hf nofun rfl (check_noteUse h (fun _ => rfl) hown)
      (fun wb t ht => grantApply_state t wb ((ht.named _).trans hn) _ ((ht.grantDecoder ..).trans hk)) rfl rfl
  · refine effects_mailbox (exec_wellRevoke s h handle station) hf nofun rfl (check_noteUse h (fun _ => rfl) hown)
      (fun wb t ht => ?_) rfl rfl
    rw [revokeApply_state t wb ((ht.named _).trans hn), startRev_open t _ (by rw [ht.well]; exact hg) (revokeCheck_open s hn hg hown) rfl, ht.now]
  · refine effects_mailbox (exec_migrate s h handle place rsv rate) hf nofun rfl (check_noteUse h (fun x => migrateCheck_mbx s _ _ _ _ _ x) hown)
      (fun wb t ht => ?_) rfl rfl
    rw [migrateApply_state t wb ((ht.named _).trans hn) hp, ht.well]
  · exact effects_mailbox (exec_migrateCancel s h handle place rsv rate) hf nofun rfl (check_noteUse h (fun _ => rfl) hown)
      (fun wb t ht => cancelApply_state t wb ((ht.named _).trans hn)) rfl rfl
end

section
/-! PROOF. The commands on cisterns (03 R76 to R80). -/
namespace Sys2Proof.Machine

section Cisterns
variable (s : State) {handle c : Nat} (wb : Nat)

theorem joinApply_state (h : s.namedCis handle = some c) (n : Nat) :
    (joinApply handle n wb s).2.2 = s.modCis c fun x => { x with members := x.members ++ [n] } := by simp only [joinApply, h]

theorem startRev_now (v : Rev) : (s.startRev v).now = s.now := by
  unfold State.startRev
  split
  · rfl
  · split
    · rfl
    · dsimp only; split <;> rfl

/-- The clock stands still while revocations of several wells start. -/
theorem foldl_startRev_now (l : List Nat) (n : Nat) (cause : RevCause) (t : State) :
    l.foldl (fun t i => t.startRev { well := i, station := n, start := t.now, cause := cause }) t =
      l.foldl (fun u i => u.startRev { well := i, station := n, start := t.now, cause := cause }) t := by
  induction l generalizing t with
  | nil => rfl
  | cons i l ih => rw [List.foldl_cons, List.foldl_cons, ih, startRev_now]

theorem leaveApply_state (h : s.namedCis handle = some c) (n : Nat) : (leaveApply handle n wb s).2.2 =
    (s.wellsOf c).foldl (fun t i => t.startRev { well := i, station := n, start := s.now, cause := .leave wb })
      (s.modCis c fun x => { x with leaving := x.leaving ++ [(n, wb)] }) := by
  simp only [leaveApply, h, foldl_startRev_now]
  rfl

theorem recoverApply_state (h : s.namedCis handle = some c) (mode : RecMode) : (recoverApply handle mode wb s).2.2 =
    (if (s.cis c).twin then s.relay wb 0x0113 else s).recoverStart c mode (some wb) := by simp only [recoverApply, h]

theorem cisCreateApply_state (name : BitVec 128) (tbi : Nat) (hc : s.freeCisIdx.1 = some c) : (cisCreateApply name tbi wb s).2.2 =
    s.freeCisIdx.2.modCis c fun x => { gen := x.gen, st := .live, name := name, tBi := if tbi = 0 then 20 else tbi } := by
  simp only [cisCreateApply, hc, Option.getD_some, beq_iff_eq]

end Cisterns

/-- T_BI of a new cistern is 0 or from 5 to 200, and an index is free (03 R76). -/
theorem cisCreateCheck_passes {s : State} (h : CmdHdr) {tbi c : Nat} (htbi : tbi = 0 ∨ (5 ≤ tbi ∧ tbi ≤ 200)) (hc : s.freeCisIdx.1 = some c) :
    firstOf [(tbi != 0 && (tbi < 5 || 200 < tbi), bad), ((s.noteUse h).freeCisIdx.1.isNone, refuse .noResource)] = none := by
  obtain ⟨x, hx⟩ := noteUse_eq s h
  have hrange : (tbi != 0 && (tbi < 5 || 200 < tbi)) = false := by
    simp; omega
  simp only [firstOf, hrange, hx, freeCisIdx_mbx, hc]
  rfl

end Sys2Proof.Machine

open Sys2Proof Sys2Proof.Machine

/-- Settles O12: each command passes its check, and its effect is that of its operation on the named cistern. -/
theorem cisternCommandsTakeEffect : Obligations.CisternCommandsTakeEffect := by
  refine ⟨fun s h name tbi c hf htbi hc => ?_, fun s h cis station c hf hown hn => ?_, fun s h cis station c hf hown hn => ?_,
    fun s h cis c i mode hf hown hn hi => ?_⟩
  · exact effects_mailbox (exec_cisternCreate s h name tbi) hf nofun rfl (cisCreateCheck_passes h htbi hc)
      (fun wb t ht => cisCreateApply_state t wb _ _ ((freeCisIdx_same ht).trans hc)) rfl rfl
  · exact effects_mailbox (exec_cisternJoin s h cis station) hf nofun rfl (check_noteUse h (fun _ => rfl) hown)
      (fun wb t ht => joinApply_state t wb ((ht.namedCis _).trans hn) _) rfl rfl
  · refine effects_mailbox (exec_cisternLeave s h cis station) hf nofun rfl (check_noteUse h (fun _ => rfl) hown)
      (fun wb t ht => (leaveApply_state t wb ((ht.namedCis _).trans hn) _).trans ?_) rfl rfl
    rw [ht.now, State.wellsOf, ht.pool]; rfl
  · have hE := fun wb t (ht : Same s t) => (recoverApply_state t wb ((ht.namedCis _).trans hn) mode).trans (by rw [ht.cis])
    have hcheck : recoverCheck cis.toNat mode (s.noteUse h) = none := check_noteUse h (fun _ => rfl) hown
    simp only [List.mem_cons, Prod.mk.injEq, List.not_mem_nil, or_false] at hi
    rcases hi with ⟨rfl, rfl⟩ | ⟨rfl, rfl⟩ | ⟨rfl, rfl⟩
    · exact effects_mailbox (exec_cisternRecoverZero s h cis) hf nofun rfl hcheck hE rfl rfl
    · exact effects_mailbox (exec_cisternRecoverKeep s h cis) hf nofun rfl hcheck hE rfl rfl
    · exact effects_mailbox (exec_cisternRecoverDissolve s h cis) hf nofun rfl hcheck hE rfl rfl
end

section
/-! PROOF. The moments of wells: revocations that end, released runs that are zeroed, chunks that start, commit and come back
(03 R49, R66, R81 to R84, R90 to R94; 18 R560). -/
namespace Sys2Proof.Machine

/-! ## What a step does with a moment -/

section Moments
variable (s : State) (i : BitVec 16)

theorem does_revocationDrainTimeout (n : Station) : Does (.revocationDrainTimeout i n) s (s.drainTimeout i.toNat n.val) := rfl
theorem does_revocationComplete (n : Station) : Does (.revocationComplete i n) s (s.revComplete i.toNat n.val) := rfl
theorem does_backgroundZeroing (a len : BitVec 48) : Does (.backgroundZeroing a len) s (s.zeroFree a.toNat len.toNat) := rfl
theorem does_migrateChunkStart : Does (.migrateChunkStart i) s (s.startChunk i.toNat) := rfl
theorem does_migrateChunkCommit : Does (.migrateChunkCommit i) s (s.chunkDone i.toNat) := rfl
theorem does_migrateCancelComplete : Does (.migrateCancelComplete i) s (s.cancelDone i.toNat) := rfl

end Moments

/-! ## Revocations (03 R81 to R84) -/

theorem tget_tdel_ne {α : Type} (t : Tab α) {i j : Nat} (h : j ≠ i) : tget (tdel t i) j = tget t j := by
  induction t with
  | nil => rfl
  | cons x t ih =>
    obtain ⟨k, v⟩ := x
    by_cases hk : k = i
    · subst k; simp [tdel, tget, h.symm]
    · simp [tdel, tget, hk, ih]

section Revocations
variable (s : State)

theorem drainTimeout_of_find {i n : Nat} {v : Rev} (h : s.pool.revs.find? (fun v => v.well == i && v.station == n && !v.late) = some v) :
    s.drainTimeout i n = (({ s with now := max s.now (tick (v.start + 50000)) } : State).refuseReqs
      (fun r => r.ofStn v.station && r.inWell v.well v.frm) 1).modPool
        fun p => { p with revs := p.revs.map fun u => if u = v then { u with late := true } else u } := by
  simp only [State.drainTimeout, State.revOf, h, beq_iff_eq]
  rfl

theorem revComplete_of_find {i n : Nat} {v : Rev} (h : s.pool.revs.find? (fun v => v.well == i && v.station == n && s.revDrained v) = some v) :
    s.revComplete i n = s.endRev v := by simp only [State.revComplete, State.revOf, h]

/-- A revocation that a WELL_REVOKE began and whose station answered ends with its command. -/
theorem endRev_revoke {v : Rev} {wb : Nat} (hfrm : v.frm = 0) (hdead : v.deadHost = false) (hcause : v.cause = .revoke wb) :
    s.endRev v = ((((s.modPool fun p => { p with revs := p.revs.erase v }).unbind v.station v.well).modWell v.well
      fun w => { w with grants := tdel w.grants v.station })).ready wb .ok [] := by
  simp only [State.endRev, State.revWb, hcause, hdead, hfrm, Bool.false_eq_true, if_false, beq_self_eq_true, if_true]

/-- It ends the grant of its station alone, and moves no byte. -/
theorem endRev_keeps {v : Rev} {wb m : Nat} (hfrm : v.frm = 0) (hdead : v.deadHost = false) (hcause : v.cause = .revoke wb)
    (hm : m ≠ v.station) : tget ((s.endRev v).well v.well).grants m = tget (s.well v.well).grants m ∧ (s.endRev v).mem = s.mem := by
  have hbound : ((s.modPool fun p => { p with revs := p.revs.erase v }).unbind v.station v.well).well v.well = s.well v.well := by
    simp only [State.unbind, State.well, State.modStn_pool]; rfl
  rw [endRev_revoke s hfrm hdead hcause]
  constructor
  · have hready : ∀ (t : State) (i : Nat), (t.ready wb .ok []).well i = t.well i := fun _ _ => rfl
    rw [hready, well_modWell_self, hbound, tget_tdel_ne _ hm]
  · simp only [State.ready, State.unbind, State.modMbx_mem, State.modWell_mem, State.modStn_mem, State.modPool_mem]

end Revocations

/-! ## Runs that read zero (03 R49, R66) -/

theorem cellsOf_replicate_zero (a n : Nat) : cellsOf a (List.replicate n 0) = [] := by
  induction n generalizing a with
  | zero => rfl
  | succ n ih => simp only [List.replicate_succ, cellsOf, if_true, ih]

/-- Zeroing a run stores zeros. -/
theorem memZero_eq_memWrite (m : List Host.Cell) (a n : Nat) : memZero m a n = memWrite m a (List.replicate n 0) := by
  simp only [memZero, memWrite, cellsOf_replicate_zero, List.length_replicate, List.append_nil]

theorem memGet_memZero_in (m : List Host.Cell) {a n x : Nat} (hlo : a ≤ x) (hhi : x < a + n) : memGet (memZero m a n) x = 0 := by
  have hself := memWrite_self m a (List.replicate n 0) (x - a) (by simp; omega)
  rwa [← memZero_eq_memWrite, Nat.add_sub_cancel' hlo, List.getElem_replicate] at hself

theorem memGet_memZero_out (m : List Host.Cell) {a n x : Nat} (h : x < a ∨ a + n ≤ x) : memGet (memZero m a n) x = memGet m x := by
  rw [memZero_eq_memWrite]
  exact memWrite_other _ _ _ _ (by simpa using h)

section Zeroed
variable (s : State) (a n : Nat)

@[simp] theorem zeroed_mem : (s.zeroed a n).mem = memZero s.mem a n := rfl
@[simp] theorem zeroed_wells : (s.zeroed a n).pool.wells = s.pool.wells := rfl

/-- The part of the only run that awaits zeroing is zeroed where a background run covers it. -/
theorem zeroFree_single {len b m : Nat} (hruns : s.pool.dirtyRuns = [(b, m)]) (hlo : a ≤ b) (hhi : b + m ≤ a + len) (hpos : 0 < m)
    (hfree : ∀ r ∈ s.spans, overlaps b m r = false) : s.zeroFree a len = s.zeroed b m := by
  have hin : overlaps a len (b, m) = true := by simp [overlaps]; omega
  have hspan : (s.spans.any (overlaps b m)) = false := by simpa using hfree
  have hmax : max a b = b := by omega
  have hmin : min (a + len) (b + m) - b = m := by omega
  simp [State.zeroFree, hruns, hin, hmax, hmin, hspan]

end Zeroed

/-! ## Chunks (03 R90 to R94; 06 R169) -/

section Chunks
variable (s : State) {i : Nat} {m : Mig} (hm : (s.well i).mig = some m)
include hm

/-- What is still to be copied, or to be copied back, is not in transit, and the cistern does not stop the copy. -/
theorem startChunk_starts (hmore : if m.cancel.isSome then 0 < m.point else m.point < (s.well i).length) (ht : m.transit = false)
    (hd : (s.well i).doomed = false) (hdown : s.isDown (s.well i) = false) :
    s.startChunk i = s.modWell i fun w => { w with mig := some { m with transit := true } } := by
  simp only [State.startChunk, hm, ht, hd, hdown, decide_eq_true hmore]
  rfl

theorem cancelDone_completes {c : Nat} (hc : m.cancel = some c) (hpoint : m.point = 0) (ht : m.transit = false)
    (hd : (s.well i).doomed = false) (hsw : s.wellSwitched i = true) (hdown : s.isDown (s.well i) = false) : s.cancelDone i =
      ((((s.releaseRun m.start (s.well i).length).modWell i fun w => { w with st := .live, mig := none }).tidyGranules).ready c .ok []).ready
        m.wb .ok [1] := by
  simp only [State.cancelDone, hm, hc, hpoint, ht, hd, hsw, hdown]
  rfl

end Chunks

section Commit
variable (s : State) {i : Nat} {m : Mig}

/-- The lines that the copy of a chunk reads and writes (18 R560). -/
def chunkKeys (src dst : Nat) : List Nat := (List.range 1024).flatMap fun k => [src + 64 * k, dst + 64 * k]

/-- What reaches the stacks changes dies alone. -/
theorem stacksReady_pool (keys : List Nat) : (s.stacksReady keys).2.pool = s.pool := by
  have hwake : ∀ (l : List Nat) (t : State), (l.foldl (fun t d => t.wakeDie d) t).pool = t.pool := fun l => by
    induction l with
    | nil => exact fun _ => rfl
    | cons d l ih => exact fun t => (ih _).trans (wakeDie_sameData t d).pool
  unfold State.stacksReady
  dsimp only
  split
  · exact hwake ..
  · rfl

/-- The chunk at its new place, and committed. -/
def State.chunkMoved (s : State) (i : Nat) (m : Mig) (src dst : Nat) : State :=
  (s.moveChunk src dst 65536).modWell i fun w =>
    { w with mig := some { m with point := if m.back then m.chunk else m.chunk + 65536, transit := false, turning := false } }

/-- After the last chunk, translations that name the well are dropped (13 R392). -/
def State.chunkEnded (s : State) (i : Nat) : State :=
  if (s.well i).mig.map (fun m => m.ended (s.well i).length) = some true then s.dropWellRanges i else s

variable (hm : (s.well i).mig = some m) (ht : m.transit = true) {src dst : Nat} (hends : (s.well i).chunkEnds m = (src, dst))
include hm ht hends

theorem commitChunk_commits {v : State} (hroom : s.chunkRoom src dst 65536 = (true, v)) : s.commitChunk i = v.chunkMoved i m src dst := by
  simp only [State.commitChunk, hm, ht, hends, hroom]
  rfl

/-- A chunk waits while a stack that it reads or writes is dormant (18 R560). -/
theorem chunkDone_waits (hr : (s.stacksReady (chunkKeys src dst)).1 = false) : s.chunkDone i = (s.stacksReady (chunkKeys src dst)).2 := by
  unfold chunkKeys at hr
  simp only [State.chunkDone, hm, ht, hends, hr]
  rfl

theorem chunkDone_commits {v : State} (hr : (s.stacksReady (chunkKeys src dst)).1 = true)
    (hroom : (s.stacksReady (chunkKeys src dst)).2.chunkRoom src dst 65536 = (true, v)) :
    s.chunkDone i = ((v.chunkMoved i m src dst).chunkEnded i).releaseHeld := by
  have hwell : (s.stacksReady (chunkKeys src dst)).2.well i = s.well i := by simp only [State.well, stacksReady_pool]
  have hcommit := commitChunk_commits _ (i := i) (by rw [hwell, hm]) ht (by rw [hwell, hends]) hroom
  have hmoved : ((v.chunkMoved i m src dst).well i).mig.map (·.transit) = some false := by
    rw [State.chunkMoved, well_modWell_self]; rfl
  unfold chunkKeys at hr hcommit
  simp only [State.chunkDone, hm, ht, hends, hr, hcommit, hmoved, State.chunkEnded, beq_iff_eq, Bool.not_true, Bool.false_eq_true, if_false,
    Option.some.injEq]

end Commit

end Sys2Proof.Machine

open Sys2Proof Sys2Proof.Machine

/-- Settles O36: each moment is one operation on the state, whose cases the lemmas above give. -/
theorem wellMomentsAct : Obligations.WellMomentsAct := by
  refine ⟨fun s i n v => ⟨fun h => ?_, fun h => ?_⟩, fun s v wb hfrm hdead hcause n hn => ?_, fun s a len b m hruns hlo hhi hpos hfree => ?_,
    fun s i m hm => ⟨fun hc ht hmore hd hdown => ?_, fun hc ht hmore hd hdown => ?_, ?_⟩, fun s i m c hm hc hpoint ht hd hsw hdown => ?_⟩
  · exact (does_revocationDrainTimeout s i n).of_eq (drainTimeout_of_find s h)
  · exact (does_revocationComplete s i n).of_eq (revComplete_of_find s h)
  · exact endRev_keeps s hfrm hdead hcause hn
  · refine ⟨_, (does_backgroundZeroing s a len).of_eq (zeroFree_single s a.toNat hruns hlo hhi hpos hfree),
      fun x hx hxm => ?_, fun x hx => ?_, rfl⟩
    · exact memGet_memZero_in s.mem hx hxm
    · exact memGet_memZero_out s.mem hx
  · exact (does_migrateChunkStart s i).of_eq (startChunk_starts s hm (by simpa [hc] using hmore) ht hd hdown)
  · exact (does_migrateChunkStart s i).of_eq (startChunk_starts s hm (by simpa [hc] using hmore) ht hd hdown)
  · intro src dst r
    refine ⟨fun ht hr => (does_migrateChunkCommit s i).of_eq (chunkDone_waits s hm ht rfl hr), fun v ht hr hroom =>
      (does_migrateChunkCommit s i).of_eq (chunkDone_commits s hm ht rfl hr hroom)⟩
  · exact (does_migrateCancelComplete s i).of_eq (cancelDone_completes s hm hc hpoint ht hd hsw hdown)
end

section
/-! PROOF. What follows a command retains no line of the pool, and gives up none but by a reset of the whole module: each step of `finish`
moves, evicts and forgets lines that are not retained alone (05 R151, R152), and a line that it places is not retained. -/
namespace Sys2Proof.Machine

/-! ## The retained lines of a cache -/

/-- The line of the pool that a key names. -/
def CKey.dpa? : CKey → Option Nat
  | .pool a => some a
  | .host _ _ => none

/-- The lines of the pool that are retained among lines of the cache. -/
def linesKept (l : List CLine) : List Nat := (l.filter (·.retained)).filterMap (·.key.dpa?)

/-- The lines of the pool that the cache retains (05 R151, R152). -/
def Cache.kept (c : Cache) : List Nat := linesKept c.lines

theorem mem_kept {c : Cache} {a : Nat} : a ∈ c.kept ↔ ∃ x ∈ c.lines, x.retained = true ∧ x.key = .pool a := by
  have hdpa : ∀ k : CKey, k.dpa? = some a ↔ k = .pool a := fun k => by cases k <;> simp [CKey.dpa?]
  simp [Cache.kept, linesKept, hdpa, and_assoc]

@[simp] theorem linesKept_lines (c : Cache) : linesKept c.lines = c.kept := rfl

@[simp] theorem kept_mk (l : List CLine) (v : Vector Slice 4) (n : Nat) (t : List Tracker) (r m : List (Nat × Nat × Nat × Nat))
    (x : List (Nat × Nat × H2D)) : Cache.kept ⟨l, v, n, t, r, m, x⟩ = linesKept l := rfl

theorem linesKept_cons (c : CLine) (l : List CLine) :
    linesKept (c :: l) = (if c.retained then c.key.dpa?.toList else []) ++ linesKept l := by
  cases hr : c.retained <;> cases hk : c.key.dpa? <;> simp [linesKept, hr, hk]

theorem linesKept_filter {p : CLine → Bool} (hp : ∀ c, c.retained = true → p c = false → c.key.dpa? = none) (l : List CLine) :
    linesKept (l.filter p) = linesKept l := by
  induction l with
  | nil => rfl
  | cons c l ih =>
    cases hc : p c with
    | true => rw [List.filter_cons_of_pos hc, linesKept_cons, linesKept_cons, ih]
    | false =>
      rw [List.filter_cons_of_neg (by simp [hc]), linesKept_cons, ih]
      cases hr : c.retained with
      | false => rfl
      | true => rw [hp c hr hc]; rfl

/-- A change of lines that leaves keys and what is retained. -/
def KeepsKeys (f : CLine → CLine) : Prop := ∀ c, (f c).key = c.key ∧ (f c).retained = c.retained

@[simp] theorem keepsKeys_iff (f : CLine → CLine) : KeepsKeys f ↔ ∀ c, (f c).key = c.key ∧ (f c).retained = c.retained := Iff.rfl

theorem linesKept_map {f : CLine → CLine} (hf : KeepsKeys f) (l : List CLine) : linesKept (l.map f) = linesKept l := by
  have hk : ∀ c, (f c).key = c.key := fun c => (hf c).1
  have hr : ∀ c, (f c).retained = c.retained := fun c => (hf c).2
  simp [linesKept, List.filter_map, List.filterMap_map, Function.comp_def, hk, hr]

theorem foldl_keeps {α β γ : Type} (g : β → γ) {f : β → α → β} {l : List α} (hf : ∀ b, ∀ a ∈ l, g (f b a) = g b) (b : β) :
    g (l.foldl f b) = g b := by
  induction l generalizing b with
  | nil => rfl
  | cons a l ih =>
    exact (ih (fun b x hx => hf b x (List.mem_cons_of_mem a hx)) _).trans (hf b a List.mem_cons_self)

/-- A step that leaves what the cache retains. -/
def Keeps {α : Type} (f : State → α → State) : Prop := ∀ s a, (f s a).cache.kept = s.cache.kept

@[simp] theorem keeps_iff {α : Type} (f : State → α → State) : Keeps f ↔ ∀ s a, (f s a).cache.kept = s.cache.kept := Iff.rfl

@[simp] theorem kept_foldl {α : Type} (f : State → α → State) (hf : Keeps f) (l : List α) (s : State) :
    (l.foldl f s).cache.kept = s.cache.kept := foldl_keeps (fun s => s.cache.kept) (fun s a _ => hf s a) s

@[simp] theorem kept_forAll {α : Type} (f : α → State → State) (hf : Keeps fun s a => f a s) (l : List α) (s : State) :
    (forAll l f s).cache.kept = s.cache.kept := kept_foldl _ hf l s

@[simp] theorem kept_ite (c : Prop) [Decidable c] (s t : State) :
    (if c then s else t).cache.kept = if c then s.cache.kept else t.cache.kept := apply_ite (·.cache.kept) c s t

theorem kept_of_cache {s t : State} (h : t.cache = s.cache) : t.cache.kept = s.cache.kept := by rw [h]

/-- What a home leaves, whatever it answers. -/
def Served.state : Served → State
  | .done s => s
  | .wait s => s
  | .hold s => s

@[simp] theorem state_done (s : State) : (Served.done s).state = s := rfl
@[simp] theorem state_wait (s : State) : (Served.wait s).state = s := rfl
@[simp] theorem state_hold (s : State) : (Served.hold s).state = s := rfl
@[simp] theorem state_ite (c : Prop) [Decidable c] (x y : Served) : (if c then x else y).state = if c then x.state else y.state :=
  apply_ite Served.state c x y

/-! ## The log, the directory and its snoops -/

variable (s : State)

@[simp] theorem flushLog_kept : s.flushLog.cache.kept = s.cache.kept := by simp [State.flushLog]

@[simp] theorem auditRec_kept (a : Audit) : (s.auditRec a).cache.kept = s.cache.kept :=
  kept_of_cache ((same_resumeAudit s).trans (same_auditPut _ a)).cache

@[simp] theorem auditOwn_kept (kind detail : Nat) : (s.auditOwn kind detail).cache.kept = s.cache.kept := by simp [State.auditOwn]

@[simp] theorem spdmEnded_kept (n : Nat) : (s.spdmEnded n).cache.kept = s.cache.kept := by simp [State.spdmEnded]

@[simp] theorem ideEnded_kept (n : Nat) (k : IdeKind) (how : Nat) : (s.ideEnded n k how).cache.kept = s.cache.kept := by
  simp [State.ideEnded]

@[simp] theorem idesEnded_kept (n : Nat) : (s.idesEnded n).cache.kept = s.cache.kept := by simp [State.idesEnded]

@[simp] theorem grantRecord_kept (key n : Nat) (granted modified : Bool) :
    (s.grantRecord key n granted modified).cache.kept = s.cache.kept := by
  unfold State.grantRecord
  split <;> simp

@[simp] theorem dropAsks_kept (mine : Req → Bool) : (s.dropAsks mine).cache.kept = s.cache.kept := by simp [State.dropAsks]

@[simp] theorem forward_kept (r : Req) : (s.forward r).cache.kept = s.cache.kept := by simp [State.forward]

@[simp] theorem unreserve_kept (dpa : Nat) : (s.unreserve dpa).cache.kept = s.cache.kept := by simp [State.unreserve]

@[simp] theorem askRecord_kept (r : Req) (key : Nat) : (s.askRecord r key).cache.kept = s.cache.kept := by simp [State.askRecord]

@[simp] theorem delEnt_kept (key : Nat) : (s.delEnt key).cache.kept = s.cache.kept := by simp [State.delEnt]

@[simp] theorem tidyEnt_kept (key : Nat) : (s.tidyEnt key).cache.kept = s.cache.kept := by
  unfold State.tidyEnt
  split <;> simp

@[simp] theorem choose_kept (n : Nat) : (s.choose n).2.cache.kept = s.cache.kept := by simp [State.choose]

@[simp] theorem pick_kept {α : Type} (l : List α) : (s.pick l).2.cache.kept = s.cache.kept := kept_of_cache (pick_sameData s l).cache

@[simp] theorem setLines_kept (l : List CLine) : (s.setLines l).cache.kept = linesKept l := rfl

@[simp] theorem dropLine_kept (k : CKey) : (s.dropLine k).cache.kept = s.cache.kept :=
  linesKept_filter (fun c hr hc => by simp [hr] at hc) _

@[simp] theorem wakeDie_kept (d : Nat) : (s.wakeDie d).cache.kept = s.cache.kept := kept_of_cache (wakeDie_sameData s d).cache

@[simp] theorem touch_kept (a : Nat) : (s.touch a).cache.kept = s.cache.kept := kept_of_cache (touch_sameData s a).cache

@[simp] theorem writeDram_kept (a : Nat) (d : Line) (pois : Bool) : (s.writeDram a d pois).cache.kept = s.cache.kept :=
  kept_of_cache (writeDram_sameBut s a d pois).cache

@[simp] theorem inTransfer_kept (id d set w : Nat) : (s.inTransfer id d set w).cache.kept = s.cache.kept := by simp [State.inTransfer]

@[simp] theorem device_kept (n : Nat) (what : D2H) (kind : DevKind) (hpa : Nat) (d : Line)
    (pois : Bool) (job : Option Nat) (opnd addr : Nat) (mask : BitVec 64) :
    (s.device n what kind hpa d pois job opnd addr mask).cache.kept = s.cache.kept := by
  simp [State.device]

@[simp] theorem dirtyEvict_kept (c : CLine) (n hpa : Nat) (job : Option Nat) (opnd addr : Nat) :
    (s.dirtyEvict c n hpa job opnd addr).cache.kept = s.cache.kept := by
  simp [State.dirtyEvict]

@[simp] theorem evict_kept (c : CLine) : (s.evict c).cache.kept = s.cache.kept := by
  unfold State.evict
  split <;> simp

@[simp] theorem takeWay_kept (d set : Nat) : (s.takeWay d set).2.cache.kept = s.cache.kept := by
  unfold State.takeWay
  dsimp only
  split
  · rfl
  · split
    · rfl
    · split <;> rename_i hp <;> have hpick := congrArg Prod.snd hp ▸ pick_kept s _
      · exact hpick
      · exact (evict_kept _ _).trans hpick

@[simp] theorem reserveWay_kept (dpa : Nat) : (s.reserveWay dpa).cache.kept = s.cache.kept := by
  unfold State.reserveWay
  split
  · rfl
  · split
    · rfl
    · split <;> rename_i d set _ _ _ _ hw <;> have hway := congrArg (·.2.cache.kept) hw
      · exact hway.symm.trans (takeWay_kept ..)
      · exact hway.symm.trans (takeWay_kept ..)

@[simp] theorem sendSnoop_kept (key : Nat) (kind : BiKind) (holder : Nat) : (s.sendSnoop key kind holder).cache.kept = s.cache.kept := by
  unfold State.sendSnoop
  split <;> simp

@[simp] theorem startTxn_kept (key : Nat) (p : Purpose) (targets : List Nat) (kind : BiKind) (ev : Option DirEnt) :
    (s.startTxn key p targets kind ev).cache.kept = s.cache.kept := by
  simp [State.startTxn]

@[simp] theorem quotaRecall_kept (n die : Nat) : (s.quotaRecall n die).cache.kept = s.cache.kept := by simp [State.quotaRecall]

@[simp] theorem afterGrant_kept (r : Req) (key : Nat) : (s.afterGrant r key).cache.kept = s.cache.kept := by
  unfold State.afterGrant
  split <;> simp

/-! ## Lines of the cache, and what a home reads and writes -/

@[simp] theorem freshAge_kept : (s.freshAge).2.cache.kept = s.cache.kept := by simp [State.freshAge]

@[simp] theorem modLine_kept (k : CKey) (f : CLine → CLine) (hf : KeepsKeys f) :
    (s.modLine k f).cache.kept = s.cache.kept :=
  linesKept_map (fun c => by split <;> [exact hf c; exact ⟨rfl, rfl⟩]) _

@[simp] theorem touchLine_kept (k : CKey) : (s.touchLine k).cache.kept = s.cache.kept := by
  unfold State.touchLine
  split
  · rfl
  · dsimp only
    refine (modLine_kept _ _ _ ?_).trans (kept_forAll _ (fun s c => ?_) _ s)
    · exact fun _ => ⟨rfl, rfl⟩
    · exact linesKept_map (fun x => by split <;> exact ⟨rfl, rfl⟩) _

@[simp] theorem addHist_kept (source kind unit location count verdict : Nat) (inj : Bool) :
    (s.addHist source kind unit location count verdict inj).cache.kept = s.cache.kept :=
  kept_of_cache (addHist_sameData ..).cache

@[simp] theorem raiseVec_kept (n v : Nat) : (s.raiseVec n v).cache.kept = s.cache.kept := kept_of_cache (raiseVec_sameData s n v).cache

@[simp] theorem record_kept (e : Event) : (s.record e).cache.kept = s.cache.kept := kept_of_cache (record_sameData s e).cache

@[simp] theorem poisonLine_kept (a cause : Nat) : (s.poisonLine a cause).cache.kept = s.cache.kept :=
  kept_of_cache (poisonLine_sameBut s a cause).cache

@[simp] theorem uncorrectable_kept (e : Event) : (s.uncorrectable e).cache.kept = s.cache.kept :=
  kept_of_cache (uncorrectable_sameBut s e _ rfl).cache

@[simp] theorem readDram_kept (a : Nat) : (s.readDram a).2.2.cache.kept = s.cache.kept := by
  unfold State.readDram
  dsimp only
  repeat' split
  all_goals simp

/-- A line that is placed is valid, not retained. -/
theorem place_kept {c : CLine} {t : State} (hr : c.retained = false) (h : s.place c = some t) : t.cache.kept = s.cache.kept := by
  unfold State.place at h
  split at h
  · cases h
  · rename_i d set _
    split at h
    · cases h
    · split at h <;> rename_i u hw <;> cases h
      have hway : u.cache.kept = s.cache.kept := (congrArg (·.2.cache.kept) hw).symm.trans (takeWay_kept ..)
      rw [touchLine_kept, setLines_kept, linesKept_cons, hr, ← hway]
      rfl

@[simp] theorem stationRead_kept (dpa : Nat) : (s.stationRead dpa).2.2.cache.kept = s.cache.kept := by
  unfold State.stationRead
  split
  · exact touchLine_kept ..
  · dsimp only
    split
    · rename_i hp
      exact (place_kept _ rfl hp).trans (readDram_kept ..)
    · exact readDram_kept ..

@[simp] theorem homeRead_kept (dpa : Nat) : (s.homeRead dpa).2.2.cache.kept = s.cache.kept := by
  unfold State.homeRead
  split <;> simp

@[simp] theorem slotDone_kept (n : Nat) (rwd : Bool) : (s.slotDone n rwd).cache.kept = s.cache.kept := by simp [State.slotDone]

@[simp] theorem countPoisoned_kept (n : Nat) : (s.countPoisoned n).cache.kept = s.cache.kept := by simp [State.countPoisoned]

@[simp] theorem ioData_kept (n off : Nat) (bs : List Byte) (ep : Bool) : (s.ioData n off bs ep).cache.kept = s.cache.kept := by
  refine kept_foldl _ (fun s x => ?_) _ s
  rfl

@[simp] theorem fillRead_kept (n id i : Nat) (d : Line) (p : Bool) : (s.fillRead n id i d p).cache.kept = s.cache.kept := by
  unfold State.fillRead
  dsimp only
  split <;> simp

@[simp] theorem fillTile_kept (id tile i : Nat) (d : Line) (p : Bool) : (s.fillTile id tile i d p).cache.kept = s.cache.kept := by
  simp [State.fillTile]

@[simp] theorem jobWritten_kept (id : Nat) : (s.jobWritten id).cache.kept = s.cache.kept := by simp [State.jobWritten]

@[simp] theorem fillDesc_kept (id k : Nat) (d : Line) (p : Bool) : (s.fillDesc id k d p).cache.kept = s.cache.kept := by
  simp [State.fillDesc]

@[simp] theorem respond_kept (r : Req) (k : CmpKind) (data : Option (Line × Bool)) : (s.respond r k data).cache.kept = s.cache.kept := by
  unfold State.respond
  dsimp only
  split <;> simp

@[simp] theorem modEnt_kept (key : Nat) (f : DirEnt → DirEnt) : (s.modEnt key f).cache.kept = s.cache.kept := by simp [State.modEnt]

@[simp] theorem touchEnt_kept (key : Nat) : (s.touchEnt key).cache.kept = s.cache.kept := by
  unfold State.touchEnt
  split <;> simp

@[simp] theorem leaveExcl_kept (key : Nat) : (s.leaveExcl key).cache.kept = s.cache.kept := by
  unfold State.leaveExcl
  split <;> simp

@[simp] theorem grantShared_kept (key n : Nat) : (s.grantShared key n).cache.kept = s.cache.kept := by simp [State.grantShared]

@[simp] theorem grantExcl_kept (key n : Nat) (x : Excl) : (s.grantExcl key n x).cache.kept = s.cache.kept := by simp [State.grantExcl]

@[simp] theorem dropHolder_kept (key n : Nat) : (s.dropHolder key n).cache.kept = s.cache.kept := by
  unfold State.dropHolder
  split <;> simp

@[simp] theorem commit_kept (r : Req) (key : Nat) (ans : Option (Line × Bool)) : (s.commit r key ans).cache.kept = s.cache.kept := by
  unfold State.commit
  split <;> simp

@[simp] theorem stream_kept (d : Nat) (src : Src) (host : Bool) (l : Nat) : (s.stream d src host l).2.cache.kept = s.cache.kept := by
  unfold State.stream
  dsimp only
  split
  · rfl
  · split
    · rfl
    · split <;> rename_i hp <;> exact (congrArg (·.2.cache.kept) hp).symm.trans (pick_kept ..)

@[simp] theorem writeThrough_kept (dpa : Nat) (d : Line) (mask : BitVec 64) (pois keep : Bool) :
    (s.writeThrough dpa d mask pois keep).cache.kept = s.cache.kept := by
  unfold State.writeThrough
  split <;> simp

@[simp] theorem dropRecord_kept (dpa : Nat) (pois : Bool) : (s.dropRecord dpa pois).cache.kept = s.cache.kept := by simp [State.dropRecord]

@[simp] theorem copyPoison_kept (dpa : Nat) (pois : Bool) : (s.copyPoison dpa pois).cache.kept = s.cache.kept := by simp [State.copyPoison]

@[simp] theorem homeWrite_kept (dpa : Nat) (d : Line) (mask : BitVec 64) (pois : Bool) (src : Src) :
    (s.homeWrite dpa d mask pois src).cache.kept = s.cache.kept := by
  have hread : ∀ t : State, (if mask = fullMask then ((0 : Line), false, t) else t.readDram dpa).2.2.cache.kept = t.cache.kept := fun t => by
    split
    · rfl
    · exact readDram_kept ..
  unfold State.homeWrite
  split
  · rfl
  · rename_i die a _
    have hstream : (if mask = fullMask then s.stream die src false (a / 64) else (false, s)).2.cache.kept = s.cache.kept := by
      split <;> simp
    dsimp only
    generalize (if mask = fullMask then s.stream die src false (a / 64) else (false, s)) = x at hstream ⊢
    rw [copyPoison_kept]
    split
    · simpa using hstream
    · split
      · simpa using hstream
      · split
        · simpa using hstream
        · split
          · simpa using hstream
          · split
            · rename_i hp
              rw [dropRecord_kept, place_kept _ rfl hp, hread, hstream]
            · rw [writeThrough_kept, hread, hstream]

@[simp] theorem takeBack_kept (dpa : Nat) (d : Line) (mask : BitVec 64) (pois : Bool) (src : Src) :
    (s.takeBack dpa d mask pois src).cache.kept = s.cache.kept := by
  unfold State.takeBack
  split
  · simp
  · dsimp only
    split
    · simp
    · rw [copyPoison_kept, dropRecord_kept, touchLine_kept, setLines_kept, linesKept_cons]
      split <;> simp

@[simp] theorem takeThrough_kept (dpa : Nat) (d : Line) (mask : BitVec 64) (pois : Bool) (src : Src) :
    (s.takeThrough dpa d mask pois src).cache.kept = s.cache.kept := by
  simp [State.takeThrough]

@[simp] theorem applyWrite_kept (r : Req) (key : Nat) (recalled : Bool) : (s.applyWrite r key recalled).cache.kept = s.cache.kept := by
  simp [State.applyWrite]

@[simp] theorem atomDone_kept (id i : Nat) (old : Option Nat) : (s.atomDone id i old).cache.kept = s.cache.kept := by simp [State.atomDone]

@[simp] theorem applyAtomic_kept (r : Req) (key aop width pos opnd cmp : Nat) :
    (s.applyAtomic r key aop width pos opnd cmp).cache.kept = s.cache.kept := by
  unfold State.applyAtomic
  dsimp only
  repeat' split
  all_goals simp

@[simp] theorem perform_kept (r : Req) (key : Nat) (given : Option (Line × Bool)) : (s.perform r key given).cache.kept = s.cache.kept := by
  unfold State.perform
  dsimp only
  repeat' split
  all_goals simp

@[simp] theorem delTxn_kept (key : Nat) : (s.delTxn key).cache.kept = s.cache.kept := by simp [State.delTxn]

@[simp] theorem completeServe_kept (r : Req) (key : Nat) (given : Option (Line × Bool)) :
    (s.completeServe r key given).cache.kept = s.cache.kept := by
  simp [State.completeServe]

@[simp] theorem endTxn_kept (key : Nat) : (s.endTxn key).cache.kept = s.cache.kept := by simp [State.endTxn]

@[simp] theorem modTxn_kept (key : Nat) (f : Txn → Txn) : (s.modTxn key f).cache.kept = s.cache.kept := by simp [State.modTxn]

@[simp] theorem answerAsks_kept (key : Nat) : (s.answerAsks key).cache.kept = s.cache.kept := by
  unfold State.answerAsks
  split
  · refine (kept_foldl _ (fun s id => ?_) _ _).trans (modTxn_kept ..)
    rfl
  · rfl

@[simp] theorem finishTxn_kept (t : Txn) : (s.finishTxn t).cache.kept = s.cache.kept := by
  unfold State.finishTxn
  split <;> simp

@[simp] theorem orphan_kept (n : Nat) : (s.orphan n).cache.kept = s.cache.kept := by
  refine (kept_foldl _ (fun s t => ?_) _ _).trans ?_
  · split <;> simp
  · simp

/-! ## Refusals, cisterns that go down, answers of snoops -/

@[simp] theorem logFlt_kept (n kind path decoder : Nat) (addr : Nat) (well : Nat) (isWrite : Bool) :
    (s.logFlt n kind path decoder addr well isWrite).cache.kept = s.cache.kept := by
  simp [State.logFlt]

@[simp] theorem refuseReq_kept (r : Req) (kind : Nat) : (s.refuseReq r kind).cache.kept = s.cache.kept := by
  unfold State.refuseReq
  dsimp only
  repeat' split
  all_goals simp

@[simp] theorem serveDown_kept (r : Req) (c key : Nat) : (s.serveDown r c key).cache.kept = s.cache.kept := by simp [State.serveDown]

@[simp] theorem endCisRequests_kept (c : Nat) : (s.endCisRequests c).cache.kept = s.cache.kept := by simp [State.endCisRequests]

@[simp] theorem startRev_kept (v : Rev) : (s.startRev v).cache.kept = s.cache.kept := by
  unfold State.startRev
  split <;> simp

@[simp] theorem poisonHome_kept (dpa cause : Nat) : (s.poisonHome dpa cause).cache.kept = s.cache.kept := by
  unfold State.poisonHome
  split <;> simp

@[simp] theorem loseLine_kept (c key : Nat) : (s.loseLine c key).cache.kept = s.cache.kept := by
  unfold State.loseLine
  dsimp only
  split <;> simp

@[simp] theorem downEntry_kept (c : Nat) (e : DirEnt) (inBuffer : Bool) : (s.downEntry c e inBuffer).cache.kept = s.cache.kept := by
  unfold State.downEntry
  extract_lets x dead lost live s₁ s₂ s₃ out s₄ s₅
  have h₅ : s₅.cache.kept = s.cache.kept := by simp [s₅, s₄, s₃, s₂, s₁]
  clear_value s₅
  split
  · dsimp only
    split <;> simp [h₅]
  · split <;> simp [h₅]

@[simp] theorem downWalk_kept (c : Nat) : (s.downWalk c).cache.kept = s.cache.kept := by simp [State.downWalk]

@[simp] theorem declare_kept (c cause station : Nat) (told : Bool) : (s.declare c cause station told).cache.kept = s.cache.kept := by
  simp [State.declare]

@[simp] theorem applyRsp_kept (key holder : Nat) (rsp : BiRsp) : (s.applyRsp key holder rsp).cache.kept = s.cache.kept := by
  unfold State.applyRsp
  split <;> simp

@[simp] theorem answer_kept (n : Snoop) (rsp : BiRsp) : (s.answer n rsp).cache.kept = s.cache.kept := by
  unfold State.answer
  dsimp only
  repeat' split
  all_goals simp

@[simp] theorem forgetHolder_kept (n : Nat) : (s.forgetHolder n).cache.kept = s.cache.kept := by simp [State.forgetHolder]

@[simp] theorem loseHolder_kept (n cause : Nat) : (s.loseHolder n cause).cache.kept = s.cache.kept := by simp [State.loseHolder]

/-! ## Requests that are served, and jobs -/

@[simp] theorem countEnd_kept (id : Nat) : (s.countEnd id).cache.kept = s.cache.kept := by
  unfold State.countEnd
  split
  · rfl
  · split <;> simp

@[simp] theorem delJob_kept (id : Nat) : (s.delJob id).cache.kept = s.cache.kept := by simp [State.delJob]

@[simp] theorem jobIrq_kept (j : Job) : (s.jobIrq j).cache.kept = s.cache.kept := by simp [State.jobIrq]

@[simp] theorem dropReads_kept (id : Nat) : (s.dropReads id).cache.kept = s.cache.kept := by simp [State.dropReads]

@[simp] theorem newReq_kept (r : Req) : (s.newReq r).2.cache.kept = s.cache.kept := by simp [State.newReq]

@[simp] theorem toRetry_kept (r : Req) : (s.toRetry r).cache.kept = s.cache.kept := by simp [State.toRetry]

@[simp] theorem enqueue_kept (r : Req) : (s.enqueue r).cache.kept = s.cache.kept := by simp [State.enqueue]

@[simp] theorem ownerWrite_kept (r : Req) (w : Well) (key : Nat) : (s.ownerWrite r w key).cache.kept = s.cache.kept := by
  unfold State.ownerWrite
  dsimp only
  repeat' split
  all_goals simp

@[simp] theorem evictEnt_kept (e : DirEnt) : (s.evictEnt e).cache.kept = s.cache.kept := by simp [State.evictEnt]

theorem evictWay_kept {die set own : Nat} {x : Nat × State} (h : s.evictWay die set own = some x) : x.2.cache.kept = s.cache.kept := by
  unfold State.evictWay at h
  dsimp only at h
  split at h
  · cases h
  · split at h
    · cases h
    · split at h <;> cases h
      exact evictEnt_kept ..

theorem dirWay_kept {die set own : Nat} {x : Nat × State} (h : s.dirWay die set own = some x) : x.2.cache.kept = s.cache.kept := by
  unfold State.dirWay at h
  split at h
  · cases h; rfl
  · exact evictWay_kept s h

theorem allocFor_kept {r : Req} {key : Nat} {t : State} (h : s.allocFor r key = some t) : t.cache.kept = s.cache.kept := by
  unfold State.allocFor at h
  dsimp only at h
  split at h
  · cases h
  · split at h
    · split at h
      · cases h
      · split at h
        · cases h
        · rename_i hw
          cases h
          exact dirWay_kept s hw
    · split at h
      · split at h
        · cases h
        · rename_i hw
          cases h
          exact dirWay_kept s hw
      · cases h; rfl

@[simp] theorem serveFree_kept (r : Req) (w : Well) (key : Nat) : (s.serveFree r w key).state.cache.kept = s.cache.kept := by
  unfold State.serveFree
  split
  · split
    · rfl
    · rename_i ha
      have halloc := allocFor_kept s ha
      repeat' split
      all_goals simp [halloc]
  · split <;> simp

@[simp] theorem serveCistern_kept (r : Req) (w : Well) (key : Nat) : (s.serveCistern r w key).state.cache.kept = s.cache.kept := by
  unfold State.serveCistern
  dsimp only
  repeat' split
  all_goals simp

@[simp] theorem servePlain_kept (r : Req) (w : Well) (key : Nat) : (s.servePlain r w key).cache.kept = s.cache.kept := by
  unfold State.servePlain
  dsimp only
  repeat' split
  all_goals simp

@[simp] theorem serve_kept (r : Req) : (s.serve r).state.cache.kept = s.cache.kept := by
  have hread : ∀ key, (if r.kind = .swaRd then s.homeRead key else s.stationRead key).2.2.cache.kept = s.cache.kept := fun key => by
    split <;> simp
  simp [State.serve, hread]

@[simp] theorem present_kept (r : Req) : (s.present r).cache.kept = s.cache.kept := by
  unfold State.present
  split
  · simp
  · split
    · simp
    · split
      · simp
      · have hserve := serve_kept s r
        split <;> rename_i hs <;> rw [hs] at hserve
        · exact hserve
        · exact (enqueue_kept ..).trans hserve
        · exact hserve

@[simp] theorem submit_kept (r : Req) : (s.submit r).cache.kept = s.cache.kept := by simp [State.submit]

@[simp] theorem ringWrite_kept (p off : Nat) (bs : List Byte) (org : Origin) : (s.ringWrite p off bs org).cache.kept = s.cache.kept := by
  unfold State.ringWrite
  split <;> simp

@[simp] theorem writeHeader_kept (p : Nat) : (s.writeHeader p).cache.kept = s.cache.kept := by simp [State.writeHeader]

@[simp] theorem setPlat_kept (p : Nat) (f : Platform → Platform) : (s.setPlat p f).cache.kept = s.cache.kept := by simp [State.setPlat]

@[simp] theorem endThird_kept (id : Nat) : (s.endThird id).cache.kept = s.cache.kept := by
  unfold State.endThird
  split
  · repeat' split
    all_goals simp
  · rfl

@[simp] theorem leavePumps_kept (id : Nat) : (s.leavePumps id).cache.kept = s.cache.kept := by simp [State.leavePumps]

@[simp] theorem dropAtoms_kept (id : Nat) : (s.dropAtoms id).cache.kept = s.cache.kept := by simp [State.dropAtoms]

@[simp] theorem modPfxEnt_kept (e : Nat) (f : PfxEnt → PfxEnt) : (s.modPfxEnt e f).cache.kept = s.cache.kept := by simp [State.modPfxEnt]

@[simp] theorem freeEntry_kept (e : Nat) : (s.freeEntry e).cache.kept = s.cache.kept := by
  unfold State.freeEntry
  split <;> simp

@[simp] theorem abandonPending_kept (id : Nat) : (s.abandonPending id).cache.kept = s.cache.kept := by
  unfold State.abandonPending
  split
  · split <;> simp
  · rfl

@[simp] theorem stopJob_kept (id : Nat) (st : JobStatus) (f : Option Fail) (lost : Bool) :
    (s.stopJob id st f lost).cache.kept = s.cache.kept := by
  unfold State.stopJob
  split <;> simp

@[simp] theorem endJob_kept (j : Job) (st : JobStatus) (f : Option Fail) (lost : Bool) :
    (s.endJob j st f lost).cache.kept = s.cache.kept := by
  unfold State.endJob
  split <;> simp

@[simp] theorem writeRecord_kept (j : Job) : (s.writeRecord j).cache.kept = s.cache.kept := by simp [State.writeRecord]

@[simp] theorem mapReqs_kept (f : Req → Req) : (s.mapReqs f).cache.kept = s.cache.kept := by simp [State.mapReqs]

@[simp] theorem rerecord_kept (j : Job) (st : JobStatus) (f : Fail) : (s.rerecord j st f).cache.kept = s.cache.kept := by
  simp [State.rerecord]

/-! ## Stations, sessions and reactions -/

@[simp] theorem stationJobs_kept (n : Nat) (reset : Bool) : (s.stationJobs n reset).cache.kept = s.cache.kept := by
  refine (kept_foldl _ (fun s p => by simp) _ _).trans ?_
  refine (linesKept_filter (fun c _ hc => ?_) _).trans ?_
  · split at hc
    · rename_i hk; rw [hk]; rfl
    · cases hc
  · refine kept_foldl _ (fun s k => ?_) _ s
    split
    · rfl
    · dsimp only
      repeat' split
      all_goals simp

@[simp] theorem stationGone_kept (n : Nat) (why : Loss) : (s.stationGone n why).cache.kept = s.cache.kept := by simp [State.stationGone]

@[simp] theorem markBusy_kept (kind unit : Nat) (block : Bool) : (s.markBusy kind unit block).cache.kept = s.cache.kept := by
  simp [State.markBusy]

@[simp] theorem pumpReset_kept (p : Nat) : (s.pumpReset p).cache.kept = s.cache.kept := by
  unfold State.pumpReset
  split <;> simp

@[simp] theorem auditMbx_kept (m : Mbx) (sender : BitVec 64) (kind wb opcode status : Nat) (digest : BitVec 128)
    (detail : Nat) (cred : Option (BitVec 64)) :
    (s.auditMbx m sender kind wb opcode status digest detail cred).cache.kept = s.cache.kept := by
  simp [State.auditMbx]

@[simp] theorem endSession_kept (m : Mbx) (why : Nat) : (s.endSession m why).cache.kept = s.cache.kept := by simp [State.endSession]

@[simp] theorem stationReset_kept (n : Station) (why : Loss) : (s.stationReset n why).cache.kept = s.cache.kept := by
  simp [State.stationReset]

@[simp] theorem ready_kept (wb : Nat) (st : Status) (result : List Byte) : (s.ready wb st result).cache.kept = s.cache.kept := by
  simp [State.ready]

@[simp] theorem readyOpt_kept (wb : Option Nat) (st : Status) (result : List Byte) :
    (s.readyOpt wb st result).cache.kept = s.cache.kept := by
  unfold State.readyOpt
  split <;> simp

@[simp] theorem pairFail_kept : s.pairFail.cache.kept = s.cache.kept := by simp [State.pairFail]

@[simp] theorem xoSilent_kept : s.xoSilent.cache.kept = s.cache.kept := by simp [State.xoSilent]

@[simp] theorem xoDown_kept (k : Nat) : (s.xoDown k).cache.kept = s.cache.kept := by simp [State.xoDown]

@[simp] theorem setHandover_kept (l : List Mbx) (b : Bool) : (s.setHandover l b).cache.kept = s.cache.kept := by simp [State.setHandover]

@[simp] theorem blockReset_kept (kind unit : Nat) : (s.blockReset kind unit).cache.kept = s.cache.kept := by
  unfold State.blockReset
  dsimp only
  repeat' split
  all_goals simp

@[simp] theorem capture_kept (kind unit : Nat) : (s.capture kind unit).cache.kept = s.cache.kept := by
  unfold State.capture
  split <;> simp

@[simp] theorem yieldPrimacy_kept : s.yieldPrimacy.cache.kept = s.cache.kept := by simp [State.yieldPrimacy]

@[simp] theorem replaceUnit_kept : s.replaceUnit.cache.kept = s.cache.kept := by simp [State.replaceUnit]

/-! ## Jobs that are handed on, and accesses of the host memory -/

@[simp] theorem descReady_kept (id p : Nat) : (s.descReady id p).cache.kept = s.cache.kept := by
  unfold State.descReady
  dsimp only
  repeat' split
  all_goals simp

@[simp] theorem askSlot_kept (id : Nat) : (s.askSlot id).cache.kept = s.cache.kept := by
  unfold State.askSlot
  dsimp only
  repeat' split
  all_goals simp

@[simp] theorem readDesc_kept (id p : Nat) : (s.readDesc id p).cache.kept = s.cache.kept := by
  unfold State.readDesc
  split <;> simp

@[simp] theorem choosePump_kept (j : Job) (hint : Nat) (among : Nat → Bool) : (s.choosePump j hint among).2.cache.kept = s.cache.kept := by
  unfold State.choosePump
  dsimp only
  split <;> simp

@[simp] theorem giveJob_kept (id p : Nat) : (s.giveJob id p).cache.kept = s.cache.kept := by simp [State.giveJob]

@[simp] theorem handOff_kept (id : Nat) (die : Option Nat) : (s.handOff id die).cache.kept = s.cache.kept := by
  unfold State.handOff
  dsimp only
  repeat' split
  all_goals simp

@[simp] theorem requeue_kept (p : Nat) (die : Bool) : (s.requeue p die).cache.kept = s.cache.kept := by simp [State.requeue]

@[simp] theorem revokeIde_kept (n : Nat) : (s.revokeIde n).cache.kept = s.cache.kept := by simp [State.revokeIde]

@[simp] theorem markRead_kept (p i : Nat) : (s.markRead p i).cache.kept = s.cache.kept := by simp [State.markRead]

@[simp] theorem offerJobs_kept (f : Job → Bool) : (s.offerJobs f).cache.kept = s.cache.kept := by simp [State.offerJobs]

@[simp] theorem acceptOne_kept (p : Nat) : (s.acceptOne p).cache.kept = s.cache.kept := by simp [State.acceptOne]

theorem acceptFor_kept (k p : Nat) : (State.acceptFor k p s).cache.kept = s.cache.kept := by
  induction k generalizing s with
  | zero => rfl
  | succ k ih =>
    unfold State.acceptFor
    dsimp only
    split
    · exact (ih _).trans (acceptOne_kept ..)
    · rfl

@[simp] theorem acceptStep_kept (p : Nat) : (s.accept_ p).cache.kept = s.cache.kept := acceptFor_kept ..

@[simp] theorem recordDone_kept (j : Job) : (s.recordDone j).cache.kept = s.cache.kept := by simp [State.recordDone]

@[simp] theorem cplStep_kept : s.cplStep.cache.kept = s.cache.kept := by
  refine kept_foldl _ (fun s k => ?_) _ s
  split
  · rfl
  · repeat' split
    all_goals simp

@[simp] theorem atomStep_kept : s.atomStep.cache.kept = s.cache.kept := by
  refine kept_foldl _ (fun s j => ?_) _ s
  split
  · split <;> simp
  · rfl

@[simp] theorem ioFlush_kept : s.ioFlush.cache.kept = s.cache.kept := by
  refine kept_foldl _ (fun s n => ?_) _ s
  split <;> simp

@[simp] theorem finishJob_kept (id : Nat) : (s.finishJob id).cache.kept = s.cache.kept := by
  unfold State.finishJob
  split <;> simp

@[simp] theorem finishStep_kept : s.finishStep.cache.kept = s.cache.kept := by
  refine kept_foldl _ (fun s k => ?_) _ s
  split
  · split <;> simp
  · rfl

@[simp] theorem atsAsk_kept (n : Nat) (r : AtsReq) : (s.atsAsk n r).cache.kept = s.cache.kept := by simp [State.atsAsk]

@[simp] theorem hostNow_kept (j : Job) (opnd a : Nat) (acc : Acc) (t : Target) :
    (s.hostNow j opnd a acc t).2.cache.kept = s.cache.kept := by
  unfold State.hostNow
  dsimp only
  repeat' split
  all_goals simp

@[simp] theorem sendFwd_kept (f : FwdOut) : (s.sendFwd f).cache.kept = s.cache.kept := by
  unfold State.sendFwd
  split
  · rfl
  · split <;> simp

@[simp] theorem fwdTwin_kept (f : FwdOut) : (s.fwdTwin f).cache.kept = s.cache.kept := by simp [State.fwdTwin]

@[simp] theorem deviceInto_kept (way : Option (Nat × Nat × Nat)) (n : Nat) (what : D2H) (kind : DevKind)
    (hpa : Nat) (d : Line) (pois : Bool) (job : Option Nat) (opnd addr : Nat) (mask : BitVec 64) :
    (s.deviceInto way n what kind hpa d pois job opnd addr mask).cache.kept = s.cache.kept := by
  unfold State.deviceInto
  split <;> simp

@[simp] theorem keepM_kept (job : Option Nat) (n hpa : Nat) : (s.keepM job n hpa).cache.kept = s.cache.kept := by
  unfold State.keepM
  split <;> simp

@[simp] theorem hostWay_kept (n hpa : Nat) : (s.hostWay n hpa).2.cache.kept = s.cache.kept := by
  unfold State.hostWay
  dsimp only
  split
  · rfl
  · split <;> rename_i hw <;> exact (congrArg (·.2.cache.kept) hw).symm.trans (takeWay_kept ..)

@[simp] theorem hostWriteNow_kept (job : Option Nat) (n hpa : Nat) (d : Line) (mask : BitVec 64) (pois : Bool) (opnd addr : Nat) :
    (s.hostWriteNow job n hpa d mask pois opnd addr).cache.kept = s.cache.kept := by
  unfold State.hostWriteNow
  extract_lets die p whole own past
  have hstream : (if whole then s.stream die (.pump p) true (hpa / 64) else (false, s)).2.cache.kept = s.cache.kept := by
    split <;> simp
  generalize (if whole then s.stream die (.pump p) true (hpa / 64) else (false, s)) = x at hstream ⊢
  have hown : ∀ t way, (own t way).cache.kept = t.cache.kept := fun t way => by simp [own]
  have hpast : ∀ t, (past t).cache.kept = t.cache.kept := fun t => by simp [past]
  obtain ⟨streaming, t⟩ := x
  dsimp only at hstream ⊢
  split
  · split
    · exact (hown ..).trans hstream
    · simpa using hstream
  · split
    · exact (hpast ..).trans hstream
    · have hway := hostWay_kept t n hpa
      split <;> rename_i hw <;> rw [hw] at hway
      · split
        · exact (hpast ..).trans (hway.trans hstream)
        · exact (hown ..).trans (hway.trans hstream)
      · exact (hown ..).trans (hway.trans hstream)

@[simp] theorem hostWrite_kept (job : Option Nat) (n hpa : Nat) (d : Line) (mask : BitVec 64) (pois : Bool) (opnd addr : Nat) :
    (s.hostWrite job n hpa d mask pois opnd addr).cache.kept = s.cache.kept := by
  simp [State.hostWrite]

@[simp] theorem issueLine_kept (id : Nat) (q : QLine) (org : Origin) : (s.issueLine id q org).cache.kept = s.cache.kept := by
  unfold State.issueLine
  split <;> simp

@[simp] theorem queueLine_kept (id p : Nat) (q : QLine) : (s.queueLine id p q).cache.kept = s.cache.kept := by
  unfold State.queueLine
  split <;> simp

theorem pushLines_kept (k id p : Nat) : (State.pushLines k s id p).cache.kept = s.cache.kept := by
  induction k generalizing s with
  | zero => rfl
  | succ k ih =>
    unfold State.pushLines
    split
    · rfl
    · split
      · rfl
      · split
        · rfl
        · split <;> rename_i hn <;> have hnow := (congrArg (·.2.cache.kept) hn).symm.trans (hostNow_kept ..)
          · exact hnow
          · rw [ih, queueLine_kept, State.modJob_cache]
            exact hnow

@[simp] theorem pushQueue_kept (id : Nat) : (s.pushQueue id).cache.kept = s.cache.kept := by
  unfold State.pushQueue
  split
  · exact pushLines_kept ..
  · rfl

@[simp] theorem writesMoved_kept : s.writesMoved.cache.kept = s.cache.kept := by simp [State.writesMoved]

/-! ## The steps of homes and platforms -/

@[simp] theorem lostRecall_kept (key : Nat) : (s.lostRecall key).cache.kept = s.cache.kept := by
  unfold State.lostRecall
  dsimp only
  repeat' split
  all_goals simp

@[simp] theorem lostStep_kept : s.lostStep.cache.kept = s.cache.kept := by simp [State.lostStep]

@[simp] theorem drainPass_kept : s.drainPass.cache.kept = s.cache.kept := by
  refine foldl_keeps (fun x : State × List Nat => x.1.cache.kept) (fun x y _ => ?_) (s, [])
  obtain ⟨s, stuck⟩ := x
  dsimp only
  split
  · rfl
  · have hserve := serve_kept s y.2
    split <;> rename_i hs <;> rw [hs] at hserve <;> exact hserve

theorem drainFor_kept (k : Nat) : (s.drainFor k).cache.kept = s.cache.kept := by
  induction k generalizing s with
  | zero => rfl
  | succ k ih =>
    unfold State.drainFor
    dsimp only
    split
    · exact (ih _).trans (drainPass_kept s)
    · exact drainPass_kept s

@[simp] theorem drain_kept : s.drain.cache.kept = s.cache.kept := by
  unfold State.drain
  split
  · rfl
  · exact drainFor_kept ..

@[simp] theorem gapWalk_kept : s.gapWalk.cache.kept = s.cache.kept := by
  refine kept_foldl _ (fun s k => ?_) _ s
  split
  · rfl
  · dsimp only
    split
    · simp
    · rfl

@[simp] theorem quotaStep_kept : s.quotaStep.cache.kept = s.cache.kept := by simp [State.quotaStep]

@[simp] theorem revWalk_kept (v : Rev) : (s.revWalk v).cache.kept = s.cache.kept := by simp [State.revWalk]

@[simp] theorem homeStep_kept : s.homeStep.cache.kept = s.cache.kept := by simp [State.homeStep]

@[simp] theorem dropFwd_kept (id : Nat) : (s.dropFwd id).cache.kept = s.cache.kept := by simp [State.dropFwd]

@[simp] theorem unbackedAper_kept (n id i off dpa : Nat) : (s.unbackedAper n id i off dpa).cache.kept = s.cache.kept := by
  simp [State.unbackedAper]

@[simp] theorem unbackedBy_kept (kind unit a : Nat) : (s.unbackedBy kind unit a).cache.kept = s.cache.kept := by simp [State.unbackedBy]

@[simp] theorem unbackedFwd_kept (f : FwdOut) : (s.unbackedFwd f).cache.kept = s.cache.kept := by
  unfold State.unbackedFwd
  dsimp only
  repeat' split
  all_goals simp

@[simp] theorem endLocale1_kept : s.endLocale1.cache.kept = s.cache.kept := by simp [State.endLocale1]

@[simp] theorem locale1Step_kept : s.locale1Step.cache.kept = s.cache.kept := by simp [State.locale1Step]

@[simp] theorem zeroExchange_kept (p : Nat) : (s.zeroExchange p).cache.kept = s.cache.kept := by simp [State.zeroExchange]

@[simp] theorem moveStep_kept : s.moveStep.cache.kept = s.cache.kept := by
  refine (kept_foldl _ (fun s r => by simp) _ _).trans (kept_foldl _ (fun s p => ?_) _ s)
  dsimp only
  split
  · split <;> simp
  · rfl

@[simp] theorem abandon_kept (p : Nat) : (s.abandon p).cache.kept = s.cache.kept := by simp [State.abandon]

@[simp] theorem endPlat_kept (p : Nat) : (s.endPlat p).cache.kept = s.cache.kept := by simp [State.endPlat]

@[simp] theorem platStep_kept : s.platStep.cache.kept = s.cache.kept := by
  refine kept_foldl _ (fun s x => ?_) _ s
  obtain ⟨p, x⟩ := x
  dsimp only
  split
  · simp
  · split <;> simp

/-! ## Wells: chunks that move, runs that are released, wells that end -/

@[simp] theorem spaceFor_kept (die set need own : Nat) : (s.spaceFor die set need own).2.cache.kept = s.cache.kept := by
  refine kept_foldl _ (fun s _ => ?_) _ s
  split
  · split
    · rename_i hw
      exact evictWay_kept s hw
    · rfl
  · rfl

@[simp] theorem chunkRoom_kept (src dst n : Nat) : (s.chunkRoom src dst n).2.cache.kept = s.cache.kept := by
  refine foldl_keeps (fun x : Bool × List (Nat × Nat × Nat) × State => x.2.2.cache.kept) (fun x e _ => ?_) (true, [], s)
  obtain ⟨ok, used, s⟩ := x
  dsimp only
  split
  · split
    · dsimp only
      split <;> simp
    · exact spaceFor_kept ..
  · rfl

@[simp] theorem modEntry_kept (wb : Nat) (f : JEntry → JEntry) : (s.modEntry wb f).cache.kept = s.cache.kept :=
  kept_of_cache (same_modEntry s wb f).cache

@[simp] theorem cplSlot_kept (n : Station) (quiet : Bool) (c : Cpl) : (s.cplSlot n quiet c).cache.kept = s.cache.kept := by
  simp [State.cplSlot]

@[simp] theorem completeAsync_kept (a : Async) (st : Status) (result : List Byte) :
    (s.completeAsync a st result).cache.kept = s.cache.kept := by
  unfold State.completeAsync
  dsimp only
  split <;> simp

@[simp] theorem completeNow_kept (wb : Nat) (st : Status) (result : List Byte) :
    (s.completeNow wb st result).cache.kept = s.cache.kept := by
  unfold State.completeNow
  split <;> simp

@[simp] theorem unkey_kept (i : Nat) : (s.unkey i).cache.kept = s.cache.kept := by
  refine kept_foldl _ (fun s x => ?_) _ s
  dsimp only
  split <;> simp

@[simp] theorem revokeAll_kept (i frm : Nat) (cause : RevCause) : (s.revokeAll i frm cause).cache.kept = s.cache.kept := by
  simp [State.revokeAll]

@[simp] theorem abortPlat_kept (p : Nat) : (s.abortPlat p).cache.kept = s.cache.kept := by simp [State.abortPlat]

@[simp] theorem dropJob_kept (j : Job) : (s.dropJob j).cache.kept = s.cache.kept := by
  unfold State.dropJob
  split <;> simp

@[simp] theorem loseRing_kept (p : Nat) : (s.loseRing p).cache.kept = s.cache.kept := by
  unfold State.loseRing
  dsimp only
  split
  · split <;> simp
  · simp

@[simp] theorem ringsLost_kept (well frm : Nat) : (s.ringsLost well frm).cache.kept = s.cache.kept := by simp [State.ringsLost]

@[simp] theorem freeEntries_kept (ns : Nat) : (s.freeEntries ns).cache.kept = s.cache.kept := by simp [State.freeEntries]

@[simp] theorem dropRef_kept (e : Nat) : (s.dropRef e).cache.kept = s.cache.kept := by simp [State.dropRef]

@[simp] theorem endHold_kept (i : Nat) : (s.endHold i).cache.kept = s.cache.kept := by
  unfold State.endHold
  split <;> simp

@[simp] theorem endHolds_kept (ns : Nat) : (s.endHolds ns).cache.kept = s.cache.kept := by simp [State.endHolds]

@[simp] theorem setIns_kept (id : Nat) (f : Insert → Insert) : (s.setIns id f).cache.kept = s.cache.kept := by simp [State.setIns]

@[simp] theorem toPhase_kept (id phase : Nat) : (s.toPhase id phase).cache.kept = s.cache.kept := by simp [State.toPhase]

@[simp] theorem breakInsert_kept (id : Nat) (gone : Bool) : (s.breakInsert id gone).cache.kept = s.cache.kept := by
  unfold State.breakInsert
  split <;> simp

@[simp] theorem storeLost_kept (well : Nat) (destroyed : Bool) : (s.storeLost well destroyed).cache.kept = s.cache.kept := by
  simp [State.storeLost]

@[simp] theorem rcDrop_kept (f : Nat → Nat → Bool) : (s.rcDrop f).cache.kept = s.cache.kept := by simp [State.rcDrop]

@[simp] theorem switchOn_kept (hit : Nat → Nat → Bool) (cause : SwCause) (cleared : Nat) :
    (s.switchOn hit cause cleared).cache.kept = s.cache.kept := by
  simp [State.switchOn]

@[simp] theorem clearRanges_kept (f : Range → Bool) (cause : SwCause) : (s.clearRanges f cause).cache.kept = s.cache.kept := by
  simp [State.clearRanges]

@[simp] theorem twinDrop_kept (i : Nat) : (s.twinDrop i).cache.kept = s.cache.kept := by simp [State.twinDrop]

@[simp] theorem twinClear_kept (i frm : Nat) : (s.twinClear i frm).cache.kept = s.cache.kept := by simp [State.twinClear]

@[simp] theorem destroyNow_kept (i : Nat) (wb : Option Nat) : (s.destroyNow i wb).cache.kept = s.cache.kept := by
  unfold State.destroyNow
  dsimp only
  repeat' split
  all_goals simp

@[simp] theorem forgetRun_kept (a n : Nat) : (s.forgetRun a n).cache.kept = s.cache.kept :=
  linesKept_filter (fun c hr hc => by split at hc <;> simp [hr] at hc) _

@[simp] theorem releaseRun_kept (a n : Nat) : (s.releaseRun a n).cache.kept = s.cache.kept := by simp [State.releaseRun]

@[simp] theorem moveEnt_kept (e : DirEnt) (key : Nat) : (s.moveEnt e key).cache.kept = s.cache.kept := by
  unfold State.moveEnt
  split <;> simp

@[simp] theorem moveChunk_kept (src dst n : Nat) : (s.moveChunk src dst n).cache.kept = s.cache.kept := by
  unfold State.moveChunk
  extract_lets mv inn cached s₁ s₂ s₃ s₄ s₅ kept s₆ s₇
  have hvalid : ∀ c ∈ cached, c.retained = false := fun c hc => by
    have hin := (List.mem_filter.1 hc).2
    split at hin
    · exact (by simpa using hin : inn _ = true ∧ c.retained = false).2
    · cases hin
  have h₂ : s₂.cache.kept = s.cache.kept := by simp [s₂, s₁]
  have h₃ : s₃.cache.kept = s.cache.kept := by
    refine (foldl_keeps (fun s => s.cache.kept) (fun t c hc => ?_) s₂).trans h₂
    split
    · split
      · split
        · rename_i hp
          exact place_kept _ (by exact hvalid c hc) hp
        · simp
      · rfl
    · rfl
  clear_value s₃
  simp [s₇, s₆, s₅, s₄, h₃]

@[simp] theorem markMig_kept : s.markMig.cache.kept = s.cache.kept := by simp [State.markMig]

@[simp] theorem tidyGranules_kept : s.tidyGranules.cache.kept = s.cache.kept := by simp [State.tidyGranules]

@[simp] theorem dropMigrate_kept (i : Nat) (m : Mig) (st : Status) : (s.dropMigrate i m st).cache.kept = s.cache.kept := by
  unfold State.dropMigrate
  split <;> simp

@[simp] theorem destroyWell_kept (i : Nat) (wb : Option Nat) : (s.destroyWell i wb).cache.kept = s.cache.kept := by
  unfold State.destroyWell
  dsimp only
  split
  · rename_i m _
    have hroom := chunkRoom_kept s m.start (s.well i).start m.point
    split <;> rename_i hr <;> rw [hr] at hroom
    · simpa using hroom
    · exact hroom
  · simp

@[simp] theorem doomStep_kept : s.doomStep.cache.kept = s.cache.kept := by simp [State.doomStep]

@[simp] theorem modMirror_kept (i : Nat) (f : Mirror → Mirror) : (s.modMirror i f).cache.kept = s.cache.kept := by simp [State.modMirror]

@[simp] theorem shrinkWell_kept (i newLen wb : Nat) : (s.shrinkWell i newLen wb).cache.kept = s.cache.kept := by simp [State.shrinkWell]

@[simp] theorem setGranule_kept (g : Nat) (x : Granule) : (s.setGranule g x).cache.kept = s.cache.kept := by simp [State.setGranule]

@[simp] theorem placeGranule_kept (p : Place) (g : Nat) : (s.placeGranule p g).cache.kept = s.cache.kept := by
  unfold State.placeGranule
  split
  · rfl
  · split <;> simp

@[simp] theorem takeRun_kept (p : Place) (a n : Nat) : (s.takeRun p a n).cache.kept = s.cache.kept := by simp [State.takeRun]

@[simp] theorem growWell_kept (i newLen wb : Nat) : (s.growWell i newLen wb).cache.kept = s.cache.kept := by simp [State.growWell]

@[simp] theorem resizeIn_kept (i newLen : Nat) : (s.resizeIn i newLen).cache.kept = s.cache.kept := by simp [State.resizeIn]

@[simp] theorem wantStep_kept : s.wantStep.cache.kept = s.cache.kept := by
  refine kept_foldl _ (fun s i => ?_) _ s
  split
  · repeat' split
    all_goals simp
  · rfl

@[simp] theorem recallTwin_kept (i frm : Nat) : (s.recallTwin i frm).cache.kept = s.cache.kept := by simp [State.recallTwin]

@[simp] theorem dropRecords_kept (i frm : Nat) : (s.dropRecords i frm).cache.kept = s.cache.kept := by simp [State.dropRecords]

@[simp] theorem cisTwin_kept (c : Nat) : (s.cisTwin c).cache.kept = s.cache.kept := by simp [State.cisTwin]

@[simp] theorem freeWell_kept (i : Nat) : (s.freeWell i).cache.kept = s.cache.kept := by
  unfold State.freeWell
  dsimp only
  split <;> simp

@[simp] theorem resized_kept (i newLen : Nat) : (s.resized i newLen).cache.kept = s.cache.kept := by simp [State.resized]

@[simp] theorem endMigrate_kept (i : Nat) : (s.endMigrate i).cache.kept = s.cache.kept := by
  unfold State.endMigrate
  dsimp only
  split <;> simp

@[simp] theorem wellProgress_kept (i : Nat) : (s.wellProgress i).cache.kept = s.cache.kept := by
  unfold State.wellProgress
  dsimp only
  repeat' split
  all_goals simp

@[simp] theorem leaveProgress_kept (c : Nat) : (s.leaveProgress c).cache.kept = s.cache.kept := by simp [State.leaveProgress]

@[simp] theorem wellStep_kept : s.wellStep.cache.kept = s.cache.kept := by simp [State.wellStep]

@[simp] theorem switchDone_kept (w : Switch) : (s.switchDone w).cache.kept = s.cache.kept := by
  unfold State.switchDone
  dsimp only
  repeat' split
  all_goals simp

@[simp] theorem switchStep_kept : s.switchStep.cache.kept = s.cache.kept := by simp [State.switchStep]

/-! ## The twin, translation services and replays -/

@[simp] theorem grantStep_kept : s.grantStep.cache.kept = s.cache.kept := by
  refine kept_foldl _ (fun s x => ?_) _ s
  dsimp only
  split
  · rfl
  · split
    · rfl
    · rename_i hw
      exact dirWay_kept s hw

@[simp] theorem twinAsk_kept (x : TwinSnoop) : (s.twinAsk x).cache.kept = s.cache.kept := by
  unfold State.twinAsk
  split <;> simp

@[simp] theorem twinSnoopStep_kept : s.twinSnoopStep.cache.kept = s.cache.kept := by
  refine kept_foldl _ (fun s x => ?_) _ s
  split
  · simp
  · split
    · rfl
    · split
      · simp
      · split <;> simp

@[simp] theorem atsOne_kept (n : Nat) (v : AtsInv) : (s.atsOne n v).cache.kept = s.cache.kept := by simp [State.atsOne]

@[simp] theorem atsStep_kept : s.atsStep.cache.kept = s.cache.kept := by simp [State.atsStep]

@[simp] theorem idlePump_kept (j : Job) (p : Nat) : (s.idlePump j p).2.cache.kept = s.cache.kept := by simp [State.idlePump]

@[simp] theorem thirdOn_kept (j : Job) (op : StepOp) (p q : Nat) : (s.thirdOn j op p q).cache.kept = s.cache.kept := by simp [State.thirdOn]

@[simp] theorem replayStep_kept : s.replayStep.cache.kept = s.cache.kept := by
  refine kept_foldl _ (fun s j => ?_) _ s
  split
  · split
    · split <;> rename_i hp <;> have hpump := (congrArg (·.2.cache.kept) hp).symm.trans (idlePump_kept ..)
      · exact (thirdOn_kept ..).trans hpump
      · exact hpump
    · rfl
  · rfl

@[simp] theorem nsStep_kept : s.nsStep.cache.kept = s.cache.kept := by simp [State.nsStep]

@[simp] theorem dropBells_kept : s.dropBells.cache.kept = s.cache.kept := by simp [State.dropBells]

@[simp] theorem restartPlat_kept (p : Nat) : (s.restartPlat p).cache.kept = s.cache.kept := by simp [State.restartPlat]

@[simp] theorem dropBell_kept (p : Nat) : (s.dropBell p).cache.kept = s.cache.kept := by simp [State.dropBell]

@[simp] theorem bell_kept (d : Doorbell) : (s.bell d).cache.kept = s.cache.kept := by simp [State.bell]

@[simp] theorem bells_kept : s.bells.cache.kept = s.cache.kept := by simp [State.bells]

@[simp] theorem bellStep_kept : s.bellStep.cache.kept = s.cache.kept := by simp [State.bellStep]

@[simp] theorem markSpan_kept (i frm to_ : Nat) : (s.markSpan i frm to_).cache.kept = s.cache.kept := by simp [State.markSpan]

@[simp] theorem commitUnacked_kept : s.commitUnacked.cache.kept = s.cache.kept := by simp [State.commitUnacked]

@[simp] theorem markPages_kept (i : Nat) : (s.markPages i).cache.kept = s.cache.kept := by simp [State.markPages]

@[simp] theorem dropZeros_kept : s.dropZeros.cache.kept = s.cache.kept := by simp [State.dropZeros]

@[simp] theorem dropTwinWaits_kept : s.dropTwinWaits.cache.kept = s.cache.kept := by simp [State.dropTwinWaits]

@[simp] theorem rcDropTwin_kept (f : Range → Bool) : (s.rcDropTwin f).cache.kept = s.cache.kept := by simp [State.rcDropTwin]

@[simp] theorem unwait_kept (r : Req) : (s.unwait r).cache.kept = s.cache.kept := by
  unfold State.unwait
  dsimp only
  split <;> simp

@[simp] theorem represent_kept (r : Req) : (s.represent r).cache.kept = s.cache.kept := by simp [State.represent]

@[simp] theorem crossThresholds_kept (next : Nat) : (s.crossThresholds next).cache.kept = s.cache.kept :=
  kept_of_cache (same_crossThresholds s next).cache

@[simp] theorem writeEntry_kept (e : JEntry) : (s.writeEntry e).cache.kept = s.cache.kept := kept_of_cache (same_writeEntry s e).cache

@[simp] theorem numberEntry_kept (wb : Nat) : (s.numberEntry wb).cache.kept = s.cache.kept := by
  unfold State.numberEntry
  split <;> simp

@[simp] theorem numberAll_kept : s.numberAll.cache.kept = s.cache.kept := by simp [State.numberAll]

@[simp] theorem raiseAll_kept (v : Nat) : (s.raiseAll v).cache.kept = s.cache.kept := by simp [State.raiseAll]

@[simp] theorem twinEvent_kept : s.twinEvent.cache.kept = s.cache.kept := by simp [State.twinEvent]

@[simp] theorem cisTwins_kept : s.cisTwins.cache.kept = s.cache.kept := by simp [State.cisTwins]

@[simp] theorem unpairStep_kept : s.unpairStep.cache.kept = s.cache.kept := by
  unfold State.unpairStep
  split <;> simp

@[simp] theorem ownEntry_kept (opcode object : Nat) (result : List Byte) : (s.ownEntry opcode object result).cache.kept = s.cache.kept :=
  kept_of_cache (same_ownEntry s opcode object result).cache

@[simp] theorem joinJournals_kept (info : PeerInfo) (keeper : Bool) : (s.joinJournals info keeper).cache.kept = s.cache.kept := by
  unfold State.joinJournals
  split
  · refine (kept_foldl _ (fun s e => ?_) _ _).trans (by simp)
    rfl
  · simp

@[simp] theorem markWell_kept (i : Nat) : (s.markWell i).cache.kept = s.cache.kept := by simp [State.markWell]

@[simp] theorem sendCopy_kept (i : Nat) : (s.sendCopy i).cache.kept = s.cache.kept := by
  unfold State.sendCopy
  dsimp only
  split <;> simp

@[simp] theorem resyncEnd_kept (i : Nat) : (s.resyncEnd i).cache.kept = s.cache.kept := by simp [State.resyncEnd]

@[simp] theorem pairWell_kept (info : PeerInfo) (keeper same : Bool) (i : Nat) :
    (s.pairWell info keeper same i).cache.kept = s.cache.kept := by
  simp [State.pairWell]

@[simp] theorem relay_kept (wb opcode : Nat) : (s.relay wb opcode).cache.kept = s.cache.kept := by simp [State.relay]

@[simp] theorem sendKey_kept (k : Nat) (x : KeySlot) : (s.sendKey k x).cache.kept = s.cache.kept := by simp [State.sendKey]

@[simp] theorem pairForm_kept (info : PeerInfo) : (s.pairForm info).cache.kept = s.cache.kept := by
  unfold State.pairForm
  dsimp only
  split <;> simp [-List.foldl_reverse]

@[simp] theorem pairStep_kept : s.pairStep.cache.kept = s.cache.kept := by
  unfold State.pairStep
  split <;> simp

@[simp] theorem swoStep_kept : s.swoStep.cache.kept = s.cache.kept := by
  unfold State.swoStep
  split <;> simp

@[simp] theorem emptyStep_kept : s.emptyStep.cache.kept = s.cache.kept := by simp [State.emptyStep]

@[simp] theorem coldStep_kept : s.coldStep.cache.kept = s.cache.kept := by simp [State.coldStep]

/-! ## The drain, descriptors, and all steps together -/

@[simp] theorem setStep_kept (k : Nat) : (setStep k s).cache.kept = s.cache.kept := by simp [setStep]

@[simp] theorem memoryActive_kept (b : Bool) : (s.memoryActive b).cache.kept = s.cache.kept := by simp [State.memoryActive]

@[simp] theorem lostCommands_kept : s.lostCommands.cache.kept = s.cache.kept := by
  unfold State.lostCommands
  dsimp only
  repeat' split
  all_goals simp

@[simp] theorem partTwin_kept : s.partTwin.cache.kept = s.cache.kept := by simp [State.partTwin]

@[simp] theorem drainOnce_kept : s.drainOnce.cache.kept = s.cache.kept := by
  unfold State.drainOnce
  dsimp only
  repeat' split
  all_goals simp

@[simp] theorem drainStep_kept : s.drainStep.cache.kept = s.cache.kept := by simp [State.drainStep]

theorem takeSlot_kept {id : Nat} {t : State} (h : s.takeSlot id = some t) : t.cache.kept = s.cache.kept := by
  unfold State.takeSlot at h
  split at h
  · cases h
  · split at h <;> cases h
    rw [State.modJob_cache]

@[simp] theorem peeked_kept (id : Nat) : (s.peeked id).cache.kept = s.cache.kept := by
  unfold State.peeked
  split
  · rfl
  · split <;> simp

@[simp] theorem slotRead_kept (id : Nat) : (s.slotRead id).cache.kept = s.cache.kept := by
  unfold State.slotRead
  split <;> simp

theorem xlateTile_kept {j : Job} {p o opnd a len : Nat} {acc : Acc} {step : Nat} {ahead : Bool} {t : State}
    (h : s.xlateTile j p o opnd a len acc step ahead = .wait t) : t.cache.kept = s.cache.kept := by
  unfold State.xlateTile at h
  dsimp only at h
  split at h
  · cases h
  · split at h <;> cases h
    refine kept_foldl _ (fun s x => ?_) _ s
    split
    · exact atsAsk_kept ..
    · rfl

@[simp] theorem prefetch_kept (id p lines : Nat) (tiles : Nat) : (s.prefetch id p lines tiles).cache.kept = s.cache.kept := by
  unfold State.prefetch
  split
  · rfl
  · split
    · rfl
    · rename_i j _ _
      extract_lets look
      have hlook : ∀ t opnd a n acc step, (look t opnd a n acc step).cache.kept = t.cache.kept := fun t opnd a n acc step => by
        unfold look
        split
        · rename_i hx
          exact xlateTile_kept t hx
        · rfl
      refine (kept_foldl _ (fun s opnd => ?_) _ _).trans (kept_foldl _ (fun s opnd => ?_) _ s) <;>
        exact kept_foldl _ (fun s x => hlook ..) _ s

@[simp] theorem readEarly_kept : s.readEarly.cache.kept = s.cache.kept := by
  refine kept_foldl _ (fun s p => ?_) _ s
  dsimp only
  split
  · split <;> simp
  · rfl

@[simp] theorem descOnce_kept : s.descOnce.cache.kept = s.cache.kept := by
  refine (kept_foldl _ (fun s j => ?_) _ _).trans (readEarly_kept s)
  split
  · rfl
  · rename_i hs
    have ht := takeSlot_kept s hs
    split <;> simp [ht]

@[simp] theorem descStep_kept : s.descStep.cache.kept = s.cache.kept := by simp [State.descStep]

@[simp] theorem steps_kept : s.steps.cache.kept = s.cache.kept := by simp [State.steps]

end Sys2Proof.Machine
end

section
/-! PROOF. The bytes of a new well do not all read zero: a fill leaves the lines that the cache retains, those of the new well's bytes
included (03 R49; 05 R151). -/
namespace Sys2Proof.Machine

/-! ## What a whole command leaves retained -/

section Finish
variable (s : State)

@[simp] theorem powerDownStart_kept : s.powerDownStart.cache.kept = s.cache.kept := by
  unfold State.powerDownStart
  simp

/-- What the cache retains is as it was, or the module was reset. -/
def KeptOrCleared (s t : State) : Prop := t.cache.kept = s.cache.kept ∨ t.cache.kept = []

theorem KeptOrCleared.trans {s t u : State} (h : KeptOrCleared s t) (h' : KeptOrCleared t u) : KeptOrCleared s u := by
  rcases h' with hu | hu
  · exact h.imp hu.trans hu.trans
  · exact .inr hu

theorem afterReset_kept : s.afterReset.cache.kept = [] := rfl

theorem powerDownEnd_kept : s.powerDownEnd.cache.kept = [] := rfl

theorem takeTodo_kept (t : Todo) : KeptOrCleared s (s.takeTodo t) := by
  cases t with
  | nmi kind unit => exact .inl rfl
  | block kind unit => exact .inl (blockReset_kept ..)
  | moduleReset => exact .inr (afterReset_kept _)
  | replace => exact .inl (replaceUnit_kept ..)
  | pumpOut p => exact .inl (requeue_kept ..)
  | stationOut n =>
    left
    dsimp only [State.takeTodo]
    split
    · exact stationReset_kept ..
    · rfl
  | revokeIde n => exact .inl (revokeIde_kept ..)

theorem settleFor_kept (k : Nat) : KeptOrCleared s (s.settleFor k) := by
  induction k generalizing s with
  | zero => exact .inl rfl
  | succ k ih =>
    unfold State.settleFor
    split
    · exact .inl rfl
    · rename_i t rest _
      exact (takeTodo_kept { s with todo := rest } t).trans (ih _)

theorem settle_kept : KeptOrCleared s s.settle := settleFor_kept s _

theorem powerSeq_kept : KeptOrCleared s s.powerSeq := by
  unfold State.powerSeq
  split
  · exact .inr (powerDownEnd_kept s)
  · split
    · split
      · exact .inl (powerDownStart_kept s)
      · exact .inl rfl
    · exact .inl rfl

theorem finish_cache : (finish s).cache = s.steps.settle.steps.settle.powerSeq.cache := by
  rw [finish]

/-- What follows a command retains no line that was not. -/
theorem finish_kept : KeptOrCleared s (finish s) := by
  have round (s : State) : KeptOrCleared s s.steps.settle := .trans (.inl (steps_kept s)) (settle_kept _)
  rw [KeptOrCleared, finish_cache]
  exact ((round s).trans (round _)).trans (powerSeq_kept _)

end Finish

/-! ## A well that is made over a retained line -/

theorem exec_zeroFillDone (s : State) (i : BitVec 16) : exec (.zeroFillDone i) s = .next (finish (s.zeroFilled i.toNat)) := rfl

/-- A well that is being made over a line of the pool that the cache retains. -/
def retainedUnderWell : State :=
  { State.reset with
    cache := { State.reset.cache with lines := [{ key := .pool 0, die := 0, set := 0, way := 0, data := 0, retained := true }] }
    pool := { State.reset.pool with wells := [(0, { st := .creating, length := 0x10000 })] } }

theorem well_retainedUnderWell : retainedUnderWell.well 0 = { st := .creating, length := 0x10000 } := rfl

theorem finish_retainedUnderWell : (finish (retainedUnderWell.zeroFilled 0)).cache.kept = [0] := by
  decide +kernel

/-- A state in which a fill has had its effect, as `Leads` reads it, retains what the cache retains after the whole command. -/
theorem mem_kept_of_leads {s : State} {i : BitVec 16} {P : State → Prop} (h : Leads (.zeroFillDone i) s P) {a : Nat}
    (ha : a ∈ (finish (s.zeroFilled i.toNat)).cache.kept) : ∃ u, P u ∧ a ∈ u.cache.kept := by
  obtain ⟨u, hexec, hu⟩ := h
  rw [exec_zeroFillDone, Host.Outcome.next.injEq] at hexec
  rw [hexec] at ha
  rcases finish_kept u with hk | hk
  · exact ⟨u, hu, hk ▸ ha⟩
  · simp [hk] at ha

end Sys2Proof.Machine

open Sys2Proof Sys2Proof.Machine

/-- Refutes O35: a fill zeroes the memory of the new well, but the cache retains a line of its bytes, as no write touches one
(`State.forgetRun`, 05 R151), and nothing that follows the command drops it. -/
theorem not_newBytesReadZero : ¬ Obligations.NewBytesReadZero := by
  rintro ⟨hfill, -⟩
  have hled := hfill retainedUnderWell 0#16 (congrArg Well.st well_retainedUnderWell)
  obtain ⟨u, ⟨-, hzero, -⟩, hmem⟩ := mem_kept_of_leads hled (a := 0) (by
    rw [BitVec.toNat_zero, finish_retainedUnderWell]; exact List.mem_singleton_self 0)
  obtain ⟨c, hc, -, hkey⟩ := mem_kept.mp hmem
  rw [BitVec.toNat_zero, well_retainedUnderWell] at hzero
  obtain ⟨-, -, hgone⟩ := hzero 0 (Nat.le_refl 0) (by decide)
  exact hgone c hc hkey
end

section
/-! PROOF. The directory set and tag of a line (04 R101). -/
namespace Sys2Proof.Machine

theorem dirTagOf_eq (a : Nat) : dirTagOf a = (a >>> 6) >>> 19 := by
  simp only [dirTagOf, Nat.shiftRight_eq_div_pow]

/-- The low 19 bits of the line number against a hash of its tag. -/
theorem dirSetOf_eq (a : Nat) : dirSetOf a = ((a >>> 6) &&& 0x7FFFF) ^^^ (dirTagOf a * 0x2F6B5 % 2 ^ 19) := by
  have hlow : (a >>> 6) &&& 0x7FFFF = (a >>> 6) % 2 ^ 19 := Nat.and_two_pow_sub_one_eq_mod (a >>> 6) 19
  rw [hlow, Nat.shiftRight_eq_div_pow]
  rfl

theorem dirSetOf_lt (a : Nat) : dirSetOf a < 2 ^ 19 := by
  rw [dirSetOf_eq]
  exact Nat.xor_lt_two_pow (Nat.and_lt_two_pow _ (by decide)) (Nat.mod_lt _ (by decide))

/-- For one tag the hash is one number, and XOR with it loses nothing of the low bits. -/
theorem lineNumber_eq_of_setAndTag {a b : Nat} (hset : dirSetOf a = dirSetOf b) (htag : dirTagOf a = dirTagOf b) : a >>> 6 = b >>> 6 := by
  rw [dirSetOf_eq, dirSetOf_eq, htag, Nat.xor_left_inj] at hset
  rw [dirTagOf_eq, dirTagOf_eq] at htag
  have hlow (l : Nat) : l &&& 0x7FFFF = l % 2 ^ 19 := Nat.and_two_pow_sub_one_eq_mod l 19
  rw [hlow, hlow] at hset
  rw [Nat.shiftRight_eq_div_pow _ 19, Nat.shiftRight_eq_div_pow _ 19] at htag
  omega

end Sys2Proof.Machine

open Sys2Proof Sys2Proof.Machine

/-- Settles O9: the quotients and remainders by which the model divides a line number are its bit fields, and the set gives the low bits
back once the tag is known. -/
theorem setAndTagNameTheLine : Obligations.SetAndTagNameTheLine := by
  refine ⟨fun a => ⟨dirTagOf_eq a, ?_, dirSetOf_lt a⟩, fun a b => lineNumber_eq_of_setAndTag⟩
  rw [dirSetOf_eq, dirTagOf_eq]
end

section
/-! PROOF. CXL.mem requests and answers: the slot each takes, and where it goes on to (04 R98, R109 to R111, R119; 14 R433). -/
namespace Sys2Proof.Machine

section Slots
variable (s : State) (n : Station) (hpa : Nat)

/-- A request without data whose class has a free slot takes it. -/
theorem hostMem_req {kind : ReqKind} (d : Line) (mask : BitVec 64) (hk : kind.isRwd = false) (hup : (s.stnAt n.val).up = true)
    (hfree : 0 < (s.stnAt n.val).reqFree) : s.hostMem n.val hpa kind d mask =
      (s.modStn n.val fun t => { t with reqInUse := t.reqInUse + 1 }).hostMemAt n.val (lineOf hpa) kind d mask := by
  have hslot : ((s.stnAt n.val).reqFree == 0) = false := beq_eq_false_iff_ne.2 (Nat.ne_of_gt hfree)
  simp [State.hostMem, hup, hk, hslot]

/-- A request with data whose class has a free slot takes it. -/
theorem hostMem_rwd {kind : ReqKind} (d : Line) (mask : BitVec 64) (hk : kind.isRwd = true) (hup : (s.stnAt n.val).up = true)
    (hfree : 0 < (s.stnAt n.val).rwdFree) : s.hostMem n.val hpa kind d mask =
      (s.modStn n.val fun t => { t with rwdInUse := t.rwdInUse + 1 }).hostMemAt n.val (lineOf hpa) kind d mask := by
  have hslot : ((s.stnAt n.val).rwdFree == 0) = false := beq_eq_false_iff_ne.2 (Nat.ne_of_gt hfree)
  simp [State.hostMem, hup, hk, hslot]

theorem hostHint_slot (hup : (s.stnAt n.val).up = true) (hfree : 0 < (s.stnAt n.val).reqFree) :
    s.hostHint n.val = (s.modStn n.val fun t => { t with reqInUse := t.reqInUse + 1 }).slotDone n.val false := by
  have hslot : ((s.stnAt n.val).reqFree == 0) = false := beq_eq_false_iff_ne.2 (Nat.ne_of_gt hfree)
  simp [State.hostHint, hup, hslot]

theorem takesRsp_of (hup : (s.stnAt n.val).up = true) (hfree : 0 < (s.stnAt n.val).rspFree) : s.takesRsp n.val = true := by
  simp [State.takesRsp, hup, Nat.ne_of_gt hfree]

end Slots

section Answers
variable (s : State) (n : Station) (hpa : BitVec 64)

theorem does_biRsp (rsp : BiRsp) (ht : s.takesRsp n.val = true) :
    Does (.biRsp n hpa rsp) s ((s.rspSlot n.val).hostAnswered n.val hpa.toNat rsp) :=
  congrArg done (show s.hostRsp n.val hpa.toNat rsp = _ by simp [State.hostRsp, ht])

theorem does_biConflict {p : Snoop} (ht : s.takesRsp n.val = true) (hp : (s.rspSlot n.val).snoopAt n.val hpa.toNat = some p) :
    Does (.biConflict n hpa) s ((s.rspSlot n.val).emit (.conflictAck n.val (lineOf hpa.toNat))) :=
  congrArg done (show s.hostConflict n.val hpa.toNat = _ by simp [State.hostConflict, ht, hp])

end Answers

section Answered
variable (s : State) (n hpa : Nat) (rsp : BiRsp) {p : Snoop} (hp : s.snoopAt n hpa = some p)
include hp

/-- An answer waits behind a write of its line that is held (04 R111). -/
theorem hostAnswered_held (hheld : s.wbHeld n hpa = true) :
    s.hostAnswered n hpa rsp = s.modHome fun h => { h with rsps := h.rsps ++ [(n, hpa, rsp)] } := by
  simp [State.hostAnswered, hp, hheld]

theorem hostAnswered_allowed (hheld : s.wbHeld n hpa = false) (hallow : p.kind.allows rsp = true) (hblk : rsp ≠ .blk) :
    s.hostAnswered n hpa rsp = s.answer p rsp := by
  simp [State.hostAnswered, hp, hheld, hallow, hblk]

/-- An answer that the snoop does not allow counts as I, with a record (04 R111). -/
theorem hostAnswered_refused (hheld : s.wbHeld n hpa = false) (hallow : p.kind.allows rsp = false) :
    s.hostAnswered n hpa rsp = (s.record { source := 0x0406, unit := n, address := lineOf hpa }).answer p .i := by
  simp [State.hostAnswered, hp, hheld, hallow]

end Answered

end Sys2Proof.Machine

open Sys2Proof Sys2Proof.Machine

/-- Settles O26: the slot of each class, by the opcode's class. -/
theorem hostRequestsTakeASlot : Obligations.HostRequestsTakeASlot := by
  intro s n hpa d mask hup
  refine ⟨fun hfree => ?_, fun hfree => ?_⟩
  · have hreq (kind : ReqKind) (hk : kind.isRwd = false) := congrArg done (hostMem_req s n hpa.toNat 0 fullMask hk hup hfree)
    exact ⟨hreq .rdS rfl, hreq .rdA rfl, hreq .rdOwn rfl, hreq .rdCur rfl, hreq .invOwn rfl, hreq .drop rfl, hreq .plainRd rfl,
      congrArg done (hostHint_slot s n hup hfree)⟩
  · have hrwd (kind : ReqKind) (m : BitVec 64) (hk : kind.isRwd = true) := congrArg done (hostMem_rwd s n hpa.toNat d m hk hup hfree)
    exact ⟨hrwd .wb mask rfl, hrwd .wbS fullMask rfl, hrwd .ucWr mask rfl, hrwd .plainWr mask rfl⟩

/-- Settles O28: the cases of an answer, by what is held and what the snoop allows. -/
theorem snoopResponsesAnswer : Obligations.SnoopResponsesAnswer := by
  intro s n hpa p hup hfree hp
  have ht := takesRsp_of s n hup hfree
  refine ⟨fun hheld rsp => ?_, fun rsp hheld hallow hblk => ?_, fun rsp hheld hallow => ?_, does_biConflict s n hpa ht hp⟩
  · exact (does_biRsp s n hpa rsp ht).of_eq (hostAnswered_held _ _ _ rsp hp hheld)
  · exact (does_biRsp s n hpa rsp ht).of_eq (hostAnswered_allowed _ _ _ rsp hp hheld hallow hblk)
  · exact (does_biRsp s n hpa rsp ht).of_eq (hostAnswered_refused _ _ _ rsp hp hheld hallow)
end

section
/-! PROOF. The timers and walks of the homes: what each does at its moment (04 R116, R120, R124; 05 R142, R146, R149; 06 R162, R174 to R176; 16
R502). -/
namespace Sys2Proof.Machine

theorem Does.of_exec {c : Instr} {s u v : State} (hexec : exec c s = done u) (h : u = v) : Does c s v := h ▸ hexec

variable (s : State)

/-! ## Timers -/

theorem holdOver_held {key : Nat} {e : DirEnt} (he : s.ent key = some e) (hheld : e.held = true) :
    s.holdOver key = (s.until e.holdEnd).modEnt key fun e => { e with held := false } := by
  simp only [State.holdOver, he, hheld, if_true]

/-- A snoop's timer that ends while no answer of its holder waits (04 R124). -/
theorem biExpire_unanswered {holder key : Nat} {p : Snoop} (hp : s.home.snoops.find? (fun p => p.holder == holder && p.key == key) = some p)
    (hwait : ∀ x ∈ s.home.rsps, x.1 = holder → lineOf x.2.1 ≠ p.hpa) :
    s.biExpire holder key =
      if holder == twinHolder then (if s.isPaired then (s.until p.deadline).startGap 3 else s.until p.deadline)
      else (s.until p.deadline).declare p.cistern 1 holder := by
  have hno : ((s.until p.deadline).home.rsps.any fun a => a.1 == holder && lineOf a.2.1 == p.hpa) = false := by
    simpa using hwait
  simp only [State.biExpire, hp, hno, Bool.false_eq_true, if_false]
  rfl

/-- The older of two requests, the first where none has been seen. -/
def olderReq (a : Option Req) (r : Req) : Option Req :=
  match a with
  | some b => if b.seq ≤ r.seq then a else some r
  | none => some r

/-- The request that is older than all after it stays. -/
theorem foldl_olderReq {r : Req} {l : List Req} (h : ∀ q ∈ l, r.seq < q.seq) : l.foldl olderReq (some r) = some r := by
  induction l with
  | nil => rfl
  | cons q l ih =>
    have hq : olderReq (some r) q = some r := if_pos (Nat.le_of_lt (h q List.mem_cons_self))
    rw [List.foldl_cons, hq, ih fun x hx => h x (List.mem_cons_of_mem q hx)]

/-- The oldest request of a station in the retry store is presented again (04 R116). -/
theorem retryRow_oldest (n : Station) {r : Req} {rest : List Req} (hmine : s.home.retry.filter (fun r => r.ofStn n.val) = r :: rest)
    (hold : ∀ q ∈ rest, r.seq < q.seq) :
    s.retryRow (some n) = ((s.until (r.since + 100)).modHome fun h => { h with retry := h.retry.erase r }).present r := by
  have hfirst : (s.home.retry.filter fun r => r.ofStn n.val).foldl olderReq none = some r := by
    rw [hmine]
    exact foldl_olderReq hold
  unfold State.retryRow
  change (match (s.home.retry.filter fun r => r.ofStn n.val).foldl olderReq none with | some r => _ | none => _) = _
  rw [hfirst]

/-! ## Walks -/

/-- Nothing is left for a cistern whose walk is under way (06 R162). -/
theorem walkOver_done {c : Nat} (hwalk : (s.cis c).walking = true) (hdir : ∀ e ∈ s.home.dir, s.inCis c e.key = false)
    (htxn : ∀ t ∈ s.home.txns, s.inCis c t.key = false) (hst : (s.cis c).st ≠ .dissolving) :
    s.walkOver c = s.modCis c fun x => { x with walking := false } := by
  have hd : (s.home.dir.any fun e => s.inCis c e.key) = false := by simpa using hdir
  have ht : (s.home.txns.any fun t => s.inCis c t.key) = false := by simpa using htxn
  have hs : ((s.cis c).st == .dissolving) = false := by simpa using hst
  simp only [State.walkOver, hwalk, hd, ht, hs, Bool.not_true, Bool.or_false, Bool.false_eq_true, if_false]

theorem trackerEnd_found {die slot : Nat} {t : Tracker} (ht : s.cache.trackers.find? (fun t => t.die == die && t.slot == slot) = some t) :
    s.trackerEnd die slot =
      { s with now := max s.now (tick (t.last + 10000)), cache := { s.cache with trackers := s.cache.trackers.filter (· != t) } } := by
  simp only [State.trackerEnd, ht]
  rfl

/-- The walk of a FLUSH ends; its command completes with that of its last slice (05 R146, R149). -/
theorem walkDone_flushing {d wb : Nat} (hst : (s.slice d).st = .flushing) (hwb : (s.slice d).wb = some wb) :
    s.walkDone d =
      let u := (s.flushSlice d).modSlice d fun x => { x with st := .enabled, wb := none }
      if (List.range 4).any fun e => (u.slice e).wb == some wb then u else u.ready wb .ok [] := by
  simp only [State.walkDone, hst, hwb]

/-! ## The end of a recovery (06 R174 to R176) -/

/-- The cistern is LIVE again, without its dead members. -/
def State.liveAgain (s : State) (c : Nat) : State :=
  s.modCis c fun x =>
    { x with st := .live, zeroed := [], members := x.members.filter fun n => !x.dead.contains n, recover := none, downCause := 0,
             downStation := 0xFF, downTime := 0, expectWb := [] }

section Recovery
variable {c : Nat} {mode : RecMode} {wb : Option Nat} (hrec : (s.cis c).recover = some (mode, wb)) (hwalk : (s.cis c).walking = false)
include hrec hwalk

/-- A recovery that keeps the cistern ends once no revocation of a dead holder is left; ZERO also awaits the zeroed copies. -/
theorem recoverDone_kept (hmode : mode ≠ .dissolve)
    (hrevs : ∀ v ∈ (s.endDead c).pool.revs, (v.cause = .dead ∨ v.station ∈ (s.cis c).dead) → v.well ∉ (s.endDead c).wellsOf c) :
    s.recoverDone c =
      let z := if mode == .zero then (s.endDead c).zeroHomes c else s.endDead c
      if mode == .zero && !z.zeroOver c then z
      else ((z.liveAgain c).cisTwin c).readyOpt wb .ok (s.cis c).result := by
  have hm : (mode == .dissolve) = false := by simpa using hmode
  have hr : ((s.endDead c).pool.revs.any fun v =>
      (v.cause == .dead || (s.cis c).dead.contains v.station) && ((s.endDead c).wellsOf c).contains v.well) = false := by
    simpa [List.any_eq_false] using hrevs
  simp only [State.recoverDone, hrec, hwalk, hm, hr, Bool.false_eq_true, if_false]
  rfl

theorem recoverDone_dissolved (hmode : mode = .dissolve) (hwells : s.wellsOf c = []) :
    s.recoverDone c = (s.setCis c { gen := ((s.cis c).gen + 1) % 65536 }).readyOpt wb .ok (s.cis c).result := by
  subst hmode
  simp [State.recoverDone, hrec, hwalk, hwells]

end Recovery

end Sys2Proof.Machine

open Sys2Proof Sys2Proof.Machine

/-- Settles O29: each timer and walk by the lemma on its own operation. -/
theorem homeTimersAct : Obligations.HomeTimersAct := by
  refine ⟨fun s a e he hheld => .of_exec rfl (holdOver_held s he hheld), fun s k a p hp hwait => ?_,
    fun s n r rest hmine hold => .of_exec rfl (retryRow_oldest s n hmine hold),
    fun s c hwalk hdir htxn hst => .of_exec rfl (walkOver_done s hwalk hdir htxn hst), fun s c mode wb hrec hwalk => ?_,
    fun s c wb hrec hwalk hwells => .of_exec rfl (recoverDone_dissolved s hrec hwalk rfl hwells),
    fun s die wb hst hwb => .of_exec rfl (walkDone_flushing s hst hwb),
    fun s die slot t ht => .of_exec rfl (trackerEnd_found s ht)⟩
  · have hexp := biExpire_unanswered s hp hwait
    refine ⟨fun hk => .of_exec rfl (hexp.trans (if_neg (by simpa using hk))), fun hk hpair => .of_exec rfl (hexp.trans ?_)⟩
    rw [if_pos (by simpa using hk), if_pos hpair]
    rfl
  · intro e hrevs back
    refine ⟨?_, ?_, ?_⟩
    · rintro rfl
      exact .of_exec rfl (recoverDone_kept s hrec hwalk (by decide) hrevs)
    · rintro rfl hover
      refine .of_exec rfl ((recoverDone_kept s hrec hwalk (by decide) hrevs).trans (if_neg ?_))
      simpa using hover
    · rintro rfl hover
      refine .of_exec rfl ((recoverDone_kept s hrec hwalk (by decide) hrevs).trans (if_pos ?_))
      simpa using hover
end

section
/-! PROOF. The home copy of a line: what a read returns, that a write is read back and changes no other line, and what a grant leaves of the
holders (04 R98, R105, R112, R113; 05 R134 to R137; 07 R209; 17 R511). -/
namespace Sys2Proof.Machine

/-! ## What the home holds of a line -/

variable (s : State) (a : Nat)

theorem peekLine_of_cached {c : CLine} (h : s.cached (.pool a) = some c) : s.peekLine a = (c.data, c.pois) := by
  simp only [State.peekLine, h]

theorem peekLine_of_uncached (h : s.cached (.pool a) = none) : s.peekLine a = (s.dram a, s.poison.contains a) := by
  simp only [State.peekLine, h]

/-- What a cached copy and the line's stored bytes hold decides what the home holds. -/
theorem peekLine_congr {t : State} (hview : t.viewed (.pool a) = s.viewed (.pool a)) (hdram : t.dram a = s.dram a)
    (hpois : t.poison.contains a = s.poison.contains a) : t.peekLine a = s.peekLine a := by
  unfold State.viewed at hview
  unfold State.peekLine
  cases hs : s.cached (.pool a) <;> cases ht : t.cached (.pool a) <;> simp_all

theorem viewed_eq_none {k : CKey} : s.viewed k = none ↔ s.cached k = none := Option.map_eq_none_iff

/-- The home holds `x` of a line, and a read of the line meets no error of its own. -/
def State.Reads (s : State) (a : Nat) (x : Line × Bool) : Prop := s.peekLine a = x ∧ (s.cached (.pool a) = none → s.upsetOf a = none)

theorem State.Reads.of_viewed {s : State} {a : Nat} {x : Line × Bool} (h : s.viewed (.pool a) = some x) : s.Reads a x := by
  obtain ⟨c, hc, rfl⟩ := Option.map_eq_some_iff.1 h
  exact ⟨peekLine_of_cached s a hc, fun hno => by simp [hc] at hno⟩

theorem State.Reads.of_uncached {s : State} {a : Nat} {x : Line × Bool} (hc : s.cached (.pool a) = none) (hu : s.upsetOf a = none)
    (hd : s.dram a = x.1) (hp : s.poison.contains a = x.2) : s.Reads a x :=
  ⟨(peekLine_of_uncached s a hc).trans (Prod.ext hd hp), fun _ => hu⟩

/-- A line that is not cached holds what a store of DRAM left. -/
theorem SameBut.reads {s t : State} {a : Nat} {d : Line} {p : Bool} (h : SameBut a d p s t) (hc : s.cached (.pool a) = none) :
    t.Reads a (d, p) := .of_uncached ((h.cached (.pool a)).trans hc) h.upset h.dram h.poison

/-- A store of one line leaves every other one. -/
theorem SameBut.peekLine_other {s t : State} {a b : Nat} {d : Line} {p : Bool} (h : SameBut a d p s t) (ha : lineOf a = a) (hb : lineOf b = b)
    (hne : b ≠ a) : t.peekLine b = s.peekLine b := by
  refine peekLine_congr s b (by rw [State.viewed, h.cached]; rfl) (h.others b ?_) (h.otherPoison b hne)
  unfold lineOf at ha hb
  omega

/-! ## Reads (05 R136) -/

theorem homeRead_cached {c : CLine} (h : s.cached (.pool a) = some c) : s.homeRead a = (c.data, c.pois, s.touchLine (.pool a)) := by
  simp only [State.homeRead, h]

theorem homeRead_uncached (h : s.cached (.pool a) = none) : s.homeRead a = s.readDram a := by
  simp only [State.homeRead, h]

/-- A read answers the line's data, and leaves the line as it answered. -/
theorem homeRead_peek (ha : lineOf a = a) :
    (s.homeRead a).1 = (s.peekLine a).1 ∧ (s.homeRead a).2.2.peekLine a = ((s.homeRead a).1, (s.homeRead a).2.1) := by
  cases hc : s.cached (.pool a) with
  | some c =>
    rw [homeRead_cached s a hc]
    exact ⟨by rw [peekLine_of_cached s a hc], ((touchLine_sameView s _).peekLine a).trans (peekLine_of_cached s a hc)⟩
  | none =>
    rw [homeRead_uncached s a hc]
    obtain ⟨hd, -, hbut⟩ := readDram_sameBut s a ha
    exact ⟨by rw [hd, peekLine_of_uncached s a hc], by rw [(hbut.reads hc).1, hd]⟩

/-- A read of DRAM answers poison also where it meets an uncorrectable error itself (17 R511). -/
theorem homeRead_pois_uncached (ha : lineOf a = a) (hc : s.cached (.pool a) = none) :
    (s.homeRead a).2.1 = (s.poison.contains a || (s.upsetOf a).any (1 < ·.1)) := by
  rw [homeRead_uncached s a hc]
  exact (readDram_sameBut s a ha).2.1

theorem State.Reads.homeRead {s : State} {a : Nat} {x : Line × Bool} (h : s.Reads a x) (ha : lineOf a = a) :
    (s.homeRead a).1 = x.1 ∧ (s.homeRead a).2.1 = x.2 := by
  obtain ⟨rfl, hu⟩ := h
  refine ⟨(homeRead_peek s a ha).1, ?_⟩
  cases hc : s.cached (.pool a) with
  | some c => rw [homeRead_cached s a hc, peekLine_of_cached s a hc]
  | none => rw [homeRead_pois_uncached s a ha hc, hu hc, peekLine_of_uncached s a hc, Option.any_none, Bool.or_false]

/-- Where every look-up answers alike, so does a read. -/
theorem SameView.homeRead {s t : State} (h : SameView s t) (ha : lineOf a = a) :
    (t.homeRead a).1 = (s.homeRead a).1 ∧ (t.homeRead a).2.1 = (s.homeRead a).2.1 := by
  refine ⟨by rw [(homeRead_peek t a ha).1, (homeRead_peek s a ha).1, h.peekLine], ?_⟩
  have hview := h.view (.pool a)
  cases hc : s.cached (.pool a) with
  | some c =>
    simp only [State.viewed, hc, Option.map_some, Option.map_eq_some_iff, Prod.mk.injEq] at hview
    obtain ⟨c', hc', -, hp⟩ := hview
    rw [homeRead_cached s a hc, homeRead_cached t a hc', hp]
  | none =>
    rw [(viewed_eq_none s).2 hc, viewed_eq_none] at hview
    rw [homeRead_pois_uncached s a ha hc, homeRead_pois_uncached t a ha hview, h.poison, State.upsetOf, h.upsets]
    rfl

/-- A station's read answers what the home holds, and leaves it so where it places the line in the cache. -/
theorem stationRead_peek (ha : lineOf a = a) : (s.stationRead a).1 = (s.homeRead a).1 ∧ (s.stationRead a).2.1 = (s.homeRead a).2.1 ∧
    (s.stationRead a).2.2.peekLine a = ((s.stationRead a).1, (s.stationRead a).2.1) := by
  have hread := homeRead_peek s a ha
  cases hc : s.cached (.pool a) with
  | some c =>
    have hs : s.stationRead a = s.homeRead a := by simp only [State.stationRead, State.homeRead, hc]
    rw [hs]
    exact ⟨rfl, rfl, hread.2⟩
  | none =>
    rw [homeRead_uncached s a hc] at hread ⊢
    simp only [State.stationRead, hc]
    cases hp : (s.readDram a).2.2.place { key := .pool a, die := 0, set := 0, way := 0, data := (s.readDram a).1, pois := (s.readDram a).2.1 } with
    | some t => exact ⟨rfl, rfl, (State.Reads.of_viewed (place_viewed rfl hp).1).1⟩
    | none => exact ⟨rfl, rfl, hread.2⟩

/-! ## Lines of the cache that a write changes or drops -/

/-- A dropped line is cached no more. -/
theorem cached_dropLine (k : CKey) : (s.dropLine k).cached k = none := by
  refine List.find?_eq_none.2 fun c hc => ?_
  have hkeep := (List.mem_filter.1 hc).2
  cases hk : c.key == k <;> cases hr : c.retained <;> simp_all

theorem cached_dropLine_ne {k l : CKey} (h : l ≠ k) : (s.dropLine k).cached l = s.cached l := by
  show (s.cache.lines.filter _).find? _ = s.cache.lines.find? _
  rw [List.find?_filter]
  refine congrArg (fun p => s.cache.lines.find? p) (funext fun c => ?_)
  by_cases hk : c.key = l
  · have hne : (c.key == k) = false := by simpa [hk] using h
    simp [hne]; rfl
  · simp [hk]

/-- A change of lines that leaves where each is found. -/
def KeepsPlace (f : CLine → CLine) : Prop := ∀ c, (f c).key = c.key ∧ (f c).retained = c.retained ∧ (f c).die = c.die

/-- A changed line is cached as it was changed, and every other as it was. -/
theorem cached_modLine {k l : CKey} {f : CLine → CLine} (hf : KeepsPlace f) :
    (s.modLine k f).cached l = if l = k then (s.cached l).map f else s.cached l := by
  have hfind : (s.modLine k f).cached l = (s.cached l).map fun c => if c.key == k && !c.retained then f c else c := by
    show (s.cache.lines.map _).find? _ = _
    rw [List.find?_map]
    refine congrArg (Option.map _) (congrArg (fun p => s.cache.lines.find? p) (funext fun c => ?_))
    obtain ⟨hkey, hret, hdie⟩ := hf c
    simp only [Function.comp]
    split
    · rw [hkey, hret, hdie]; rfl
    · rfl
  rw [hfind]
  cases hc : s.cached l with
  | none => split <;> rfl
  | some c =>
    have hp := List.find?_some hc
    simp only [Bool.and_eq_true, beq_iff_eq, Bool.not_eq_true'] at hp
    obtain ⟨⟨rfl, hret⟩, -⟩ := hp
    simp only [Option.map_some, hret, Bool.not_false, Bool.and_true, beq_iff_eq]
    split <;> rfl

/-! ## Writes (05 R136, R137) -/

/-- What a write leaves of the line: its own bytes over those that a read returns. -/
def State.written (s : State) (a : Nat) (d : Line) (mask : BitVec 64) (pois : Bool) : Line × Bool :=
  mergePois (s.homeRead a).1 d mask (s.homeRead a).2.1 pois

theorem mergePois_full (old new : Line) (p q : Bool) : mergePois old new fullMask p q = (new, q) := if_pos rfl

section Write
variable {s a} (d : Line) (mask : BitVec 64) (pois : Bool)

theorem writeThrough_cached {c : CLine} (hc : s.cached (.pool a) = some c) (keep : Bool) :
    s.writeThrough a d mask pois keep =
      let m := s.written a d mask pois
      let t := s.writeDram a m.1 m.2
      if keep then t.modLine (.pool a) fun c => { c with data := m.1, pois := m.2, dirty := false } else t.dropLine (.pool a) := by
  simp only [State.writeThrough, State.written, hc, homeRead_cached s a hc]

/-- A write past the cache is a store of DRAM, after a read of the line where it has not all bytes. -/
theorem writeThrough_uncached (hc : s.cached (.pool a) = none) (keep : Bool) : ∃ t,
    s.writeThrough a d mask pois keep = t.writeDram a (s.written a d mask pois).1 (s.written a d mask pois).2 ∧
    (t = s ∨ t = (s.readDram a).2.2) := by
  by_cases hm : mask = fullMask
  · subst hm
    exact ⟨s, by simp only [State.writeThrough, State.written, hc, mergePois_full, if_true], .inl rfl⟩
  · exact ⟨_, by simp only [State.writeThrough, State.written, hc, hm, if_false, homeRead_uncached s a hc], .inr rfl⟩

theorem reads_writeThrough (ha : lineOf a = a) (keep : Bool) :
    (s.writeThrough a d mask pois keep).Reads a (s.written a d mask pois) := by
  cases hc : s.cached (.pool a) with
  | some c =>
    rw [writeThrough_cached d mask pois hc]
    have hbut := writeDram_sameBut s a (s.written a d mask pois).1 (s.written a d mask pois).2
    cases keep with
    | true =>
      refine .of_viewed ?_
      rw [State.viewed, if_pos rfl, cached_modLine, if_pos rfl, hbut.cached, hc]
      · rfl
      · exact fun _ => ⟨rfl, rfl, rfl⟩
    | false => exact .of_uncached (cached_dropLine (s.writeDram a _ _) (.pool a)) hbut.upset hbut.dram hbut.poison
  | none =>
    obtain ⟨t, ht, hst⟩ := writeThrough_uncached d mask pois hc keep
    have hct : t.cached (.pool a) = none := by
      rcases hst with rfl | rfl
      · exact hc
      · exact ((readDram_sameBut s a ha).2.2.cached _).trans hc
    rw [ht]
    exact (writeDram_sameBut t a _ _).reads hct

theorem peekLine_writeThrough {b : Nat} (ha : lineOf a = a) (hb : lineOf b = b) (hne : b ≠ a) (keep : Bool) :
    (s.writeThrough a d mask pois keep).peekLine b = s.peekLine b := by
  have hkey : CKey.pool b ≠ .pool a := fun h => hne (CKey.pool.inj h)
  cases hc : s.cached (.pool a) with
  | some c =>
    rw [writeThrough_cached d mask pois hc]
    have hother := (writeDram_sameBut s a (s.written a d mask pois).1 (s.written a d mask pois).2).peekLine_other ha hb hne
    refine .trans ?_ hother
    cases keep with
    | true =>
      refine peekLine_congr _ b ?_ rfl rfl
      rw [State.viewed, if_pos rfl, cached_modLine, if_neg hkey]
      · rfl
      · exact fun _ => ⟨rfl, rfl, rfl⟩
    | false => exact peekLine_congr _ b (by rw [State.viewed, if_neg Bool.false_ne_true, cached_dropLine_ne _ hkey]; rfl) rfl rfl
  | none =>
    obtain ⟨t, ht, hst⟩ := writeThrough_uncached d mask pois hc keep
    rw [ht, (writeDram_sameBut t a _ _).peekLine_other ha hb hne]
    rcases hst with rfl | rfl
    · rfl
    · exact (readDram_sameBut s a ha).2.2.peekLine_other ha hb hne

/-- A cached line takes the bytes and is dirty. -/
def State.mergeCached (s : State) (a : Nat) (d : Line) (mask : BitVec 64) (pois : Bool) : State :=
  let m := s.written a d mask pois
  ((s.modLine (.pool a) fun c => { c with data := m.1, pois := m.2, dirty := true }).touchLine (.pool a)).dropRecord a m.2

/-- A line that is not cached is placed with the bytes, or stored where no way is to be had. -/
def State.placeMerged (s : State) (a : Nat) (d : Line) (mask : BitVec 64) (pois : Bool) : State :=
  let m := s.written a d mask pois
  let t := if mask = fullMask then s else (s.readDram a).2.2
  match t.place { key := .pool a, die := 0, set := 0, way := 0, data := m.1, pois := m.2, dirty := true } with
  | some t => t.dropRecord a m.2
  | none => t.writeThrough a m.1 fullMask m.2 false

theorem dropRecord_sameView (s : State) (a : Nat) (pois : Bool) : SameView s (s.dropRecord a pois) := by
  unfold State.dropRecord
  split <;> exact ⟨rfl, rfl, rfl, rfl, rfl, fun _ => rfl⟩

theorem SameView.reads {s t : State} (h : SameView s t) {a : Nat} {x : Line × Bool} (hr : s.Reads a x) : t.Reads a x := by
  obtain ⟨hpeek, hu⟩ := hr
  refine ⟨(h.peekLine a).trans hpeek, fun hc => ?_⟩
  rw [State.upsetOf, h.upsets]
  exact hu ((viewed_eq_none s).1 ((h.view _).symm.trans ((viewed_eq_none t).2 hc)))

/-- What a merge into the cached line leaves of every line, its age and record apart. -/
theorem mergeCached_sameView (s : State) (a : Nat) (d : Line) (mask : BitVec 64) (pois : Bool) :
    SameView (s.modLine (.pool a) fun c => { c with data := (s.written a d mask pois).1, pois := (s.written a d mask pois).2, dirty := true })
      (s.mergeCached a d mask pois) := (touchLine_sameView _ _).trans (dropRecord_sameView _ _ _)

theorem reads_mergeCached {c : CLine} (hc : s.cached (.pool a) = some c) : (s.mergeCached a d mask pois).Reads a (s.written a d mask pois) := by
  refine (mergeCached_sameView s a d mask pois).reads (.of_viewed ?_)
  rw [State.viewed, cached_modLine, if_pos rfl, hc]
  · rfl
  · exact fun _ => ⟨rfl, rfl, rfl⟩

theorem peekLine_mergeCached {b : Nat} (hne : b ≠ a) : (s.mergeCached a d mask pois).peekLine b = s.peekLine b := by
  refine ((mergeCached_sameView s a d mask pois).peekLine b).trans (peekLine_congr _ b ?_ rfl rfl)
  rw [State.viewed, cached_modLine, if_neg fun h => hne (CKey.pool.inj h)]
  · rfl
  · exact fun _ => ⟨rfl, rfl, rfl⟩

theorem reads_placeMerged (ha : lineOf a = a) :
    (s.placeMerged a d mask pois).Reads a (s.written a d mask pois) := by
  unfold State.placeMerged
  dsimp only
  generalize (if mask = fullMask then s else (s.readDram a).2.2) = t
  split
  · rename_i u hp
    exact (dropRecord_sameView _ _ _).reads (.of_viewed (place_viewed rfl hp).1)
  · have hread := reads_writeThrough (s := t) (s.written a d mask pois).1 fullMask (s.written a d mask pois).2 ha false
    rwa [State.written.eq_def t, mergePois_full] at hread

theorem stream_sameView (s : State) (die : Nat) (src : Src) (host : Bool) (l : Nat) : SameView s (s.stream die src host l).2 := by
  have hput (t : State) (l : List Tracker) (h : SameData s t) : SameView s { t with cache := { t.cache with trackers := l } } :=
    ⟨h.mem, h.poison, h.upsets, h.pool, (congrArg Cache.slices h.cache : t.cache.slices = s.cache.slices), fun k => (h.sameView.view k)⟩
  unfold State.stream
  dsimp only
  split
  · exact hput s _ (.refl s)
  · split
    · exact hput s _ (.refl s)
    · split <;> rename_i hp <;> have hpick := congrArg Prod.snd hp ▸ pick_sameData s _
      · exact hpick.sameView
      · exact hput _ _ hpick

/-- A write goes past the cache, into the cached line, or to a way that is taken for it; the streaming detector, which may see it first,
changes no line (05 R136, R137, R142). -/
theorem homeWrite_cases (src : Src) {die x : Nat} (hhome : s.homeOf a = some (die, x)) : ∃ t, SameView s t ∧
    ((∃ keep, s.homeWrite a d mask pois src = (t.writeThrough a d mask pois keep).copyPoison a pois) ∨
     (∃ c, t.cached (.pool a) = some c ∧ s.homeWrite a d mask pois src = (t.mergeCached a d mask pois).copyPoison a pois) ∨
     (t.cached (.pool a) = none ∧ t.looksUp die = true ∧ s.homeWrite a d mask pois src = (t.placeMerged a d mask pois).copyPoison a pois)) := by
  have hstream : SameView s (if mask = fullMask then s.stream die src false (x / 64) else (false, s)).2 := by
    split
    · exact stream_sameView ..
    · exact .refl s
  unfold State.homeWrite
  simp only [hhome]
  generalize (if mask = fullMask then s.stream die src false (x / 64) else (false, s)) = y at hstream ⊢
  obtain ⟨streaming, t⟩ := y
  refine ⟨t, hstream, ?_⟩
  dsimp only
  split
  · exact .inl ⟨false, rfl⟩
  · rename_i hl
    split
    · exact .inl ⟨true, rfl⟩
    · split
      · exact .inl ⟨false, rfl⟩
      · split
        · rename_i c hc
          exact .inr (.inl ⟨c, hc, by simp only [State.mergeCached, State.written, homeRead_cached t a hc]⟩)
        · rename_i hc
          refine .inr (.inr ⟨hc, by simpa using hl, ?_⟩)
          by_cases hm : mask = fullMask
          · simp only [State.placeMerged, State.written, hm, if_true, mergePois_full] <;> rfl
          · simp only [State.placeMerged, State.written, hm, if_false, homeRead_uncached t a hc] <;> rfl

/-- Poison that is written gets its record, and the line is poisoned already. -/
theorem reads_copyPoison {y : Line × Bool} (h : s.Reads a y) (hy : pois = true → y.2 = true) : (s.copyPoison a pois).Reads a y := by
  unfold State.copyPoison
  split
  · rename_i hrec
    have hp : y.2 = true := hy (by simp only [Bool.and_eq_true] at hrec; exact hrec.1)
    have hbut := poisonLine_sameBut s a 4
    cases hc : s.cached (.pool a) with
    | some c =>
      refine .of_viewed ?_
      rw [State.viewed, hbut.cached, hc, ← h.1, peekLine_of_cached s a hc]
      rfl
    | none =>
      refine .of_uncached ((hbut.cached _).trans hc) hbut.upset (hbut.dram.trans ?_) (hbut.poison.trans hp.symm)
      rw [← h.1, peekLine_of_uncached s a hc]
  · exact h

theorem peekLine_copyPoison {b : Nat} (ha : lineOf a = a) (hb : lineOf b = b) (hne : b ≠ a) : (s.copyPoison a pois).peekLine b = s.peekLine b := by
  unfold State.copyPoison
  split
  · exact (poisonLine_sameBut s a 4).peekLine_other ha hb hne
  · rfl

theorem written_pois (h : pois = true) : (s.written a d mask pois).2 = true := by
  unfold State.written mergePois
  split
  · exact h
  · rw [h]; exact Bool.or_true _

theorem SameView.written {s t : State} (h : SameView s t) (ha : lineOf a = a) : t.written a d mask pois = s.written a d mask pois := by
  unfold State.written
  rw [(h.homeRead a ha).1, (h.homeRead a ha).2]

/-- A write is read back. -/
theorem reads_homeWrite (src : Src) (ha : lineOf a = a) (hhome : (s.homeOf a).isSome = true) :
    (s.homeWrite a d mask pois src).Reads a (s.written a d mask pois) := by
  obtain ⟨⟨die, x⟩, hhome⟩ := Option.isSome_iff_exists.1 hhome
  obtain ⟨t, hview, hcase⟩ := homeWrite_cases (a := a) d mask pois src hhome
  rw [← hview.written d mask pois ha]
  have hpois := written_pois (s := t) (a := a) d mask pois
  rcases hcase with ⟨keep, hw⟩ | ⟨c, hc, hw⟩ | ⟨-, -, hw⟩ <;> rw [hw]
  · exact reads_copyPoison pois (reads_writeThrough d mask pois ha keep) hpois
  · exact reads_copyPoison pois (reads_mergeCached d mask pois hc) hpois
  · exact reads_copyPoison pois (reads_placeMerged d mask pois ha) hpois

/-- Where no line is evicted for it, a write leaves every other line. -/
theorem peekLine_homeWrite (src : Src) {b die x : Nat} (hhome : s.homeOf a = some (die, x))
    (hstay : s.cached (.pool a) ≠ none ∨ s.looksUp die = false) (ha : lineOf a = a) (hb : lineOf b = b) (hne : b ≠ a) :
    (s.homeWrite a d mask pois src).peekLine b = s.peekLine b := by
  obtain ⟨t, hview, hcase⟩ := homeWrite_cases (a := a) d mask pois src hhome
  rw [← hview.peekLine b]
  rcases hcase with ⟨keep, hw⟩ | ⟨c, -, hw⟩ | ⟨hc, hl, -⟩
  · rw [hw, peekLine_copyPoison pois ha hb hne, peekLine_writeThrough d mask pois ha hb hne]
  · rw [hw, peekLine_copyPoison pois ha hb hne, peekLine_mergeCached d mask pois hne]
  · have hcs : s.cached (.pool a) = none := (viewed_eq_none s).1 ((hview.view _).symm.trans ((viewed_eq_none t).2 hc))
    have hls : s.looksUp die = true := by rw [← hl]; simp only [State.looksUp, State.slice, hview.slices]
    rcases hstay with h | h
    · exact absurd hcs h
    · rw [hls] at h; cases h

end Write

/-- Byte by byte, the line has the new bytes of the mask and the others as they were; poison stays where bytes stay (07 R209; 17 R514). -/
theorem mergePois_bytes (old new : Line) (mask : BitVec 64) (p q : Bool) {i : Nat} (hi : i < 64) :
    (lineBytes (mergePois old new mask p q).1)[i]? = (if mask.getLsbD i then lineBytes new else lineBytes old)[i]? ∧
    (mergePois old new mask p q).2 = if mask = fullMask then q else (p || q) := by
  by_cases hm : mask = fullMask
  · have hbit : mask.getLsbD i = true := by rw [hm, fullMask, BitVec.getLsbD_allOnes]; exact decide_eq_true hi
    rw [if_pos hm, if_pos hbit, hm, mergePois_full]
    exact ⟨rfl, rfl⟩
  · rw [if_neg hm, mergePois, if_neg hm]
    exact ⟨mergeLine_byte old new mask i, rfl⟩

/-! ## Requests to a PLAIN well (04 R98) -/

section Plain
variable {s} {r : Req} {w : Well} (hw : w.isHome = true)
include hw

theorem servePlain_read (hk : r.kind = .plainRd) :
    s.servePlain r w a = (s.stationRead a).2.2.respond r .cmp (some ((s.stationRead a).1, (s.stationRead a).2.1)) := by
  simp only [State.servePlain, hk, hw]
  rfl

theorem servePlain_swaRead (hk : r.kind = .swaRd) :
    s.servePlain r w a = (s.homeRead a).2.2.respond r .cmp (some ((s.homeRead a).1, (s.homeRead a).2.1)) := by
  simp only [State.servePlain, hk, hw]
  rfl

theorem servePlain_write (hk : r.kind = .plainWr ∨ r.kind = .swaWr) :
    s.servePlain r w a = (s.homeWrite a r.data r.mask r.pois (s.srcOf r)).commit r a := by
  rcases hk with hk | hk <;> simp only [State.servePlain, hk, hw] <;> rfl

end Plain

/-! ## Grants (04 R105, R112, R113) -/

/-- A change of an entry that leaves which line it is for. -/
def KeepsKey (f : DirEnt → DirEnt) : Prop := ∀ e, (f e).key = e.key ∧ (f e).record = e.record

section Entries
variable {s} {key : Nat} {e : DirEnt}

theorem ent_modEnt {f : DirEnt → DirEnt} (hf : KeepsKey f) (k : Nat) :
    (s.modEnt k f).ent key = if k = key then (s.ent key).map f else s.ent key := by
  have hfind : (s.modEnt k f).ent key = (s.ent key).map fun e => if e.key == k && !e.record then f e else e := by
    show (s.home.dir.map _).find? _ = _
    rw [List.find?_map]
    refine congrArg (Option.map _) (congrArg (fun p => s.home.dir.find? p) (funext fun x => ?_))
    obtain ⟨hkey, hrec⟩ := hf x
    simp only [Function.comp]
    split
    · rw [hkey, hrec]
    · rfl
  rw [hfind]
  cases he : s.ent key with
  | none => split <;> rfl
  | some e =>
    have hp := List.find?_some he
    simp only [Bool.and_eq_true, beq_iff_eq, Bool.not_eq_true'] at hp
    obtain ⟨rfl, hrec⟩ := hp
    simp only [Option.map_some, hrec, Bool.not_false, Bool.and_true, beq_iff_eq, eq_comm (a := e.key)]
    split <;> rfl

theorem ent_modEnt_self {f : DirEnt → DirEnt} (he : s.ent key = some e) (hf : KeepsKey f) : (s.modEnt key f).ent key = some (f e) := by
  rw [ent_modEnt hf, if_pos rfl, he]
  rfl

theorem ent_delEnt : (s.delEnt key).ent key = none := by
  refine List.find?_eq_none.2 fun x hx => ?_
  have hkeep := (List.mem_filter.1 hx).2
  cases hk : x.key == key <;> cases hr : x.record <;> simp_all

/-- An entry agrees with another in holders and state. -/
def DirEnt.SameGrant (e f : DirEnt) : Prop := f.holders = e.holders ∧ f.excl = e.excl

/-- A state whose entry of a line grants the same. -/
def GrantKept (key : Nat) (s t : State) : Prop := ∀ e, s.ent key = some e → ∃ f, t.ent key = some f ∧ e.SameGrant f

theorem GrantKept.trans {s t u : State} (h : GrantKept key s t) (k : GrantKept key t u) : GrantKept key s u := by
  intro e he
  obtain ⟨f, hf, hh, hx⟩ := h e he
  obtain ⟨g, hg, hh', hx'⟩ := k f hf
  exact ⟨g, hg, hh'.trans hh, hx'.trans hx⟩

theorem grantKept_modEnt {f : DirEnt → DirEnt} (hf : KeepsKey f) (hg : ∀ e, DirEnt.SameGrant e (f e)) (s : State) (k : Nat) :
    GrantKept key s (s.modEnt k f) := by
  intro e he
  rw [ent_modEnt hf, he]
  split
  · exact ⟨_, rfl, hg e⟩
  · exact ⟨_, rfl, rfl, rfl⟩

theorem GrantKept.foldl {α : Type} {f : State → α → State} (hf : ∀ s a, GrantKept key s (f s a)) (l : List α) (s : State) :
    GrantKept key s (l.foldl f s) := by
  induction l generalizing s with
  | nil => exact fun e he => ⟨e, he, rfl, rfl⟩
  | cons a l ih => exact (hf s a).trans (ih _)

/-- The ages of a set change no grant. -/
theorem grantKept_touchEnt (s : State) (k : Nat) : GrantKept key s (s.touchEnt k) := by
  unfold State.touchEnt
  split
  · exact fun e he => ⟨e, he, rfl, rfl⟩
  · dsimp only
    have hage (n : Nat) (s : State) (k : Nat) : GrantKept key s (s.modEnt k fun e => { e with age := n }) :=
      grantKept_modEnt (f := fun e => { e with age := n }) (fun _ => ⟨rfl, rfl⟩) (fun _ => ⟨rfl, rfl⟩) s k
    have hstep (s : State) (x : DirEnt) : GrantKept key s (s.freshAge.2.modEnt x.key fun e => { e with age := s.freshAge.1 }) :=
      fun e he => hage _ s.freshAge.2 x.key e he
    exact (GrantKept.foldl hstep _ s).trans (hage 0 _ k)

@[simp] theorem fit_holders (e : DirEnt) : e.fit.holders = e.holders := by
  unfold DirEnt.fit
  split <;> rfl

@[simp] theorem fit_excl (e : DirEnt) : e.fit.excl = e.excl := by
  unfold DirEnt.fit
  split <;> rfl

theorem keepsKey_fit {f : DirEnt → DirEnt} (hf : KeepsKey f) : KeepsKey fun e => (f e).fit := by
  intro e
  dsimp only
  unfold DirEnt.fit
  split <;> exact hf e

theorem ent_congr {t : State} (h : t.home.dir = s.home.dir) : t.ent key = s.ent key := by
  unfold State.ent
  rw [h]

/-- A line that leaves E or M keeps its holders. -/
theorem ent_leaveExcl (he : s.ent key = some e) : ∃ f, (s.leaveExcl key).ent key = some f ∧ f.holders = e.holders := by
  unfold State.leaveExcl
  rw [he]
  dsimp only
  split
  · exact ⟨e, he, rfl⟩
  · have hdir : ∀ (l : List Nat) (t : State), (l.foldl (fun s n => s.grantRecord key n false false) t).home.dir = t.home.dir := fun l t => by
      induction l generalizing t with
      | nil => rfl
      | cons n l ih => exact (ih _).trans (grantRecord_dir ..)
    rw [ent_congr (hdir _ _)]
    exact ⟨_, ent_modEnt_self he fun _ => ⟨rfl, rfl⟩, rfl⟩

/-- An entry that names one holder in E or M, with its minimum hold (04 R112, R120). -/
def DirEnt.grantedTo (e : DirEnt) (n : Nat) (x : Excl) (held : Bool) (holdEnd : Nat) : DirEnt :=
  { e with holders := [n], excl := x, held := held, holdEnd := holdEnd }

/-- An exclusive grant leaves one holder. -/
theorem ent_grantExcl (he : s.ent key = some e) (n : Nat) (x : Excl) :
    ∃ f, (s.grantExcl key n x).ent key = some f ∧ f.holders = [n] ∧ f.excl = x := by
  have hkey : KeepsKey fun e => e.grantedTo n x (0 < s.home.tHold) (s.now + s.home.tHold) := fun _ => ⟨rfl, rfl⟩
  obtain ⟨f, hf, hh, hx⟩ := grantKept_touchEnt _ key _ (ent_modEnt_self he (keepsKey_fit hkey))
  exact ⟨f, hf, hh.trans (fit_holders _), hx.trans (fit_excl _)⟩

/-- A shared grant adds a holder, and leaves the line in no exclusive state. -/
theorem ent_grantShared (he : s.ent key = some e) (n : Nat) : ∃ f, (s.grantShared key n).ent key = some f ∧ f.excl = .none ∧
    f.holders = if e.holders.contains n then e.holders else e.holders ++ [n] := by
  obtain ⟨g, hg, hgh⟩ := ent_leaveExcl he
  obtain ⟨f, hf, hh, hx⟩ := grantKept_touchEnt ((s.leaveExcl key).modEnt key fun e =>
    { e with excl := .none, holders := if e.holders.contains n then e.holders else e.holders ++ [n] }) key _
    (ent_modEnt_self hg fun _ => ⟨rfl, rfl⟩)
  exact ⟨f, hf, hx, by rw [hh, ← hgh]⟩

/-- A holder that is dropped is none. -/
theorem not_mem_holders_dropHolder {n : Nat} {f : DirEnt} (he : s.ent key = some e) (hf : (s.dropHolder key n).ent key = some f) :
    n ∉ f.holders := by
  unfold State.dropHolder at hf
  rw [he] at hf
  dsimp only at hf
  generalize (if e.holders.contains n then s.leaveExcl key else s) = t at hf
  split at hf
  · rw [ent_delEnt] at hf
    cases hf
  · rw [ent_modEnt (keepsKey_fit (f := fun e => { e with
        excl := if e.holders.contains n then .none else e.excl, holders := e.holders.filter (· != n) }) fun _ => ⟨rfl, rfl⟩),
      if_pos rfl, Option.map_eq_some_iff] at hf
    obtain ⟨g, -, rfl⟩ := hf
    simp

end Entries

end Sys2Proof.Machine

open Sys2Proof Sys2Proof.Machine

/-- Settles O13: reads by what the cache and DRAM hold, a write by the place it goes to, grants by the entry they change. -/
theorem homeReadsWhatWasWritten : Obligations.HomeReadsWhatWasWritten := by
  refine ⟨fun s a ha => ⟨(homeRead_peek s a ha).1, (homeRead_peek s a ha).2,
      fun c hc => congrArg (fun x => (x.1, x.2.1)) (homeRead_cached s a hc),
      homeRead_pois_uncached s a ha⟩, fun s a ha => stationRead_peek s a ha, fun s a d mask pois src ha hhome => ?_,
    fun old new mask p q i hi => mergePois_bytes old new mask p q hi,
    fun s a b die x d mask pois src hhome hstay ha hb hne => peekLine_homeWrite d mask pois src hhome hstay ha hb hne,
    fun s r w a hw => ⟨servePlain_read a hw, servePlain_swaRead a hw, servePlain_write a hw⟩,
    fun s key n e he => ⟨ent_grantExcl he n, ent_grantShared he n, fun f => not_mem_holders_dropHolder he⟩⟩
  have hreads := reads_homeWrite (s := s) d mask pois src ha hhome
  exact ⟨hreads.1, hreads.homeRead ha⟩
end

section
/-! PROOF. Whatever command a step runs, an entry of the directory in E or M has one holder after it as before (04 R105, R112, R113).

Only what grants, drops, moves or evicts an entry writes the directory, and each of those keeps `OneOwner`. All else is shown to reach the
directory through nothing but these: every function of the model that a command can call has one rule here, in the order of the model's
files. The rule of a function that leaves the directory alone is `OneOwner (s.f …) ↔ OneOwner s`. That of one that may write it is
`OneOwner (s.f …) ↔ Owned (s.f …) ∨ OneOwner s`, which says that it keeps `OneOwner` and, as `Owned` is rewritten no further, lets `simp`
walk through a composition of both kinds down to the state it began with. -/

namespace Sys2Proof.Machine

/-! ## What hands the directory on -/

/-- `OneOwner` by a name of its own, which no rule below rewrites. -/
def Owned (s : State) : Prop := OneOwner s

/-- A step that keeps `OneOwner`, as a rewriting rule: `OneOwner` of what it leaves is that of the state before, or holds at any rate. -/
theorem OneOwner.rule {s t : State} (h : OneOwner s → OneOwner t) : OneOwner t ↔ Owned t ∨ OneOwner s :=
  ⟨.inl, fun k => k.elim id h⟩

theorem oneOwner_of_dir {s t : State} (h : t.home.dir = s.home.dir) : OneOwner t ↔ OneOwner s := by
  unfold OneOwner
  rw [h]

@[simp] theorem oneOwner_ite (c : Prop) [Decidable c] (s t : State) :
    OneOwner (if c then s else t) ↔ if c then OneOwner s else OneOwner t := by
  split <;> rfl

/-- A step that leaves `OneOwner` as it was. -/
def SameOwners {α : Type} (f : State → α → State) : Prop := ∀ s a, OneOwner (f s a) ↔ OneOwner s

@[simp] theorem sameOwners_iff {α : Type} (f : State → α → State) : SameOwners f ↔ ∀ s a, OneOwner (f s a) ↔ OneOwner s := Iff.rfl

@[simp] theorem oneOwner_foldl_same {α : Type} {f : State → α → State} (hf : SameOwners f) (l : List α) (s : State) :
    OneOwner (l.foldl f s) ↔ OneOwner s := by
  induction l generalizing s with
  | nil => rfl
  | cons a l ih => exact (ih _).trans (hf s a)

@[simp] theorem oneOwner_forAll_same {α : Type} {f : α → State → State} (hf : SameOwners fun s a => f a s) (l : List α) (s : State) :
    OneOwner (forAll l f s) ↔ OneOwner s := oneOwner_foldl_same hf l s

/-- A step that keeps `OneOwner`. -/
def KeepsOwners {α : Type} (f : State → α → State) : Prop := ∀ s a, OneOwner s → OneOwner (f s a)

@[simp] theorem keepsOwners_iff {α : Type} (f : State → α → State) : KeepsOwners f ↔ ∀ s a, OneOwner s → OneOwner (f s a) := Iff.rfl
@[simp] theorem oneOwner_foldl {α : Type} {f : State → α → State} (hf : KeepsOwners f) (l : List α) (s : State) :
    OneOwner (l.foldl f s) ↔ Owned (l.foldl f s) ∨ OneOwner s := OneOwner.rule (OneOwner.foldl l f hf s)

/-! ## Updates of the state -/

section Updates
variable (s : State)

@[simp] theorem oneOwner_setMem (a : Nat) (bs : List Byte) : OneOwner (s.setMem a bs) ↔ OneOwner s := oneOwner_of_dir (by simp)
@[simp] theorem oneOwner_setPoison (a : Nat) : OneOwner (s.setPoison a) ↔ OneOwner s := oneOwner_of_dir (by simp)
@[simp] theorem oneOwner_clearPoison (a : Nat) : OneOwner (s.clearPoison a) ↔ OneOwner s := oneOwner_of_dir (by simp)
@[simp] theorem oneOwner_zeroRun (a n : Nat) : OneOwner (s.zeroRun a n) ↔ OneOwner s := oneOwner_of_dir (by simp)
@[simp] theorem oneOwner_copyRun (src dst n : Nat) : OneOwner (s.copyRun src dst n) ↔ OneOwner s := oneOwner_of_dir (by simp)
@[simp] theorem oneOwner_emit (o : Output) : OneOwner (s.emit o) ↔ OneOwner s := oneOwner_of_dir (by simp)
@[simp] theorem oneOwner_until (t : Nat) : OneOwner (s.until t) ↔ OneOwner s := oneOwner_of_dir (by simp)
@[simp] theorem oneOwner_modStn (n : Nat) (f : Stn → Stn) : OneOwner (s.modStn n f) ↔ OneOwner s := oneOwner_of_dir (by simp)
@[simp] theorem oneOwner_modPump (p : Nat) (f : Pump → Pump) : OneOwner (s.modPump p f) ↔ OneOwner s := oneOwner_of_dir (by simp)
@[simp] theorem oneOwner_modSlice (d : Nat) (f : Slice → Slice) : OneOwner (s.modSlice d f) ↔ OneOwner s := oneOwner_of_dir (by simp)
@[simp] theorem oneOwner_setWell (i : Nat) (w : Well) : OneOwner (s.setWell i w) ↔ OneOwner s := oneOwner_of_dir (by simp)
@[simp] theorem oneOwner_modWell (i : Nat) (f : Well → Well) : OneOwner (s.modWell i f) ↔ OneOwner s := oneOwner_of_dir (by simp)
@[simp] theorem oneOwner_setCis (c : Nat) (x : Cistern) : OneOwner (s.setCis c x) ↔ OneOwner s := oneOwner_of_dir (by simp)
@[simp] theorem oneOwner_modCis (c : Nat) (f : Cistern → Cistern) : OneOwner (s.modCis c f) ↔ OneOwner s := oneOwner_of_dir (by simp)
@[simp] theorem oneOwner_modCtx (c : Nat) (f : Ctx → Ctx) : OneOwner (s.modCtx c f) ↔ OneOwner s := oneOwner_of_dir (by simp)
@[simp] theorem oneOwner_modPlat (p : Nat) (f : Platform → Platform) : OneOwner (s.modPlat p f) ↔ OneOwner s := oneOwner_of_dir (by simp)
@[simp] theorem oneOwner_modNs (i : Nat) (f : Ns → Ns) : OneOwner (s.modNs i f) ↔ OneOwner s := oneOwner_of_dir (by simp)
@[simp] theorem oneOwner_modJob (id : Nat) (f : Job → Job) : OneOwner (s.modJob id f) ↔ OneOwner s := oneOwner_of_dir (by simp)
@[simp] theorem oneOwner_modTwin (f : Twin → Twin) : OneOwner (s.modTwin f) ↔ OneOwner s := oneOwner_of_dir (by simp)
@[simp] theorem oneOwner_modPool (f : Pool → Pool) : OneOwner (s.modPool f) ↔ OneOwner s := oneOwner_of_dir (by simp)
@[simp] theorem oneOwner_modMbx (f : MbxS → MbxS) : OneOwner (s.modMbx f) ↔ OneOwner s := oneOwner_of_dir (by simp)
@[simp] theorem oneOwner_modMb (m : Mbx) (f : Mailbox → Mailbox) : OneOwner (s.modMb m f) ↔ OneOwner s := oneOwner_of_dir (by simp)
@[simp] theorem oneOwner_modSec (f : Sec → Sec) : OneOwner (s.modSec f) ↔ OneOwner s := oneOwner_of_dir (by simp)
@[simp] theorem oneOwner_modMod (f : Mod → Mod) : OneOwner (s.modMod f) ↔ OneOwner s := oneOwner_of_dir (by simp)
@[simp] theorem oneOwner_modFlt (f : Flt → Flt) : OneOwner (s.modFlt f) ↔ OneOwner s := oneOwner_of_dir (by simp)
@[simp] theorem oneOwner_modPwr (f : Pwr → Pwr) : OneOwner (s.modPwr f) ↔ OneOwner s := oneOwner_of_dir (by simp)
@[simp] theorem oneOwner_modFw (f : Fw → Fw) : OneOwner (s.modFw f) ↔ OneOwner s := oneOwner_of_dir (by simp)
@[simp] theorem oneOwner_modPfx (f : Pfx → Pfx) : OneOwner (s.modPfx f) ↔ OneOwner s := oneOwner_of_dir (by simp)
@[simp] theorem oneOwner_modJobs (f : Jobs → Jobs) : OneOwner (s.modJobs f) ↔ OneOwner s := oneOwner_of_dir (by simp)
@[simp] theorem oneOwner_modXl (f : Xl → Xl) : OneOwner (s.modXl f) ↔ OneOwner s := oneOwner_of_dir (by simp)

@[simp] theorem oneOwner_modHome {f : Home → Home} (hf : ∀ h, (f h).dir = h.dir) : OneOwner (s.modHome f) ↔ OneOwner s :=
  oneOwner_of_dir (hf _)

/-- Every entry of a directory in E or M has exactly one holder. -/
def Home.owned (h : Home) : Prop := ∀ e ∈ h.dir, e.owned

@[simp] theorem home_owned : s.home.owned ↔ OneOwner s := Iff.rfl

@[simp] theorem oneOwner_mk (pe : List Instr) (o : List Output) (c : Nat) (td : List Todo) (n : Nat) (m : List Host.Cell) (po : List Nat)
    (u : List (Nat × Nat × Bool)) (pm : List (Nat × Nat × Nat)) (pl : Pool) (h : Home) (ca : Cache) (x : Xl) (j : Jobs) (pf : Pfx)
    (st : Vector Stn 48) (mb : MbxS) (fw : Fw) (se : Sec) (tw : Twin) (fl : Flt) (pw : Pwr) (md : Mod) (pi : Pins) :
    OneOwner ⟨pe, o, c, td, n, m, po, u, pm, pl, h, ca, x, j, pf, st, mb, fw, se, tw, fl, pw, md, pi⟩ ↔ h.owned := Iff.rfl

end Updates

/-! ## The directory -/

section Directory
variable (s : State)

@[simp] theorem oneOwner_modEnt {f : DirEnt → DirEnt} (hf : ∀ e, e.owned → (f e).owned) (key : Nat) :
    OneOwner (s.modEnt key f) ↔ Owned (s.modEnt key f) ∨ OneOwner s := OneOwner.rule fun h => h.modEnt f hf

@[simp] theorem oneOwner_delEnt (key : Nat) : OneOwner (s.delEnt key) ↔ Owned (s.delEnt key) ∨ OneOwner s := OneOwner.rule .delEnt
@[simp] theorem oneOwner_leaveExcl (key : Nat) : OneOwner (s.leaveExcl key) ↔ Owned (s.leaveExcl key) ∨ OneOwner s :=
  OneOwner.rule .leaveExcl
@[simp] theorem oneOwner_dropHolder (key n : Nat) : OneOwner (s.dropHolder key n) ↔ Owned (s.dropHolder key n) ∨ OneOwner s :=
  OneOwner.rule .dropHolder
@[simp] theorem oneOwner_grantShared (key n : Nat) : OneOwner (s.grantShared key n) ↔ Owned (s.grantShared key n) ∨ OneOwner s :=
  OneOwner.rule .grantShared
@[simp] theorem oneOwner_grantExcl (key n : Nat) (x : Excl) : OneOwner (s.grantExcl key n x) ↔ Owned (s.grantExcl key n x) ∨ OneOwner s :=
  OneOwner.rule fun h => h.grantExcl x
@[simp] theorem oneOwner_applyRsp (key n : Nat) (rsp : BiRsp) : OneOwner (s.applyRsp key n rsp) ↔ Owned (s.applyRsp key n rsp) ∨ OneOwner s :=
  OneOwner.rule fun h => h.applyRsp rsp
@[simp] theorem oneOwner_grantRecord (key n : Nat) (granted modified : Bool) :
    OneOwner (s.grantRecord key n granted modified) ↔ OneOwner s := oneOwner_of_dir (grantRecord_dir ..)

end Directory

section Rules
variable (s : State)

/-! ## Shared operations -/

@[simp] theorem oneOwner_choose (n : Nat) : OneOwner (s.choose n).2 ↔ OneOwner s := by simp [State.choose]
@[simp] theorem oneOwner_random : OneOwner s.random.2 ↔ OneOwner s := by simp [State.random]

@[simp] theorem oneOwner_pick {α : Type} (l : List α) : OneOwner (s.pick l).2 ↔ OneOwner s := by
  unfold State.pick
  split <;> simp

@[simp] theorem oneOwner_freshAge : OneOwner s.freshAge.2 ↔ OneOwner s := by simp [State.freshAge]
@[simp] theorem oneOwner_setVec (n v : Nat) (x : Vec) : OneOwner (s.setVec n v x) ↔ OneOwner s := by simp [State.setVec]
@[simp] theorem oneOwner_sendVec (n v : Nat) : OneOwner (s.sendVec n v) ↔ OneOwner s := by simp [State.sendVec]
@[simp] theorem oneOwner_raiseVec (n v : Nat) : OneOwner (s.raiseVec n v) ↔ OneOwner s := by simp [State.raiseVec]
@[simp] theorem oneOwner_sendVecs (n : Nat) : OneOwner (s.sendVecs n) ↔ OneOwner s := by simp [State.sendVecs]
@[simp] theorem oneOwner_raiseAll (v : Nat) : OneOwner (s.raiseAll v) ↔ OneOwner s := by simp [State.raiseAll]
@[simp] theorem oneOwner_logFlt (n kind path decoder : Nat) (addr : Nat) (well : Nat) (isWrite : Bool) :
    OneOwner (s.logFlt n kind path decoder addr well isWrite) ↔ OneOwner s := by simp [State.logFlt]
@[simp] theorem oneOwner_countPoisoned (n : Nat) : OneOwner (s.countPoisoned n) ↔ OneOwner s := by simp [State.countPoisoned]
@[simp] theorem oneOwner_aerLog (n : Nat) (e : AerErr) : OneOwner (s.aerLog n e) ↔ OneOwner s := by simp [State.aerLog]

@[simp] theorem oneOwner_wakeDie (d : Nat) : OneOwner (s.wakeDie d) ↔ OneOwner s := by
  unfold State.wakeDie
  split <;> simp

/-! ## Fault records -/

@[simp] theorem oneOwner_addHist (source kind unit : Nat) (location : Nat) (count verdict : Nat) (inj : Bool) :
    OneOwner (s.addHist source kind unit location count verdict inj) ↔ OneOwner s := by simp [State.addHist]
@[simp] theorem oneOwner_modRecord (seq : Nat) (f : FaultRec → FaultRec) :
    OneOwner (s.modRecord seq f) ↔ OneOwner s := by simp [State.modRecord]
@[simp] theorem oneOwner_ringRoom : OneOwner s.ringRoom ↔ OneOwner s := by simp [State.ringRoom]

@[simp] theorem oneOwner_react (x : Source) (kind unit : Nat) (r : React) : OneOwner (s.react x kind unit r) ↔ OneOwner s := by
  unfold State.react
  dsimp only
  repeat' split
  all_goals simp

@[simp] theorem oneOwner_tell (seq : Nat) (stns : List Nat) : OneOwner (s.tell seq stns) ↔ OneOwner s := by simp [State.tell]
@[simp] theorem oneOwner_report (r : FaultRec) : OneOwner (s.report r) ↔ OneOwner s := by simp [State.report]
@[simp] theorem oneOwner_applyHeld : OneOwner s.applyHeld ↔ OneOwner s := by simp [State.applyHeld]
@[simp] theorem oneOwner_judged (kind unit seq : Nat) (inj : Bool) :
    OneOwner (s.judged kind unit seq inj) ↔ OneOwner s := by simp [State.judged]
@[simp] theorem oneOwner_openRecord (x : Source) (e : Event) : OneOwner (s.openRecord x e) ↔ OneOwner s := by simp [State.openRecord]
@[simp] theorem oneOwner_recordUp (x : Source) (r : FaultRec) : OneOwner (s.recordUp x r) ↔ OneOwner s := by simp [State.recordUp]

@[simp] theorem oneOwner_recordOnce (e : Event) : OneOwner (s.recordOnce e) ↔ OneOwner s := by
  unfold State.recordOnce
  dsimp only
  repeat' split
  all_goals simp

@[simp] theorem oneOwner_record (e : Event) : OneOwner (s.record e) ↔ OneOwner s := by
  unfold State.record
  dsimp only
  repeat' split
  all_goals simp

@[simp] theorem oneOwner_unbackedBy (kind unit a : Nat) : OneOwner (s.unbackedBy kind unit a) ↔ OneOwner s := by simp [State.unbackedBy]

@[simp] theorem oneOwner_poisonLine (a cause : Nat) : OneOwner (s.poisonLine a cause) ↔ OneOwner s := by
  unfold State.poisonLine
  dsimp only
  repeat' split
  all_goals simp

@[simp] theorem oneOwner_judgeStack (stack : Nat) : OneOwner (s.judgeStack stack) ↔ OneOwner s := by simp [State.judgeStack]
@[simp] theorem oneOwner_rowJudged (stack loc : Nat) (inj : Bool) :
    OneOwner (s.rowJudged stack loc inj) ↔ OneOwner s := by simp [State.rowJudged]

@[simp] theorem oneOwner_uncorrectable (e : Event) : OneOwner (s.uncorrectable e) ↔ OneOwner s := by
  unfold State.uncorrectable
  dsimp only
  repeat' split
  all_goals simp

@[simp] theorem oneOwner_aerUc (n : Nat) (e : AerErr) : OneOwner (s.aerUc n e) ↔ OneOwner s := by simp [State.aerUc]
@[simp] theorem oneOwner_unsupported (n : Nat) : OneOwner (s.unsupported n) ↔ OneOwner s := by simp [State.unsupported]

@[simp] theorem oneOwner_touch (a : Nat) : OneOwner (s.touch a) ↔ OneOwner s := by
  unfold State.touch
  dsimp only
  repeat' split
  all_goals simp

@[simp] theorem oneOwner_stacksReady (keys : List Nat) : OneOwner (s.stacksReady keys).2 ↔ OneOwner s := by
  unfold State.stacksReady
  dsimp only
  repeat' split
  all_goals simp

@[simp] theorem oneOwner_readDram (a : Nat) : OneOwner (s.readDram a).2.2 ↔ OneOwner s := by
  unfold State.readDram
  dsimp only
  repeat' split
  all_goals simp

@[simp] theorem oneOwner_writeDram (a : Nat) (d : Line) (pois : Bool) :
    OneOwner (s.writeDram a d pois) ↔ OneOwner s := by simp [State.writeDram]

/-! ## The caches -/

@[simp] theorem oneOwner_setLines (l : List CLine) : OneOwner (s.setLines l) ↔ OneOwner s := by simp [State.setLines]
@[simp] theorem oneOwner_modLine (k : CKey) (f : CLine → CLine) : OneOwner (s.modLine k f) ↔ OneOwner s := by simp [State.modLine]
@[simp] theorem oneOwner_dropLine (k : CKey) : OneOwner (s.dropLine k) ↔ OneOwner s := by simp [State.dropLine]

@[simp] theorem oneOwner_touchLine (k : CKey) : OneOwner (s.touchLine k) ↔ OneOwner s := by
  unfold State.touchLine
  split <;> simp

@[simp] theorem oneOwner_device (n : Nat) (what : D2H) (kind : DevKind) (hpa : Nat) (d : Line) (pois : Bool) (job : Option Nat)
    (opnd addr : Nat) (mask : BitVec 64) :
    OneOwner (s.device n what kind hpa d pois job opnd addr mask) ↔ OneOwner s := by simp [State.device]

@[simp] theorem oneOwner_inTransfer (id d set w : Nat) : OneOwner (s.inTransfer id d set w) ↔ OneOwner s := by simp [State.inTransfer]
@[simp] theorem oneOwner_dirtyEvict (c : CLine) (n hpa : Nat) (job : Option Nat) (opnd addr : Nat) :
    OneOwner (s.dirtyEvict c n hpa job opnd addr) ↔ OneOwner s := by simp [State.dirtyEvict]

@[simp] theorem oneOwner_evict (c : CLine) : OneOwner (s.evict c) ↔ OneOwner s := by
  unfold State.evict
  split <;> simp

/-- What the second part of a pair is. -/
theorem oneOwner_snd {α : Type} {x : α × State} {a : α} {t : State} (h : x = (a, t)) : OneOwner t ↔ OneOwner x.2 := by rw [h]

@[simp] theorem oneOwner_takeWay (d set : Nat) : OneOwner (s.takeWay d set).2 ↔ OneOwner s := by
  unfold State.takeWay
  dsimp only
  split
  · rfl
  · split
    · rfl
    · split <;> rename_i hp <;> have hpick := (oneOwner_snd hp).trans (oneOwner_pick ..)
      · exact hpick
      · exact (oneOwner_evict ..).trans hpick

theorem oneOwner_place {s t : State} {c : CLine} (h : s.place c = some t) : OneOwner t ↔ OneOwner s := by
  unfold State.place at h
  split at h
  · cases h
  · split at h
    · cases h
    · split at h <;> rename_i hw <;> cases h
      simpa using (oneOwner_snd hw).trans (oneOwner_takeWay ..)

@[simp] theorem oneOwner_stream (d : Nat) (src : Src) (host : Bool) (l : Nat) : OneOwner (s.stream d src host l).2 ↔ OneOwner s := by
  unfold State.stream
  dsimp only
  split
  · simp
  · split
    · simp
    · split <;> rename_i hp <;> simpa using (oneOwner_snd hp).trans (oneOwner_pick ..)

@[simp] theorem oneOwner_homeRead (dpa : Nat) : OneOwner (s.homeRead dpa).2.2 ↔ OneOwner s := by
  unfold State.homeRead
  split <;> simp

@[simp] theorem oneOwner_stationRead (dpa : Nat) : OneOwner (s.stationRead dpa).2.2 ↔ OneOwner s := by
  unfold State.stationRead
  split
  · simp
  · dsimp only
    split
    · rename_i hp
      exact (oneOwner_place hp).trans (oneOwner_readDram ..)
    · exact oneOwner_readDram ..

@[simp] theorem oneOwner_writeThrough (dpa : Nat) (d : Line) (mask : BitVec 64) (pois keep : Bool) :
    OneOwner (s.writeThrough dpa d mask pois keep) ↔ OneOwner s := by
  unfold State.writeThrough
  split <;> simp

@[simp] theorem oneOwner_dropRecord (dpa : Nat) (pois : Bool) : OneOwner (s.dropRecord dpa pois) ↔ OneOwner s := by simp [State.dropRecord]
@[simp] theorem oneOwner_copyPoison (dpa : Nat) (pois : Bool) : OneOwner (s.copyPoison dpa pois) ↔ OneOwner s := by simp [State.copyPoison]

@[simp] theorem oneOwner_homeWrite (dpa : Nat) (d : Line) (mask : BitVec 64) (pois : Bool) (src : Src) :
    OneOwner (s.homeWrite dpa d mask pois src) ↔ OneOwner s := by
  have hread (t : State) : OneOwner (if mask = fullMask then ((0 : Line), false, t) else t.readDram dpa).2.2 ↔ OneOwner t := by
    split
    · rfl
    · exact oneOwner_readDram ..
  unfold State.homeWrite
  split
  · rfl
  · rename_i die a _
    have hstream : OneOwner (if mask = fullMask then s.stream die src false (a / 64) else (false, s)).2 ↔ OneOwner s := by
      split <;> simp
    dsimp only
    generalize (if mask = fullMask then s.stream die src false (a / 64) else (false, s)) = x at hstream ⊢
    rw [oneOwner_copyPoison, ← hstream]
    split
    · simp
    · split
      · simp
      · split
        · simp
        · split
          · simp
          · split
            · rename_i hp
              rw [oneOwner_dropRecord, oneOwner_place hp, hread]
            · rw [oneOwner_writeThrough, hread]

@[simp] theorem oneOwner_reserveWay (dpa : Nat) : OneOwner (s.reserveWay dpa) ↔ OneOwner s := by
  unfold State.reserveWay
  split
  · rfl
  · split
    · rfl
    · split <;> rename_i hw <;> simpa using (oneOwner_snd hw).trans (oneOwner_takeWay ..)

@[simp] theorem oneOwner_unreserve (dpa : Nat) : OneOwner (s.unreserve dpa) ↔ OneOwner s := by simp [State.unreserve]

@[simp] theorem oneOwner_takeBack (dpa : Nat) (d : Line) (mask : BitVec 64) (pois : Bool) (src : Src) :
    OneOwner (s.takeBack dpa d mask pois src) ↔ OneOwner s := by
  unfold State.takeBack
  dsimp only
  repeat' split
  all_goals simp

@[simp] theorem oneOwner_takeThrough (dpa : Nat) (d : Line) (mask : BitVec 64) (pois : Bool) (src : Src) :
    OneOwner (s.takeThrough dpa d mask pois src) ↔ OneOwner s := by simp [State.takeThrough]

@[simp] theorem oneOwner_poisonHome (dpa cause : Nat) : OneOwner (s.poisonHome dpa cause) ↔ OneOwner s := by
  unfold State.poisonHome
  split <;> simp

@[simp] theorem oneOwner_forgetRun (a n : Nat) : OneOwner (s.forgetRun a n) ↔ OneOwner s := by simp [State.forgetRun]

/-! ## The homes -/

@[simp] theorem oneOwner_modTxn (key : Nat) (f : Txn → Txn) : OneOwner (s.modTxn key f) ↔ OneOwner s := by simp [State.modTxn]
@[simp] theorem oneOwner_delTxn (key : Nat) : OneOwner (s.delTxn key) ↔ OneOwner s := by simp [State.delTxn]

@[simp] theorem oneOwner_sendSnoop (key : Nat) (kind : BiKind) (holder : Nat) : OneOwner (s.sendSnoop key kind holder) ↔ OneOwner s := by
  unfold State.sendSnoop
  split <;> simp

@[simp] theorem oneOwner_startTxn (key : Nat) (p : Purpose) (targets : List Nat) (kind : BiKind) (ev : Option DirEnt) :
    OneOwner (s.startTxn key p targets kind ev) ↔ OneOwner s := by simp [State.startTxn]
@[simp] theorem oneOwner_evictEnt (e : DirEnt) : OneOwner (s.evictEnt e) ↔ Owned (s.evictEnt e) ∨ OneOwner s :=
  OneOwner.rule fun h => by simp [State.evictEnt, h]

theorem OneOwner.evictWay {s : State} (h : OneOwner s) {die set own : Nat} {x : Nat × State} (hx : s.evictWay die set own = some x) :
    OneOwner x.2 := by
  unfold State.evictWay at hx
  dsimp only at hx
  split at hx
  · cases hx
  · split at hx
    · cases hx
    · split at hx <;> cases hx
      simp [h]

theorem OneOwner.dirWay {s : State} (h : OneOwner s) {die set own : Nat} {x : Nat × State} (hx : s.dirWay die set own = some x) :
    OneOwner x.2 := by
  unfold State.dirWay at hx
  split at hx
  · cases hx; exact h
  · exact h.evictWay hx

@[simp] theorem oneOwner_quotaRecall (n die : Nat) : OneOwner (s.quotaRecall n die) ↔ OneOwner s := by simp [State.quotaRecall]
@[simp] theorem oneOwner_quotaStep : OneOwner s.quotaStep ↔ OneOwner s := by simp [State.quotaStep]
@[simp] theorem oneOwner_slotDone (n : Nat) (rwd : Bool) : OneOwner (s.slotDone n rwd) ↔ OneOwner s := by simp [State.slotDone]
@[simp] theorem oneOwner_ioData (n off : Nat) (bs : List Byte) (ep : Bool) :
    OneOwner (s.ioData n off bs ep) ↔ OneOwner s := by simp [State.ioData]

@[simp] theorem oneOwner_fillRead (n id i : Nat) (d : Line) (p : Bool) : OneOwner (s.fillRead n id i d p) ↔ OneOwner s := by
  unfold State.fillRead
  dsimp only
  repeat' split
  all_goals simp

@[simp] theorem oneOwner_fillTile (id tile i : Nat) (d : Line) (p : Bool) :
    OneOwner (s.fillTile id tile i d p) ↔ OneOwner s := by simp [State.fillTile]
@[simp] theorem oneOwner_fillDesc (id k : Nat) (d : Line) (p : Bool) : OneOwner (s.fillDesc id k d p) ↔ OneOwner s := by simp [State.fillDesc]
@[simp] theorem oneOwner_jobWritten (id : Nat) : OneOwner (s.jobWritten id) ↔ OneOwner s := by simp [State.jobWritten]
@[simp] theorem oneOwner_atomDone (id i : Nat) (old : Option Nat) : OneOwner (s.atomDone id i old) ↔ OneOwner s := by simp [State.atomDone]

@[simp] theorem oneOwner_respond (r : Req) (k : CmpKind) (data : Option (Line × Bool)) : OneOwner (s.respond r k data) ↔ OneOwner s := by
  unfold State.respond
  dsimp only
  repeat' split
  all_goals simp

@[simp] theorem oneOwner_refuseReq (r : Req) (kind : Nat) : OneOwner (s.refuseReq r kind) ↔ OneOwner s := by
  unfold State.refuseReq
  dsimp only
  repeat' split
  all_goals simp

@[simp] theorem oneOwner_commit (r : Req) (key : Nat) (ans : Option (Line × Bool)) : OneOwner (s.commit r key ans) ↔ OneOwner s := by
  unfold State.commit
  split <;> simp

@[simp] theorem oneOwner_applyWrite (r : Req) (key : Nat) (recalled : Bool) :
    OneOwner (s.applyWrite r key recalled) ↔ OneOwner s := by simp [State.applyWrite]

@[simp] theorem oneOwner_applyAtomic (r : Req) (key aop width pos opnd cmp : Nat) :
    OneOwner (s.applyAtomic r key aop width pos opnd cmp) ↔ OneOwner s := by
  unfold State.applyAtomic
  dsimp only
  repeat' split
  all_goals simp

@[simp] theorem oneOwner_perform (r : Req) (key : Nat) (given : Option (Line × Bool)) :
    OneOwner (s.perform r key given) ↔ Owned (s.perform r key given) ∨ OneOwner s := by
  refine OneOwner.rule fun h => ?_
  have hno (e : DirEnt) : ({ e with excl := .none, holders := [] } : DirEnt).owned := fun hx => absurd rfl hx
  unfold State.perform
  dsimp only
  repeat' split
  all_goals simp [h, hno]

@[simp] theorem oneOwner_forward (r : Req) : OneOwner (s.forward r) ↔ OneOwner s := by simp [State.forward]

theorem OneOwner.append {s : State} (h : OneOwner s) {e : DirEnt} (he : e.owned) :
    OneOwner (s.modHome fun h => { h with dir := h.dir ++ [e] }) := fun x hx =>
  (List.mem_append.1 hx).elim (h x) fun hx => List.mem_singleton.1 hx ▸ he

theorem OneOwner.allocFor {s t : State} (h : OneOwner s) {r : Req} {key : Nat} (ht : s.allocFor r key = some t) : OneOwner t := by
  unfold State.allocFor at ht
  dsimp only at ht
  split at ht
  · cases ht
  · split at ht
    · split at ht
      · cases ht
      · split at ht
        · cases ht
        · rename_i hw
          cases ht
          exact (h.dirWay hw).append fun hx => absurd rfl hx
    · split at ht
      · split at ht
        · cases ht
        · rename_i hw
          cases ht
          exact (h.dirWay hw).modEnt _ fun _ he => he
      · cases ht; exact h

@[simp] theorem oneOwner_afterGrant (r : Req) (key : Nat) : OneOwner (s.afterGrant r key) ↔ OneOwner s := by
  unfold State.afterGrant
  split <;> simp

@[simp] theorem oneOwner_askRecord (r : Req) (key : Nat) : OneOwner (s.askRecord r key) ↔ OneOwner s := by simp [State.askRecord]

@[simp] theorem oneOwner_ownerWrite (r : Req) (w : Well) (key : Nat) :
    OneOwner (s.ownerWrite r w key) ↔ Owned (s.ownerWrite r w key) ∨ OneOwner s := by
  refine OneOwner.rule fun h => ?_
  unfold State.ownerWrite
  dsimp only
  repeat' split
  all_goals simp [h]

theorem OneOwner.serveFree {s : State} (h : OneOwner s) (r : Req) (w : Well) (key : Nat) : OneOwner (s.serveFree r w key).state := by
  unfold State.serveFree
  split
  · split
    · exact h
    · rename_i ha
      have halloc := h.allocFor ha
      repeat' split
      all_goals simp [halloc]
  · split <;> simp [h]

theorem OneOwner.serveCistern {s : State} (h : OneOwner s) (r : Req) (w : Well) (key : Nat) : OneOwner (s.serveCistern r w key).state := by
  unfold State.serveCistern
  dsimp only
  have hfree (r : Req) := h.serveFree r w key
  repeat' split
  all_goals simp [h, hfree]

@[simp] theorem oneOwner_servePlain (r : Req) (w : Well) (key : Nat) : OneOwner (s.servePlain r w key) ↔ OneOwner s := by
  unfold State.servePlain
  dsimp only
  repeat' split
  all_goals simp

@[simp] theorem oneOwner_serveDown (r : Req) (c key : Nat) : OneOwner (s.serveDown r c key) ↔ OneOwner s := by simp [State.serveDown]

theorem OneOwner.serve {s : State} (h : OneOwner s) (r : Req) : OneOwner (s.serve r).state := by
  have hread (key : Nat) : OneOwner (if r.kind = .swaRd then s.homeRead key else s.stationRead key).2.2 := by split <;> simp [h]
  have hcis (w : Well) (key : Nat) := h.serveCistern r w key
  simp [State.serve, hread, hcis, h]

@[simp] theorem oneOwner_toRetry (r : Req) : OneOwner (s.toRetry r) ↔ OneOwner s := by simp [State.toRetry]
@[simp] theorem oneOwner_enqueue (r : Req) : OneOwner (s.enqueue r) ↔ OneOwner s := by simp [State.enqueue]

@[simp] theorem oneOwner_present (r : Req) : OneOwner (s.present r) ↔ Owned (s.present r) ∨ OneOwner s := by
  refine OneOwner.rule fun h => ?_
  unfold State.present
  split
  · simp [h]
  · split
    · simp [h]
    · split
      · simp [h]
      · have hserve := h.serve r
        split <;> rename_i hs <;> rw [hs] at hserve
        · exact hserve
        · exact (oneOwner_enqueue ..).2 hserve
        · exact (oneOwner_modHome _ fun _ => rfl).2 hserve

@[simp] theorem oneOwner_newReq (r : Req) : OneOwner (s.newReq r).2 ↔ OneOwner s := by simp [State.newReq]
@[simp] theorem oneOwner_submit (r : Req) : OneOwner (s.submit r) ↔ Owned (s.submit r) ∨ OneOwner s :=
  OneOwner.rule fun h => by simp [State.submit, h]

@[simp] theorem oneOwner_drainPass : OneOwner s.drainPass ↔ Owned s.drainPass ∨ OneOwner s := by
  refine OneOwner.rule fun h => ?_
  refine List.foldlRecOn (motive := fun x : State × List Nat => OneOwner x.1) _ _ h fun ⟨t, stuck⟩ ht x _ => ?_
  dsimp only
  split
  · exact ht
  · have hserve := ht.serve x.2
    split <;> rename_i hs <;> rw [hs] at hserve <;> simpa using hserve

@[simp] theorem oneOwner_drainFor (k : Nat) : OneOwner (State.drainFor k s) ↔ Owned (State.drainFor k s) ∨ OneOwner s := by
  refine OneOwner.rule fun h => ?_
  induction k generalizing s with
  | zero => exact h
  | succ k ih =>
    have hpass : OneOwner s.drainPass := by simp [h]
    unfold State.drainFor
    dsimp only
    split
    · exact ih _ hpass
    · exact hpass

@[simp] theorem oneOwner_drain : OneOwner s.drain ↔ Owned s.drain ∨ OneOwner s :=
  OneOwner.rule fun h => by simp [State.drain, h]
@[simp] theorem oneOwner_revWalk (v : Rev) : OneOwner (s.revWalk v) ↔ OneOwner s := by simp [State.revWalk]

@[simp] theorem oneOwner_gapWalk : OneOwner s.gapWalk ↔ OneOwner s := by
  refine oneOwner_foldl_same (fun s k => ?_) _ s
  dsimp only
  repeat' split
  all_goals simp

@[simp] theorem oneOwner_lostRecall (key : Nat) : OneOwner (s.lostRecall key) ↔ Owned (s.lostRecall key) ∨ OneOwner s := by
  refine OneOwner.rule fun h => ?_
  unfold State.lostRecall
  dsimp only
  repeat' split
  all_goals simp [h]

@[simp] theorem oneOwner_lostStep : OneOwner s.lostStep ↔ Owned s.lostStep ∨ OneOwner s :=
  OneOwner.rule fun h => by simp +contextual [State.lostStep, h]
@[simp] theorem oneOwner_homeStep : OneOwner s.homeStep ↔ Owned s.homeStep ∨ OneOwner s :=
  OneOwner.rule fun h => by simp [State.homeStep, h]

@[simp] theorem oneOwner_tidyEnt (key : Nat) : OneOwner (s.tidyEnt key) ↔ Owned (s.tidyEnt key) ∨ OneOwner s := by
  refine OneOwner.rule fun h => ?_
  unfold State.tidyEnt
  split <;> simp [h]

@[simp] theorem oneOwner_endTxn (key : Nat) : OneOwner (s.endTxn key) ↔ Owned (s.endTxn key) ∨ OneOwner s :=
  OneOwner.rule fun h => by simp [State.endTxn, h]

@[simp] theorem oneOwner_completeServe (r : Req) (key : Nat) (given : Option (Line × Bool)) :
    OneOwner (s.completeServe r key given) ↔ Owned (s.completeServe r key given) ∨ OneOwner s :=
  OneOwner.rule fun h => by simp [State.completeServe, h]

@[simp] theorem oneOwner_answerAsks (key : Nat) : OneOwner (s.answerAsks key) ↔ OneOwner s := by
  unfold State.answerAsks
  split <;> simp

@[simp] theorem oneOwner_finishTxn (t : Txn) : OneOwner (s.finishTxn t) ↔ Owned (s.finishTxn t) ∨ OneOwner s := by
  refine OneOwner.rule fun h => ?_
  unfold State.finishTxn
  split <;> simp [h]

@[simp] theorem oneOwner_grantAcked (key : Nat) : OneOwner (s.grantAcked key) ↔ Owned (s.grantAcked key) ∨ OneOwner s := by
  refine OneOwner.rule fun h => ?_
  unfold State.grantAcked
  repeat' split
  all_goals simp [h]

@[simp] theorem oneOwner_answer (n : Snoop) (rsp : BiRsp) : OneOwner (s.answer n rsp) ↔ Owned (s.answer n rsp) ∨ OneOwner s := by
  refine OneOwner.rule fun h => ?_
  unfold State.answer
  dsimp only
  repeat' split
  all_goals simp [h]

@[simp] theorem oneOwner_hostAnswered (n hpa : Nat) (rsp : BiRsp) :
    OneOwner (s.hostAnswered n hpa rsp) ↔ Owned (s.hostAnswered n hpa rsp) ∨ OneOwner s := by
  refine OneOwner.rule fun h => ?_
  unfold State.hostAnswered
  split <;> simp [h]

@[simp] theorem oneOwner_releaseHeld : OneOwner s.releaseHeld ↔ Owned s.releaseHeld ∨ OneOwner s :=
  OneOwner.rule fun h => by simp +contextual [State.releaseHeld, h]

@[simp] theorem oneOwner_startRev (v : Rev) : OneOwner (s.startRev v) ↔ OneOwner s := by
  unfold State.startRev
  split <;> simp

@[simp] theorem oneOwner_endCisRequests (c : Nat) : OneOwner (s.endCisRequests c) ↔ OneOwner s := by simp [State.endCisRequests]

@[simp] theorem oneOwner_loseLine (c key : Nat) : OneOwner (s.loseLine c key) ↔ OneOwner s := by
  unfold State.loseLine
  dsimp only
  repeat' split
  all_goals simp

/-- The holders that live, of an entry whose dead holders leave it. -/
theorem DirEnt.owned.alive {e : DirEnt} (h : e.owned) (dead : Nat → Bool) :
    ({ e with
        holders := e.holders.filter fun n => !dead n, held := false, excl := if e.holders.any dead then .none else e.excl } : DirEnt).owned := by
  intro hx
  by_cases hd : e.holders.any dead = true
  · exact absurd (if_pos hd) hx
  · have hall : e.holders.filter (fun n => !dead n) = e.holders := by
      rw [List.filter_eq_self]
      intro n hn
      cases hdn : dead n with
      | false => rfl
      | true => exact absurd (List.any_eq_true.2 ⟨n, hn, hdn⟩) hd
    have hx : e.excl ≠ .none := fun h0 => hx ((if_neg hd).trans h0)
    exact (congrArg List.length hall).trans (h hx)

@[simp] theorem oneOwner_downEntry (c : Nat) (e : DirEnt) (inBuffer : Bool) :
    OneOwner (s.downEntry c e inBuffer) ↔ Owned (s.downEntry c e inBuffer) ∨ OneOwner s := by
  refine OneOwner.rule fun h => ?_
  unfold State.downEntry
  extract_lets x dead lost live s1 s2 s3 out s4 s5
  have h4 : OneOwner s4 := by simp [s4, s3, s2, s1, h]
  have h5 : OneOwner s5 := by
    unfold s5
    split
    · exact h4
    · exact h4.modEnt _ fun e he => (DirEnt.fit_owned _).2 (he.alive dead)
  clear_value s5
  split
  · dsimp only
    split
    · simp [h5]
    · simp [h5]
  · split <;> simp [h5]

@[simp] theorem oneOwner_downWalk (c : Nat) : OneOwner (s.downWalk c) ↔ Owned (s.downWalk c) ∨ OneOwner s := by
  refine OneOwner.rule fun h => ?_
  have hout {t : State} (ht : OneOwner t) (e : DirEnt) : OneOwner (t.modHome fun h => { h with dir := h.dir.filter (· != e) }) :=
    ht.of_subset fun _ hx => (List.mem_filter.1 hx).1
  unfold State.downWalk
  extract_lets twinDead mine buffered s1 s2 s3 rest
  have h1 : OneOwner s1 := OneOwner.foldl _ _ (fun t e ht => hout (by split <;> simp [ht]) e) s h
  have h3 : OneOwner s3 := by simp +contextual [s3, s2, h1]
  simp +contextual [h3]

@[simp] theorem oneOwner_declare (c cause station : Nat) (told : Bool) :
    OneOwner (s.declare c cause station told) ↔ Owned (s.declare c cause station told) ∨ OneOwner s :=
  OneOwner.rule fun h => by simp [State.declare, h]

@[simp] theorem oneOwner_forgetHolder (n : Nat) : OneOwner (s.forgetHolder n) ↔ Owned (s.forgetHolder n) ∨ OneOwner s :=
  OneOwner.rule fun h => by simp +contextual [State.forgetHolder, h]
@[simp] theorem oneOwner_loseHolder (n cause : Nat) : OneOwner (s.loseHolder n cause) ↔ Owned (s.loseHolder n cause) ∨ OneOwner s :=
  OneOwner.rule fun h => by simp +contextual [State.loseHolder, h]

/-! ## The mailboxes -/

@[simp] theorem oneOwner_auditPut (a : Audit) : OneOwner (s.auditPut a) ↔ OneOwner s := by simp [State.auditPut]
@[simp] theorem oneOwner_resumeAudit : OneOwner s.resumeAudit ↔ OneOwner s := by simp [State.resumeAudit]
@[simp] theorem oneOwner_auditRec (a : Audit) : OneOwner (s.auditRec a) ↔ OneOwner s := by simp [State.auditRec]

@[simp] theorem oneOwner_auditMbx (m : Mbx) (sender : BitVec 64) (kind wb opcode status : Nat) (digest : BitVec 128)
    (detail : Nat) (cred : Option (BitVec 64)) :
    OneOwner (s.auditMbx m sender kind wb opcode status digest detail cred) ↔ OneOwner s := by simp [State.auditMbx]

@[simp] theorem oneOwner_endSession (m : Mbx) (why : Nat) : OneOwner (s.endSession m why) ↔ OneOwner s := by simp [State.endSession]
@[simp] theorem oneOwner_crossThresholds (next : Nat) : OneOwner (s.crossThresholds next) ↔ OneOwner s := by simp [State.crossThresholds]
@[simp] theorem oneOwner_writeEntry (e : JEntry) : OneOwner (s.writeEntry e) ↔ OneOwner s := by simp [State.writeEntry]

@[simp] theorem oneOwner_modEntry (wb : Nat) (f : JEntry → JEntry) : OneOwner (s.modEntry wb f) ↔ OneOwner s := by
  unfold State.modEntry
  split <;> simp

@[simp] theorem oneOwner_ownEntry (opcode object : Nat) (result : List Byte) :
    OneOwner (s.ownEntry opcode object result) ↔ OneOwner s := by simp [State.ownEntry]

@[simp] theorem oneOwner_numberEntry (wb : Nat) : OneOwner (s.numberEntry wb) ↔ OneOwner s := by
  unfold State.numberEntry
  split <;> simp

@[simp] theorem oneOwner_numberAll : OneOwner s.numberAll ↔ OneOwner s := by simp [State.numberAll]
@[simp] theorem oneOwner_bootEntry : OneOwner s.bootEntry ↔ OneOwner s := by simp [State.bootEntry]
@[simp] theorem oneOwner_reply (h : CmdHdr) (r : Reply) : OneOwner (s.reply h r) ↔ OneOwner s := by simp [State.reply]
@[simp] theorem oneOwner_reject (h : CmdHdr) (c : Cmd) (r : Refuse) : OneOwner (s.reject h c r) ↔ OneOwner s := by simp [State.reject]
@[simp] theorem oneOwner_journalIn (h : CmdHdr) (c : Cmd) : OneOwner (s.journalIn h c) ↔ OneOwner s := by simp [State.journalIn]

/-- The effect of a command keeps `OneOwner`. -/
def Apply.KeepsOwners (apply : Apply) : Prop := ∀ wb s, OneOwner s → OneOwner (apply wb s).2.2

@[simp] theorem Apply.keepsOwners_iff (apply : Apply) : apply.KeepsOwners ↔ ∀ wb s, OneOwner s → OneOwner (apply wb s).2.2 := Iff.rfl

theorem OneOwner.accept {s : State} (hs : OneOwner s) {apply : Apply} (ha : apply.KeepsOwners) (h : CmdHdr) (c : Cmd) :
    OneOwner (s.accept h c apply) := by
  unfold State.accept
  split
  · simpa using ha 0 s hs
  · simpa using ha _ _ ((oneOwner_journalIn ..).2 hs)

@[simp] theorem oneOwner_noteUse (h : CmdHdr) : OneOwner (s.noteUse h) ↔ OneOwner s := by
  unfold State.noteUse
  split <;> simp

@[simp] theorem oneOwner_noBar (n : Nat) : OneOwner (s.noBar n) ↔ OneOwner s := by simp [State.noBar]
@[simp] theorem oneOwner_keepCommand (h : CmdHdr) (ask : Bool) : OneOwner (s.keepCommand h ask) ↔ OneOwner s := by simp [State.keepCommand]

@[simp] theorem oneOwner_mailbox {apply : Apply} (ha : apply.KeepsOwners) (h : CmdHdr) (c : Cmd) (own : State → Option Refuse) :
    OneOwner (s.mailbox h c own apply) ↔ Owned (s.mailbox h c own apply) ∨ OneOwner s := by
  refine OneOwner.rule fun hs => ?_
  unfold State.mailbox
  split
  · split <;> simp [hs]
  · split
    · simp [hs]
    · dsimp only
      split
      · simp [hs]
      · split
        · simp [hs]
        · exact ((oneOwner_noteUse ..).2 hs).accept ha h c

@[simp] theorem oneOwner_ready (wb : Nat) (st : Status) (result : List Byte) :
    OneOwner (s.ready wb st result) ↔ OneOwner s := by simp [State.ready]

@[simp] theorem oneOwner_readyOpt (wb : Option Nat) (st : Status) (result : List Byte) : OneOwner (s.readyOpt wb st result) ↔ OneOwner s := by
  unfold State.readyOpt
  split <;> simp

@[simp] theorem oneOwner_cplSlot (n : Station) (quiet : Bool) (c : Cpl) :
    OneOwner (s.cplSlot n quiet c) ↔ OneOwner s := by simp [State.cplSlot]

@[simp] theorem oneOwner_completeAsync (a : Async) (st : Status) (result : List Byte) :
    OneOwner (s.completeAsync a st result) ↔ OneOwner s := by
  unfold State.completeAsync
  dsimp only
  repeat' split
  all_goals simp

@[simp] theorem oneOwner_twinEvent : OneOwner s.twinEvent ↔ OneOwner s := by simp [State.twinEvent]

/-! ## Translation -/

@[simp] theorem oneOwner_rcTouch (p c i : Nat) : OneOwner (s.rcTouch p c i) ↔ OneOwner s := by
  unfold State.rcTouch
  split <;> simp

@[simp] theorem oneOwner_rcFill (p c i start length : Nat) (mark : RcMark) (kvb : Bool) :
    OneOwner (s.rcFill p c i start length mark kvb) ↔ OneOwner s := by simp [State.rcFill]
@[simp] theorem oneOwner_rcDrop (f : Nat → Nat → Bool) : OneOwner (s.rcDrop f) ↔ OneOwner s := by simp [State.rcDrop]
@[simp] theorem oneOwner_rcDropTwin (f : Range → Bool) : OneOwner (s.rcDropTwin f) ↔ OneOwner s := by simp [State.rcDropTwin]
@[simp] theorem oneOwner_switchOn (hit : Nat → Nat → Bool) (cause : SwCause) (cleared : Nat) :
    OneOwner (s.switchOn hit cause cleared) ↔ OneOwner s := by simp [State.switchOn]
@[simp] theorem oneOwner_clearIn (c : Nat) (f : Range → Bool) (wb : Nat) : OneOwner (s.clearIn c f wb) ↔ OneOwner s := by simp [State.clearIn]
@[simp] theorem oneOwner_endCtx (c wb : Nat) : OneOwner (s.endCtx c wb) ↔ OneOwner s := by simp [State.endCtx]
@[simp] theorem oneOwner_clearRanges (f : Range → Bool) (cause : SwCause) :
    OneOwner (s.clearRanges f cause) ↔ OneOwner s := by simp [State.clearRanges]
@[simp] theorem oneOwner_dropRanges (f : Range → Bool) (cause : SwCause) :
    OneOwner (s.dropRanges f cause) ↔ OneOwner s := by simp [State.dropRanges]

@[simp] theorem oneOwner_switchDone (w : Switch) : OneOwner (s.switchDone w) ↔ OneOwner s := by
  unfold State.switchDone
  dsimp only
  repeat' split
  all_goals simp

@[simp] theorem oneOwner_switchStep : OneOwner s.switchStep ↔ OneOwner s := by simp [State.switchStep]

@[simp] theorem oneOwner_atcTouch (n a : Nat) : OneOwner (s.atcTouch n a) ↔ OneOwner s := by
  unfold State.atcTouch
  split <;> simp

@[simp] theorem oneOwner_atsAsk (n : Nat) (r : AtsReq) : OneOwner (s.atsAsk n r) ↔ OneOwner s := by simp [State.atsAsk]
@[simp] theorem oneOwner_xlateUsed (j : Job) (p : Nat) (entries : List Nat) (l : List (Nat × Nat × Target)) (o : Nat) :
    OneOwner (s.xlateUsed j p entries l o) ↔ OneOwner s := by simp [State.xlateUsed]

/-! ## The prefix index -/

@[simp] theorem oneOwner_modPfxEnt (e : Nat) (f : PfxEnt → PfxEnt) : OneOwner (s.modPfxEnt e f) ↔ OneOwner s := by simp [State.modPfxEnt]
@[simp] theorem oneOwner_addRef (e : Nat) : OneOwner (s.addRef e) ↔ OneOwner s := by simp [State.addRef]
@[simp] theorem oneOwner_dropRef (e : Nat) : OneOwner (s.dropRef e) ↔ OneOwner s := by simp [State.dropRef]

@[simp] theorem oneOwner_freeEntry (e : Nat) : OneOwner (s.freeEntry e) ↔ OneOwner s := by
  unfold State.freeEntry
  split <;> simp

theorem oneOwner_evictOne {s t : State} {ns : Nat} (h : s.evictOne ns = some t) : OneOwner t ↔ OneOwner s := by
  obtain ⟨e, -, rfl⟩ := Option.map_eq_some_iff.1 h
  simp

@[simp] theorem oneOwner_evictTo (k ns : Nat) : OneOwner (State.evictTo k ns s) ↔ OneOwner s := by
  induction k generalizing s with
  | zero => rfl
  | succ k ih =>
    unfold State.evictTo
    split
    · split
      · rfl
      · rename_i he
        exact (ih _).trans (oneOwner_evictOne he)
    · rfl

@[simp] theorem oneOwner_unused (n : Nat) (used : List Nat) : OneOwner (s.unused n used).2 ↔ OneOwner s := by
  unfold State.unused
  dsimp only
  repeat' split
  all_goals simp

@[simp] theorem oneOwner_freeSlot (ns : Nat) : OneOwner (s.freeSlot ns).2 ↔ OneOwner s := by simp [State.freeSlot]
@[simp] theorem oneOwner_freeWay (k : BitVec 128) : OneOwner (s.freeWay k).2 ↔ OneOwner s := by simp [State.freeWay]
@[simp] theorem oneOwner_freeHold : OneOwner s.freeHold.2 ↔ OneOwner s := by simp [State.freeHold]

@[simp] theorem oneOwner_makeHold (ns e : Nat) : OneOwner (s.makeHold ns e).2 ↔ OneOwner s := by
  unfold State.makeHold
  split <;> rename_i hp <;> simpa using (oneOwner_snd hp).trans (oneOwner_freeHold ..)

@[simp] theorem oneOwner_endHold (i : Nat) : OneOwner (s.endHold i) ↔ OneOwner s := by
  unfold State.endHold
  split <;> simp

@[simp] theorem oneOwner_endHolds (ns : Nat) : OneOwner (s.endHolds ns) ↔ OneOwner s := by simp [State.endHolds]
@[simp] theorem oneOwner_freeEntries (ns : Nat) : OneOwner (s.freeEntries ns) ↔ OneOwner s := by simp [State.freeEntries]

/-! ## Tiles and lines of a job -/

@[simp] theorem oneOwner_ringWrite (p off : Nat) (bs : List Byte) (org : Origin) :
    OneOwner (s.ringWrite p off bs org) ↔ Owned (s.ringWrite p off bs org) ∨ OneOwner s := by
  refine OneOwner.rule fun h => ?_
  unfold State.ringWrite
  split <;> simp [h]

@[simp] theorem oneOwner_writeHeader (p : Nat) : OneOwner (s.writeHeader p) ↔ Owned (s.writeHeader p) ∨ OneOwner s :=
  OneOwner.rule fun h => by simp [State.writeHeader, h]
@[simp] theorem oneOwner_setPlat (p : Nat) (f : Platform → Platform) : OneOwner (s.setPlat p f) ↔ Owned (s.setPlat p f) ∨ OneOwner s :=
  OneOwner.rule fun h => by simp [State.setPlat, h]
@[simp] theorem oneOwner_dropReads (id : Nat) : OneOwner (s.dropReads id) ↔ OneOwner s := by simp [State.dropReads]
@[simp] theorem oneOwner_dropAtoms (id : Nat) : OneOwner (s.dropAtoms id) ↔ OneOwner s := by simp [State.dropAtoms]
@[simp] theorem oneOwner_leavePumps (id : Nat) : OneOwner (s.leavePumps id) ↔ OneOwner s := by simp [State.leavePumps]

@[simp] theorem oneOwner_endThird (id : Nat) : OneOwner (s.endThird id) ↔ Owned (s.endThird id) ∨ OneOwner s := by
  refine OneOwner.rule fun h => ?_
  unfold State.endThird
  repeat' split
  all_goals simp [h]

@[simp] theorem oneOwner_abandonPending (id : Nat) : OneOwner (s.abandonPending id) ↔ OneOwner s := by
  unfold State.abandonPending
  repeat' split
  all_goals simp

@[simp] theorem oneOwner_stopJob (id : Nat) (st : JobStatus) (f : Option Fail) (lost : Bool) :
    OneOwner (s.stopJob id st f lost) ↔ Owned (s.stopJob id st f lost) ∨ OneOwner s := by
  refine OneOwner.rule fun h => ?_
  unfold State.stopJob
  split <;> simp [h]

@[simp] theorem oneOwner_noteUnbacked (p : Nat) (j : Job) (k a : Nat) (st : JobStatus) :
    OneOwner (s.noteUnbacked p j k a st) ↔ OneOwner s := by
  unfold State.noteUnbacked
  split <;> simp

@[simp] theorem oneOwner_xlateStop (id p k step : Nat) (st : JobStatus) (a : Nat) :
    OneOwner (s.xlateStop id p k step st a) ↔ Owned (s.xlateStop id p k step st a) ∨ OneOwner s := by
  refine OneOwner.rule fun h => ?_
  unfold State.xlateStop
  split <;> simp [h]

@[simp] theorem oneOwner_finishJob (id : Nat) : OneOwner (s.finishJob id) ↔ Owned (s.finishJob id) ∨ OneOwner s := by
  refine OneOwner.rule fun h => ?_
  unfold State.finishJob
  split <;> simp [h]

@[simp] theorem oneOwner_ioFlush : OneOwner s.ioFlush ↔ OneOwner s := by
  refine oneOwner_foldl_same (fun s x => ?_) _ _
  repeat' split
  all_goals simp

@[simp] theorem oneOwner_hostWay (n hpa : Nat) : OneOwner (s.hostWay n hpa).2 ↔ OneOwner s := by
  unfold State.hostWay
  dsimp only
  split
  · rfl
  · split <;> rename_i hp <;> exact (oneOwner_snd hp).trans (oneOwner_takeWay ..)

@[simp] theorem oneOwner_deviceInto (way : Option (Nat × Nat × Nat)) (n : Nat) (what : D2H) (kind : DevKind) (hpa : Nat)
    (d : Line) (pois : Bool) (job : Option Nat) (opnd addr : Nat) (mask : BitVec 64) :
    OneOwner (s.deviceInto way n what kind hpa d pois job opnd addr mask) ↔ OneOwner s := by
  unfold State.deviceInto
  split <;> simp

@[simp] theorem oneOwner_wayDone (id : Nat) : OneOwner (s.wayDone id) ↔ OneOwner s := by simp [State.wayDone]

theorem oneOwner_putMoving {s t : State} {id : Nat} {c : CLine} (h : s.putMoving id c = some t) : OneOwner t ↔ OneOwner s := by
  unfold State.putMoving at h
  split at h
  · cases h
  · split at h <;> cases h
    simp

@[simp] theorem oneOwner_keepM (job : Option Nat) (n hpa : Nat) : OneOwner (s.keepM job n hpa) ↔ OneOwner s := by
  unfold State.keepM
  split <;> simp

@[simp] theorem oneOwner_hostWriteNow (job : Option Nat) (n hpa : Nat) (d : Line) (mask : BitVec 64) (pois : Bool) (opnd addr : Nat) :
    OneOwner (s.hostWriteNow job n hpa d mask pois opnd addr) ↔ OneOwner s := by
  unfold State.hostWriteNow
  extract_lets die p whole own past
  have hown (t : State) (way : Option (Nat × Nat × Nat)) : OneOwner (own t way) ↔ OneOwner t := by simp [own]
  have hpast (t : State) : OneOwner (past t) ↔ OneOwner t := by simp [past]
  have hstream : OneOwner (if whole then s.stream die (.pump p) true (hpa / 64) else (false, s)).2 ↔ OneOwner s := by split <;> simp
  generalize (if whole then s.stream die (.pump p) true (hpa / 64) else (false, s)) = x at hstream ⊢
  obtain ⟨streaming, t⟩ := x
  rw [← hstream]
  dsimp only
  split
  · split
    · exact hown ..
    · simp
  · split
    · exact hpast _
    · split <;> rename_i hw <;> have hway := (oneOwner_snd hw).trans (oneOwner_hostWay ..)
      · split
        · exact (hpast _).trans hway
        · exact (hown ..).trans hway
      · exact (hown ..).trans hway

@[simp] theorem oneOwner_hostWrite (job : Option Nat) (n hpa : Nat) (d : Line) (mask : BitVec 64) (pois : Bool) (opnd addr : Nat) :
    OneOwner (s.hostWrite job n hpa d mask pois opnd addr) ↔ OneOwner s := by simp [State.hostWrite]
@[simp] theorem oneOwner_forgetM (n hpa : Nat) : OneOwner (s.forgetM n hpa) ↔ OneOwner s := by simp [State.forgetM]

@[simp] theorem oneOwner_snoopAnswer (n a : Nat) (k : H2D) : OneOwner (s.snoopAnswer n a k) ↔ OneOwner s := by
  unfold State.snoopAnswer
  dsimp only
  repeat' split
  all_goals simp

@[simp] theorem oneOwner_lineFree (n hpa : Nat) : OneOwner (s.lineFree n hpa) ↔ OneOwner s := by
  unfold State.lineFree
  dsimp only
  repeat' split
  all_goals simp

@[simp] theorem oneOwner_hostSnoop (n hpa : Nat) (k : H2D) : OneOwner (s.hostSnoop n hpa k) ↔ OneOwner s := by simp [State.hostSnoop]

@[simp] theorem oneOwner_hostRead (j : Job) (tile i n hpa opnd : Nat) (r : LineRd) (later : List (Line × BitVec 64 × Bool))
    {mark : State → State} (hmark : ∀ t, OneOwner (mark t) ↔ OneOwner t) :
    OneOwner (s.hostRead j tile i n hpa opnd r later mark) ↔ OneOwner s := by
  unfold State.hostRead
  extract_lets out mine inOrder
  split
  · simp
  · rfl
  · split
    · simp
    · split
      · exact hmark s
      · split
        · rfl
        · split
          · split <;> simp [hmark]
          · split <;> rename_i hw <;> have hway := (oneOwner_snd hw).trans (oneOwner_hostWay ..) <;> simpa [hmark] using hway

@[simp] theorem oneOwner_sendFwd (f : FwdOut) : OneOwner (s.sendFwd f) ↔ OneOwner s := by
  unfold State.sendFwd
  split
  · simp
  · split <;> simp

@[simp] theorem oneOwner_fwdTwin (f : FwdOut) : OneOwner (s.fwdTwin f) ↔ OneOwner s := by simp [State.fwdTwin]

@[simp] theorem oneOwner_hostNow (j : Job) (opnd a : Nat) (acc : Acc) (t : Target) :
    OneOwner (s.hostNow j opnd a acc t).2 ↔ Owned (s.hostNow j opnd a acc t).2 ∨ OneOwner s := by
  refine OneOwner.rule fun h => ?_
  unfold State.hostNow
  dsimp only
  repeat' split
  all_goals simp [h]

@[simp] theorem oneOwner_issueRead (j : Job) (t : Tile) (i : Nat) (r : LineRd) :
    OneOwner (s.issueRead j t i r) ↔ Owned (s.issueRead j t i r) ∨ OneOwner s := by
  refine OneOwner.rule fun h => ?_
  unfold State.issueRead
  extract_lets want
  split <;> rename_i hp <;> have ht := (oneOwner_snd hp).2 (by simp [h])
  · exact ht
  · extract_lets sent later
    have hsent (u : State) : OneOwner (sent u) ↔ OneOwner u := by simp [sent]
    clear_value sent later
    split
    · dsimp only
      split <;> simp [ht, hsent]
    · split <;> simp [ht]
    · split <;> simp [ht, hsent]
    · simp [ht, hsent]

@[simp] theorem oneOwner_issueReads (id : Nat) : OneOwner (s.issueReads id) ↔ Owned (s.issueReads id) ∨ OneOwner s := by
  refine OneOwner.rule fun h => ?_
  unfold State.issueReads
  split
  · exact h
  · refine OneOwner.foldl _ _ (fun s t h => OneOwner.foldl _ _ (fun s x h => ?_) s h) s h
    dsimp only
    repeat' split
    all_goals simp [h]

@[simp] theorem oneOwner_hostAnswer (o : DevOut) (d : Line) (p : Bool) : OneOwner (s.hostAnswer o d p) ↔ OneOwner s := by
  unfold State.hostAnswer
  extract_lets s1 s2 s3 s4
  have h4 : OneOwner s4 ↔ OneOwner s3 := by
    unfold s4
    split
    · rename_i hp
      exact oneOwner_putMoving hp
    · simp
  have h3 : OneOwner s3 ↔ OneOwner s := by
    have h2 : OneOwner s2 ↔ OneOwner s := by simp [s2, s1]
    refine Iff.trans ?_ h2
    unfold s3
    split
    · rfl
    · refine oneOwner_foldl_same (fun s t => oneOwner_foldl_same (fun s x => ?_) _ s) _ s2
      dsimp only
      repeat' split
      all_goals simp
  split
  · simp [h4, h3]
  · exact h3

@[simp] theorem oneOwner_giveHost (id : Nat) (host : List (Line × Bool)) :
    OneOwner (s.giveHost id host) ↔ OneOwner s := by simp [State.giveHost]

@[simp] theorem oneOwner_deviceGo (n id : Nat) (data : Line) : OneOwner (s.deviceGo n id data) ↔ OneOwner s := by
  unfold State.deviceGo
  cases s.jobs.devOut.find? fun o => o.id == id && o.stn == n with
  | none => rfl
  | some o =>
    extract_lets gone
    have hgone : OneOwner gone ↔ OneOwner s := by simp [gone]
    clear_value gone
    dsimp only
    cases o.kind with
    | rdOwn mask =>
      dsimp only
      split
      · rename_i hp
        simpa [hgone] using oneOwner_putMoving hp
      · simpa using hgone
    | write mask gives => cases gives <;> simp [hgone]
    | _ => simp [hgone]

@[simp] theorem oneOwner_mapReqs (f : Req → Req) : OneOwner (s.mapReqs f) ↔ OneOwner s := by simp [State.mapReqs]

@[simp] theorem oneOwner_issueLine (id : Nat) (q : QLine) (org : Origin) :
    OneOwner (s.issueLine id q org) ↔ Owned (s.issueLine id q org) ∨ OneOwner s := by
  refine OneOwner.rule fun h => ?_
  unfold State.issueLine
  split <;> simp [h]

@[simp] theorem oneOwner_queueLine (id p : Nat) (q : QLine) : OneOwner (s.queueLine id p q) ↔ Owned (s.queueLine id p q) ∨ OneOwner s := by
  refine OneOwner.rule fun h => ?_
  unfold State.queueLine
  split <;> simp [h]

@[simp] theorem oneOwner_pushLines (k id p : Nat) : OneOwner (State.pushLines k s id p) ↔ Owned (State.pushLines k s id p) ∨ OneOwner s := by
  refine OneOwner.rule fun h => ?_
  induction k generalizing s with
  | zero => exact h
  | succ k ih =>
    unfold State.pushLines
    split
    · exact h
    · split
      · exact h
      · split
        · exact h
        · split <;> rename_i hp <;> have ht := (oneOwner_snd hp).2 (by simp [h])
          · exact ht
          · exact ih _ (by simp [ht])

@[simp] theorem oneOwner_pushQueue (id : Nat) : OneOwner (s.pushQueue id) ↔ Owned (s.pushQueue id) ∨ OneOwner s := by
  refine OneOwner.rule fun h => ?_
  unfold State.pushQueue
  split <;> simp [h]

@[simp] theorem oneOwner_addWTile (id opnd a : Nat) (w : Wr) (ls : List (Nat × Nat × Target)) (entries : List Nat) :
    OneOwner (s.addWTile id opnd a w ls entries) ↔ OneOwner s := by simp [State.addWTile]

theorem oneOwner_xlateTile {s t : State} {j : Job} {p o opnd a len : Nat} {acc : Acc} {step : Nat} {ahead : Bool}
    (h : s.xlateTile j p o opnd a len acc step ahead = .wait t) : OneOwner t ↔ OneOwner s := by
  unfold State.xlateTile at h
  dsimp only at h
  split at h
  · cases h
  · split at h <;> cases h
    refine oneOwner_foldl_same (fun s x => ?_) _ s
    split
    · simp
    · rfl

@[simp] theorem oneOwner_writeTile (id p : Nat) (w : Wr) : OneOwner (s.writeTile id p w) ↔ Owned (s.writeTile id p w) ∨ OneOwner s := by
  refine OneOwner.rule fun h => ?_
  unfold State.writeTile
  split
  · exact h
  · split
    · simp [h]
    · dsimp only
      split
      · simp [h]
      · rename_i hx
        exact (oneOwner_xlateTile hx).2 h
      · simp [h]

theorem oneOwner_writesWait {s t : State} {j : Job} {p : Nat} {ws : List Wr} (h : s.writesWait j p ws = some t) :
    OneOwner t ↔ OneOwner s := by
  obtain ⟨w, -, hw⟩ := List.exists_of_findSome?_eq_some h
  split at hw
  · cases hw
  · split at hw <;> cases hw
    rename_i hx
    exact oneOwner_xlateTile hx

@[simp] theorem oneOwner_writeAll (id p : Nat) (ws : List Wr) : OneOwner (s.writeAll id p ws) ↔ Owned (s.writeAll id p ws) ∨ OneOwner s :=
  OneOwner.rule fun h => by simp +contextual [State.writeAll, h]

@[simp] theorem oneOwner_writeEnding (id p : Nat) (ws : List Wr) :
    OneOwner (s.writeEnding id p ws) ↔ Owned (s.writeEnding id p ws) ∨ OneOwner s :=
  OneOwner.rule fun h => by simp +contextual [State.writeEnding, h]

@[simp] theorem oneOwner_dropTileLines (id : Nat) (tiles : List Nat) :
    OneOwner (s.dropTileLines id tiles) ↔ OneOwner s := by simp [State.dropTileLines]
@[simp] theorem oneOwner_writesMoved : OneOwner s.writesMoved ↔ Owned s.writesMoved ∨ OneOwner s :=
  OneOwner.rule fun h => by simp +contextual [State.writesMoved, h]

/-! ## Loads -/

@[simp] theorem oneOwner_addTile (id load opnd a : Nat) (ls : List (Nat × Nat × Target)) (es : List Nat) (again : Option Placed) :
    OneOwner (s.addTile id load opnd a ls es again) ↔ OneOwner s := by simp [State.addTile]

@[simp] theorem oneOwner_streamTurn (k id p lines opnd : Nat) :
    OneOwner (State.streamTurn k s id p lines opnd) ↔ Owned (State.streamTurn k s id p lines opnd) ∨ OneOwner s := by
  refine OneOwner.rule fun h => ?_
  induction k generalizing s with
  | zero => exact h
  | succ k ih =>
    unfold State.streamTurn
    split
    · exact h
    · dsimp only
      split
      · exact h
      · split
        · exact h
        · split
          · split <;> simp [h]
          · split
            · split <;> simp [h]
            · rename_i hx
              exact (oneOwner_xlateTile hx).2 h
            · exact ih _ (by simp [h])

@[simp] theorem oneOwner_reload (id p : Nat) : OneOwner (s.reload id p) ↔ Owned (s.reload id p) ∨ OneOwner s := by
  refine OneOwner.rule fun h => ?_
  unfold State.reload
  split
  · exact h
  · refine OneOwner.foldl _ _ (fun s x h => ?_) s h
    dsimp only
    split
    · exact h
    · split
      · simp [h]
      · rename_i hx
        exact (oneOwner_xlateTile hx).2 h
      · simp [h]

@[simp] theorem oneOwner_putBuffer (p at_ : Nat) (bs : List Byte) : OneOwner (s.putBuffer p at_ bs) ↔ OneOwner s := by simp [State.putBuffer]

@[simp] theorem oneOwner_endTile (id p : Nat) (t : Tile) (b : Buf) :
    OneOwner (s.endTile id p t b) ↔ Owned (s.endTile id p t b) ∨ OneOwner s := by
  refine OneOwner.rule fun h => ?_
  unfold State.endTile
  dsimp only
  repeat' split
  all_goals simp [h]

@[simp] theorem oneOwner_endTiles (id p : Nat) : OneOwner (s.endTiles id p) ↔ Owned (s.endTiles id p) ∨ OneOwner s := by
  refine OneOwner.rule fun h => ?_
  unfold State.endTiles
  split
  · exact h
  · refine OneOwner.foldl _ _ (fun s x h => ?_) s h
    dsimp only
    repeat' split
    all_goals simp [h]

@[simp] theorem oneOwner_prefetch (id p lines tiles : Nat) : OneOwner (s.prefetch id p lines tiles) ↔ OneOwner s := by
  unfold State.prefetch
  split
  · rfl
  · split
    · rfl
    · rename_i j _ _
      extract_lets look
      have hlook (t : State) (opnd a n : Nat) (acc : Acc) (step : Nat) : OneOwner (look t opnd a n acc step) ↔ OneOwner t := by
        unfold look
        split
        · rename_i hx
          exact oneOwner_xlateTile hx
        · rfl
      refine (oneOwner_foldl_same (fun s opnd => ?_) _ _).trans (oneOwner_foldl_same (fun s opnd => ?_) _ s) <;>
        exact oneOwner_foldl_same (fun s x => hlook ..) _ s

@[simp] theorem oneOwner_loadTurn (id p lines : Nat) (host : List (Line × Bool)) :
    OneOwner (s.loadTurn id p lines host) ↔ Owned (s.loadTurn id p lines host) ∨ OneOwner s := by
  refine OneOwner.rule fun h => ?_
  unfold State.loadTurn
  extract_lets s1 s2 s3
  have h2 : OneOwner s2 := OneOwner.foldl _ _ (fun s k h => by simp [h]) s1 (by simp [s1, h])
  clear_value s2
  simp [s3, h2]

/-! ## Rings and descriptors -/

@[simp] theorem oneOwner_askSlot (id : Nat) : OneOwner (s.askSlot id) ↔ Owned (s.askSlot id) ∨ OneOwner s := by
  refine OneOwner.rule fun h => ?_
  unfold State.askSlot
  dsimp only
  repeat' split
  all_goals simp [h]

theorem oneOwner_takeSlot {s t : State} {id : Nat} (h : s.takeSlot id = some t) : OneOwner t ↔ OneOwner s := by
  unfold State.takeSlot at h
  split at h
  · cases h
  · split at h <;> cases h
    simp

@[simp] theorem oneOwner_markRead (p i : Nat) : OneOwner (s.markRead p i) ↔ Owned (s.markRead p i) ∨ OneOwner s :=
  OneOwner.rule fun h => by simp [State.markRead, h]

@[simp] theorem oneOwner_slotRead (id : Nat) : OneOwner (s.slotRead id) ↔ Owned (s.slotRead id) ∨ OneOwner s := by
  refine OneOwner.rule fun h => ?_
  unfold State.slotRead
  split <;> simp [h]

@[simp] theorem oneOwner_descReady (id p : Nat) : OneOwner (s.descReady id p) ↔ Owned (s.descReady id p) ∨ OneOwner s := by
  refine OneOwner.rule fun h => ?_
  unfold State.descReady
  dsimp only
  repeat' split
  all_goals simp [h]

@[simp] theorem oneOwner_readDesc (id p : Nat) : OneOwner (s.readDesc id p) ↔ Owned (s.readDesc id p) ∨ OneOwner s := by
  refine OneOwner.rule fun h => ?_
  unfold State.readDesc
  split <;> simp [h]

@[simp] theorem oneOwner_giveJob (id p : Nat) : OneOwner (s.giveJob id p) ↔ Owned (s.giveJob id p) ∨ OneOwner s :=
  OneOwner.rule fun h => by simp [State.giveJob, h]

@[simp] theorem oneOwner_choosePump (j : Job) (hint : Nat) (among : Nat → Bool) : OneOwner (s.choosePump j hint among).2 ↔ OneOwner s := by
  unfold State.choosePump
  dsimp only
  split <;> exact oneOwner_pick ..

@[simp] theorem oneOwner_handOff (id : Nat) (die : Option Nat) : OneOwner (s.handOff id die) ↔ Owned (s.handOff id die) ∨ OneOwner s := by
  refine OneOwner.rule fun h => ?_
  unfold State.handOff
  dsimp only
  repeat' split
  all_goals simp [h]

@[simp] theorem oneOwner_requeue (p : Nat) (die : Bool) : OneOwner (s.requeue p die) ↔ Owned (s.requeue p die) ∨ OneOwner s :=
  OneOwner.rule fun h => by simp +contextual [State.requeue, h]
@[simp] theorem oneOwner_offerJobs (f : Job → Bool) : OneOwner (s.offerJobs f) ↔ Owned (s.offerJobs f) ∨ OneOwner s :=
  OneOwner.rule fun h => by simp +contextual [State.offerJobs, h]
@[simp] theorem oneOwner_acceptOne (p : Nat) : OneOwner (s.acceptOne p) ↔ Owned (s.acceptOne p) ∨ OneOwner s :=
  OneOwner.rule fun h => by simp [State.acceptOne, h]

@[simp] theorem oneOwner_acceptFor (k p : Nat) : OneOwner (State.acceptFor k p s) ↔ Owned (State.acceptFor k p s) ∨ OneOwner s := by
  refine OneOwner.rule fun h => ?_
  induction k generalizing s with
  | zero => exact h
  | succ k ih =>
    unfold State.acceptFor
    dsimp only
    split
    · exact ih _ (by simp [h])
    · exact h

@[simp] theorem oneOwner_acceptJobs (p : Nat) : OneOwner (s.accept_ p) ↔ Owned (s.accept_ p) ∨ OneOwner s :=
  OneOwner.rule fun h => by simp [State.accept_, h]

@[simp] theorem oneOwner_readEarly : OneOwner s.readEarly ↔ Owned s.readEarly ∨ OneOwner s := by
  refine OneOwner.rule fun h => ?_
  refine OneOwner.foldl _ _ (fun s x h => ?_) _ h
  dsimp only
  repeat' split
  all_goals simp [h]

@[simp] theorem oneOwner_peeked (id : Nat) : OneOwner (s.peeked id) ↔ Owned (s.peeked id) ∨ OneOwner s := by
  refine OneOwner.rule fun h => ?_
  unfold State.peeked
  split
  · simp [h]
  · split <;> simp [h]

@[simp] theorem oneOwner_descOnce : OneOwner s.descOnce ↔ Owned s.descOnce ∨ OneOwner s := by
  refine OneOwner.rule fun h => ?_
  refine OneOwner.foldl _ _ (fun s j h => ?_) _ (by simp [h])
  split
  · exact h
  · rename_i hs
    have ht := (oneOwner_takeSlot hs).2 h
    split <;> simp [ht, h]

@[simp] theorem oneOwner_descStep : OneOwner s.descStep ↔ Owned s.descStep ∨ OneOwner s :=
  OneOwner.rule fun h => by simp [State.descStep, h]
@[simp] theorem oneOwner_restartPlat (p : Nat) : OneOwner (s.restartPlat p) ↔ Owned (s.restartPlat p) ∨ OneOwner s :=
  OneOwner.rule fun h => by simp [State.restartPlat, h]
@[simp] theorem oneOwner_dropBell (p : Nat) : OneOwner (s.dropBell p) ↔ Owned (s.dropBell p) ∨ OneOwner s :=
  OneOwner.rule fun h => by simp [State.dropBell, h]
@[simp] theorem oneOwner_bell (d : Doorbell) : OneOwner (s.bell d) ↔ Owned (s.bell d) ∨ OneOwner s :=
  OneOwner.rule fun h => by simp [State.bell, h]
@[simp] theorem oneOwner_bells : OneOwner s.bells ↔ Owned s.bells ∨ OneOwner s :=
  OneOwner.rule fun h => by simp +contextual [State.bells, h]
@[simp] theorem oneOwner_bellIn (d : Doorbell) : OneOwner (s.bellIn d) ↔ OneOwner s := by simp [State.bellIn]

@[simp] theorem oneOwner_flushOut (j : Job) : OneOwner (s.flushOut j) ↔ OneOwner s := by
  unfold State.flushOut
  extract_lets s1 q s2
  have h1 : OneOwner s1 ↔ OneOwner s := by
    refine oneOwner_foldl_same (fun s x => ?_) _ s
    dsimp only
    repeat' split
    all_goals simp
  have h2 : OneOwner s2 ↔ OneOwner s1 := by
    unfold s2
    split <;> simp
  simp [h2, h1]

@[simp] theorem oneOwner_flushReads (j : Job) : OneOwner (s.flushReads j) ↔ OneOwner s := by simp [State.flushReads]
@[simp] theorem oneOwner_jobIrq (j : Job) : OneOwner (s.jobIrq j) ↔ OneOwner s := by simp [State.jobIrq]

@[simp] theorem oneOwner_countEnd (id : Nat) : OneOwner (s.countEnd id) ↔ OneOwner s := by
  unfold State.countEnd
  dsimp only
  repeat' split
  all_goals simp

@[simp] theorem oneOwner_delJob (id : Nat) : OneOwner (s.delJob id) ↔ OneOwner s := by simp [State.delJob]
@[simp] theorem oneOwner_writeRecord (j : Job) : OneOwner (s.writeRecord j) ↔ Owned (s.writeRecord j) ∨ OneOwner s :=
  OneOwner.rule fun h => by simp [State.writeRecord, h]
@[simp] theorem oneOwner_recordDone (j : Job) : OneOwner (s.recordDone j) ↔ Owned (s.recordDone j) ∨ OneOwner s :=
  OneOwner.rule fun h => by simp [State.recordDone, h]

@[simp] theorem oneOwner_cplStep : OneOwner s.cplStep ↔ Owned s.cplStep ∨ OneOwner s := by
  refine OneOwner.rule fun h => ?_
  refine OneOwner.foldl _ _ (fun s x h => ?_) _ h
  repeat' split
  all_goals simp [h]

/-! ## Jobs on their pumps -/

@[simp] theorem oneOwner_lookup (j : Job) (ns : Nat) (input : List Byte) : OneOwner (s.lookup j ns input).2 ↔ OneOwner s := by
  unfold State.lookup
  dsimp only
  repeat' split
  all_goals simp

@[simp] theorem oneOwner_release (j : Job) (ns : Nat) (input : List Byte) : OneOwner (s.release j ns input).2 ↔ OneOwner s := by
  refine List.foldlRecOn (motive := fun x : List Byte × State => OneOwner x.2 ↔ OneOwner s) _ _ Iff.rfl fun ⟨out, t⟩ ht i _ => ?_
  dsimp only
  repeat' split
  all_goals simpa using ht

@[simp] theorem oneOwner_prefixRun (j : Job) (ns : Nat) : OneOwner (s.prefixRun j ns) ↔ Owned (s.prefixRun j ns) ∨ OneOwner s := by
  refine OneOwner.rule fun h => ?_
  unfold State.prefixRun
  extract_lets s1
  have h1 : OneOwner s1 := by simp [s1, h]
  clear_value s1
  split
  · exact h1
  · split
    · exact h1
    · rename_i j _ _
      have hout : OneOwner (if j.opcode == 0x52 then s1.release j ns (j.work.buf 0) else s1.lookup j ns (j.work.buf 0)).2 := by
        split <;> simp [h1]
      generalize (if j.opcode == 0x52 then s1.release j ns (j.work.buf 0) else s1.lookup j ns (j.work.buf 0)) = x at hout
      dsimp only
      split
      · rename_i hw
        exact (oneOwner_writesWait hw).2 h1
      · simp [hout]

@[simp] theorem oneOwner_prefixOne (id : Nat) : OneOwner (s.prefixOne id) ↔ Owned (s.prefixOne id) ∨ OneOwner s := by
  refine OneOwner.rule fun h => ?_
  unfold State.prefixOne
  split <;> simp [h]

@[simp] theorem oneOwner_prefixDue (before : Nat) : OneOwner (s.prefixDue before) ↔ Owned (s.prefixDue before) ∨ OneOwner s :=
  OneOwner.rule fun h => by simp +contextual [State.prefixDue, h]
@[simp] theorem oneOwner_setIns (id : Nat) (f : Insert → Insert) : OneOwner (s.setIns id f) ↔ OneOwner s := by simp [State.setIns]
@[simp] theorem oneOwner_toPhase (id phase : Nat) : OneOwner (s.toPhase id phase) ↔ OneOwner s := by simp [State.toPhase]

@[simp] theorem oneOwner_roomFor (k ns : Nat) (key : BitVec 128) : OneOwner (State.roomFor k s ns key).2 ↔ OneOwner s := by
  induction k generalizing s with
  | zero => rfl
  | succ k ih =>
    unfold State.roomFor
    split
    · split
      · rename_i he
        exact (ih _).trans (oneOwner_evictOne he)
      · rfl
    · split <;> rename_i hf <;> have hslot := (oneOwner_snd hf).trans (oneOwner_freeSlot ..)
      · split
        · rename_i he
          exact (ih _).trans ((oneOwner_evictOne he).trans hslot)
        · exact hslot
      · split <;> rename_i hw <;> exact ((oneOwner_snd hw).trans (oneOwner_freeWay ..)).trans hslot

@[simp] theorem oneOwner_insertRun (k id : Nat) : OneOwner (State.insertRun k s id) ↔ OneOwner s := by
  induction k generalizing s with
  | zero => rfl
  | succ k ih =>
    unfold State.insertRun
    split
    · rfl
    · split
      · rfl
      · dsimp only
        split
        · simp
        · split
          · split
            · exact (ih _).trans (by simp)
            · simp
          · split <;> rename_i hr <;> have hroom := (oneOwner_snd hr).trans (oneOwner_roomFor ..)
            · simpa using hroom
            · rw [oneOwner_toPhase, oneOwner_setIns]
              split <;> simpa using hroom

@[simp] theorem oneOwner_insertEnd (id : Nat) : OneOwner (s.insertEnd id) ↔ OneOwner s := by
  unfold State.insertEnd
  dsimp only
  repeat' split
  all_goals simp

@[simp] theorem oneOwner_insertOut (j : Job) (x : Insert) : OneOwner (s.insertOut j x).2 ↔ OneOwner s := by
  unfold State.insertOut
  dsimp only
  repeat' split
  all_goals simp

@[simp] theorem oneOwner_insertFire (j : Job) (p : Nat) : OneOwner (s.insertFire j p) ↔ Owned (s.insertFire j p) ∨ OneOwner s := by
  refine OneOwner.rule fun h => ?_
  unfold State.insertFire
  split
  · exact h
  · extract_lets s1 ns b put hdr key sealed s2
    have h1 : OneOwner s1 := by simp [s1, h]
    have hput (t : State) (off : Nat) (bs : List Byte) (ht : OneOwner t) : OneOwner (put t off bs) := by
      unfold put
      split <;> simp [ht]
    have h2 : OneOwner s2 := hput _ _ _ h1
    clear_value s2 s1 put sealed
    split
    · simp [h1]
    · split
      · simp [hput _ _ _ h1]
      · split <;> simp [h2]
      · split
        · exact h1
        · simp [h1]
      · dsimp only
        split
        · rename_i hw
          exact (oneOwner_writesWait hw).2 h1
        · simp [h1]
      · exact h1

@[simp] theorem oneOwner_descStop (id p opnd off : Nat) (st : JobStatus) :
    OneOwner (s.descStop id p opnd off st) ↔ Owned (s.descStop id p opnd off st) ∨ OneOwner s :=
  OneOwner.rule fun h => by simp [State.descStop, h]

@[simp] theorem oneOwner_insertStart (j : Job) (p : Nat) : OneOwner (s.insertStart j p) ↔ Owned (s.insertStart j p) ∨ OneOwner s := by
  refine OneOwner.rule fun h => ?_
  unfold State.insertStart
  dsimp only
  repeat' split
  all_goals simp [h]

@[simp] theorem oneOwner_insertKeys (id : Nat) : OneOwner (s.insertKeys id) ↔ Owned (s.insertKeys id) ∨ OneOwner s := by
  refine OneOwner.rule fun h => ?_
  unfold State.insertKeys
  split
  · exact h
  · split <;> simp [h]

@[simp] theorem oneOwner_afterLoads (id : Nat) (before : Bool) :
    OneOwner (s.afterLoads id before) ↔ Owned (s.afterLoads id before) ∨ OneOwner s := by
  refine OneOwner.rule fun h => ?_
  unfold State.afterLoads
  dsimp only
  repeat' split
  all_goals simp [h]

@[simp] theorem oneOwner_turn (id p lines : Nat) (host : List (Line × Bool)) :
    OneOwner (s.turn id p lines host) ↔ Owned (s.turn id p lines host) ∨ OneOwner s := by
  refine OneOwner.rule fun h => ?_
  unfold State.turn
  split <;> simp [h]

@[simp] theorem oneOwner_finishStep : OneOwner s.finishStep ↔ Owned s.finishStep ∨ OneOwner s := by
  refine OneOwner.rule fun h => ?_
  refine OneOwner.foldl _ _ (fun s x h => ?_) _ h
  repeat' split
  all_goals simp [h]

@[simp] theorem oneOwner_fire (j : Job) (p : Nat) : OneOwner (s.fire j p) ↔ Owned (s.fire j p) ∨ OneOwner s := by
  refine OneOwner.rule fun h => ?_
  unfold State.fire
  split
  · simp [h]
  · split
    · simp [h]
    · split
      · simp [h]
      · split
        · rename_i hw
          exact (oneOwner_writesWait hw).2 h
        · simp [h]

@[simp] theorem oneOwner_checkFail (j : Job) (p : Nat) (op : StepOp) (inj : Bool) :
    OneOwner (s.checkFail j p op inj) ↔ OneOwner s := by simp [State.checkFail]
@[simp] theorem oneOwner_pumpFaulty (p : Nat) (inj : Bool) : OneOwner (s.pumpFaulty p inj) ↔ OneOwner s := by simp [State.pumpFaulty]

@[simp] theorem oneOwner_meetInjection (j : Job) (p : Nat) : OneOwner (s.meetInjection j p).2 ↔ OneOwner s := by
  unfold State.meetInjection
  dsimp only
  repeat' split
  all_goals simp

@[simp] theorem oneOwner_thirdOn (j : Job) (op : StepOp) (p q : Nat) :
    OneOwner (s.thirdOn j op p q) ↔ Owned (s.thirdOn j op p q) ∨ OneOwner s :=
  OneOwner.rule fun h => by simp [State.thirdOn, h]

@[simp] theorem oneOwner_idlePump (j : Job) (p : Nat) : OneOwner (s.idlePump j p).2 ↔ OneOwner s := by simp [State.idlePump]

@[simp] theorem oneOwner_replayStep : OneOwner s.replayStep ↔ Owned s.replayStep ∨ OneOwner s := by
  refine OneOwner.rule fun h => ?_
  refine OneOwner.foldl _ _ (fun s j h => ?_) s h
  split
  · split
    · split <;> rename_i hp <;> have ht := (oneOwner_snd hp).2 (by simp [h])
      · simp [ht]
      · exact ht
    · exact h
  · exact h

@[simp] theorem oneOwner_begin_ (j : Job) (p : Nat) : OneOwner (s.begin_ j p) ↔ Owned (s.begin_ j p) ∨ OneOwner s := by
  refine OneOwner.rule fun h => ?_
  unfold State.begin_
  dsimp only
  repeat' split
  all_goals simp [h]

@[simp] theorem oneOwner_startRow (op plat idx : Nat) : OneOwner (s.startRow op plat idx) ↔ Owned (s.startRow op plat idx) ∨ OneOwner s := by
  refine OneOwner.rule fun h => ?_
  unfold State.startRow
  split <;> simp [h]

@[simp] theorem oneOwner_prefixStart (j : Job) : OneOwner (s.prefixStart j) ↔ Owned (s.prefixStart j) ∨ OneOwner s :=
  OneOwner.rule fun h => by simp [State.prefixStart, h]

@[simp] theorem oneOwner_prefixRow (op plat idx : Nat) :
    OneOwner (s.prefixRow op plat idx) ↔ Owned (s.prefixRow op plat idx) ∨ OneOwner s := by
  refine OneOwner.rule fun h => ?_
  unfold State.prefixRow
  dsimp only
  repeat' split
  all_goals simp [h]

theorem OneOwner.endingWrites {s t : State} (h : OneOwner s) {j : Job} (ht : s.endingWrites j = some t) : OneOwner t := by
  unfold State.endingWrites at ht
  extract_lets out at ht
  have hout (u v : State) (ws : List Wr) (k : Nat) (hu : OneOwner u) (hv : out u ws k = some v) : OneOwner v := by
    unfold out at hv
    split at hv
    · cases hv; exact hu
    · split at hv <;> cases hv
      simp [hu]
  split at ht
  · rename_i x _
    have hins : OneOwner (s.insertOut j x).2 := by simp [h]
    generalize s.insertOut j x = y at hins ht
    obtain ⟨u, hu, rfl⟩ := Option.map_eq_some_iff.1 ht
    simpa using hout _ _ _ _ hins hu
  · split at ht
    · obtain ⟨u, hu, rfl⟩ := Option.map_eq_some_iff.1 ht
      simpa using hout _ _ _ _ h hu
    · cases ht; exact h

@[simp] theorem oneOwner_endingWaits (j : Job) : OneOwner (s.endingWaits j) ↔ OneOwner s := by
  unfold State.endingWaits
  dsimp only
  cases hw : s.writesWait j j.lastPump _ with
  | none => rfl
  | some t => exact oneOwner_writesWait hw

@[simp] theorem oneOwner_jobOver (j : Job) : OneOwner (s.jobOver j) ↔ OneOwner s := by simp [State.jobOver]

@[simp] theorem oneOwner_sealRelease (j : Job) : OneOwner (s.sealRelease j) ↔ OneOwner s := by
  unfold State.sealRelease
  dsimp only
  repeat' split
  all_goals simp

@[simp] theorem oneOwner_endOf (id : Nat) : OneOwner (s.endOf id) ↔ Owned (s.endOf id) ∨ OneOwner s := by
  refine OneOwner.rule fun h => ?_
  unfold State.endOf
  split
  · exact h
  · split
    · exact h
    · split
      · simp [h]
      · rename_i hw
        have ht := h.endingWrites hw
        split
        · exact ht
        · extract_lets refused
          have hrefused (u : State) (st : JobStatus) (f : Fail) : OneOwner (refused u st f) ↔ OneOwner u := by simp [refused]
          clear_value refused
          repeat' split
          all_goals simp [ht, hrefused]

@[simp] theorem oneOwner_writeSeal (j : Job) : OneOwner (s.writeSeal j) ↔ Owned (s.writeSeal j) ∨ OneOwner s := by
  refine OneOwner.rule fun h => ?_
  unfold State.writeSeal
  split <;> simp [h]

@[simp] theorem oneOwner_zeroExchange (p : Nat) : OneOwner (s.zeroExchange p) ↔ OneOwner s := by simp [State.zeroExchange]

@[simp] theorem oneOwner_moveStep : OneOwner s.moveStep ↔ OneOwner s := by
  refine (oneOwner_foldl_same (fun s r => by simp) _ _).trans (oneOwner_foldl_same (fun s p => ?_) _ s)
  dsimp only
  repeat' split
  all_goals simp

@[simp] theorem oneOwner_atomStep : OneOwner s.atomStep ↔ Owned s.atomStep ∨ OneOwner s := by
  refine OneOwner.rule fun h => ?_
  refine OneOwner.foldl _ _ (fun s x h => ?_) _ h
  repeat' split
  all_goals simp [h]

@[simp] theorem oneOwner_pumpReset (p : Nat) : OneOwner (s.pumpReset p) ↔ Owned (s.pumpReset p) ∨ OneOwner s := by
  refine OneOwner.rule fun h => ?_
  unfold State.pumpReset
  split <;> simp [h]

/-! ## Drains -/

@[simp] theorem oneOwner_endJob (j : Job) (st : JobStatus) (f : Option Fail) (lost : Bool) :
    OneOwner (s.endJob j st f lost) ↔ Owned (s.endJob j st f lost) ∨ OneOwner s := by
  refine OneOwner.rule fun h => ?_
  unfold State.endJob
  split <;> simp [h]

@[simp] theorem oneOwner_rerecord (j : Job) (st : JobStatus) (f : Fail) :
    OneOwner (s.rerecord j st f) ↔ Owned (s.rerecord j st f) ∨ OneOwner s :=
  OneOwner.rule fun h => by simp [State.rerecord, h]

@[simp] theorem oneOwner_stationJobs (n : Nat) (reset : Bool) :
    OneOwner (s.stationJobs n reset) ↔ Owned (s.stationJobs n reset) ∨ OneOwner s := by
  refine OneOwner.rule fun h => ?_
  unfold State.stationJobs
  extract_lets st s1 s2 ids _ s3 s4
  have h1 : OneOwner s1 := by
    refine OneOwner.foldl _ _ (fun s k h => ?_) s h
    split
    · exact h
    · dsimp only
      repeat' split
      all_goals simp [h]
  have h4 : OneOwner s4 := by simp [s4, s3, s2, h1]
  exact OneOwner.foldl _ _ (fun s p h => by simp [h]) s4 h4

@[simp] theorem oneOwner_abortPlat (p : Nat) : OneOwner (s.abortPlat p) ↔ Owned (s.abortPlat p) ∨ OneOwner s :=
  OneOwner.rule fun h => by simp +contextual [State.abortPlat, h]

@[simp] theorem oneOwner_dropJob (j : Job) : OneOwner (s.dropJob j) ↔ OneOwner s := by
  unfold State.dropJob
  split <;> simp

@[simp] theorem oneOwner_loseRing (p : Nat) : OneOwner (s.loseRing p) ↔ Owned (s.loseRing p) ∨ OneOwner s := by
  refine OneOwner.rule fun h => ?_
  unfold State.loseRing
  dsimp only
  repeat' split
  all_goals simp [h]

@[simp] theorem oneOwner_ringsLost (well frm : Nat) : OneOwner (s.ringsLost well frm) ↔ Owned (s.ringsLost well frm) ∨ OneOwner s :=
  OneOwner.rule fun h => by simp +contextual [State.ringsLost, h]

@[simp] theorem oneOwner_breakInsert (id : Nat) (gone : Bool) :
    OneOwner (s.breakInsert id gone) ↔ Owned (s.breakInsert id gone) ∨ OneOwner s := by
  refine OneOwner.rule fun h => ?_
  unfold State.breakInsert
  split <;> simp [h]

@[simp] theorem oneOwner_storeLost (well : Nat) (destroyed : Bool) :
    OneOwner (s.storeLost well destroyed) ↔ Owned (s.storeLost well destroyed) ∨ OneOwner s :=
  OneOwner.rule fun h => by simp +contextual [State.storeLost, h]

@[simp] theorem oneOwner_abandon (p : Nat) : OneOwner (s.abandon p) ↔ Owned (s.abandon p) ∨ OneOwner s :=
  OneOwner.rule fun h => by simp +contextual [State.abandon, h]
@[simp] theorem oneOwner_endPlat (p : Nat) : OneOwner (s.endPlat p) ↔ Owned (s.endPlat p) ∨ OneOwner s :=
  OneOwner.rule fun h => by simp [State.endPlat, h]

@[simp] theorem oneOwner_platStep : OneOwner s.platStep ↔ Owned s.platStep ∨ OneOwner s := by
  refine OneOwner.rule fun h => ?_
  refine OneOwner.foldl _ _ (fun s x h => ?_) _ h
  dsimp only
  repeat' split
  all_goals simp [h]

/-! ## Wells -/

@[simp] theorem oneOwner_findRun (p : Place) (n : Nat) : OneOwner (s.findRun p n).2 ↔ OneOwner s := by
  unfold State.findRun
  dsimp only
  repeat' split
  all_goals simp

@[simp] theorem oneOwner_setGranule (g : Nat) (x : Granule) : OneOwner (s.setGranule g x) ↔ OneOwner s := by simp [State.setGranule]

@[simp] theorem oneOwner_placeGranule (p : Place) (g : Nat) : OneOwner (s.placeGranule p g) ↔ OneOwner s := by
  unfold State.placeGranule
  dsimp only
  repeat' split
  all_goals simp

@[simp] theorem oneOwner_markMig : OneOwner s.markMig ↔ OneOwner s := by simp [State.markMig]
@[simp] theorem oneOwner_takeRun (p : Place) (a n : Nat) : OneOwner (s.takeRun p a n) ↔ OneOwner s := by simp [State.takeRun]
@[simp] theorem oneOwner_tidyGranules : OneOwner s.tidyGranules ↔ OneOwner s := by simp [State.tidyGranules]
@[simp] theorem oneOwner_releaseRun (a n : Nat) : OneOwner (s.releaseRun a n) ↔ OneOwner s := by simp [State.releaseRun]
@[simp] theorem oneOwner_zeroed (a n : Nat) : OneOwner (s.zeroed a n) ↔ OneOwner s := by simp [State.zeroed]
@[simp] theorem oneOwner_zeroFree (a n : Nat) : OneOwner (s.zeroFree a n) ↔ OneOwner s := by simp [State.zeroFree]
@[simp] theorem oneOwner_cisTwin (c : Nat) : OneOwner (s.cisTwin c) ↔ OneOwner s := by simp [State.cisTwin]
@[simp] theorem oneOwner_relay (wb opcode : Nat) : OneOwner (s.relay wb opcode) ↔ OneOwner s := by simp [State.relay]
@[simp] theorem oneOwner_twinDrop (i : Nat) : OneOwner (s.twinDrop i) ↔ OneOwner s := by simp [State.twinDrop]
@[simp] theorem oneOwner_twinClear (i frm : Nat) : OneOwner (s.twinClear i frm) ↔ OneOwner s := by simp [State.twinClear]

@[simp] theorem oneOwner_completeNow (wb : Nat) (st : Status) (result : List Byte) : OneOwner (s.completeNow wb st result) ↔ OneOwner s := by
  unfold State.completeNow
  split <;> simp

@[simp] theorem oneOwner_dropAsks (mine : Req → Bool) : OneOwner (s.dropAsks mine) ↔ OneOwner s := by simp [State.dropAsks]

@[simp] theorem oneOwner_refuseReqs (mine : Req → Bool) (kind : Nat) :
    OneOwner (s.refuseReqs mine kind) ↔ Owned (s.refuseReqs mine kind) ∨ OneOwner s :=
  OneOwner.rule fun h => by simp +contextual [State.refuseReqs, h]

@[simp] theorem oneOwner_recallTwin (i frm : Nat) : OneOwner (s.recallTwin i frm) ↔ OneOwner s := by simp [State.recallTwin]
@[simp] theorem oneOwner_dropRecords (i frm : Nat) : OneOwner (s.dropRecords i frm) ↔ Owned (s.dropRecords i frm) ∨ OneOwner s :=
  OneOwner.rule fun h => h.of_subset fun _ hx => (List.mem_filter.1 hx).1
@[simp] theorem oneOwner_unbind (n i : Nat) : OneOwner (s.unbind n i) ↔ OneOwner s := by simp [State.unbind]
@[simp] theorem oneOwner_revokeAll (i frm : Nat) (cause : RevCause) :
    OneOwner (s.revokeAll i frm cause) ↔ OneOwner s := by simp [State.revokeAll]

@[simp] theorem oneOwner_endRev (v : Rev) : OneOwner (s.endRev v) ↔ OneOwner s := by
  unfold State.endRev
  dsimp only
  repeat' split
  all_goals simp

@[simp] theorem oneOwner_drainOut (v : Rev) : OneOwner (s.drainOut v) ↔ Owned (s.drainOut v) ∨ OneOwner s :=
  OneOwner.rule fun h => by simp [State.drainOut, h]
@[simp] theorem oneOwner_resized (i newLen : Nat) : OneOwner (s.resized i newLen) ↔ OneOwner s := by simp [State.resized]

@[simp] theorem oneOwner_endMigrate (i : Nat) : OneOwner (s.endMigrate i) ↔ OneOwner s := by
  unfold State.endMigrate
  dsimp only
  repeat' split
  all_goals simp

@[simp] theorem oneOwner_freeWell (i : Nat) : OneOwner (s.freeWell i) ↔ Owned (s.freeWell i) ∨ OneOwner s := by
  refine OneOwner.rule fun h => ?_
  unfold State.freeWell
  dsimp only
  repeat' split
  all_goals simp [h]

@[simp] theorem oneOwner_wellProgress (i : Nat) : OneOwner (s.wellProgress i) ↔ Owned (s.wellProgress i) ∨ OneOwner s := by
  refine OneOwner.rule fun h => ?_
  unfold State.wellProgress
  dsimp only
  repeat' split
  all_goals simp [h]

@[simp] theorem oneOwner_leaveProgress (c : Nat) : OneOwner (s.leaveProgress c) ↔ OneOwner s := by simp [State.leaveProgress]
@[simp] theorem oneOwner_wellStep : OneOwner s.wellStep ↔ Owned s.wellStep ∨ OneOwner s :=
  OneOwner.rule fun h => by simp +contextual [State.wellStep, h]

@[simp] theorem oneOwner_unkey (i : Nat) : OneOwner (s.unkey i) ↔ OneOwner s := by
  refine oneOwner_foldl_same (fun s x => ?_) _ _
  repeat' split
  all_goals simp

@[simp] theorem oneOwner_spaceFor (die set need own : Nat) :
    OneOwner (s.spaceFor die set need own).2 ↔ Owned (s.spaceFor die set need own).2 ∨ OneOwner s := by
  refine OneOwner.rule fun h => OneOwner.foldl _ _ (fun s _ h => ?_) s h
  split
  · split
    · rename_i hw
      exact h.evictWay hw
    · exact h
  · exact h

@[simp] theorem oneOwner_chunkRoom (src dst n : Nat) :
    OneOwner (s.chunkRoom src dst n).2 ↔ Owned (s.chunkRoom src dst n).2 ∨ OneOwner s := by
  refine OneOwner.rule fun h => ?_
  refine List.foldlRecOn (motive := fun x : Bool × List (Nat × Nat × Nat) × State => OneOwner x.2.2) _ _ h fun ⟨ok, used, t⟩ ht e _ => ?_
  dsimp only
  split
  · split
    · dsimp only
      split <;> simp [ht]
    · simp [ht]
  · exact ht

theorem OneOwner.moveEnt {s : State} (h : OneOwner s) {e : DirEnt} (he : e.owned) (key : Nat) : OneOwner (s.moveEnt e key) := by
  unfold State.moveEnt
  split
  · exact h
  · exact (h.of_subset fun _ hx => List.mem_of_mem_erase hx : OneOwner (s.modHome fun h => { h with dir := h.dir.erase e })).append he

@[simp] theorem oneOwner_moveChunk (src dst n : Nat) : OneOwner (s.moveChunk src dst n) ↔ Owned (s.moveChunk src dst n) ∨ OneOwner s := by
  refine OneOwner.rule fun h => ?_
  unfold State.moveChunk
  extract_lets mv inn cached s1 s2 s3 s4 s5 kept s6 s7
  have h3 : OneOwner s3 := by
    refine OneOwner.foldl _ _ (fun s c h => ?_) s2 (by simp [s2, s1, h])
    split
    · split
      · split
        · rename_i hp
          exact (oneOwner_place hp).2 h
        · simp [h]
      · exact h
    · exact h
  have h4 : OneOwner s4 :=
    List.foldlRecOn (motive := OneOwner) _ _ h3 fun t ht e he => ht.moveEnt (h3 e (List.mem_filter.1 he).1) _
  clear_value s4
  simp [s7, s6, s5, h4]

@[simp] theorem oneOwner_dropMigrate (i : Nat) (m : Mig) (st : Status) :
    OneOwner (s.dropMigrate i m st) ↔ Owned (s.dropMigrate i m st) ∨ OneOwner s := by
  refine OneOwner.rule fun h => ?_
  unfold State.dropMigrate
  split <;> simp [h]

@[simp] theorem oneOwner_destroyNow (i : Nat) (wb : Option Nat) : OneOwner (s.destroyNow i wb) ↔ Owned (s.destroyNow i wb) ∨ OneOwner s := by
  refine OneOwner.rule fun h => ?_
  unfold State.destroyNow
  dsimp only
  repeat' split
  all_goals simp [h]

@[simp] theorem oneOwner_destroyWell (i : Nat) (wb : Option Nat) :
    OneOwner (s.destroyWell i wb) ↔ Owned (s.destroyWell i wb) ∨ OneOwner s := by
  refine OneOwner.rule fun h => ?_
  unfold State.destroyWell
  extract_lets w
  split
  · split <;> rename_i hr <;> have hroom := (oneOwner_snd hr).2 (by simp [h]) <;> simp [hroom]
  · simp [h]

@[simp] theorem oneOwner_doomStep : OneOwner s.doomStep ↔ Owned s.doomStep ∨ OneOwner s :=
  OneOwner.rule fun h => by simp +contextual [State.doomStep, h]

@[simp] theorem oneOwner_shrinkWell (i newLen wb : Nat) :
    OneOwner (s.shrinkWell i newLen wb) ↔ Owned (s.shrinkWell i newLen wb) ∨ OneOwner s :=
  OneOwner.rule fun h => by simp [State.shrinkWell, h]

@[simp] theorem oneOwner_growWell (i newLen wb : Nat) : OneOwner (s.growWell i newLen wb) ↔ OneOwner s := by simp [State.growWell]
@[simp] theorem oneOwner_dissolve (c : Nat) : OneOwner (s.dissolve c) ↔ Owned (s.dissolve c) ∨ OneOwner s :=
  OneOwner.rule fun h => by simp +contextual [State.dissolve, h]

@[simp] theorem oneOwner_recoverStart (c : Nat) (mode : RecMode) (wb : Option Nat) :
    OneOwner (s.recoverStart c mode wb) ↔ Owned (s.recoverStart c mode wb) ∨ OneOwner s :=
  OneOwner.rule fun h => by simp [State.recoverStart, h]

@[simp] theorem oneOwner_markPages (i : Nat) : OneOwner (s.markPages i) ↔ OneOwner s := by simp [State.markPages]

@[simp] theorem oneOwner_zeroWell (i : Nat) : OneOwner (s.zeroWell i) ↔ OneOwner s := by
  unfold State.zeroWell
  dsimp only
  repeat' split
  all_goals simp

@[simp] theorem oneOwner_zeroHomes (c : Nat) : OneOwner (s.zeroHomes c) ↔ OneOwner s := by simp [State.zeroHomes]
@[simp] theorem oneOwner_dropZeros : OneOwner s.dropZeros ↔ OneOwner s := by simp [State.dropZeros]
@[simp] theorem oneOwner_endDead (c : Nat) : OneOwner (s.endDead c) ↔ OneOwner s := by simp [State.endDead]

@[simp] theorem oneOwner_recoverDone (c : Nat) : OneOwner (s.recoverDone c) ↔ OneOwner s := by
  unfold State.recoverDone
  dsimp only
  repeat' split
  all_goals simp

@[simp] theorem oneOwner_commitChunk (i : Nat) : OneOwner (s.commitChunk i) ↔ Owned (s.commitChunk i) ∨ OneOwner s := by
  refine OneOwner.rule fun h => ?_
  unfold State.commitChunk
  extract_lets w
  split
  · exact h
  · dsimp only
    split
    · exact h
    · split <;> rename_i hr <;> have hroom := (oneOwner_snd hr).2 (by simp [h]) <;> simp [hroom]

@[simp] theorem oneOwner_startChunk (i : Nat) : OneOwner (s.startChunk i) ↔ OneOwner s := by
  unfold State.startChunk
  dsimp only
  repeat' split
  all_goals simp

@[simp] theorem oneOwner_dropWellRanges (i : Nat) : OneOwner (s.dropWellRanges i) ↔ OneOwner s := by simp [State.dropWellRanges]

/-! ## Stations -/

@[simp] theorem oneOwner_rspSlot (n : Nat) : OneOwner (s.rspSlot n) ↔ OneOwner s := by simp [State.rspSlot]

@[simp] theorem oneOwner_refuseMem (n hpa : Nat) (kind : ReqKind) (code dec handle : Nat) (logRead : Bool) :
    OneOwner (s.refuseMem n hpa kind code dec handle logRead) ↔ OneOwner s := by
  unfold State.refuseMem
  dsimp only
  repeat' split
  all_goals simp

@[simp] theorem oneOwner_hostMemAt (n hpa : Nat) (kind : ReqKind) (d : Line) (mask : BitVec 64) :
    OneOwner (s.hostMemAt n hpa kind d mask) ↔ Owned (s.hostMemAt n hpa kind d mask) ∨ OneOwner s := by
  refine OneOwner.rule fun h => ?_
  unfold State.hostMemAt
  dsimp only
  repeat' split
  all_goals simp [h]

@[simp] theorem oneOwner_hostMem (n hpa : Nat) (kind : ReqKind) (d : Line) (mask : BitVec 64) :
    OneOwner (s.hostMem n hpa kind d mask) ↔ Owned (s.hostMem n hpa kind d mask) ∨ OneOwner s :=
  OneOwner.rule fun h => by simp [State.hostMem, h]

@[simp] theorem oneOwner_hostHint (n : Nat) : OneOwner (s.hostHint n) ↔ OneOwner s := by simp [State.hostHint]
@[simp] theorem oneOwner_hostRsp (n hpa : Nat) (rsp : BiRsp) : OneOwner (s.hostRsp n hpa rsp) ↔ Owned (s.hostRsp n hpa rsp) ∨ OneOwner s :=
  OneOwner.rule fun h => by simp [State.hostRsp, h]

@[simp] theorem oneOwner_hostConflict (n hpa : Nat) : OneOwner (s.hostConflict n hpa) ↔ OneOwner s := by
  unfold State.hostConflict
  dsimp only
  repeat' split
  all_goals simp

@[simp] theorem oneOwner_countDeny (n : Nat) : OneOwner (s.countDeny n) ↔ OneOwner s := by simp [State.countDeny]
@[simp] theorem oneOwner_unbackedAper (n id i off dpa : Nat) :
    OneOwner (s.unbackedAper n id i off dpa) ↔ OneOwner s := by simp [State.unbackedAper]

@[simp] theorem oneOwner_aperLine (n id i off dpa : Nat) :
    OneOwner (s.aperLine n id i off dpa) ↔ Owned (s.aperLine n id i off dpa) ∨ OneOwner s := by
  refine OneOwner.rule fun h => ?_
  unfold State.aperLine
  split <;> simp [h]

@[simp] theorem oneOwner_aperRead (n off size : Nat) : OneOwner (s.aperRead n off size) ↔ Owned (s.aperRead n off size) ∨ OneOwner s :=
  OneOwner.rule fun h => by simp +contextual [State.aperRead, h]

@[simp] theorem oneOwner_aperPut (n off dpa : Nat) (bytes : List Byte) :
    OneOwner (s.aperPut n off dpa bytes) ↔ Owned (s.aperPut n off dpa bytes) ∨ OneOwner s := by
  refine OneOwner.rule fun h => ?_
  unfold State.aperPut
  dsimp only
  repeat' split
  all_goals simp [h]

@[simp] theorem oneOwner_aperWrite (n off : Nat) (data : List Byte) :
    OneOwner (s.aperWrite n off data) ↔ Owned (s.aperWrite n off data) ∨ OneOwner s :=
  OneOwner.rule fun h => by simp +contextual [State.aperWrite, h]

@[simp] theorem oneOwner_winBaseSet (n : Nat) (h : Half) (v : Nat) : OneOwner (s.winBaseSet n h v) ↔ OneOwner s := by simp [State.winBaseSet]
@[simp] theorem oneOwner_jnlCheck (n : Nat) : OneOwner (s.jnlCheck n) ↔ OneOwner s := by simp [State.jnlCheck]
@[simp] theorem oneOwner_jnlMarkSet (n : Nat) (h : Half) (v : Nat) : OneOwner (s.jnlMarkSet n h v) ↔ OneOwner s := by simp [State.jnlMarkSet]
@[simp] theorem oneOwner_jnlThresholdSet (n v : Nat) : OneOwner (s.jnlThresholdSet n v) ↔ OneOwner s := by simp [State.jnlThresholdSet]
@[simp] theorem oneOwner_vecWrite (n off : Nat) (bs : List Byte) : OneOwner (s.vecWrite n off bs) ↔ OneOwner s := by simp [State.vecWrite]

@[simp] theorem oneOwner_go (n : Station) : OneOwner (s.go n) ↔ OneOwner s := by
  unfold State.go
  dsimp only
  repeat' split
  all_goals simp

@[simp] theorem oneOwner_areaWrite (n : Station) (off : Nat) (bs : List Byte) :
    OneOwner (s.areaWrite n off bs) ↔ OneOwner s := by simp [State.areaWrite]
@[simp] theorem oneOwner_regWrite (n : Station) (off size v : Nat) :
    OneOwner (s.regWrite n off size v) ↔ OneOwner s := by simp [State.regWrite]
@[simp] theorem oneOwner_hdmCommit (n k base size ways : Nat) :
    OneOwner (s.hdmCommit n k base size ways) ↔ OneOwner s := by simp [State.hdmCommit]

@[simp] theorem oneOwner_hdmUncommit (n k : Nat) : OneOwner (s.hdmUncommit n k) ↔ OneOwner s := by
  unfold State.hdmUncommit
  dsimp only
  repeat' split
  all_goals simp

@[simp] theorem oneOwner_orphan (n : Nat) : OneOwner (s.orphan n) ↔ Owned (s.orphan n) ∨ OneOwner s := by
  refine OneOwner.rule fun h => ?_
  unfold State.orphan
  extract_lets mine own asked s1 s2 s3 s4 s5
  refine OneOwner.foldl _ _ (fun s t h => ?_) s5 (by simp [s5, s4, s3, s2, s1, h])
  split
  · simp [h]
  · exact h

@[simp] theorem oneOwner_revokeIde (n : Nat) : OneOwner (s.revokeIde n) ↔ OneOwner s := by simp [State.revokeIde]
@[simp] theorem oneOwner_auditOwn (kind detail : Nat) : OneOwner (s.auditOwn kind detail) ↔ OneOwner s := by simp [State.auditOwn]
@[simp] theorem oneOwner_ideEnded (n : Nat) (k : IdeKind) (how : Nat) : OneOwner (s.ideEnded n k how) ↔ OneOwner s := by simp [State.ideEnded]
@[simp] theorem oneOwner_idesEnded (n : Nat) : OneOwner (s.idesEnded n) ↔ OneOwner s := by simp [State.idesEnded]
@[simp] theorem oneOwner_spdmEnded (n : Nat) : OneOwner (s.spdmEnded n) ↔ OneOwner s := by simp [State.spdmEnded]
@[simp] theorem oneOwner_stationGone (n : Nat) (why : Loss) : OneOwner (s.stationGone n why) ↔ Owned (s.stationGone n why) ∨ OneOwner s :=
  OneOwner.rule fun h => by simp [State.stationGone, h]

@[simp] theorem oneOwner_stationReset (n : Station) (why : Loss) :
    OneOwner (s.stationReset n why) ↔ Owned (s.stationReset n why) ∨ OneOwner s :=
  OneOwner.rule fun h => by simp [State.stationReset, h]

@[simp] theorem oneOwner_linkUp (n : Nat) (m : LinkMode) (cacheEn memEn biEn atsEn : Bool) (cto : Nat) :
    OneOwner (s.linkUp n m cacheEn memEn biEn atsEn cto) ↔ OneOwner s := by simp [State.linkUp]

@[simp] theorem oneOwner_atsTimeout (n : Nat) (q : AtsReq) : OneOwner (s.atsTimeout n q) ↔ Owned (s.atsTimeout n q) ∨ OneOwner s := by
  refine OneOwner.rule fun h => ?_
  unfold State.atsTimeout
  split <;> simp [h]

@[simp] theorem oneOwner_atsStop (q : AtsReq) : OneOwner (s.atsStop q) ↔ Owned (s.atsStop q) ∨ OneOwner s := by
  refine OneOwner.rule fun h => ?_
  unfold State.atsStop
  split
  · split
    · exact h
    · split
      · simp [h]
      · rename_i hx
        exact (oneOwner_xlateTile hx).2 h
      · exact h
  · exact h

@[simp] theorem oneOwner_atsAnswer (n addr : Nat) (x : AtsAnswer) :
    OneOwner (s.atsAnswer n addr x) ↔ Owned (s.atsAnswer n addr x) ∨ OneOwner s := by
  refine OneOwner.rule fun h => ?_
  unfold State.atsAnswer
  dsimp only
  repeat' split
  all_goals simp [h]

@[simp] theorem oneOwner_atsInvalidate (n addr k : Nat) : OneOwner (s.atsInvalidate n addr k) ↔ OneOwner s := by simp [State.atsInvalidate]
@[simp] theorem oneOwner_atsOne (n : Nat) (v : AtsInv) : OneOwner (s.atsOne n v) ↔ OneOwner s := by simp [State.atsOne]
@[simp] theorem oneOwner_atsStep : OneOwner s.atsStep ↔ OneOwner s := by simp [State.atsStep]

@[simp] theorem oneOwner_flushSlice (d : Nat) : OneOwner (s.flushSlice d) ↔ OneOwner s := by
  refine oneOwner_foldl_same (fun s x => ?_) _ _
  repeat' split
  all_goals simp

@[simp] theorem oneOwner_dropSlice (d : Nat) : OneOwner (s.dropSlice d) ↔ OneOwner s := by simp [State.dropSlice]

@[simp] theorem oneOwner_walkDone (d : Nat) : OneOwner (s.walkDone d) ↔ OneOwner s := by
  unfold State.walkDone
  dsimp only
  repeat' split
  all_goals simp

/-! ## The twin -/

@[simp] theorem oneOwner_modMirror (i : Nat) (f : Mirror → Mirror) : OneOwner (s.modMirror i f) ↔ OneOwner s := by simp [State.modMirror]
@[simp] theorem oneOwner_markSpan (i frm to_ : Nat) : OneOwner (s.markSpan i frm to_) ↔ OneOwner s := by simp [State.markSpan]
@[simp] theorem oneOwner_markWell (i : Nat) : OneOwner (s.markWell i) ↔ OneOwner s := by simp [State.markWell]
@[simp] theorem oneOwner_resyncEnd (i : Nat) : OneOwner (s.resyncEnd i) ↔ OneOwner s := by simp [State.resyncEnd]
@[simp] theorem oneOwner_cisTwins : OneOwner s.cisTwins ↔ OneOwner s := by simp [State.cisTwins]
@[simp] theorem oneOwner_dropFwd (id : Nat) : OneOwner (s.dropFwd id) ↔ OneOwner s := by simp [State.dropFwd]

@[simp] theorem oneOwner_unbackedFwd (f : FwdOut) : OneOwner (s.unbackedFwd f) ↔ Owned (s.unbackedFwd f) ∨ OneOwner s := by
  refine OneOwner.rule fun h => ?_
  unfold State.unbackedFwd
  dsimp only
  repeat' split
  all_goals simp [h]

@[simp] theorem oneOwner_endLocale1 : OneOwner s.endLocale1 ↔ Owned s.endLocale1 ∨ OneOwner s :=
  OneOwner.rule fun h => by simp +contextual [State.endLocale1, h]
@[simp] theorem oneOwner_locale1Step : OneOwner s.locale1Step ↔ Owned s.locale1Step ∨ OneOwner s :=
  OneOwner.rule fun h => by simp [State.locale1Step, h]

@[simp] theorem oneOwner_unwait (r : Req) : OneOwner (s.unwait r) ↔ Owned (s.unwait r) ∨ OneOwner s := by
  refine OneOwner.rule fun h => ?_
  unfold State.unwait
  dsimp only
  repeat' split
  all_goals simp [h]

@[simp] theorem oneOwner_represent (r : Req) : OneOwner (s.represent r) ↔ Owned (s.represent r) ∨ OneOwner s :=
  OneOwner.rule fun h => by simp [State.represent, h]
@[simp] theorem oneOwner_dropTwinWaits : OneOwner s.dropTwinWaits ↔ OneOwner s := by simp [State.dropTwinWaits]

@[simp] theorem oneOwner_fwdDone (r : Req) (d : Line) (p : Bool) : OneOwner (s.fwdDone r d p) ↔ Owned (s.fwdDone r d p) ∨ OneOwner s := by
  refine OneOwner.rule fun h => ?_
  unfold State.fwdDone
  dsimp only
  repeat' split
  all_goals simp [h]

@[simp] theorem oneOwner_twinAnswer (id : Nat) (d : Line) (p down : Bool) :
    OneOwner (s.twinAnswer id d p down) ↔ Owned (s.twinAnswer id d p down) ∨ OneOwner s := by
  refine OneOwner.rule fun h => ?_
  unfold State.twinAnswer
  dsimp only
  repeat' split
  all_goals simp [h]

@[simp] theorem oneOwner_fillVoids : OneOwner s.fillVoids ↔ OneOwner s := by simp [State.fillVoids]

@[simp] theorem oneOwner_finishTwinEntry (e : JEntry) : OneOwner (s.finishTwinEntry e) ↔ Owned (s.finishTwinEntry e) ∨ OneOwner s := by
  refine OneOwner.rule fun h => ?_
  unfold State.finishTwinEntry
  dsimp only
  repeat' split
  all_goals simp [h]

@[simp] theorem oneOwner_finishTwinEntries : OneOwner s.finishTwinEntries ↔ Owned s.finishTwinEntries ∨ OneOwner s :=
  OneOwner.rule fun h => by simp +contextual [State.finishTwinEntries, h]

@[simp] theorem oneOwner_lostCommands : OneOwner s.lostCommands ↔ OneOwner s := by
  unfold State.lostCommands
  dsimp only
  repeat' split
  all_goals simp

@[simp] theorem oneOwner_commitUnacked : OneOwner s.commitUnacked ↔ OneOwner s := by simp [State.commitUnacked]

@[simp] theorem oneOwner_commitApplied : OneOwner s.commitApplied ↔ Owned s.commitApplied ∨ OneOwner s := by
  refine OneOwner.rule fun h => ?_
  refine OneOwner.foldl _ _ (fun s x h => ?_) _ h
  repeat' split
  all_goals simp [h]

@[simp] theorem oneOwner_startGap (cause : Nat) (wb : Option Nat) :
    OneOwner (s.startGap cause wb) ↔ Owned (s.startGap cause wb) ∨ OneOwner s := by
  refine OneOwner.rule fun h => ?_
  unfold State.startGap
  extract_lets s1 asked s2 s3 s4 s5 reads s6 s7 s8
  have h5 : OneOwner s5 := by simp [s5, s4, s3, s2, s1, h]
  have h6 : OneOwner s6 := by
    refine OneOwner.foldl _ _ (fun s f h => ?_) s5 h5
    split <;> simp [h]
  have h7 : OneOwner s7 := OneOwner.foldl _ _ (fun s r h => by simp [h]) s6 h6
  simp [s8, h7]

@[simp] theorem oneOwner_endGap : OneOwner s.endGap ↔ Owned s.endGap ∨ OneOwner s :=
  OneOwner.rule fun h => by simp +contextual [State.endGap, h]

@[simp] theorem oneOwner_swoStep : OneOwner s.swoStep ↔ OneOwner s := by
  unfold State.swoStep
  split <;> simp

@[simp] theorem oneOwner_sendUnsent : OneOwner s.sendUnsent ↔ OneOwner s := by simp [State.sendUnsent]
@[simp] theorem oneOwner_endSwo (x : Swo) : OneOwner (s.endSwo x) ↔ Owned (s.endSwo x) ∨ OneOwner s :=
  OneOwner.rule fun h => by simp +contextual [State.endSwo, h]

@[simp] theorem oneOwner_fenceSelf : OneOwner s.fenceSelf ↔ Owned s.fenceSelf ∨ OneOwner s := by
  refine OneOwner.rule fun h => ?_
  unfold State.fenceSelf
  extract_lets s1 s2 ws s3 cs s4 inWs open_ touch s5
  have h3 : OneOwner s3 := by simp [s3, s2, s1, h]
  have h4 : OneOwner s4 := by simp +contextual [s4, h3]
  have h5 : OneOwner s5 := by
    refine OneOwner.foldl _ _ (fun s j h => ?_) s4 h4
    split <;> simp [h]
  clear_value s5
  simp [h5]

@[simp] theorem oneOwner_pairRefused (info : PeerInfo) (st : Status) (auto : Bool) :
    OneOwner (s.pairRefused info st auto) ↔ OneOwner s := by simp [State.pairRefused]
@[simp] theorem oneOwner_pairBegin (info : PeerInfo) (rate : Nat) (wb : Option Nat) :
    OneOwner (s.pairBegin info rate wb) ↔ OneOwner s := by simp [State.pairBegin]
@[simp] theorem oneOwner_sendKey (k : Nat) (x : KeySlot) : OneOwner (s.sendKey k x) ↔ OneOwner s := by simp [State.sendKey]

@[simp] theorem oneOwner_joinJournals (info : PeerInfo) (keeper : Bool) : OneOwner (s.joinJournals info keeper) ↔ OneOwner s := by
  unfold State.joinJournals
  split <;> simp [-List.foldl_reverse]

@[simp] theorem oneOwner_sendCopy (i : Nat) : OneOwner (s.sendCopy i) ↔ OneOwner s := by
  unfold State.sendCopy
  dsimp only
  repeat' split
  all_goals simp

@[simp] theorem oneOwner_resizeIn (i newLen : Nat) : OneOwner (s.resizeIn i newLen) ↔ Owned (s.resizeIn i newLen) ∨ OneOwner s :=
  OneOwner.rule fun h => by simp [State.resizeIn, h]

@[simp] theorem oneOwner_wantStep : OneOwner s.wantStep ↔ Owned s.wantStep ∨ OneOwner s := by
  refine OneOwner.rule fun h => ?_
  refine OneOwner.foldl _ _ (fun s x h => ?_) _ h
  repeat' split
  all_goals simp [h]

@[simp] theorem oneOwner_pairWell (info : PeerInfo) (keeper same : Bool) (i : Nat) :
    OneOwner (s.pairWell info keeper same i) ↔ Owned (s.pairWell info keeper same i) ∨ OneOwner s :=
  OneOwner.rule fun h => by simp [State.pairWell, h]

@[simp] theorem oneOwner_pairForm (info : PeerInfo) : OneOwner (s.pairForm info) ↔ Owned (s.pairForm info) ∨ OneOwner s := by
  refine OneOwner.rule fun h => ?_
  unfold State.pairForm
  extract_lets keeper same wb v s1 s2 diverged s3 s4 left bytes s5 s6 s7 s8
  have h3 : OneOwner s3 := OneOwner.foldl _ _ (fun s i h => by simp [h]) s2 (by simp [s2, s1, h])
  have h5 : OneOwner s5 := by simp [s5, s4, h3]
  clear_value wb
  have h6 : OneOwner s6 := by
    unfold s6
    split <;> simp [h5]
  have h7 : OneOwner s7 := (oneOwner_foldl_same (fun s x => by simp) _ s6).2 h6
  have h8 : OneOwner s8 := (oneOwner_foldl_same (fun s a => by simp) _ s7).2 h7
  simp [h8]

@[simp] theorem oneOwner_pairStep : OneOwner s.pairStep ↔ Owned s.pairStep ∨ OneOwner s := by
  refine OneOwner.rule fun h => ?_
  unfold State.pairStep
  split <;> simp [h]

@[simp] theorem oneOwner_pairFail : OneOwner s.pairFail ↔ OneOwner s := by simp [State.pairFail]

@[simp] theorem oneOwner_unpairBegin (split : Bool) (wb : Option Nat) :
    OneOwner (s.unpairBegin split wb) ↔ Owned (s.unpairBegin split wb) ∨ OneOwner s :=
  OneOwner.rule fun h => by simp +contextual [State.unpairBegin, h]

@[simp] theorem oneOwner_unpairStep : OneOwner s.unpairStep ↔ Owned s.unpairStep ∨ OneOwner s := by
  refine OneOwner.rule fun h => ?_
  unfold State.unpairStep
  dsimp only
  repeat' split
  all_goals simp +contextual [h]

@[simp] theorem oneOwner_noteApplied (i off : Nat) (new : Line) : OneOwner (s.noteApplied i off new) ↔ OneOwner s := by
  unfold State.noteApplied
  dsimp only
  repeat' split
  all_goals simp

@[simp] theorem oneOwner_mirrorIn (id h off : Nat) (d : Line) (mask : BitVec 64) (pois : Bool) :
    OneOwner (s.mirrorIn id h off d mask pois) ↔ OneOwner s := by
  unfold State.mirrorIn
  split <;> simp

@[simp] theorem oneOwner_mirrorAcked (id : Nat) : OneOwner (s.mirrorAcked id) ↔ OneOwner s := by
  unfold State.mirrorAcked
  split <;> simp

@[simp] theorem oneOwner_putLine (a : Nat) (d : Line) (p : Bool) : OneOwner (s.putLine a d p) ↔ OneOwner s := by simp [State.putLine]

@[simp] theorem oneOwner_resyncPage (h k : Nat) (image : PageImage) : OneOwner (s.resyncPage h k image) ↔ OneOwner s := by
  unfold State.resyncPage
  split <;> simp

@[simp] theorem oneOwner_auditPage (h k : Nat) (other : PageImage) : OneOwner (s.auditPage h k other) ↔ OneOwner s := by
  unfold State.auditPage
  split <;> simp

@[simp] theorem oneOwner_grantStep : OneOwner s.grantStep ↔ Owned s.grantStep ∨ OneOwner s := by
  refine OneOwner.rule fun h => OneOwner.foldl _ _ (fun s x h => ?_) s h
  dsimp only
  split
  · exact h
  · split
    · exact h
    · rename_i hw
      rw [oneOwner_emit, oneOwner_modTwin]
      exact (h.dirWay hw).append fun _ => rfl

@[simp] theorem oneOwner_grantIn (id h off : Nat) (granted modified : Bool) :
    OneOwner (s.grantIn id h off granted modified) ↔ Owned (s.grantIn id h off granted modified) ∨ OneOwner s := by
  refine OneOwner.rule fun hs => ?_
  unfold State.grantIn
  split
  · exact hs
  · extract_lets key s1
    have h1 : OneOwner s1 := hs.of_subset fun _ hx => (List.mem_filter.1 hx).1
    clear_value s1
    split
    · exact hs
    · split <;> simp [h1]

@[simp] theorem oneOwner_twinPool (id dpa : Nat) (kind : ReqKind) (d : Line) (mask : BitVec 64) (pois : Bool) :
    OneOwner (s.twinPool id dpa kind d mask pois) ↔ Owned (s.twinPool id dpa kind d mask pois) ∨ OneOwner s := by
  refine OneOwner.rule fun h => ?_
  unfold State.twinPool
  dsimp only
  repeat' split
  all_goals simp [h]

@[simp] theorem oneOwner_twinWell (id h off : Nat) (kind : ReqKind) (d : Line) (mask : BitVec 64) (pois : Bool) :
    OneOwner (s.twinWell id h off kind d mask pois) ↔ Owned (s.twinWell id h off kind d mask pois) ∨ OneOwner s := by
  refine OneOwner.rule fun h => ?_
  unfold State.twinWell
  split <;> simp [h]

@[simp] theorem oneOwner_zeroIn (id h : Nat) : OneOwner (s.zeroIn id h) ↔ OneOwner s := by
  unfold State.zeroIn
  dsimp only
  repeat' split
  all_goals simp

@[simp] theorem oneOwner_rangeDropIn (id h : Nat) : OneOwner (s.rangeDropIn id h) ↔ OneOwner s := by simp [State.rangeDropIn]

@[simp] theorem oneOwner_twinAccess (a : TwinAccess) : OneOwner (s.twinAccess a) ↔ Owned (s.twinAccess a) ∨ OneOwner s := by
  refine OneOwner.rule fun h => ?_
  unfold State.twinAccess
  dsimp only
  repeat' split
  all_goals simp [h]

@[simp] theorem oneOwner_twinAsk (x : TwinSnoop) : OneOwner (s.twinAsk x) ↔ OneOwner s := by
  unfold State.twinAsk
  dsimp only
  repeat' split
  all_goals simp

@[simp] theorem oneOwner_twinSnoopStep : OneOwner s.twinSnoopStep ↔ OneOwner s := by
  refine oneOwner_foldl_same (fun s x => ?_) _ _
  repeat' split
  all_goals simp

@[simp] theorem oneOwner_twinSnoopIn (id h off : Nat) : OneOwner (s.twinSnoopIn id h off) ↔ OneOwner s := by
  unfold State.twinSnoopIn
  split <;> simp

@[simp] theorem oneOwner_declareIn (h cause : Nat) : OneOwner (s.declareIn h cause) ↔ Owned (s.declareIn h cause) ∨ OneOwner s := by
  refine OneOwner.rule fun h => ?_
  unfold State.declareIn
  split <;> simp [h]

@[simp] theorem oneOwner_entryIn (w : JWords) : OneOwner (s.entryIn w) ↔ OneOwner s := by simp [State.entryIn]
@[simp] theorem oneOwner_xoRejected (op : Nat) (st : Status) (bytes : List Byte) :
    OneOwner (s.xoRejected op st bytes) ↔ OneOwner s := by simp [State.xoRejected]
@[simp] theorem oneOwner_assignWaybill : OneOwner s.assignWaybill ↔ OneOwner s := by simp [State.assignWaybill]
@[simp] theorem oneOwner_rangeShare (id c : Nat) (es : List RangeWords) :
    OneOwner (s.rangeShare id c es) ↔ OneOwner s := by simp [State.rangeShare]
@[simp] theorem oneOwner_bitmapIn (i : Nat) (pages : List Nat) : OneOwner (s.bitmapIn i pages) ↔ OneOwner s := by simp [State.bitmapIn]

@[simp] theorem oneOwner_copyIn (h length place flags owner cistern twinStart : Nat) (resync origin : Bool) :
    OneOwner (s.copyIn h length place flags owner cistern twinStart resync origin) ↔ OneOwner s := by
  unfold State.copyIn
  extract_lets i refused
  have hrefused (t : State) : OneOwner (refused t) ↔ OneOwner t := by simp [refused]
  split
  · simp
  · simp [hrefused]
  · split
    · simp [hrefused]
    · split <;> rename_i hp <;> have hrun := (oneOwner_snd hp).trans (oneOwner_findRun ..)
      · simpa [hrefused] using hrun
      · dsimp only
        split <;> simpa using hrun

@[simp] theorem oneOwner_negotiate : OneOwner s.negotiate ↔ OneOwner s := by simp [State.negotiate]
@[simp] theorem oneOwner_keyIn (k : Nat) (x : KeySlot) : OneOwner (s.keyIn k x) ↔ OneOwner s := by simp [State.keyIn]

@[simp] theorem oneOwner_mailIn (m : XMsg) : OneOwner (s.mailIn m) ↔ Owned (s.mailIn m) ∨ OneOwner s := by
  refine OneOwner.rule fun hs => ?_
  cases m <;> unfold State.mailIn <;> dsimp only <;> repeat' split
  all_goals simp [hs]

@[simp] theorem oneOwner_xoSilent : OneOwner s.xoSilent ↔ OneOwner s := by simp [State.xoSilent]
@[simp] theorem oneOwner_xoDown (k : Nat) : OneOwner (s.xoDown k) ↔ OneOwner s := by simp [State.xoDown]

@[simp] theorem oneOwner_xoLink (k : Nat) (fail : Option Nat) (localPass peerPass : Bool) :
    OneOwner (s.xoLink k fail localPass peerPass) ↔ OneOwner s := by
  unfold State.xoLink
  split
  · rfl
  · dsimp only
    repeat' split
    all_goals simp

@[simp] theorem oneOwner_sendHealth : OneOwner s.sendHealth ↔ OneOwner s := by simp [State.sendHealth]

/-! ## Bring-up and drain of the module -/

@[simp] theorem oneOwner_flushLog : OneOwner s.flushLog ↔ OneOwner s := by simp [State.flushLog]
@[simp] theorem oneOwner_afterReset : OneOwner s.afterReset := fun _ he => absurd he List.not_mem_nil
@[simp] theorem oneOwner_moduleReset : OneOwner s.moduleReset := by simp [State.moduleReset]
@[simp] theorem oneOwner_tidyKeys : OneOwner s.tidyKeys ↔ OneOwner s := by simp [State.tidyKeys]
@[simp] theorem oneOwner_restore : OneOwner s.restore ↔ Owned s.restore ∨ OneOwner s :=
  OneOwner.rule fun h => by simp +contextual [State.restore, h]
@[simp] theorem oneOwner_poisonRun (a n : Nat) : OneOwner (s.poisonRun a n) ↔ OneOwner s := by simp [State.poisonRun]
@[simp] theorem oneOwner_fillRestored : OneOwner s.fillRestored ↔ Owned s.fillRestored ∨ OneOwner s :=
  OneOwner.rule fun h => by simp +contextual [State.fillRestored, h]
@[simp] theorem oneOwner_memoryActive (b : Bool) : OneOwner (s.memoryActive b) ↔ OneOwner s := by simp [State.memoryActive]
@[simp] theorem oneOwner_enterRecovery (byLog : Bool) : OneOwner (s.enterRecovery byLog) ↔ OneOwner s := by simp [State.enterRecovery]
@[simp] theorem oneOwner_enterService : OneOwner s.enterService ↔ OneOwner s := by simp [State.enterService]
@[simp] theorem oneOwner_sparedRow (stack loc : Nat) : OneOwner (s.sparedRow stack loc) ↔ OneOwner s := by simp [State.sparedRow]
@[simp] theorem oneOwner_spareEnd (wb stack : Nat) : OneOwner (s.spareEnd wb stack) ↔ OneOwner s := by simp [State.spareEnd]
@[simp] theorem oneOwner_ownCommand (opcode : Nat) : OneOwner (s.ownCommand opcode).2 ↔ OneOwner s := by simp [State.ownCommand]
@[simp] theorem oneOwner_drainBegin (wb : Nat) (off : Bool) : OneOwner (s.drainBegin wb off) ↔ OneOwner s := by simp [State.drainBegin]
@[simp] theorem oneOwner_autoDrain (off : Bool) : OneOwner (s.autoDrain off) ↔ OneOwner s := by simp [State.autoDrain]
@[simp] theorem oneOwner_yieldPrimacy : OneOwner s.yieldPrimacy ↔ OneOwner s := by simp [State.yieldPrimacy]
@[simp] theorem oneOwner_dropBells : OneOwner s.dropBells ↔ OneOwner s := by simp [State.dropBells]
@[simp] theorem oneOwner_partTwin : OneOwner s.partTwin ↔ Owned s.partTwin ∨ OneOwner s :=
  OneOwner.rule fun h => by simp [State.partTwin, h]
@[simp] theorem oneOwner_setStep (k : Nat) : OneOwner (setStep k s) ↔ OneOwner s := by simp [setStep]

@[simp] theorem oneOwner_drainOnce : OneOwner s.drainOnce ↔ Owned s.drainOnce ∨ OneOwner s := by
  refine OneOwner.rule fun h => ?_
  unfold State.drainOnce
  split
  · exact h
  · rename_i d _
    have habort (ps : List Nat) (t : State) (ht : OneOwner t) : OneOwner (ps.foldl (fun s p =>
        let s := s.abortPlat p
        if (s.plat p).st == .stopped then s else s.setPlat p fun x => { x with st := if x.st == .drained then .drained else .draining }) t) := by
      refine OneOwner.foldl _ _ (fun s p h => ?_) t ht
      dsimp only
      split <;> simp [h]
    split
    · split
      · exact h
      · simp [apply_ite OneOwner, h]
    · split
      · exact h
      · simpa using habort _ s h
    · split
      · refine (oneOwner_setStep _ _).2 (OneOwner.foldl _ _ (fun s i h => by simp [h]) s h)
      · exact h
    · split <;> simp [h]
    · simp [h]
    · simp [h]
    · dsimp only
      split <;> simp [h]
    · repeat' split
      all_goals simp [h]
    · exact h

@[simp] theorem oneOwner_drainStep : OneOwner s.drainStep ↔ Owned s.drainStep ∨ OneOwner s :=
  OneOwner.rule fun h => by simp +contextual [State.drainStep, h]
@[simp] theorem oneOwner_powerDownStart : OneOwner s.powerDownStart ↔ Owned s.powerDownStart ∨ OneOwner s :=
  OneOwner.rule fun h => by simp +contextual [State.powerDownStart, h]
@[simp] theorem oneOwner_powerDownEnd : OneOwner s.powerDownEnd := by simp [State.powerDownEnd]

/-! ## Power -/

@[simp] theorem oneOwner_openSwap (hold : Nat) : OneOwner (s.openSwap hold) := by simp [State.openSwap]
@[simp] theorem oneOwner_inputFail (hold : Nat) : OneOwner (s.inputFail hold) ↔ Owned (s.inputFail hold) ∨ OneOwner s :=
  OneOwner.rule fun h => by simp [State.inputFail, h]
@[simp] theorem oneOwner_limitTrip : OneOwner s.limitTrip ↔ Owned s.limitTrip ∨ OneOwner s :=
  OneOwner.rule fun h => by simp [State.limitTrip, h]
@[simp] theorem oneOwner_inputLow : OneOwner s.inputLow ↔ Owned s.inputLow ∨ OneOwner s :=
  OneOwner.rule fun h => by simp [State.inputLow, h]
@[simp] theorem oneOwner_pinRelease : OneOwner s.pinRelease ↔ OneOwner s := by simp [State.pinRelease]
@[simp] theorem oneOwner_powerStep (w : Nat) : OneOwner (s.powerStep w) ↔ OneOwner s := by simp [State.powerStep]
@[simp] theorem oneOwner_thermRecords : OneOwner s.thermRecords ↔ OneOwner s := by simp [State.thermRecords]
@[simp] theorem oneOwner_thermDie (d : Nat) : OneOwner (s.thermDie d) ↔ OneOwner s := by simp [State.thermDie]
@[simp] theorem oneOwner_thermStep (sensors dram : List Byte) : OneOwner (s.thermStep sensors dram) ↔ OneOwner s := by simp [State.thermStep]
@[simp] theorem oneOwner_emptyStep : OneOwner s.emptyStep ↔ OneOwner s := by simp [State.emptyStep]

@[simp] theorem oneOwner_dormantEntry (d : Nat) : OneOwner (s.dormantEntry d) ↔ OneOwner s := by
  unfold State.dormantEntry
  dsimp only
  repeat' split
  all_goals simp

@[simp] theorem oneOwner_wakeDone (d : Nat) : OneOwner (s.wakeDone d) ↔ Owned (s.wakeDone d) ∨ OneOwner s :=
  OneOwner.rule fun h => by simp [State.wakeDone, h]
@[simp] theorem oneOwner_pumpWarm (p : Nat) : OneOwner (s.pumpWarm p) ↔ OneOwner s := by simp [State.pumpWarm]

@[simp] theorem oneOwner_pumpCold (p : Nat) : OneOwner (s.pumpCold p) ↔ OneOwner s := by
  unfold State.pumpCold
  split <;> simp

@[simp] theorem oneOwner_pumpWoken (p : Nat) : OneOwner (s.pumpWoken p) ↔ Owned (s.pumpWoken p) ∨ OneOwner s := by
  refine OneOwner.rule fun h => ?_
  unfold State.pumpWoken
  dsimp only
  repeat' split
  all_goals simp [h]

@[simp] theorem oneOwner_coldStep : OneOwner s.coldStep ↔ OneOwner s := by simp [State.coldStep]

/-! ## What follows every command -/

@[simp] theorem oneOwner_bellStep : OneOwner s.bellStep ↔ Owned s.bellStep ∨ OneOwner s :=
  OneOwner.rule fun h => by simp [State.bellStep, h]
@[simp] theorem oneOwner_nsStep : OneOwner s.nsStep ↔ OneOwner s := by simp [State.nsStep]
@[simp] theorem oneOwner_steps : OneOwner s.steps ↔ Owned s.steps ∨ OneOwner s :=
  OneOwner.rule fun h => by simp [State.steps, h]
@[simp] theorem oneOwner_markBusy (kind unit : Nat) (block : Bool) :
    OneOwner (s.markBusy kind unit block) ↔ OneOwner s := by simp [State.markBusy]
@[simp] theorem oneOwner_clearBusy (kind unit : Nat) (block : Bool) :
    OneOwner (s.clearBusy kind unit block) ↔ OneOwner s := by simp [State.clearBusy]

@[simp] theorem oneOwner_capture (kind unit : Nat) : OneOwner (s.capture kind unit) ↔ OneOwner s := by
  unfold State.capture
  split <;> simp

@[simp] theorem oneOwner_setHandover (l : List Mbx) (b : Bool) : OneOwner (s.setHandover l b) ↔ OneOwner s := by simp [State.setHandover]

@[simp] theorem oneOwner_blockReset (kind unit : Nat) : OneOwner (s.blockReset kind unit) ↔ Owned (s.blockReset kind unit) ∨ OneOwner s := by
  refine OneOwner.rule fun h => ?_
  unfold State.blockReset
  dsimp only
  repeat' split
  all_goals simp [h]

@[simp] theorem oneOwner_replaceUnit : OneOwner s.replaceUnit ↔ OneOwner s := by simp [State.replaceUnit]

@[simp] theorem oneOwner_takeTodo (t : Todo) : OneOwner (s.takeTodo t) ↔ Owned (s.takeTodo t) ∨ OneOwner s := by
  refine OneOwner.rule fun h => ?_
  unfold State.takeTodo
  dsimp only
  repeat' split
  all_goals simp [h]

@[simp] theorem oneOwner_settleFor (k : Nat) : OneOwner (State.settleFor k s) ↔ Owned (State.settleFor k s) ∨ OneOwner s := by
  refine OneOwner.rule fun h => ?_
  induction k generalizing s with
  | zero => exact h
  | succ k ih =>
    unfold State.settleFor
    split
    · exact h
    · exact ih _ (by simp [h])

@[simp] theorem oneOwner_settle : OneOwner s.settle ↔ Owned s.settle ∨ OneOwner s :=
  OneOwner.rule fun h => by simp [State.settle, h]

@[simp] theorem oneOwner_powerSeq : OneOwner s.powerSeq ↔ Owned s.powerSeq ∨ OneOwner s := by
  refine OneOwner.rule fun h => ?_
  unfold State.powerSeq
  split
  · simp
  · split <;> simp [h]

@[simp] theorem oneOwner_finish : OneOwner (finish s) ↔ Owned (finish s) ∨ OneOwner s :=
  OneOwner.rule fun h => by simp [finish, h]
@[simp] theorem oneOwner_idle : OneOwner s.idle ↔ Owned s.idle ∨ OneOwner s :=
  OneOwner.rule fun h => by simp [State.idle, h]

/-! ## Commands on wells and cisterns -/

@[simp] theorem oneOwner_freeWellIdx : OneOwner s.freeWellIdx.2 ↔ OneOwner s := by
  unfold State.freeWellIdx
  dsimp only
  repeat' split
  all_goals simp

@[simp] theorem oneOwner_createApply (length place flags owner cistern : Nat) (peer : PeerAnswer) (wb : Nat) :
    OneOwner (createApply length place flags owner cistern peer wb s).2.2 ↔ OneOwner s := by
  unfold createApply
  dsimp only
  repeat' split
  all_goals simp

@[simp] theorem oneOwner_relayWell (i wb opcode : Nat) : OneOwner (s.relayWell i wb opcode) ↔ OneOwner s := by simp [State.relayWell]

@[simp] theorem oneOwner_destroyApply (handle : Nat) (wb : Nat) :
    OneOwner (destroyApply handle wb s).2.2 ↔ Owned (destroyApply handle wb s).2.2 ∨ OneOwner s := by
  refine OneOwner.rule fun h => ?_
  unfold destroyApply
  split <;> simp [h]

@[simp] theorem oneOwner_resizeApply (handle newLen : Nat) (wb : Nat) :
    OneOwner (resizeApply handle newLen wb s).2.2 ↔ Owned (resizeApply handle newLen wb s).2.2 ∨ OneOwner s := by
  refine OneOwner.rule fun h => ?_
  unfold resizeApply
  split <;> simp [h]

@[simp] theorem oneOwner_grantApply (handle n rights dec : Nat) (wb : Nat) :
    OneOwner (grantApply handle n rights dec wb s).2.2 ↔ OneOwner s := by
  unfold grantApply
  split <;> simp

@[simp] theorem oneOwner_revokeApply (handle n : Nat) (wb : Nat) : OneOwner (revokeApply handle n wb s).2.2 ↔ OneOwner s := by
  unfold revokeApply
  split <;> simp

@[simp] theorem oneOwner_migrateApply (handle place rate : Nat) (wb : Nat) :
    OneOwner (migrateApply handle place rate wb s).2.2 ↔ OneOwner s := by
  unfold migrateApply
  split <;> simp

@[simp] theorem oneOwner_cancelApply (handle : Nat) (wb : Nat) :
    OneOwner (cancelApply handle wb s).2.2 ↔ Owned (cancelApply handle wb s).2.2 ∨ OneOwner s := by
  refine OneOwner.rule fun h => ?_
  unfold cancelApply
  split <;> simp [h]

@[simp] theorem oneOwner_freeCisIdx : OneOwner s.freeCisIdx.2 ↔ OneOwner s := by
  unfold State.freeCisIdx
  dsimp only
  repeat' split
  all_goals simp

@[simp] theorem oneOwner_cisCreateApply (name : BitVec 128) (tbi : Nat) (wb : Nat) :
    OneOwner (cisCreateApply name tbi wb s).2.2 ↔ OneOwner s := by simp [cisCreateApply]

@[simp] theorem oneOwner_joinApply (handle n : Nat) (wb : Nat) : OneOwner (joinApply handle n wb s).2.2 ↔ OneOwner s := by
  unfold joinApply
  split <;> simp

@[simp] theorem oneOwner_leaveApply (handle n : Nat) (wb : Nat) : OneOwner (leaveApply handle n wb s).2.2 ↔ OneOwner s := by
  unfold leaveApply
  split <;> simp

@[simp] theorem oneOwner_recoverApply (handle : Nat) (mode : RecMode) (wb : Nat) :
    OneOwner (recoverApply handle mode wb s).2.2 ↔ Owned (recoverApply handle mode wb s).2.2 ∨ OneOwner s := by
  refine OneOwner.rule fun h => ?_
  unfold recoverApply
  split <;> simp [h]

/-! ## Commands on contexts -/

@[simp] theorem oneOwner_ctxCreateApply (name : BitVec 128) (pref : Nat) (wb : Nat) :
    OneOwner (ctxCreateApply name pref wb s).2.2 ↔ OneOwner s := by simp [ctxCreateApply]
@[simp] theorem oneOwner_ctxDestroyApply (c : Nat) (wb : Nat) :
    OneOwner (ctxDestroyApply c wb s).2.2 ↔ OneOwner s := by simp [ctxDestroyApply]
@[simp] theorem oneOwner_rangeSetApply (c first count : Nat) (es : List RangeWords) (wb : Nat) :
    OneOwner (rangeSetApply c first count es wb s).2.2 ↔ OneOwner s := by simp [rangeSetApply]

@[simp] theorem oneOwner_rangeWellApply (well : Nat) (wb : Nat) : OneOwner (rangeWellApply well wb s).2.2 ↔ OneOwner s := by
  unfold rangeWellApply
  split <;> simp

@[simp] theorem oneOwner_markRanges (c vbase length : Nat) (m : RcMark) :
    OneOwner (s.markRanges c vbase length m) ↔ OneOwner s := by simp [State.markRanges]

@[simp] theorem oneOwner_willUse (c vbase length : Nat) : OneOwner (s.willUse c vbase length) ↔ OneOwner s := by
  unfold State.willUse
  refine (oneOwner_foldl_same (fun s p => by simp) _ _).trans (oneOwner_foldl_same (fun s x => ?_) _ s)
  dsimp only
  split
  · simp
  · split
    · rfl
    · refine (oneOwner_foldl_same (fun s d => by simp) _ _).trans (oneOwner_foldl_same (fun s p => ?_) _ s)
      split <;> simp

@[simp] theorem oneOwner_xlateModeApply (n mode : Nat) (wb : Nat) :
    OneOwner (xlateModeApply n mode wb s).2.2 ↔ OneOwner s := by simp [xlateModeApply]

/-! ## Commands on platforms -/

@[simp] theorem oneOwner_freePlat : OneOwner s.freePlat.2 ↔ OneOwner s := by
  unfold State.freePlat
  dsimp only
  repeat' split
  all_goals simp

@[simp] theorem oneOwner_platCreateApply (well n part vector ringOff c slots allot mask : Nat) (wb : Nat) :
    OneOwner (platCreateApply well n part vector ringOff c slots allot mask wb s).2.2 ↔
      Owned (platCreateApply well n part vector ringOff c slots allot mask wb s).2.2 ∨ OneOwner s :=
  OneOwner.rule fun h => by simp [platCreateApply, h]

@[simp] theorem oneOwner_platDestroyApply (p : Nat) (wb : Nat) :
    OneOwner (platDestroyApply p wb s).2.2 ↔ Owned (platDestroyApply p wb s).2.2 ∨ OneOwner s :=
  OneOwner.rule fun h => by simp [platDestroyApply, h]

@[simp] theorem oneOwner_movePump (p : Nat) (dst : Option Nat) : OneOwner (s.movePump p dst) ↔ Owned (s.movePump p dst) ∨ OneOwner s :=
  OneOwner.rule fun h => by simp [State.movePump, h]

@[simp] theorem oneOwner_partApply (part lwait quota pumps : Nat) (wb : Nat) :
    OneOwner (partApply part lwait quota pumps wb s).2.2 ↔ Owned (partApply part lwait quota pumps wb s).2.2 ∨ OneOwner s :=
  OneOwner.rule fun h => by simp +contextual [partApply, h]

/-! ## Commands on namespaces -/

@[simp] theorem oneOwner_freeNs : OneOwner s.freeNs.2 ↔ OneOwner s := by
  unfold State.freeNs
  dsimp only
  repeat' split
  all_goals simp

@[simp] theorem oneOwner_nsCreateApply (store format width nkvh nlayers lease quota flags : Nat) (wb : Nat) :
    OneOwner (nsCreateApply store format width nkvh nlayers lease quota flags wb s).2.2 ↔ OneOwner s := by simp [nsCreateApply]

@[simp] theorem oneOwner_nsDestroyApply (handle : Nat) (wb : Nat) : OneOwner (nsDestroyApply handle wb s).2.2 ↔ OneOwner s := by
  unfold nsDestroyApply
  split <;> simp

@[simp] theorem oneOwner_nsQuotaApply (handle quota lease flags : Nat) (wb : Nat) :
    OneOwner (nsQuotaApply handle quota lease flags wb s).2.2 ↔ OneOwner s := by
  unfold nsQuotaApply
  split <;> simp

/-! ## Commands on the caches -/

@[simp] theorem oneOwner_onSlices (slices : Nat) (f : Slice → Slice) : OneOwner (s.onSlices slices f) ↔ OneOwner s := by simp [State.onSlices]
@[simp] theorem oneOwner_reuseSlice (d : Nat) : OneOwner (s.reuseSlice d) ↔ OneOwner s := by simp [State.reuseSlice]

@[simp] theorem oneOwner_enableApply (slices flags : Nat) (wb : Nat) : OneOwner (enableApply slices flags wb s).2.2 ↔ OneOwner s := by
  unfold enableApply
  split <;> simp

@[simp] theorem oneOwner_setQuota (n v : Nat) : OneOwner (s.setQuota n v) ↔ OneOwner s := by simp [State.setQuota]

/-! ## Commands on the pair -/

@[simp] theorem oneOwner_unpairApply (split : Bool) (wb : Nat) :
    OneOwner (unpairApply split wb s).2.2 ↔ Owned (unpairApply split wb s).2.2 ∨ OneOwner s :=
  OneOwner.rule fun h => by simp [unpairApply, h]

@[simp] theorem oneOwner_switchApply (target scope : Nat) (wb : Nat) :
    OneOwner (switchApply target scope wb s).2.2 ↔ OneOwner s := by simp [switchApply]
@[simp] theorem oneOwner_takeoverApply (wb : Nat) : OneOwner (takeoverApply wb s).2.2 ↔ Owned (takeoverApply wb s).2.2 ∨ OneOwner s :=
  OneOwner.rule fun h => by simp [takeoverApply, h]

/-! ## Commands on faults -/

@[simp] theorem oneOwner_ackRecord (r : FaultRec) : OneOwner (s.ackRecord r) ↔ OneOwner s := by simp [State.ackRecord]
@[simp] theorem oneOwner_ackApply (seq mode : Nat) (wb : Nat) : OneOwner (ackApply seq mode wb s).2.2 ↔ OneOwner s :=
  oneOwner_foldl_same (fun s x => by simp) _ _

@[simp] theorem oneOwner_setPolicy (source reaction flags threshold window : Nat) :
    OneOwner (s.setPolicy source reaction flags threshold window) ↔ OneOwner s := by
  unfold State.setPolicy
  dsimp only
  repeat' split
  all_goals simp

@[simp] theorem oneOwner_fieldTestApply (flags intervalS maxOutUs scrubH : Nat) (wb : Nat) :
    OneOwner (fieldTestApply flags intervalS maxOutUs scrubH wb s).2.2 ↔ OneOwner s := by simp [fieldTestApply]
@[simp] theorem oneOwner_limitApply (limitW flags hot warm dormant : Nat) (wb : Nat) :
    OneOwner (limitApply limitW flags hot warm dormant wb s).2.2 ↔ OneOwner s := by simp [limitApply]

/-! ## Commands on firmware -/

@[simp] theorem oneOwner_stageApply (well : Nat) (pkg : FwPackage) (wb : Nat) :
    OneOwner (stageApply well pkg wb s).2.2 ↔ OneOwner s := by simp [stageApply]
@[simp] theorem oneOwner_stageEnd (wb : Nat) (pkg : FwPackage) : OneOwner (s.stageEnd wb pkg) ↔ OneOwner s := by simp [State.stageEnd]
@[simp] theorem oneOwner_updatePump (p : Nat) : OneOwner (s.updatePump p) ↔ Owned (s.updatePump p) ∨ OneOwner s :=
  OneOwner.rule fun h => by simp [State.updatePump, h]

@[simp] theorem oneOwner_turnStart (i k : Nat) : OneOwner (s.turnStart i k) ↔ Owned (s.turnStart i k) ∨ OneOwner s := by
  refine OneOwner.rule fun h => ?_
  unfold State.turnStart
  split <;> simp [h]

@[simp] theorem oneOwner_turnEnd (i k : Nat) : OneOwner (s.turnEnd i k) ↔ OneOwner s := by
  unfold State.turnEnd
  split <;> simp

@[simp] theorem oneOwner_turnsBack (i n : Nat) : OneOwner (s.turnsBack i n) ↔ Owned (s.turnsBack i n) ∨ OneOwner s := by
  refine OneOwner.rule fun h => ?_
  unfold State.turnsBack
  repeat' split
  all_goals simp +contextual [h]

@[simp] theorem oneOwner_auditForced (wb : Nat) (target : List (BitVec 32)) : OneOwner (s.auditForced wb target) ↔ OneOwner s := by
  unfold State.auditForced
  split <;> simp

@[simp] theorem oneOwner_fwEnd (r : FwRun) : OneOwner (s.fwEnd r) ↔ OneOwner s := by simp [State.fwEnd]

@[simp] theorem oneOwner_fwTurn : OneOwner s.fwTurn ↔ Owned s.fwTurn ∨ OneOwner s := by
  refine OneOwner.rule fun h => ?_
  unfold State.fwTurn
  split
  · simp [h]
  · split <;> simp [h]

@[simp] theorem oneOwner_activateApply (index flags : Nat) (versions : Versions) (wb : Nat) :
    OneOwner (activateApply index flags versions wb s).2.2 ↔ Owned (activateApply index flags versions wb s).2.2 ∨ OneOwner s :=
  OneOwner.rule fun h => by simp [activateApply, h]

@[simp] theorem oneOwner_swapComp (i : Nat) : OneOwner (s.swapComp i) ↔ OneOwner s := by simp [State.swapComp]

@[simp] theorem oneOwner_compDone (r : FwRun) (i : Nat) (rest : List Nat) :
    OneOwner (s.compDone r i rest) ↔ Owned (s.compDone r i rest) ∨ OneOwner s :=
  OneOwner.rule fun h => by simp [State.compDone, h]

@[simp] theorem oneOwner_compBack (i : Nat) : OneOwner (s.compBack i) ↔ Owned (s.compBack i) ∨ OneOwner s :=
  OneOwner.rule fun h => by simp [State.compBack, h]
@[simp] theorem oneOwner_fwFail (r : FwRun) (i : Nat) : OneOwner (s.fwFail r i) ↔ Owned (s.fwFail r i) ∨ OneOwner s :=
  OneOwner.rule fun h => by simp +contextual [State.fwFail, h]

@[simp] theorem oneOwner_turnDone (r : FwRun) (i : Nat) (rest : List Nat) :
    OneOwner (s.turnDone r i rest) ↔ Owned (s.turnDone r i rest) ∨ OneOwner s :=
  OneOwner.rule fun h => by simp [State.turnDone, h]

@[simp] theorem oneOwner_switched (pass : Bool) : OneOwner (s.switched pass) ↔ Owned (s.switched pass) ∨ OneOwner s := by
  refine OneOwner.rule fun h => ?_
  unfold State.switched
  split
  · simp [h]
  · split <;> simp [h]

@[simp] theorem oneOwner_handoverEnd : OneOwner s.handoverEnd ↔ OneOwner s := by simp [State.handoverEnd]

/-! ## Commands on roles and keys -/

@[simp] theorem oneOwner_challengeApply (m : Mbx) (role : Nat) (cred : BitVec 64) (wb : Nat) :
    OneOwner (challengeApply m role cred wb s).2.2 ↔ OneOwner s := by simp [challengeApply]
@[simp] theorem oneOwner_respondApply (h : CmdHdr) (c : Cmd) (role : Nat) (cred : BitVec 64) (wb : Nat) :
    OneOwner (respondApply h c role cred wb s).2.2 ↔ OneOwner s := by simp [respondApply]
@[simp] theorem oneOwner_authFailed (h : CmdHdr) : OneOwner (s.authFailed h) ↔ OneOwner s := by simp [State.authFailed]

@[simp] theorem oneOwner_roleRespond (h : CmdHdr) (role : Nat) (cred : BitVec 64) (sig : BitVec 768) :
    OneOwner (s.roleRespond h role cred sig) ↔ Owned (s.roleRespond h role cred sig) ∨ OneOwner s := by
  refine OneOwner.rule fun hs => ?_
  unfold State.roleRespond
  extract_lets c judged v own s1 s2 s3
  have h1 : OneOwner s1 := by
    unfold s1
    split <;> simp [hs]
  have h2 : OneOwner s2 := by
    unfold s2
    split <;> simp [h1]
  have h3 : OneOwner s3 := by simp +contextual [s3, h2]
  split <;> simp [h3]

@[simp] theorem oneOwner_keyGenerateApply (p : KeyPay) (wb : Nat) :
    OneOwner (keyGenerateApply p wb s).2.2 ↔ OneOwner s := by simp [keyGenerateApply]
@[simp] theorem oneOwner_keyBindApply (p : KeyPay) (wb : Nat) : OneOwner (keyBindApply p wb s).2.2 ↔ OneOwner s := by simp [keyBindApply]

@[simp] theorem oneOwner_bindEnd (wb : Nat) : OneOwner (s.bindEnd wb) ↔ OneOwner s := by
  unfold State.bindEnd
  dsimp only
  repeat' split
  all_goals simp

@[simp] theorem oneOwner_endCred (slot : Nat) : OneOwner (s.endCred slot) ↔ OneOwner s := by simp [State.endCred]

@[simp] theorem oneOwner_asyncEnd (wb : Nat) : OneOwner (s.asyncEnd wb) ↔ OneOwner s := by
  unfold State.asyncEnd
  dsimp only
  repeat' split
  all_goals simp

/-! ## Service commands -/

@[simp] theorem oneOwner_askPair : OneOwner s.askPair ↔ OneOwner s := by simp [State.askPair]
@[simp] theorem oneOwner_moduleResumeApply (wb : Nat) : OneOwner (moduleResumeApply wb s).2.2 ↔ OneOwner s := by simp [moduleResumeApply]
@[simp] theorem oneOwner_emptyApply (wb : Nat) : OneOwner (emptyApply wb s).2.2 ↔ OneOwner s := by simp [emptyApply]

@[simp] theorem oneOwner_spareApply (stack mode loc : Nat) (wb : Nat) : OneOwner (spareApply stack mode loc wb s).2.2 ↔ OneOwner s := by
  unfold spareApply
  dsimp only
  repeat' split
  all_goals simp

@[simp] theorem oneOwner_spanDone (x : Spare) : OneOwner (s.spanDone x) ↔ OneOwner s := by simp [State.spanDone]

@[simp] theorem oneOwner_spareCopied : OneOwner s.spareCopied ↔ OneOwner s := by
  unfold State.spareCopied
  split <;> simp

@[simp] theorem oneOwner_factoryEnd : OneOwner s.factoryEnd ↔ OneOwner s := by simp [State.factoryEnd]

@[simp] theorem oneOwner_inject {f : State → State} (hf : ∀ s, OneOwner s → OneOwner (f s)) (h : CmdHdr) (op : Nat) (p : InjectPay)
    (ok : State → Bool) : OneOwner (s.inject h op p ok f) ↔ Owned (s.inject h op p ok f) ∨ OneOwner s :=
  OneOwner.rule fun hs => by simp +contextual [State.inject, hf, hs]

@[simp] theorem oneOwner_raise (p : InjectPay) : OneOwner (s.raise p) ↔ OneOwner s := by simp [State.raise]
@[simp] theorem oneOwner_flip (a k : Nat) : OneOwner (s.flip a k) ↔ OneOwner s := by simp [State.flip]
@[simp] theorem oneOwner_clearHistory (kind unit : Nat) : OneOwner (s.clearHistory kind unit) ↔ OneOwner s := by simp [State.clearHistory]

/-! ## Events of the security core -/

@[simp] theorem oneOwner_challengeGone (m : Mbx) : OneOwner (s.challengeGone m) ↔ OneOwner s := by
  unfold State.challengeGone
  split <;> simp

@[simp] theorem oneOwner_lockoutEnd (m : Mbx) : OneOwner (s.lockoutEnd m) ↔ OneOwner s := by
  unfold State.lockoutEnd
  split <;> simp

@[simp] theorem oneOwner_sessionIdle (m : Mbx) : OneOwner (s.sessionIdle m) ↔ OneOwner s := by
  unfold State.sessionIdle
  split <;> simp

@[simp] theorem oneOwner_spdmOpen (p : SpdmPort) (peer : BitVec 384) : OneOwner (s.spdmOpen p peer) ↔ OneOwner s := by simp [State.spdmOpen]

@[simp] theorem oneOwner_ideOver (n : Nat) (k : IdeKind) (how : Nat) : OneOwner (s.ideOver n k how) ↔ OneOwner s := by
  unfold State.ideOver
  dsimp only
  repeat' split
  all_goals simp

@[simp] theorem oneOwner_keyedBy (n : Nat) (x : Nat × BitVec 384) : OneOwner (s.keyedBy n x) ↔ OneOwner s := by simp [State.keyedBy]

@[simp] theorem oneOwner_ideOpen (n : Nat) (k : IdeKind) (contain : Bool) (x : Nat × BitVec 384) :
    OneOwner (s.ideOpen n k contain x) ↔ OneOwner s := by
  unfold State.ideOpen
  dsimp only
  repeat' split
  all_goals simp

@[simp] theorem oneOwner_ideRefresh (n : Nat) (k : IdeKind) (x : Nat × BitVec 384) :
    OneOwner (s.ideRefresh n k x) ↔ OneOwner s := by simp [State.ideRefresh]

@[simp] theorem oneOwner_spdmEstablish (p : SpdmPort) (what : SpdmOpen) (peer : BitVec 384) :
    OneOwner (s.spdmEstablish p what peer) ↔ OneOwner s := by
  unfold State.spdmEstablish
  dsimp only
  repeat' split
  all_goals simp

@[simp] theorem oneOwner_spdmClose (p : SpdmPort) (k : Nat) : OneOwner (s.spdmClose p k) ↔ OneOwner s := by
  unfold State.spdmClose
  dsimp only
  repeat' split
  all_goals simp

@[simp] theorem oneOwner_linkEnd (x : SecLink) : OneOwner (s.linkEnd x) ↔ OneOwner s := by
  unfold State.linkEnd
  split <;> simp

@[simp] theorem oneOwner_ideFail (n : Nat) (k : IdeKind) : OneOwner (s.ideFail n k) ↔ OneOwner s := by simp [State.ideFail]

/-! ## Events of jobs -/

@[simp] theorem oneOwner_bellWrite (n : Nat) (d : Doorbell) : OneOwner (s.bellWrite n d) ↔ OneOwner s := by simp [State.bellWrite]

@[simp] theorem oneOwner_releaseRow (plat idx mode : Nat) :
    OneOwner (s.releaseRow plat idx mode) ↔ Owned (s.releaseRow plat idx mode) ∨ OneOwner s := by
  refine OneOwner.rule fun h => ?_
  unfold State.releaseRow
  split <;> simp [h]

@[simp] theorem oneOwner_sendAtom (j : Job) (p i : Nat) : OneOwner (s.sendAtom j p i) ↔ Owned (s.sendAtom j p i) ∨ OneOwner s := by
  refine OneOwner.rule fun h => ?_
  unfold State.sendAtom
  dsimp only
  repeat' split
  all_goals simp [h]

@[simp] theorem oneOwner_atomAtHome (plat idx op : Nat) :
    OneOwner (s.atomAtHome plat idx op) ↔ Owned (s.atomAtHome plat idx op) ∨ OneOwner s := by
  refine OneOwner.rule fun h => ?_
  unfold State.atomAtHome
  repeat' split
  all_goals simp [h]

@[simp] theorem oneOwner_evenCommit (plat idx : Nat) : OneOwner (s.evenCommit plat idx) ↔ Owned (s.evenCommit plat idx) ∨ OneOwner s := by
  refine OneOwner.rule fun h => ?_
  unfold State.evenCommit
  dsimp only
  repeat' split
  all_goals simp [h]

@[simp] theorem oneOwner_pendingResolved (plat idx : Nat) : OneOwner (s.pendingResolved plat idx) ↔ OneOwner s := by
  unfold State.pendingResolved
  split <;> simp

@[simp] theorem oneOwner_leaseEnd (i : Nat) : OneOwner (s.leaseEnd i) ↔ OneOwner s := by
  unfold State.leaseEnd
  split <;> simp

@[simp] theorem oneOwner_takeJob (p : Nat) : OneOwner (s.takeJob p) ↔ Owned (s.takeJob p) ∨ OneOwner s := by
  refine OneOwner.rule fun h => ?_
  unfold State.takeJob
  dsimp only
  repeat' split
  all_goals simp [h]

@[simp] theorem oneOwner_loadDone (p lines : Nat) (host : PageImage) :
    OneOwner (s.loadDone p lines host) ↔ Owned (s.loadDone p lines host) ∨ OneOwner s := by
  refine OneOwner.rule fun h => ?_
  unfold State.loadDone
  split <;> simp [h]

@[simp] theorem oneOwner_stepDone (p : Nat) (fail : Option StepOp) :
    OneOwner (s.stepDone p fail) ↔ Owned (s.stepDone p fail) ∨ OneOwner s := by
  refine OneOwner.rule fun h => ?_
  unfold State.stepDone
  dsimp only
  repeat' split
  all_goals simp [h]

@[simp] theorem oneOwner_transient (p : Nat) (inj : Bool) : OneOwner (s.transient p inj) ↔ OneOwner s := by simp [State.transient]
@[simp] theorem oneOwner_moveTo (j : Job) (p q : Nat) : OneOwner (s.moveTo j p q) ↔ Owned (s.moveTo j p q) ∨ OneOwner s :=
  OneOwner.rule fun h => by simp [State.moveTo, h]

@[simp] theorem oneOwner_fireAgain (id p : Nat) : OneOwner (s.fireAgain id p) ↔ Owned (s.fireAgain id p) ∨ OneOwner s := by
  refine OneOwner.rule fun h => ?_
  unfold State.fireAgain
  dsimp only
  repeat' split
  all_goals simp [h]

@[simp] theorem oneOwner_replayFailed (j : Job) (p q : Nat) (inj : Bool) :
    OneOwner (s.replayFailed j p q inj) ↔ Owned (s.replayFailed j p q inj) ∨ OneOwner s :=
  OneOwner.rule fun h => by simp [State.replayFailed, h]

@[simp] theorem oneOwner_replayDone (q : Nat) (pass : Bool) : OneOwner (s.replayDone q pass) ↔ Owned (s.replayDone q pass) ∨ OneOwner s := by
  refine OneOwner.rule fun h => ?_
  unfold State.replayDone
  split
  · exact h
  · split
    · rename_i j _ _ p _
      have hmeet : OneOwner (s.meetInjection j q).2 := by simp [h]
      generalize s.meetInjection j q = x at hmeet
      obtain ⟨hit, t⟩ := x
      dsimp only at hmeet ⊢
      split
      · split
        · exact hmeet
        · split
          · simp [hmeet]
          · split <;> rename_i hp <;> have hidle := (oneOwner_snd hp).2 (by simp [hmeet]) <;> simp [hidle]
      · repeat' split
        all_goals simp [hmeet]
      · exact hmeet
    · exact h

@[simp] theorem oneOwner_replayWaitEnd (p : Nat) : OneOwner (s.replayWaitEnd p) ↔ Owned (s.replayWaitEnd p) ∨ OneOwner s := by
  refine OneOwner.rule fun h => ?_
  unfold State.replayWaitEnd
  repeat' split
  all_goals simp [h]

@[simp] theorem oneOwner_pumpHang (p : Nat) : OneOwner (s.pumpHang p) ↔ OneOwner s := by
  unfold State.pumpHang
  split <;> simp

@[simp] theorem oneOwner_rangeFilled (p c i : Nat) (peer : PeerAnswer) : OneOwner (s.rangeFilled p c i peer) ↔ OneOwner s := by
  unfold State.rangeFilled
  dsimp only
  repeat' split
  all_goals simp

@[simp] theorem oneOwner_switchTimeout (p : Nat) : OneOwner (s.switchTimeout p) ↔ Owned (s.switchTimeout p) ∨ OneOwner s := by
  refine OneOwner.rule fun h => ?_
  unfold State.switchTimeout
  dsimp only
  repeat' split
  all_goals simp [h]

@[simp] theorem oneOwner_jobEnds (plat idx : Nat) : OneOwner (s.jobEnds plat idx) ↔ Owned (s.jobEnds plat idx) ∨ OneOwner s := by
  refine OneOwner.rule fun h => ?_
  unfold State.jobEnds
  split <;> simp [h]

@[simp] theorem oneOwner_recordRow (plat : Nat) : OneOwner (s.recordRow plat) ↔ Owned (s.recordRow plat) ∨ OneOwner s := by
  refine OneOwner.rule fun h => ?_
  unfold State.recordRow
  split <;> simp [h]

@[simp] theorem oneOwner_sealRow (plat idx : Nat) : OneOwner (s.sealRow plat idx) ↔ Owned (s.sealRow plat idx) ∨ OneOwner s := by
  refine OneOwner.rule fun h => ?_
  unfold State.sealRow
  split <;> simp [h]

@[simp] theorem oneOwner_ctoExpire (n id : Nat) : OneOwner (s.ctoExpire n id) ↔ Owned (s.ctoExpire n id) ∨ OneOwner s := by
  refine OneOwner.rule fun h => ?_
  unfold State.ctoExpire
  extract_lets log sent isRead
  have hlog (t : State) (a : Nat) : OneOwner (log t a) ↔ OneOwner t := by simp [log]
  clear_value log
  split
  · extract_lets s1 s2 posted s3
    have h2 : OneOwner s2 := by
      unfold s2
      split <;> simp [s1, h]
    have h3 : OneOwner s3 := by
      refine OneOwner.foldl _ _ (fun s w h => ?_) _ (by simp [h2])
      split <;> simp [h]
    simp [hlog, h3]
  · split <;> simp [hlog, h]

/-! ## Events of the homes -/

@[simp] theorem oneOwner_holdOver (key : Nat) : OneOwner (s.holdOver key) ↔ Owned (s.holdOver key) ∨ OneOwner s := by
  refine OneOwner.rule fun h => ?_
  unfold State.holdOver
  split
  · split
    · exact ((oneOwner_until ..).2 h).modEnt _ fun _ he => he
    · exact h
  · exact h

@[simp] theorem oneOwner_biExpire (holder key : Nat) : OneOwner (s.biExpire holder key) ↔ Owned (s.biExpire holder key) ∨ OneOwner s := by
  refine OneOwner.rule fun h => ?_
  unfold State.biExpire
  dsimp only
  repeat' split
  all_goals simp [h]

@[simp] theorem oneOwner_retryRow (n : Option Station) : OneOwner (s.retryRow n) ↔ Owned (s.retryRow n) ∨ OneOwner s := by
  refine OneOwner.rule fun h => ?_
  unfold State.retryRow
  dsimp only
  repeat' split
  all_goals simp [h]

@[simp] theorem oneOwner_walkOver (c : Nat) : OneOwner (s.walkOver c) ↔ Owned (s.walkOver c) ∨ OneOwner s :=
  OneOwner.rule fun h => by simp [State.walkOver, h]

@[simp] theorem oneOwner_trackerEnd (die slot : Nat) : OneOwner (s.trackerEnd die slot) ↔ OneOwner s := by
  unfold State.trackerEnd
  split <;> simp

/-! ## Events of stations -/

@[simp] theorem oneOwner_barWrite {f : State → State} (hf : OneOwner s → OneOwner (f s)) (n : Nat) :
    OneOwner (s.barWrite n f) ↔ Owned (s.barWrite n f) ∨ OneOwner s := by
  refine OneOwner.rule fun hs => ?_
  unfold State.barWrite
  split <;> simp [hs, hf]

@[simp] theorem oneOwner_unmask (n : Nat) (vector : Option Nat) : OneOwner (s.unmask n vector) ↔ OneOwner s := by
  unfold State.unmask
  split
  · unfold State.barWrite
    split <;> simp
  · split <;> simp

@[simp] theorem oneOwner_ifUp {f : State → State} (hf : OneOwner s → OneOwner (f s)) (n : Nat) :
    OneOwner (s.ifUp n f) ↔ Owned (s.ifUp n f) ∨ OneOwner s := by
  refine OneOwner.rule fun hs => ?_
  unfold State.ifUp
  split <;> simp [hs, hf]

/-! ## Events of faults -/

@[simp] theorem oneOwner_linkInjected (source unit : Nat) : OneOwner (s.linkInjected source unit).2 ↔ OneOwner s := by
  unfold State.linkInjected
  dsimp only
  repeat' split
  all_goals simp

@[simp] theorem oneOwner_dirLost (a : Nat) : OneOwner (s.dirLost a) ↔ Owned (s.dirLost a) ∨ OneOwner s :=
  OneOwner.rule fun h => by simp [State.dirLost, h]
@[simp] theorem oneOwner_bufferBad (p line : Nat) (j : Job) (x : Placed) :
    OneOwner (s.bufferBad p line j x) ↔ OneOwner s := by simp [State.bufferBad]

@[simp] theorem oneOwner_spoil (line : Nat) : OneOwner (s.spoil line) ↔ OneOwner s := by
  unfold State.spoil
  dsimp only
  repeat' split
  all_goals simp

@[simp] theorem oneOwner_detectEffect (source unit a : Nat) :
    OneOwner (s.detectEffect source unit a) ↔ Owned (s.detectEffect source unit a) ∨ OneOwner s := by
  refine OneOwner.rule fun h => ?_
  unfold State.detectEffect
  split <;> simp [h]

@[simp] theorem oneOwner_detected (source unit object address detail : Nat) :
    OneOwner (s.detected source unit object address detail) ↔ Owned (s.detected source unit object address detail) ∨ OneOwner s := by
  refine OneOwner.rule fun h => ?_
  unfold State.detected
  dsimp only
  repeat' split
  all_goals simp [h]

@[simp] theorem oneOwner_scrubBegin : OneOwner s.scrubBegin ↔ OneOwner s := by simp [State.scrubBegin]

@[simp] theorem oneOwner_rowError (stack loc : Nat) (inj : Bool) : OneOwner (s.rowError stack loc inj) ↔ OneOwner s := by
  unfold State.rowError
  dsimp only
  repeat' split
  all_goals simp

@[simp] theorem oneOwner_scrubRead (line : Nat) : OneOwner (s.scrubRead line) ↔ OneOwner s := by
  unfold State.scrubRead
  dsimp only
  repeat' split
  all_goals simp

@[simp] theorem oneOwner_katStart (p : Nat) : OneOwner (s.katStart p) ↔ Owned (s.katStart p) ∨ OneOwner s :=
  OneOwner.rule fun h => by simp [State.katStart, h]
@[simp] theorem oneOwner_katLeave (p next fails : Nat) : OneOwner (s.katLeave p next fails) ↔ OneOwner s := by simp [State.katLeave]
@[simp] theorem oneOwner_katGo (p run next fails : Nat) : OneOwner (s.katGo p run next fails) ↔ OneOwner s := by simp [State.katGo]

@[simp] theorem oneOwner_katPart (p : Nat) (pass : Bool) : OneOwner (s.katPart p pass) ↔ OneOwner s := by
  unfold State.katPart
  dsimp only
  repeat' split
  all_goals simp

@[simp] theorem oneOwner_blockBack (kind unit : Nat) : OneOwner (s.blockBack kind unit) ↔ OneOwner s := by
  unfold State.blockBack
  dsimp only
  repeat' split
  all_goals simp

@[simp] theorem oneOwner_nmiBack (kind unit : Nat) : OneOwner (s.nmiBack kind unit) ↔ Owned (s.nmiBack kind unit) ∨ OneOwner s :=
  OneOwner.rule fun h => by simp [State.nmiBack, h]

@[simp] theorem oneOwner_drainDue : OneOwner s.drainDue ↔ OneOwner s := by
  unfold State.drainDue
  split <;> simp

/-! ## Events of power -/

@[simp] theorem oneOwner_powerRecord (e : Event) : OneOwner (s.powerRecord e) ↔ OneOwner s := by simp [State.powerRecord]

/-! ## Events of bring-up -/

@[simp] theorem oneOwner_attnAsk : OneOwner s.attnAsk ↔ OneOwner s := by simp [State.attnAsk]

@[simp] theorem oneOwner_attnPress : OneOwner s.attnPress ↔ OneOwner s := by
  unfold State.attnPress
  dsimp only
  repeat' split
  all_goals simp

@[simp] theorem oneOwner_attnDue : OneOwner s.attnDue ↔ OneOwner s := by
  unfold State.attnDue
  split <;> simp

@[simp] theorem oneOwner_sbChecked (p0 p1 : Bool) : OneOwner (s.sbChecked p0 p1) ↔ OneOwner s := by simp [State.sbChecked]
@[simp] theorem oneOwner_compsChecked (passes : List Bool) : OneOwner (s.compsChecked passes) ↔ OneOwner s := by simp [State.compsChecked]

@[simp] theorem oneOwner_stacksTrained (failed : Option (Fin 24)) : OneOwner (s.stacksTrained failed) ↔ OneOwner s := by
  unfold State.stacksTrained
  split
  · simp
  · split <;> simp

@[simp] theorem oneOwner_metaRestored (ok : Bool) : OneOwner (s.metaRestored ok) ↔ Owned (s.metaRestored ok) ∨ OneOwner s :=
  OneOwner.rule fun h => by simp [State.metaRestored, h]
@[simp] theorem oneOwner_broughtUp (failed : List PumpId) : OneOwner (s.broughtUp failed) ↔ OneOwner s := by simp [State.broughtUp]

/-! ## Events of wells -/

@[simp] theorem oneOwner_zeroFilled (i : Nat) : OneOwner (s.zeroFilled i) ↔ OneOwner s := by simp [State.zeroFilled]

@[simp] theorem oneOwner_growDone (i : Nat) : OneOwner (s.growDone i) ↔ OneOwner s := by
  unfold State.growDone
  dsimp only
  repeat' split
  all_goals simp

@[simp] theorem oneOwner_drainTimeout (i n : Nat) : OneOwner (s.drainTimeout i n) ↔ Owned (s.drainTimeout i n) ∨ OneOwner s := by
  refine OneOwner.rule fun h => ?_
  unfold State.drainTimeout
  split <;> simp [h]

@[simp] theorem oneOwner_revComplete (i n : Nat) : OneOwner (s.revComplete i n) ↔ OneOwner s := by
  unfold State.revComplete
  split <;> simp

@[simp] theorem oneOwner_chunkDone (i : Nat) : OneOwner (s.chunkDone i) ↔ Owned (s.chunkDone i) ∨ OneOwner s := by
  refine OneOwner.rule fun h => ?_
  unfold State.chunkDone
  split <;> simp [h]

@[simp] theorem oneOwner_cancelDone (i : Nat) : OneOwner (s.cancelDone i) ↔ OneOwner s := by
  unfold State.cancelDone
  dsimp only
  repeat' split
  all_goals simp

end Rules

/-! ## Commands and steps -/

/-- A command that the model answers leaves what `finish` makes of a state whose directory it kept so. -/
theorem exec_keeps_oneOwner {s : State} (h : OneOwner s) (c : Instr) : ∃ u, exec c s = .next (finish u) ∧ OneOwner u := by
  cases c
  case twinPair =>
    refine ⟨_, rfl, ?_⟩
    split <;> simp +contextual [h]
  case twinPresenceLost =>
    refine ⟨_, rfl, ?_⟩
    split
    · exact h
    · dsimp only
      split <;> simp [h]
  case mirrorAckTimeout =>
    refine ⟨_, rfl, ?_⟩
    split
    · split <;> simp [h]
    · exact h
  case switchoverGapEnd =>
    refine ⟨_, rfl, ?_⟩
    split
    · simp [h]
    · split
      · split <;> simp [h]
      · exact h
  -- the effect of every other command is put together, under `if`s alone, from functions that have their rule above
  all_goals exact ⟨_, rfl, by simp +contextual [h]⟩

theorem step_keeps_oneOwner {s t : State} (h : OneOwner s) (ht : step s = .next t) : OneOwner t := by
  cases hp : s.pending with
  | nil =>
    rw [step_idle hp] at ht
    obtain rfl := Host.Outcome.next.inj ht
    simp [h]
  | cons c rest =>
    rw [step_command hp] at ht
    have hrest : OneOwner { s with pending := rest } := h
    obtain ⟨u, hu, hou⟩ := exec_keeps_oneOwner hrest c
    rw [hu] at ht
    obtain rfl := Host.Outcome.next.inj ht
    simp [hou]

end Sys2Proof.Machine

open Sys2Proof Sys2Proof.Machine

/-- Settles O2: each function of the model hands on a directory whose owners are single, so each command and then each step does. -/
theorem oneOwnerEveryStep : Obligations.OneOwnerEveryStep := fun _ _ h ht => step_keeps_oneOwner h ht
end

section
/-! PROOF. The operations of CACHE_CONTROL: each check reads the slices alone, which no use of a session changes, and each effect is that of the
slices that the command finds (05 R145 to R153; 04 R129). -/
namespace Sys2Proof.Machine

/-! ## What a step does with a command on the caches -/

section Commands
variable (s : State) (h : CmdHdr) (slices flags station : Byte) (value : BitVec 32)

theorem exec_cacheEnable : exec (.cacheEnable h slices flags station value) s = execCacheEnable h slices flags station value s := rfl
theorem exec_cacheDisable : exec (.cacheDisable h slices flags station value) s = execCacheDisable h slices flags station value s := rfl
theorem exec_cacheFlush : exec (.cacheFlush h slices flags station value) s = execCacheFlush h slices flags station value s := rfl
theorem exec_cacheInvalidate : exec (.cacheInvalidate h slices flags station value) s = execCacheInvalidate h slices flags station value s := rfl
theorem exec_cacheSetThreshold :
    exec (.cacheSetThreshold h slices flags station value) s = execCacheSetThreshold h slices flags station value s := rfl
theorem exec_cacheSetTHold : exec (.cacheSetTHold h slices flags station value) s = execCacheSetTHold h slices flags station value s := rfl
theorem exec_cacheSetQuota : exec (.cacheSetQuota h slices flags station value) s = execCacheSetQuota h slices flags station value s := rfl
theorem exec_cacheStatus : exec (.cacheStatus h slices flags station value) s = execCacheStatus h slices flags station value s := rfl

end Commands

/-! ## Their checks (05 R145 to R147) -/

/-- An operation on slices passes where some are selected, no reserved bit is set, and each selected one accepts it. -/
theorem sliceCheck_passes {s : State} (h : CmdHdr) {slices flags : Nat} {ok : SliceSt → Bool} (hsome : slices ≠ 0) (hfour : slices < 16)
    (hflags : flags < 2) (hok : ∀ d ∈ slicesOf slices, ok (s.slice d).st = true) : sliceCheck slices flags 0 0 ok (s.noteUse h) = none := by
  have hargs : (slices == 0 || 16 ≤ slices || 2 ≤ flags || (0 : Nat) != 0 || (0 : Nat) != 0) = false := by
    simp [hsome, hfour, hflags]
  have hall : ((slicesOf slices).all fun d => ok (s.slice d).st) = true := List.all_eq_true.2 hok
  refine check_noteUse h (fun _ => rfl) ?_
  simp only [sliceCheck, hargs, hall, firstOf, Bool.not_true, Bool.false_eq_true, if_false]

/-- A value in range passes where no reserved bit is set. -/
theorem setCheck_passes (s : State) {slices flags : Nat} {ok : Bool} (hfour : slices < 16) (hflags : flags < 2) (hok : ok = true) :
    setCheck slices flags ok s = none := if_neg (by simp [hfour, hflags, hok])

/-! ## The effects of ENABLE and SET_QUOTA (05 R152, R153; 04 R129) -/

/-- ENABLE walks the slices first, or counts what they retain and makes it valid again. -/
theorem enableApply_state (slices flags wb : Nat) (s : State) : (enableApply slices flags wb s).2.2 =
    if nbit flags 0 then s.onSlices slices fun x => { x with st := .invalidating, frm := .enabled, opens := true, wb := some wb }
    else
      let n := sumOf s.retainedIn (slicesOf slices)
      let v := (slicesOf slices).foldl (fun t d => t.reuseSlice d) s
      if n = 0 then v else v.modEntry wb fun e => { e with staleReuse := true, result := le 4 n } := by
  simp only [enableApply, beq_iff_eq]
  split <;> rfl

theorem setQuota_eq (s : State) (n v : Nat) : s.setQuota n v =
    (List.range 4).foldl (fun t d => t.quotaRecall n d) (s.modHome fun x => { x with quotas := tset x.quotas n v }) := by
  rw [State.setQuota]

end Sys2Proof.Machine

open Sys2Proof Sys2Proof.Machine

/-- Settles O17: each operation passes its check, and its effect is that of its own operation on the slices. -/
theorem cacheCommandsTakeEffect : Obligations.CacheCommandsTakeEffect := by
  refine ⟨fun s h slices flags hf hsome hfour hflags => ⟨fun hst => ?_, fun hst => ⟨?_, ?_⟩, fun hst => ?_⟩,
    fun s h slices flags n v hf hfour hflags => ⟨fun hlo hhi => ?_, fun hhi => ?_, fun hn hlo hhi => ?_⟩, fun s h slices flags hf hfour hflags => ?_⟩
  · exact effects_mailbox (exec_cacheEnable s h slices flags 0 0) hf nofun rfl
      (sliceCheck_passes h hsome hfour hflags (by simpa using hst))
      (fun wb t _ => enableApply_state _ _ wb t) rfl rfl
  · exact effects_mailbox (exec_cacheDisable s h slices flags 0 0) hf nofun rfl
      (sliceCheck_passes h hsome hfour hflags (by simpa using hst)) (fun _ _ _ => rfl) rfl rfl
  · exact effects_mailbox (exec_cacheFlush s h slices flags 0 0) hf nofun rfl
      (sliceCheck_passes h hsome hfour hflags (by simpa using hst)) (fun _ _ _ => rfl) rfl rfl
  · exact effects_mailbox (exec_cacheInvalidate s h slices flags 0 0) hf nofun rfl
      (sliceCheck_passes h hsome hfour hflags (by simpa using hst)) (fun _ _ _ => rfl) rfl rfl
  · exact effects_mailbox (exec_cacheSetThreshold s h slices flags 0 v) hf nofun rfl
      (setCheck_passes _ hfour hflags (by simp [hlo, hhi])) (fun _ _ _ => rfl) rfl rfl
  · exact effects_mailbox (exec_cacheSetTHold s h slices flags 0 v) hf nofun rfl
      (setCheck_passes _ hfour hflags (by simp [hhi])) (fun _ _ _ => rfl) rfl rfl
  · refine effects_mailbox (exec_cacheSetQuota s h slices flags n v) hf nofun rfl
      (setCheck_passes _ hfour hflags (by simp [hn, hlo, hhi])) (fun _ t _ => ?_) rfl rfl
    dsimp only
    exact setQuota_eq ..
  · exact answers_query (exec_cacheStatus s h slices flags 0 0) hf nofun rfl (setCheck_passes _ hfour hflags rfl) rfl rfl rfl
end

section
/-! PROOF. A host's snoop of a line that the device cache may hold: it waits for the line's transfer, or is answered as the line is cached
(05 R140). -/
namespace Sys2Proof.Machine

section Snoops
variable (s : State) (n : Station) (hpa : BitVec 64) (k : H2D)

theorem does_h2dSnoop : Does (.h2dSnoop n hpa k) s (s.hostSnoop n.val hpa.toNat k) := rfl

variable (hup : (s.stnAt n.val).up = true)
include hup

theorem hostSnoop_inMotion (hmove : s.inMotion n.val (lineOf hpa.toNat) = true) : s.hostSnoop n.val hpa.toNat k =
    { s with cache := { s.cache with snoops := s.cache.snoops ++ [(n.val, lineOf hpa.toNat, k)] } } := by
  simp [State.hostSnoop, hup, hmove]

theorem hostSnoop_still (hmove : s.inMotion n.val (lineOf hpa.toNat) = false) :
    s.hostSnoop n.val hpa.toNat k = s.snoopAnswer n.val (lineOf hpa.toNat) k := by
  simp [State.hostSnoop, hup, hmove]

end Snoops

section Answers
variable (s : State) (n a : Nat)

theorem snoopAnswer_miss (k : H2D) (hnone : s.cached (.host n a) = none) : s.snoopAnswer n a k = s.emit (.d2h n 0 .rspMiss a 0 0 false) := by
  simp only [State.snoopAnswer, hnone]

variable {c : CLine} (hc : s.cached (.host n a) = some c)
include hc

/-- A line that is not modified is answered without data, and stays in S or leaves as the snoop asks. -/
theorem snoopAnswer_clean (k : H2D) (hclean : c.hst ≠ .m) : s.snoopAnswer n a k = match k with
    | .cur => s.emit (.d2h n 0 .rspSHit a 0 0 false)
    | .data => (s.modLine (.host n a) fun c => { c with hst := .s }).emit (.d2h n 0 .rspSHit a 0 0 false)
    | .inv => (s.dropLine (.host n a)).emit (.d2h n 0 .rspIHit a 0 0 false) := by
  cases hst : c.hst with
  | m => exact absurd hst hclean
  | s | e => cases k <;> simp only [State.snoopAnswer, hc, hst]

/-- A modified line is forwarded, and no job keeps it in M unless the snoop leaves it so. -/
theorem snoopAnswer_modified (k : H2D) (hmod : c.hst = .m) : s.snoopAnswer n a k = State.emit (match k with
    | .cur => s
    | .data => (s.modLine (.host n a) fun c => { c with hst := .s }).forgetM n a
    | .inv => (s.dropLine (.host n a)).forgetM n a) (.d2h n 0 .rspFwdM a c.data 0 c.pois) := by
  cases k <;> simp only [State.snoopAnswer, hc, hmod]

end Answers

end Sys2Proof.Machine

open Sys2Proof Sys2Proof.Machine

/-- Settles O30: the cases of the line, in transfer, not cached, clean or modified, by the snoop's kind. -/
theorem hostSnoopsOfCachedLines : Obligations.HostSnoopsOfCachedLines := by
  refine ⟨fun s n hpa k hup hmove => (does_h2dSnoop ..).of_eq (hostSnoop_inMotion s n hpa k hup hmove), fun s n hpa hup hmove => ?_⟩
  have hstill {u : State} (k : H2D) (hanswer : s.snoopAnswer n.val (lineOf hpa.toNat) k = u) : Does (.h2dSnoop n hpa k) s u :=
    (does_h2dSnoop ..).of_eq ((hostSnoop_still s n hpa k hup hmove).trans hanswer)
  refine ⟨fun hnone k => ?_, fun c hc hclean => ?_, fun c hc hmod => ?_⟩
  · exact hstill k (snoopAnswer_miss s _ _ k hnone)
  · have hanswer := fun k => hstill k (snoopAnswer_clean s _ _ hc k hclean)
    exact ⟨hanswer .cur, hanswer .data, hanswer .inv⟩
  · have hanswer := fun k => hstill k (snoopAnswer_modified s _ _ hc k hmod)
    exact ⟨hanswer .cur, hanswer .data, hanswer .inv⟩
end

section
/-! PROOF. What stations answer to the device: the data or GO of an access, a timeout, a Translation Completion and an Invalidate Request (05
R136 to R140; 13 R397, R402 to R406; 14 R419). -/
namespace Sys2Proof.Machine

/-! ## Data and GO -/

/-- An access is out no longer. -/
def State.dropDev (s : State) (id : Nat) : State := s.modJobs fun x => { x with devOut := x.devOut.filter (·.id != id) }

section Go
variable (s : State) (n id : Nat) (d : Line)

theorem deviceGo_unasked (hnone : s.jobs.devOut.find? (fun o => o.id == id && o.stn == n) = none) : s.deviceGo n id d = s := by
  simp only [State.deviceGo, hnone]

variable {o : DevOut} (ho : s.jobs.devOut.find? (fun o => o.id == id && o.stn == n) = some o)
include ho

theorem deviceGo_read {keep : Bool} (hk : o.kind = .read keep) : s.deviceGo n id d = s.hostAnswer o d false := by
  simp only [State.deviceGo, ho, hk]

/-- The line as a granted request for ownership leaves it: the host's data with the bytes of the write over it, in M. -/
def DevOut.ownedLine (o : DevOut) (n : Nat) (mask : BitVec 64) (d : Line) : CLine :=
  { key := .host n o.hpa, die := 0, set := 0, way := 0, data := mergeLine d o.data mask, pois := o.pois, hst := .m }

theorem deviceGo_rdOwn_placed {mask : BitVec 64} (hk : o.kind = .rdOwn mask) {u : State}
    (hplace : (s.dropDev id).putMoving id (o.ownedLine n mask d) = some u) :
    s.deviceGo n id d = (u.keepM o.job n o.hpa).lineFree n o.hpa := by
  simp only [State.dropDev, DevOut.ownedLine] at hplace
  simp only [State.deviceGo, ho, hk, hplace]

/-- An owned line that finds no way goes back to its host at once. -/
theorem deviceGo_rdOwn_unplaced {mask : BitVec 64} (hk : o.kind = .rdOwn mask)
    (hplace : (s.dropDev id).putMoving id (o.ownedLine n mask d) = none) :
    s.deviceGo n id d = (((s.dropDev id).wayDone id).dropLine (.host n o.hpa)).device n .dirtyEvict (.write fullMask true) o.hpa
      (mergeLine d o.data mask) o.pois o.job o.opnd o.addr := by
  simp only [State.dropDev, DevOut.ownedLine] at hplace
  simp only [State.deviceGo, ho, hk, hplace, State.dropDev]

/-- An eviction, with its data or without, frees its way and its line. -/
theorem deviceGo_evict (hk : o.kind = .evict ∨ ∃ mask, o.kind = .write mask true) :
    s.deviceGo n id d = ((s.dropDev id).wayDone id).lineFree n o.hpa := by
  rcases hk with hk | ⟨mask, hk⟩ <;> simp only [State.deviceGo, ho, hk, State.dropDev]

theorem deviceGo_write {mask : BitVec 64} (hk : o.kind = .write mask false) : s.deviceGo n id d = s.dropDev id := by
  simp only [State.deviceGo, ho, hk, State.dropDev]

/-- No GO answers a write that waits for a transfer of its line, or one of CXL.io. -/
theorem deviceGo_unanswered {mask : BitVec 64} (hk : o.kind = .merge mask ∨ o.kind = .ioWrite mask) : s.deviceGo n id d = s := by
  rcases hk with hk | hk <;> simp only [State.deviceGo, ho, hk]

/-- A flushing read acknowledges the posted writes before it (14 R432). -/
theorem deviceGo_flush (hk : o.kind = .flush) : s.deviceGo n id d = (s.dropDev id).modJobs fun x =>
    { x with devOut := x.devOut.filter fun w => !(w.stn == n && w.id < id && w.kind.posted) } := by
  simp only [State.deviceGo, ho, hk, State.dropDev]

end Go

/-! ## Timeouts -/

/-- The access has gone to the host: what `State.ctoExpire` asks of one that can time out. -/
def DevOut.sent (o : DevOut) : Bool := match o.kind with | .merge _ | .ioWrite _ => false | _ => true

/-- An access that serves no job, and that acknowledges no write, ends with its record alone. -/
theorem ctoExpire_jobless (s : State) (n id : Nat) {o : DevOut}
    (ho : s.jobs.devOut.find? (fun o => o.id == id && o.stn == n && o.sent) = some o) (hjob : o.job = none) (hk : o.kind ≠ .flush) :
    s.ctoExpire n id = ((((((s.until o.deadline).dropDev id).wayDone id).aerLog n .completionTimeout).record
      { source := 0x0405, unit := n, address := o.hpa })).lineFree n o.hpa := by
  have hflush : (o.kind == .flush) = false := beq_eq_false_iff_ne.2 hk
  have hkeep (u : State) : (u.modJobs fun x => { x with devOut := x.devOut.filter fun w => !([] : List DevOut).contains w }) = u := by
    simp [State.modJobs]
  unfold State.ctoExpire
  dsimp only
  split
  next o' ho' =>
    obtain rfl : o' = o := Option.some.inj (ho'.symm.trans ho)
    simp only [hjob, Option.bind_none, hflush, Bool.false_eq_true, if_false, List.foldl_nil, hkeep, State.dropDev]
  next hnone => exact nomatch hnone.symm.trans ho

/-! ## Translations -/

theorem modStn_modStn (s : State) (n : Station) (f g : Stn → Stn) : (s.modStn n.val f).modStn n.val g = s.modStn n.val fun t => g (f t) := by
  simp [State.modStn, n.isLt]

/-- A job of whose tiles no page has failed does not stop. -/
theorem atsStop_unfailed (s : State) (q : AtsReq) (h : ∀ m < 48, ∀ y ∈ (s.stnAt m).atsFailed, y.1 ≠ q.job) : s.atsStop q = s := by
  unfold State.atsStop
  split
  next j a len hj htile =>
    have hid : j.id = q.job := beq_iff_eq.1 (List.find?_some hj :)
    have hnone : ((List.range 48).any fun n => (s.stnAt n).atsFailed.any (·.1 == j.id)) = false := by
      simp only [List.any_eq_false, List.mem_range, Bool.not_eq_true, beq_eq_false_iff_ne, hid]
      exact h
    simp [hnone]
  next => rfl

/-- A tile next to move, of which a page has failed and of which nothing is awaited, stops its job at its first byte without a translation. -/
theorem atsStop_fault (s : State) (q : AtsReq) {j : Job} {a len y : Nat} {st : JobStatus} (hj : s.job q.job = some j)
    (htile : q.tile = some (a, len)) (hstep : q.step = 5) (hnext : q.ahead = false) (hfailed : ∃ m < 48, ∃ x ∈ (s.stnAt m).atsFailed, x.1 = j.id)
    (hfault : s.xlateTile j j.lastPump (j.op q.opnd) q.opnd a len .r 5 = .fault st y) :
    s.atsStop q = s.xlateStop j.id j.lastPump q.opnd 5 st y := by
  have hany : ((List.range 48).any fun n => (s.stnAt n).atsFailed.any (·.1 == j.id)) = true := by
    simpa using hfailed
  simp [State.atsStop, hj, htile, hstep, hnext, hany, hfault]

section Completion
variable (s : State) (n : Station) (addr : Nat) (x : AtsAnswer) {q : AtsReq} (hup : (s.stnAt n.val).up = true)
  (hq : (s.stnAt n.val).atsReqs = [q]) (hpage : q.page = addr / 4096) (hinv : q.inv = [])
include hup hq hpage hinv

/-- A translation is cached in front of the others. -/
theorem atsAnswer_cached (hok : x.ok = true) (hread : x.read = true) {e : AtcEnt} (he : atcEntry (addr / 4096 * 4096) x = e) :
    s.atsAnswer n.val addr x = (s.modStn n.val fun t =>
      { t with atsReqs := [], atc := e :: (t.atc.filter fun y => !(y.base == e.base && y.k == e.k)).take 4095 }).atsStop q := by
  simp only [State.atsAnswer, hq, hpage, he, hup, hinv, hok, hread, List.find?_cons, beq_self_eq_true, Bool.not_true, Bool.false_and, Bool.or_self,
    Bool.false_eq_true, if_false, List.any_nil, modStn_modStn]
  refine congrArg (State.atsStop · q) (modStn_congr s ?_)
  simp only [hq, List.erase_cons_head]

/-- No access: the request ends, and one for a tile that is next to move leaves its failure behind. -/
theorem atsAnswer_denied (hno : x.ok = false ∨ (x.read = false ∧ x.write = false)) :
    s.atsAnswer n.val addr x = if q.ahead then s.modStn n.val fun t => { t with atsReqs := [] }
      else (s.modStn n.val fun t => { t with atsReqs := [], atsFailed := t.atsFailed ++ [(q.job, addr / 4096)] }).atsStop q := by
  have hnone : (!x.ok || (!x.read && !x.write)) = true := by simpa using hno
  simp only [State.atsAnswer, hq, hpage, hup, hinv, hnone, List.find?_cons, beq_self_eq_true, Bool.not_true, Bool.false_eq_true, if_false, if_true,
    List.any_nil, modStn_modStn]
  have herase : (s.stnAt n.val).atsReqs.erase q = [] := by rw [hq, List.erase_cons_head]
  split
  · exact modStn_congr s (by simp only [herase])
  · exact congrArg (State.atsStop · q) (modStn_congr s (by simp only [herase]))

end Completion

/-- What a completion that is cached leaves: no stop where no page of the job has failed, and neither memory nor job changes. -/
theorem atsAnswer_leaves (s : State) (n : Station) (addr : Nat) (x : AtsAnswer) {q : AtsReq} (hup : (s.stnAt n.val).up = true)
    (hq : (s.stnAt n.val).atsReqs = [q]) (hpage : q.page = addr / 4096) (hinv : q.inv = []) (hok : x.ok = true) (hread : x.read = true)
    (hfine : ∀ m < 48, ∀ y ∈ (s.stnAt m).atsFailed, y.1 ≠ q.job) :
    let u := s.atsAnswer n.val addr x
    (u.stnAt n.val).atsReqs = [] ∧ (u.stnAt n.val).atc.head? = some (atcEntry (addr / 4096 * 4096) x) ∧ u.mem = s.mem ∧ u.jobs = s.jobs := by
  have hcached := atsAnswer_cached s n addr x hup hq hpage hinv hok hread rfl
  rw [atsStop_unfailed] at hcached
  · simp [hcached]
  · intro m hm
    rw [stnAt_modStn]
    split <;> exact hfine m hm

/-- An Invalidate Request drops what meets its span, and overtakes every request that is out (R405). -/
theorem atsInvalidate_up (s : State) (n : Station) (addr k : Nat) (hup : (s.stnAt n.val).up = true) :
    let size := 4096 * 2 ^ k
    let base := addr / size * size
    let hit := fun (e : AtcEnt) => meets base size e.base (4096 * 2 ^ e.k)
    s.atsInvalidate n.val addr k = s.modStn n.val fun t =>
      { t with atc := t.atc.filter fun e => !hit e, atsFailed := t.atsFailed.filter fun y => !meets base size (4096 * y.2) 4096,
               atsReqs := t.atsReqs.map fun q => { q with inv := q.inv ++ [(base, size)] },
               atsInv := t.atsInv ++ [{ base := base, k := k, spans := (t.atc.filter hit).map fun e => (e.hpa, 4096 * 2 ^ e.k) }] } := by
  simp only [State.atsInvalidate, hup, Bool.not_true, Bool.false_eq_true, if_false]

/-! ## The commands -/

section Commands
variable (s : State) (n : Station)

theorem does_deviceWriteGo (id : BitVec 32) (d : Line) : Does (.deviceWriteGo n id d) s (s.deviceGo n.val id.toNat d) := rfl

theorem does_stationCtoExpire (id : BitVec 32) : Does (.stationCtoExpire n id) s (s.ctoExpire n.val id.toNat) := rfl

theorem does_atsTranslationCompletion (a : BitVec 56) (x : AtsAnswer) :
    Does (.atsTranslationCompletion n a x) s (s.atsAnswer n.val a.toNat x) := rfl

theorem does_atsInvalidateRequest (a : BitVec 56) (k : BitVec 6) :
    Does (.atsInvalidateRequest n a k) s (s.atsInvalidate n.val a.toNat k.toNat) := rfl

end Commands

end Sys2Proof.Machine

open Sys2Proof Sys2Proof.Machine

/-- Settles O58: a GO by the kind of its access, a Translation Completion by whether it grants access; a timeout, the stop of a tile and an
Invalidate Request each in its one case. -/
theorem stationAnswersAct : Obligations.StationAnswersAct := by
  refine ⟨fun s n id d hnone => ?_, fun s n id d o ho => ?_, fun s n id o ho hjob hk => ?_, fun s n a x q hup hq hpage hinv => ?_,
    fun s q j a len y st hj htile hstep hnext hfailed hfault => atsStop_fault s q hj htile hstep hnext hfailed hfault, fun s n a k hup => ?_⟩
  · exact (does_deviceWriteGo ..).of_eq (deviceGo_unasked s _ _ d hnone)
  · have hgo {u : State} (h : s.deviceGo n.val id.toNat d = u) : Does (.deviceWriteGo n id d) s u := (does_deviceWriteGo ..).of_eq h
    refine ⟨fun keep hk => ?_, fun mask hk => ⟨fun u hplace => ?_, fun hplace => ?_⟩, fun hk => ?_, fun mask hk => ?_, fun mask hk => ?_, fun hk => ?_⟩
    · exact hgo (deviceGo_read s _ _ d ho hk)
    · exact hgo (deviceGo_rdOwn_placed s _ _ d ho hk hplace)
    · exact hgo (deviceGo_rdOwn_unplaced s _ _ d ho hk hplace)
    · exact hgo (deviceGo_evict s _ _ d ho hk)
    · exact hgo (deviceGo_write s _ _ d ho hk)
    · exact hgo (deviceGo_unanswered s _ _ d ho hk)
    · exact hgo (deviceGo_flush s _ _ d ho hk)
  · exact (does_stationCtoExpire ..).of_eq (ctoExpire_jobless s _ _ ho hjob hk)
  · refine ⟨fun hok hread hfine => ?_, fun hno => ?_⟩
    · exact ⟨_, does_atsTranslationCompletion s n a x, atsAnswer_leaves s n _ x hup hq hpage hinv hok hread hfine⟩
    · have hdenied := (does_atsTranslationCompletion s n a x).of_eq (atsAnswer_denied s n _ x hup hq hpage hinv hno)
      exact ⟨fun hahead => hdenied.of_eq (if_pos hahead), fun hnext => hdenied.of_eq (if_neg (by simp [hnext]))⟩
  · exact (does_atsInvalidateRequest ..).of_eq (atsInvalidate_up s n _ _ hup)
end

section
/-! PROOF. Pins that stand at the levels their state gives them follow the state (16 R484; 17 R525; 18 R562; 20 R602), and what a reset
holds. -/
namespace Sys2Proof.Machine

/-! ## The levels of the pins -/

section Levels
variable {s : State}

theorem toggleStopped_iff : s.toggleStopped = true ↔ ∃ r ∈ s.flt.records, stopsToggle r := by
  simp [State.toggleStopped, stopsToggle, or_assoc]

theorem pinOpen_iff : s.pinOpen = true ↔ ∃ r ∈ s.flt.records, r.acked = false ∧ r.pin = true := by
  simp [State.pinOpen]

theorem toggles_iff : s.toggles = true ↔ s.mod.phase = .bringUp ∨ s.mod.phase = .factory ∨ s.mod.phase = .recovery := by
  simp [State.toggles, or_assoc]

theorem toggles_not_serving (h : s.mod.phase = .service ∨ s.mod.phase = .drained) : s.toggles = false := by
  rcases h with h | h <;> simp [State.toggles, h]

theorem errLow_unpowered (h : s.pwr.hotSwap ≠ .closed) : s.errLow = false := by
  simp [State.errLow, h]

variable (hc : s.pwr.hotSwap = .closed)
include hc

/-- MOD_ERR_N is low before Utvanan runs and where the pin is forced (17 R525). -/
theorem errLow_silent (h : s.answers = false ∨ s.mod.errForced = true) : s.errLow = true := by
  rcases h with h | h <;> simp [State.errLow, hc, h]

/-- Where firmware drives the pin, a record that stops the toggle leaves it low (17 R525). -/
theorem errLow_toggling (ht : s.toggles = true) (hr : s.toggleStopped = true) : s.errLow = true := by
  simp [State.errLow, hc, ht, hr]

/-- Where no toggle runs, the level is the one-shot's or that of an unacknowledged record with PIN (17 R525). -/
theorem errLow_serving (ha : s.answers = true) (hf : s.mod.errForced = false) (ht : s.toggles = false) :
    s.errLow = (s.mod.oneShot || s.pinOpen) := by
  simp [State.errLow, hc, ha, hf, ht]

end Levels

/-- The level of every pin is a function of the state: pins at these levels follow it. -/
theorem pinsFollow_of_levels {s : State} (htodo : s.todo = []) (hpins : s.pins = pinsOf s) : PinsFollow s := by
  constructor
  case reacted => exact htodo
  all_goals rw [hpins]
  case unpowered => exact fun ho => ⟨errLow_unpowered ho, by simp [pinsOf, ho], by simp [pinsOf, ho]⟩
  case silent => exact fun hc h => ⟨errLow_silent hc h, by rcases h with h | h <;> simp [pinsOf, h]⟩
  case present => exact fun hc ha hf => by simp [pinsOf, hc, ha, hf]
  case thermal => exact fun hc => by simp [pinsOf, hc]
  case serving =>
    intro hc ha hf hphase
    rw [← pinOpen_iff, ← Bool.or_eq_true, ← errLow_serving hc ha hf (toggles_not_serving hphase)]
    rfl
  case toggling => exact fun hc hphase hr => errLow_toggling hc (toggles_iff.2 hphase) (toggleStopped_iff.2 hr)
  case unlit => exact fun hsb => by simp [pinsOf, State.pwrLed, State.attnLed, hsb]
  case removable => exact fun hsb hd => by simp [pinsOf, State.pwrLed, State.attnLed, hsb, hd]
  case stopped => exact fun hsb hd hst => by simp [pinsOf, State.pwrLed, State.attnLed, hsb, hd, hst]
  case flagged => exact fun hsb hd hr hphase => by simp [pinsOf, State.attnLed, hsb, hd, hr, hphase]
  case busy =>
    intro hsb hd hst h
    rcases h with h | h | h <;> simp +contextual [pinsOf, State.pwrLed, State.attnLed, hsb, hd, hst, h]
  case lit =>
    intro hsb hd hst hl
    constructor <;> intro hphase <;> simp +contextual [pinsOf, State.pwrLed, State.attnLed, hsb, hd, hst, hl, hphase]

/-! ## The state at reset (20 R592) -/

theorem pinsFollow_reset : PinsFollow State.reset := pinsFollow_of_levels rfl rfl

/-- Every pump comes out of a reset the same (08 R239). -/
theorem pumpAt_reset (p : Nat) : State.reset.pumpAt p = {} := by
  change (List.replicate 16 ({} : Pump)).getD p {} = {}
  rw [List.getD_eq_getElem?_getD, List.getElem?_getD_replicate_default_eq]

end Sys2Proof.Machine

open Sys2Proof Sys2Proof.Machine

/-- Settles O4: the pins of a reset stand at their levels, and its tables are empty. -/
theorem resetState : Obligations.ResetState :=
  ⟨pinsFollow_reset, fun _ he => absurd he List.not_mem_nil, rfl, rfl, fun p _ => congrArg Pump.part (pumpAt_reset p), fun _ => rfl⟩
end

section
/-! PROOF. The start of a job: what each start row does with the job it finds, and which of the checks before the first tile decides (08 R221,
R236; 11 R326 to R335; 12 R358, R366). -/
namespace Sys2Proof.Machine

/-! ## Start rows (11 R326) -/

/-- The commands that start a job of platform `q` at index `k`, with their opcodes. -/
def startRows (q : BitVec 12) (k : BitVec 24) : List (Instr × Nat) :=
  [(.nop q k, 0x00), (.draw q k, 0x01), (.drawTree q k, 0x02), (.merge q k, 0x03), (.encode q k, 0x10), (.fetch q k, 0x11),
    (.copy q k, 0x20), (.fill q k, 0x21), (.gather q k, 0x22), (.scatter q k, 0x23), (.atomic q k, 0x24), (.gemm q k, 0x30), (.lowrank q k, 0x31),
    (.checksum q k, 0x40), (.prefixInsert q k, 0x51)]

section Rows
variable (s : State) {q : BitVec 12} {k : BitVec 24}

theorem does_startRow {i : Instr} {op : Nat} (h : (i, op) ∈ startRows q k) : Does i s (s.startRow op q.toNat k.toNat) := by
  suffices hall : ∀ x ∈ startRows q k, Does x.1 s (s.startRow x.2 q.toNat k.toNat) from hall _ h
  simp only [startRows, List.forall_mem_cons]
  exact ⟨rfl, rfl, rfl, rfl, rfl, rfl, rfl, rfl, rfl, rfl, rfl, rfl, rfl, rfl, rfl, fun _ hn => absurd hn List.not_mem_nil⟩

variable {op plat idx p : Nat} {j : Job} (hj : s.jobAt plat idx (fun j => j.opcode == op && j.readyOn.isSome) = some j)
  (hst : j.stage = .ready p)
include hj hst

theorem startRow_ready : s.startRow op plat idx = if p < 16 && s.queueBusy j p then s else s.begin_ j p := by
  have hon : j.readyOn = some p := by simp only [Job.readyOn, hst]
  simp only [State.startRow, hj, hon, Option.getD_some]

/-- A job starts on a pump whose write queue holds no uncovered write of an earlier one (08 R236). -/
theorem startRow_free (hq : s.queueBusy j p = false) : s.startRow op plat idx = s.begin_ j p := by
  rw [startRow_ready s hj hst, hq, Bool.and_false, if_neg Bool.false_ne_true]

theorem startRow_busy (hp : p < 16) (hq : s.queueBusy j p = true) : s.startRow op plat idx = s := by
  rw [startRow_ready s hj hst, hq, decide_eq_true hp, Bool.and_self, if_pos rfl]

end Rows

/-! ## The checks before the first tile (11 R326) -/

/-- The two operands of a copy overlap (11 R331). -/
def Job.overlaps (j : Job) : Prop := rangesMeet (j.op 0) 0 (j.par 0x60 8) (j.op 1) 0 (j.par 0x60 8) = true

/-- A copy is refused where its operands overlap; no other operator is. -/
theorem overlap_check_false {j : Job} (h : j.opcode = 0x20 → ¬ j.overlaps) :
    (j.opcode == 0x20 && rangesMeet (j.op 0) 0 (j.par 0x60 8) (j.op 1) 0 (j.par 0x60 8)) = false := by
  rw [Bool.and_eq_false_imp]
  exact fun hop => Bool.eq_false_of_not_eq_true (h (eq_of_beq hop))

/-- The job has passed the checks before its first tile, and its first step begins on pump `p`. -/
def State.startOn (s : State) (j : Job) (p : Nat) : State := s.modJob j.id fun j => { j with stage := .running p, stepStart := s.now }

/-- The entries of namespace `i` that are PENDING (12 R377). -/
def State.pendingOf (s : State) (i : Nat) : List Nat := (s.pfx.index.filter fun x => x.2.ns == i && !x.2.live).map (·.1)

section Checks
variable (s : State) (j : Job) (p : Nat)

theorem begin_badDescriptor {k off : Nat} (hd : s.descBad j = some (k, off)) : s.begin_ j p = s.descStop j.id p k off .badDescriptor := by
  simp only [State.begin_, hd]

variable {j} (hd : s.descBad j = none)
include hd

theorem begin_overlap (hop : j.opcode = 0x20) (hmeet : j.overlaps) : s.begin_ j p = s.descStop j.id p 1 0x28 .badDescriptor := by
  unfold Job.overlaps at hmeet
  simp only [State.begin_, hd, hop, hmeet, BEq.rfl, Bool.and_self, if_true]

variable (hmeet : j.opcode = 0x20 → ¬ j.overlaps)
include hmeet

theorem begin_scratchFault {k a : Nat} (hs : s.scratchBad j = some (k, a)) : s.begin_ j p =
    s.stopJob j.id .rightsFault (some (s.pumpFail p k (if k = 7 ∨ writesOpnd j.opcode k = true then 6 else 5) 1 a)) := by
  simp only [State.begin_, hd, overlap_check_false hmeet, hs, Bool.false_eq_true, if_false, Bool.or_eq_true, beq_iff_eq]

variable (hs : s.scratchBad j = none)
include hs

/-- An operator that neither ends at once nor works on a namespace loads its first tiles. -/
theorem begin_loads (hop : j.opcode ∉ [0x00, 0x50, 0x51, 0x52]) : s.begin_ j p = (s.startOn j p).prefetch j.id p 4096 := by
  simp only [List.mem_cons, not_or] at hop
  obtain ⟨h00, h50, h51, h52, -⟩ := hop
  simp only [State.begin_, hd, overlap_check_false hmeet, hs, Bool.false_eq_true, if_false, State.startOn]

end Checks

section Passed
variable (s : State) {j : Job} (p : Nat) (hd : s.descBad j = none) (hs : s.scratchBad j = none)
include hd hs

theorem begin_nop (hop : j.opcode = 0x00) : s.begin_ j p = (s.startOn j p).finishJob j.id := by
  simp [State.begin_, hd, hs, hop, State.startOn]

/-- A lookup or release notes the PENDING entries of its namespace (12 R377). -/
theorem begin_prefixJob (hop : j.opcode = 0x50 ∨ j.opcode = 0x52) {i : Nat} (hns : (s.startOn j p).nsFor j.plat (j.par 0x5C 4) = (i, none)) :
    s.begin_ j p = ((s.startOn j p).modJob j.id fun j => { j with pendAt := (s.startOn j p).pendingOf i }).prefetch j.id p 4096 := by
  unfold State.startOn at hns
  rcases hop with hop | hop <;> simp [State.begin_, hd, hs, hop, State.startOn, State.pendingOf, hns]

theorem begin_prefixJob_refused (hop : j.opcode = 0x50 ∨ j.opcode = 0x52) {i : Nat} {st : JobStatus}
    (hns : (s.startOn j p).nsFor j.plat (j.par 0x5C 4) = (i, some st)) : s.begin_ j p = (s.startOn j p).descStop j.id p 0 0x5C st := by
  unfold State.startOn at hns
  rcases hop with hop | hop <;> simp [State.begin_, hd, hs, hop, State.startOn, hns]

end Passed

end Sys2Proof.Machine

open Sys2Proof Sys2Proof.Machine

/-- Settles O52: each start row begins its job, and the checks before the first tile decide in their order. -/
theorem readyJobsStart : Obligations.ReadyJobsStart := by
  refine ⟨fun s q k i op j p hrow hj hst => ⟨fun hq => ?_, fun hp hq => ?_⟩, fun s j p hd hs => ⟨fun hop => ?_, fun hop => ?_, fun hop hmeet => ?_,
    fun hop => ⟨fun i hns => ?_, fun i st hns => ?_⟩⟩, fun s j p hd => ⟨fun hop hmeet => ?_, fun k a hmeet hs => ?_⟩,
    fun s j p k off hd => begin_badDescriptor s j p hd⟩
  · exact (does_startRow s hrow).of_eq (startRow_free s hj hst hq)
  · exact (does_startRow s hrow).of_eq (startRow_busy s hj hst hp hq)
  · exact begin_loads s p hd (fun h => absurd (by simp [h]) hop) hs fun h => hop ((by decide : ([0x00, 0x50, 0x51, 0x52] : List Nat) ⊆ _) h)
  · exact begin_nop s p hd hs hop
  · exact begin_loads s p hd (fun _ => by simp [Job.overlaps, hmeet]) hs (by simp [hop])
  · exact begin_prefixJob s p hd hs hop hns
  · exact begin_prefixJob_refused s p hd hs hop hns
  · exact begin_overlap s p hd hop hmeet
  · exact begin_scratchFault s p hd hmeet hs
end

section
/-! PROOF. What a pump does with its job: it takes one, loads, steps, repeats a step that failed, and hangs (08 R227, R243 to R246; 17 R520,
R521, R541). -/
namespace Sys2Proof.Machine

/-! ## What a step does with a pump's command -/

section Commands
variable (s : State) (p : PumpId)

theorem does_pumpJobHandoff : Does (.pumpJobHandoff p) s (s.takeJob p.val) := rfl

theorem does_tileLoadDone (lines : BitVec 13) (host : PageImage) :
    Does (.tileLoadDone p lines host) s (s.loadDone p.val lines.toNat host) := rfl

theorem does_tileStepDone (fail : Option StepOp) : Does (.tileStepDone p fail) s (s.stepDone p.val fail) := rfl

theorem does_stepReplayDone (pass : Bool) : Does (.stepReplayDone p pass) s (s.replayDone p.val pass) := rfl

theorem does_replayPumpWaitExpire : Does (.replayPumpWaitExpire p) s (s.replayWaitEnd p.val) := rfl

theorem does_pumpHangTimeout : Does (.pumpHangTimeout p) s (s.pumpHang p.val) := rfl

end Commands

/-! ## The rows of a pump -/

section Rows
variable (s : State) {p : Nat}

/-- An idle pump takes the head of its queue (08 R227). -/
theorem takeJob_queued {id : Nat} {rest : List Nat} (hidle : (s.pumpAt p).job = none) (hawake : (s.pumpAt p).waking = false)
    (htakes : (s.pumpAt p).takes ((s.pumpAt p).part.getD 16) = true) (hcap : s.pumpCaptured p = false)
    (hqueue : (s.pumpAt p).queue = id :: rest) :
    s.takeJob p = (s.modPump p fun x => { x with queue := rest }).giveJob id p := by
  simp [State.takeJob, hidle, hawake, htakes, hcap, hqueue]

/-- Where no injection waits on a pump, an execution meets none (17 R541). -/
theorem meetInjection_clean (j : Job) (hpar : (s.pumpAt p).parityInj = 0) (hsum : (s.pumpAt p).csumInj = 0) :
    s.meetInjection j p = (false, s) := by
  simp [State.meetInjection, hpar, hsum]

/-- A first repetition that passes counts as transient, and the step's results go out (08 R246). -/
theorem replayDone_first_passed {j : Job} {op : StepOp} (hjob : (s.pumpAt p).job = some j.id) (hj : s.job j.id = some j)
    (hst : j.stage = .running p) (hreplay : j.replay = .first op) (hgood : j.buffersGood = true) (hawake : (s.pumpAt p).waking = false)
    (hpar : (s.pumpAt p).parityInj = 0) (hsum : (s.pumpAt p).csumInj = 0) :
    s.replayDone p true = (s.transient p j.injected).fireAgain j.id p := by
  have hon : ((s.pumpAt p).job.bind s.job).filter (fun j => j.buffersGood && !(s.pumpAt p).waking) = some j := by
    simp [hjob, hj, hgood, hawake]
  simp [State.replayDone, hon, hst, meetInjection_clean s j hpar hsum, hreplay]

variable {j : Job} (hon : s.onPump p = some j)
include hon

theorem loadDone_turn {lines : Nat} (host : PageImage) (hreplay : j.replay = .none) (hlow : 1 ≤ lines) (hhigh : lines ≤ 4096)
    (hcap : s.pumpCaptured p = false) : s.loadDone p lines host = s.turn j.id p lines host := by
  simp [State.loadDone, hon, hreplay, hlow, hhigh, hcap]

/-- With no replay under way and no injection, what the checks say decides (08 R245). -/
theorem stepDone_ready (fail : Option StepOp) (hready : s.stepReady j = true) (hreplay : j.replay = .none) (hcap : s.pumpCaptured p = false)
    (hpar : (s.pumpAt p).parityInj = 0) (hsum : (s.pumpAt p).csumInj = 0) :
    s.stepDone p fail = fail.elim (s.fire j p) fun op => s.checkFail j p op false := by
  cases fail <;> simp [State.stepDone, hon, hready, hreplay, hcap, meetInjection_clean s j hpar hsum]

/-- A third execution that finds no other pump runs on the same one (08 R246). -/
theorem replayWaitEnd_wait {op : StepOp} {d : Nat} (hreplay : j.replay = .wait op d) :
    s.replayWaitEnd p = (s.until d).modJob j.id fun j => { j with replay := .third op p, stepStart := (s.until d).now } := by
  simp [State.replayWaitEnd, hon, hreplay, State.thirdOn]

theorem pumpHang_running : s.pumpHang p = (s.until (j.stepStart + 10000000)).record { source := 0x0305, unit := p } := by
  simp only [State.pumpHang, hon]

end Rows

end Sys2Proof.Machine

open Sys2Proof Sys2Proof.Machine

/-- Settles O55: each command is one row of its pump, and the job that runs there decides what the row does. -/
theorem pumpsWork : Obligations.PumpsWork := by
  refine ⟨fun s p id rest hidle hawake htakes hcap hqueue => ?_, fun s p lines host j hon hreplay hlow hhigh hcap => ?_,
    fun s p j hon hready hreplay hcap hpar hsum => ?_, fun s p j op hjob hj hst hreplay hgood hawake hinj hpar hsum => ?_,
    fun s p j op d hon hreplay => ?_, fun s p j hon => ?_⟩
  · exact (does_pumpJobHandoff s p).of_eq (takeJob_queued s hidle hawake htakes hcap hqueue)
  · exact (does_tileLoadDone s p lines host).of_eq (loadDone_turn s hon host hreplay hlow hhigh hcap)
  · have hdone (fail : Option StepOp) := (does_tileStepDone s p fail).of_eq (stepDone_ready s hon fail hready hreplay hcap hpar hsum)
    exact ⟨hdone none, fun op => hdone (some op)⟩
  · have hpass := replayDone_first_passed s hjob hj hst hreplay hgood hawake hpar hsum
    rw [hinj] at hpass
    exact (does_stepReplayDone s p true).of_eq hpass
  · exact (does_replayPumpWaitExpire s p).of_eq (replayWaitEnd_wait s hon hreplay)
  · exact (does_pumpHangTimeout s p).of_eq (pumpHang_running s hon)
end

section
/-! PROOF. The commands on platforms and partitions: the checks read the platforms' and partitions' tables, and each effect is that of the
tables the command finds (11 R320 to R323). -/
namespace Sys2Proof.Machine

/-! ## What a step does with a command on platforms -/

section Commands
variable (s : State) (h : CmdHdr) (p : BitVec 16)

theorem exec_platformCreate (well : BitVec 32) (n part : Byte) (vec : BitVec 16) (off : BitVec 64) (c : BitVec 16) (slots : Byte)
    (allot : BitVec 32) (mask : BitVec 64) : exec (.platformCreate h well n part vec off c slots allot mask) s =
      execPlatformCreate h well n part vec off c slots allot mask s := rfl
theorem exec_platformDestroy : exec (.platformDestroy h p) s = execPlatformDestroy h p s := rfl
theorem exec_platformDrainFinish : exec (.platformDrainFinish h p) s = execPlatformDrainFinish h p s := rfl
theorem exec_platformDrainAbort : exec (.platformDrainAbort h p) s = execPlatformDrainAbort h p s := rfl
theorem exec_platformDrainResume : exec (.platformDrainResume h p) s = execPlatformDrainResume h p s := rfl
theorem exec_partitionSet (part lwait : Byte) (quota : BitVec 32) (pumps : BitVec 16) :
    exec (.partitionSet h part lwait quota pumps) s = execPartitionSet h part lwait quota pumps s := rfl

end Commands

/-! ## The platform that a PLATFORM_CREATE takes (11 R320) -/

section Create
variable (s : State)

theorem freePlat_fst : s.freePlat.1 = let k := (s.choose 4096).1
    if ((s.choose 4096).2.plat k).st == .free then some k else (List.range 4096).find? fun p => ((s.choose 4096).2.plat p).st == .free := by
  simp only [State.freePlat, apply_ite Prod.fst]

theorem freePlat_mbx (x : MbxS) : (State.freePlat { s with mbx := x }).1 = s.freePlat.1 := by
  simp only [freePlat_fst]
  rfl

theorem freePlat_same {s t : State} (h : Same s t) : t.freePlat.1 = s.freePlat.1 := by
  simp only [freePlat_fst, State.choose, State.plat, h.jobs, h.freeCtr]
  rfl

theorem platCreateCheck_mbx (well n part vector ringOff c slots allot mask : Nat) (x : MbxS) :
    platCreateCheck well n part vector ringOff c slots allot mask { s with mbx := x } =
      platCreateCheck well n part vector ringOff c slots allot mask s := by
  simp only [platCreateCheck, freePlat_mbx]
  rfl

theorem platCreateApply_state {p : Nat} (hp : s.freePlat.1 = some p) (well n part vector ringOff c slots allot mask wb : Nat) :
    (platCreateApply well n part vector ringOff c slots allot mask wb s).2.2 = s.freePlat.2.setPlat p fun _ =>
      { st := .active, station := n, partition := part, vector := vector, ringWell := well, ringOff := ringOff, context := c,
        slotsLog2 := slots, mask := BitVec.ofNat 64 mask, allot := allot, free := allot } := by
  simp only [platCreateApply, hp, Option.getD_some]

end Create

/-- A command on a platform passes where the number is in range and the platform is in a state that accepts it. -/
theorem platCheck_passes {s : State} (h : CmdHdr) {p : Nat} {ok : Platform → Bool} (hp : p < 4096) (hok : ok (s.plat p) = true) :
    platCheck p ok (s.noteUse h) = none := by
  refine check_noteUse h (fun _ => rfl) ?_
  simp only [platCheck, firstOf, Nat.not_le.2 hp, hok, decide_false, Bool.not_true, Bool.false_eq_true, if_false]

end Sys2Proof.Machine

open Sys2Proof Sys2Proof.Machine

/-- Settles O15: each command passes its check, and its effect is that of its operation on the platform or the partition. -/
theorem platformCommandsTakeEffect : Obligations.PlatformCommandsTakeEffect := by
  refine ⟨fun s h well n part vec off c slots allot mask p hf hown hp => ?_, fun s h p hf hp hfree hdest => ?_, fun s h p hf hp hst => ?_,
    fun s h p hf hp hst => ?_, fun s h p hf hp hst => ?_, fun s h part lwait quota pumps hf hown => ?_⟩
  · exact effects_mailbox (exec_platformCreate s h well n part vec off c slots allot mask) hf nofun rfl
      (check_noteUse h (fun x => platCreateCheck_mbx s _ _ _ _ _ _ _ _ _ x) hown)
      (fun wb t ht => platCreateApply_state t ((freePlat_same ht).trans hp) _ _ _ _ _ _ _ _ _ wb) rfl rfl
  · exact effects_mailbox (exec_platformDestroy s h p) hf nofun rfl (platCheck_passes h hp (by simp [hfree, hdest]))
      (fun _ _ _ => rfl) rfl rfl
  · exact effects_mailbox (exec_platformDrainFinish s h p) hf nofun rfl (platCheck_passes h hp (by simp [hst]))
      (fun _ _ _ => rfl) rfl rfl
  · exact effects_mailbox (exec_platformDrainAbort s h p) hf nofun rfl (platCheck_passes h hp (by simpa using hst))
      (fun _ _ _ => rfl) rfl rfl
  · exact effects_mailbox (exec_platformDrainResume s h p) hf nofun rfl (platCheck_passes h hp (by simpa using hst))
      (fun _ _ _ => rfl) rfl rfl
  · exact effects_mailbox (exec_partitionSet s h part lwait quota pumps) hf nofun rfl (check_noteUse h (fun _ => rfl) hown)
      (fun _ _ _ => rfl) rfl rfl
end

section
/-! PROOF. Doorbells: each arrives behind those that wait at the module (11 R311, R343; 14 R439). -/
namespace Sys2Proof.Machine

section Commands
variable (s : State) (n : Station) (p : BitVec 12) (size : BitVec 4) (t c : BitVec 24) (r : BitVec 15)

/-- The doorbell that a write at a station's BAR rings; its arrival gives it its place in the order. -/
def bellWritten (restart : Bool) : Doorbell := ⟨n.val, p.toNat, size.toNat, t.toNat, c.toNat, r.toNat, restart, 0⟩

theorem does_platformDoorbell : Does (.platformDoorbell n p size t c r) s (s.bellWrite n.val (bellWritten n p size t c r false)) := rfl

theorem does_platformRestart : Does (.platformRestart n p size t c r) s (s.bellWrite n.val (bellWritten n p size t c r true)) := rfl

end Commands

/-- Where the BAR answers, a doorbell's write is a doorbell that arrives (14 R439). -/
theorem bellWrite_of_barsUp (s : State) {n : Nat} (d : Doorbell) (h : s.barsUp n = true) : s.bellWrite n d = s.bellIn d := if_pos h

end Sys2Proof.Machine

open Sys2Proof Sys2Proof.Machine

/-- Settles O51: the BAR answers, so the doorbell, of either form, arrives behind those that wait. -/
theorem doorbellsAreTaken : Obligations.DoorbellsAreTaken := by
  intro s n p size t c r hup hbar hd0
  have harrives := fun again => bellWrite_of_barsUp s (bellWritten n p size t c r again) (barsUp_of s hup hbar hd0)
  exact ⟨(does_platformDoorbell s n p size t c r).of_eq (harrives false), (does_platformRestart s n p size t c r).of_eq (harrives true)⟩
end

section
/-! PROOF. The commands on namespaces: the checks read the tables of the prefix index and of the wells alone, and each effect is that of the
namespace which the command takes or its handle names (12 R354 to R356). -/
namespace Sys2Proof.Machine

/-! ## What a step does with a command on namespaces -/

section Commands
variable (s : State) (h : CmdHdr) (handle quota : BitVec 32) (lease : BitVec 16) (flags : Byte)

theorem exec_namespaceCreate (store : BitVec 32) (format width : Byte) (nkvh nlayers : BitVec 16) :
    exec (.namespaceCreate h store format width nkvh nlayers lease quota flags) s =
      execNamespaceCreate h store format width nkvh nlayers lease quota flags s := rfl
theorem exec_namespaceDestroy : exec (.namespaceDestroy h handle) s = execNamespaceDestroy h handle s := rfl
theorem exec_namespaceQuota : exec (.namespaceQuota h handle quota lease flags) s = execNamespaceQuota h handle quota lease flags s := rfl

end Commands

/-! ## The namespace that a NAMESPACE_CREATE takes (12 R354) -/

section Create
variable (s : State)

theorem freeNs_fst : s.freeNs.1 = let k := (s.choose 1024).1
    if ((s.choose 1024).2.ns k).st == .free then some k else (List.range 1024).find? fun i => ((s.choose 1024).2.ns i).st == .free := by
  simp only [State.freeNs, apply_ite Prod.fst]

/-- A search for a namespace takes one free value and changes nothing else. -/
theorem freeNs_snd : s.freeNs.2 = (s.choose 1024).2 := (apply_ite Prod.snd ..).trans (ite_self _)

theorem freeNs_mbx (x : MbxS) : (State.freeNs { s with mbx := x }).1 = s.freeNs.1 := by
  simp only [freeNs_fst]
  rfl

theorem freeNs_same {s t : State} (h : Same s t) : t.freeNs.1 = s.freeNs.1 := by
  simp only [freeNs_fst, State.choose, State.ns, h.pfx, h.freeCtr]
  rfl

theorem nsCreateCheck_mbx (store format width nkvh nlayers lease quota flags : Nat) (x : MbxS) :
    nsCreateCheck store format width nkvh nlayers lease quota flags { s with mbx := x } =
      nsCreateCheck store format width nkvh nlayers lease quota flags s := by
  simp only [nsCreateCheck, freeNs_mbx]
  rfl

/-- The new namespace stands at the free index, with the owner of its store's well and a fresh salt. -/
theorem nsCreateApply_state {store i w : Nat} (hi : s.freeNs.1 = some i) (hw : s.named store = some w)
    (format width nkvh nlayers lease quota flags wb : Nat) :
    (nsCreateApply store format width nkvh nlayers lease quota flags wb s).2.2 = s.freeNs.2.random.2.modNs i fun x =>
      { gen := x.gen, st := .live, even := nbit flags 0, format := format, width := width, ctx := (s.well w).owner, nkvh := nkvh,
        nlayers := nlayers, leaseS := lease, store := store, quota := quota, salt := s.freeNs.2.random.1 } := by
  have hnamed : s.freeNs.2.random.2.named store = some w := by
    rw [freeNs_snd]; exact hw
  have hwell : s.freeNs.2.random.2.well w = s.well w := by
    rw [freeNs_snd]; rfl
  simp only [nsCreateApply, hi, hnamed, hwell, Option.getD_some]

end Create

/-! ## Effects on a namespace that its handle names (12 R344, R355, R356) -/

section Named
variable (s : State) {handle i : Nat} (hn : s.namedNs handle = some i)
include hn

theorem nsDestroyCheck_passes (h : CmdHdr) (hst : (s.ns i).st ≠ .destroying) : nsDestroyCheck handle (s.noteUse h) = none := by
  refine check_noteUse h (fun _ => rfl) ?_
  simp only [nsDestroyCheck, hn, beq_iff_eq, hst, if_false]

theorem nsDestroyApply_state (wb : Nat) :
    (nsDestroyApply handle wb s).2.2 = s.modNs i fun x => { x with st := .destroying, wb := some wb } := by
  simp only [nsDestroyApply, hn]

/-- DROP_HOLDS comes first, then the fields that are not all ones, then eviction down to the new quota. -/
theorem nsQuotaApply_state (quota lease flags wb : Nat) : (nsQuotaApply handle quota lease flags wb s).2.2 =
    let a := if flags ≠ 0xFF ∧ nbit flags 1 = true then s.endHolds i else s
    let b := a.modNs i fun x =>
      { x with quota := if quota = 0xFFFFFFFF then x.quota else quota
               leaseS := if lease = 0xFFFF then x.leaseS else lease
               even := if flags = 0xFF then x.even else nbit flags 0 }
    State.evictTo (b.nsUsed i) i b := by
  simp only [nsQuotaApply, hn, Bool.and_eq_true, bne_iff_ne, beq_iff_eq]

end Named

end Sys2Proof.Machine

open Sys2Proof Sys2Proof.Machine

/-- Settles O16: each command passes its check, and its effect is that of its operation on the namespace. -/
theorem namespaceCommandsTakeEffect : Obligations.NamespaceCommandsTakeEffect := by
  refine ⟨fun s h store format width nkvh nlayers lease quota flags i w hf hown hi hw => ?_, fun s h handle i hf hn hst => ?_,
    fun s h handle quota lease flags i hf hown hn => ?_⟩
  · refine effects_mailbox (exec_namespaceCreate s h quota lease flags store format width nkvh nlayers) hf nofun rfl
      (check_noteUse h (fun x => nsCreateCheck_mbx s _ _ _ _ _ _ _ _ x) hown) (fun wb t ht => ?_) rfl rfl
    rw [nsCreateApply_state t ((freeNs_same ht).trans hi) ((ht.named _).trans hw), ht.well]
  · exact effects_mailbox (exec_namespaceDestroy s h handle) hf nofun rfl (nsDestroyCheck_passes s hn h hst)
      (fun wb t ht => nsDestroyApply_state t ((ht.namedNs _).trans hn) wb) rfl rfl
  · exact effects_mailbox (exec_namespaceQuota s h handle quota lease flags) hf nofun rfl (check_noteUse h (fun _ => rfl) hown)
      (fun wb t ht => nsQuotaApply_state t ((ht.namedNs _).trans hn) _ _ _ wb) rfl rfl
end

section
/-! PROOF. The moments of prefix jobs and holds: the bound of an EVEN lookup, the end of an insert's wait, and the end of a lease (12 R364, R366,
R371). -/
namespace Sys2Proof.Machine

/-! ## What a step does with a moment of the prefix index -/

section Commands
variable (s : State) (q : BitVec 12) (k : BitVec 24)

theorem does_evenLookupCommit : Does (.evenLookupCommit q k) s (s.evenCommit q.toNat k.toNat) := rfl

theorem does_prefixPendingResolved : Does (.prefixPendingResolved q k) s (s.pendingResolved q.toNat k.toNat) := rfl

theorem does_holdLeaseExpire (h : BitVec 20) : Does (.holdLeaseExpire h) s (s.leaseEnd h.toNat) := rfl

end Commands

/-! ## The bound of an EVEN lookup (12 R364) -/

section Even
variable (s : State) {q k t : Nat} {j : Job}
  (hj : s.jobAt q k (fun j => j.even.isSome && (j.stage == .stopped || j.stage == .ended)) = some j) (ht : j.even = some t)
include hj ht

/-- At its bound the lookup ends, and its record is written where it is next and the ring has a free slot. -/
theorem evenCommit_next {e : Job} (he : ((s.until t).endOf j.id).firstEnded q = some e) (hid : e.id = j.id)
    (hslot : (((s.until t).endOf j.id).plat q).slotFree = true) : s.evenCommit q k = ((s.until t).endOf j.id).writeRecord e := by
  simp only [State.evenCommit, hj, ht, Option.getD_some, he, hid, hslot, beq_self_eq_true, Bool.and_self, if_true]

/-- Where no record of the platform is next, the lookup ends and nothing is written. -/
theorem evenCommit_none (he : ((s.until t).endOf j.id).firstEnded q = none) : s.evenCommit q k = (s.until t).endOf j.id := by
  simp only [State.evenCommit, hj, ht, Option.getD_some, he]

end Even

/-! ## Waits and leases (12 R366, R371) -/

section Ends
variable (s : State)

theorem pendingResolved_waiting {q k : Nat} {j : Job} (hj : s.jobAt q k (fun j => j.status.isNone && s.insertWaiting j) = some j) :
    s.pendingResolved q k = State.insertRun 1025 s j.id := by
  simp only [State.pendingResolved, hj]

/-- A live hold with a lease ends at its expiry. -/
theorem leaseEnd_live {i : Nat} {x : Hold} (hx : tget s.pfx.holds i = some x) (hlive : x.live = true) (hlease : x.leaseS ≠ 0) :
    s.leaseEnd i = (s.until x.expiry).endHold i := by
  simp only [State.leaseEnd, hx, hlive, bne_iff_ne.2 hlease, Bool.and_self, if_true]

end Ends

end Sys2Proof.Machine

open Sys2Proof Sys2Proof.Machine

/-- Settles O54: each moment finds its job or its hold, and what it does is that one's operation at the moment's time. -/
theorem prefixMomentsAct : Obligations.PrefixMomentsAct := by
  refine ⟨fun s q k j t hj ht => ⟨fun e he hid hslot => ?_, fun he => ?_⟩, fun s q k j hj => ?_, fun s h x hx hlive hlease => ?_⟩
  · exact (does_evenLookupCommit s q k).of_eq (evenCommit_next s hj ht he hid hslot)
  · exact (does_evenLookupCommit s q k).of_eq (evenCommit_none s hj ht he)
  · exact (does_prefixPendingResolved s q k).of_eq (pendingResolved_waiting s hj)
  · exact (does_holdLeaseExpire s h).of_eq (leaseEnd_live s hx hlive hlease)
end

section
/-! PROOF. The commands on contexts, range tables, advice and translation modes: the checks read the context table and the stations, which no use
of a session changes, and each effect is that of the tables the command finds (13 R381 to R388, R407, R410). -/
namespace Sys2Proof.Machine

/-! ## What a step does with a translation command -/

section Commands
variable (s : State) (h : CmdHdr) (c : BitVec 16) (well : BitVec 32) (vbase length : BitVec 64) (die : Byte)

theorem exec_contextCreate (name : BitVec 128) (pref : Byte) : exec (.contextCreate h name pref) s = execContextCreate h name pref s := rfl
theorem exec_contextDestroy : exec (.contextDestroy h c) s = execContextDestroy h c s := rfl
theorem exec_rangeTableSet (first count : Byte) (es : List RangeWords) (peer : PeerAnswer) :
    exec (.rangeTableSet h c first count es peer) s = execRangeTableSet h c first count es peer s := rfl
theorem exec_rangeInvalidateSpan :
    exec (.rangeInvalidateSpan h c well vbase length) s = execRangeInvalidateSpan h c well vbase length s := rfl
theorem exec_rangeInvalidateWell :
    exec (.rangeInvalidateWell h c well vbase length) s = execRangeInvalidateWell h c well vbase length s := rfl
theorem exec_adviseNormal : exec (.adviseNormal h c die vbase length) s = execAdviseNormal h c die vbase length s := rfl
theorem exec_adviseWillUse : exec (.adviseWillUse h c die vbase length) s = execAdviseWillUse h c die vbase length s := rfl
theorem exec_adviseDontNeed : exec (.adviseDontNeed h c die vbase length) s = execAdviseDontNeed h c die vbase length s := rfl
theorem exec_adviseSetDiePref : exec (.adviseSetDiePref h c die vbase length) s = execAdviseSetDiePref h c die vbase length s := rfl
theorem exec_stationXlateMode (n mode : Byte) : exec (.stationXlateMode h n mode) s = execStationXlateMode h n mode s := rfl

end Commands

/-! ## The context table -/

theorem Same.ctx {s t : State} (h : Same s t) (c : Nat) : t.ctx c = s.ctx c := by unfold State.ctx; rw [h.xl]

theorem Same.freeCtx {s t : State} (h : Same s t) : t.freeCtx = s.freeCtx := by simp only [State.freeCtx, h.ctx]

@[simp] theorem ctx_modCtx_self (s : State) (c : Nat) (f : Ctx → Ctx) : (s.modCtx c f).ctx c = f (s.ctx c) := tgetD_tset_self ..

/-! ## Their checks -/

section Checks
variable {s : State} {c : Nat}

/-- A context is created where DIE_PREF is in range and one is FREE (R381). -/
theorem ctxCreateCheck_passes (h : CmdHdr) {pref : Nat} (hpref : pref ≤ 4) (hc : s.freeCtx = some c) :
    firstOf [(decide (4 < pref), bad), ((s.noteUse h).freeCtx.isNone, refuse .noResource)] = none := by
  simp only [firstOf, Nat.not_lt.2 hpref, decide_false, (same_noteUse s h).freeCtx, hc, Option.isNone_some, Bool.false_eq_true, if_false]

/-- Nothing of the context is in use, so it may go (R382). -/
theorem ctxDestroyCheck_passes (h : CmdHdr) (hc : c < 4096) (hst : (s.ctx c).st = .live) (hwells : s.ctxWells c = 0)
    (hplats : s.ctxPlats c = 0) (hnss : s.ctxNss c = 0) : ctxDestroyCheck c (s.noteUse h) = none := by
  refine check_noteUse h (fun _ => rfl) ?_
  simp [ctxDestroyCheck, State.ctxInUse, firstOf, hc, hst, hwells, hplats, hnss]

/-- A command on a LIVE context passes where its arguments are in range (R388, R410). -/
theorem liveCheck_passes (h : CmdHdr) {args : Bool} (hargs : args = false) (hst : (s.ctx c).st = .live) :
    firstOf [(args, bad), (((s.noteUse h).ctx c).st != .live, (s.noteUse h).ctxConflict c)] = none := by
  simp only [firstOf, hargs, (same_noteUse s h).ctx, hst, bne_self_eq_false, Bool.false_eq_true, if_false]

theorem rangeSpanCheck_passes (h : CmdHdr) {well vbase length : Nat} (hc : c < 4096) (hwell : well = Config.noHandle)
    (hspan : spanOk vbase length = true) (hst : (s.ctx c).st = .live) : rangeSpanCheck c well vbase length (s.noteUse h) = none :=
  liveCheck_passes h (by simp [hc, hwell, hspan]) hst

theorem adviseCheck_passes (h : CmdHdr) {vbase length : Nat} (hc : c < 4096) (hspan : spanOk vbase length = true)
    (hst : (s.ctx c).st = .live) : adviseCheck c 0 vbase length (s.noteUse h) = none :=
  liveCheck_passes h (by simp [hc, hspan]) hst

/-- A station's mode changes where the function allows it and no job uses the station (R407). -/
theorem xlateModeCheck_passes (h : CmdHdr) {n mode : Nat} (hn : n < 48) (hmode : mode ≤ 1)
    (hats : mode = 1 → (s.stnAt n).atsEnable = true) (hjobs : s.stnJobs n = 0) : xlateModeCheck n mode (s.noteUse h) = none := by
  refine check_noteUse h (fun _ => rfl) ?_
  have hargs : (decide (48 ≤ n) || decide (1 < mode)) = false := by simp [hn, hmode]
  have hfree : ((mode == 1 && !(s.stnAt n).atsEnable) || s.stnJobs n != 0) = false := by simpa [hjobs] using hats
  simp only [xlateModeCheck, firstOf, hargs, hfree, Bool.false_eq_true, if_false]

end Checks

/-! ## Effects on the context or well that a command takes -/

section Effects
variable (s : State) (wb : Nat)

theorem ctxCreateApply_state {c : Nat} (hc : s.freeCtx = some c) (name : BitVec 128) (pref : Nat) :
    (ctxCreateApply name pref wb s).2.2 = s.modCtx c fun _ => { st := .live, name := name, diePref := pref } := by
  simp only [ctxCreateApply, hc, Option.getD_some]

theorem rangeWellApply_state {well i : Nat} (hn : s.named well = some i) :
    (rangeWellApply well wb s).2.2 = s.clearRanges (fun r => r.names i) (.cmd wb) := by
  simp only [rangeWellApply, hn]

end Effects

end Sys2Proof.Machine

open Sys2Proof Sys2Proof.Machine

/-- Settles O14: each command passes its check, and its effect is that of its operation on the tables it finds. -/
theorem translationCommandsTakeEffect : Obligations.TranslationCommandsTakeEffect := by
  refine ⟨fun s h name pref c hf hpref hc => ?_, fun s h c hf hc hst hwells hplats hnss => ?_, fun s h c first count es peer hf hown => ?_,
    fun s h c well vbase length hf hc hwell hspan hst => ?_, fun s h well i hf hn => ?_, fun s h c vbase length hf hc hspan hst => ?_,
    fun s h c die hf hc hdie hst => ?_, fun s h n mode hf hn hmode hats hjobs => ?_⟩
  · exact effects_mailbox (exec_contextCreate s h name pref) hf nofun rfl (ctxCreateCheck_passes h hpref hc)
      (fun wb t ht => ctxCreateApply_state t wb (ht.freeCtx.trans hc) _ _) rfl rfl
  · exact effects_mailbox (exec_contextDestroy s h c) hf nofun rfl (ctxDestroyCheck_passes h hc hst hwells hplats hnss)
      (fun _ _ _ => rfl) rfl rfl
  · exact effects_mailbox (exec_rangeTableSet s h c first count es peer) hf nofun rfl (check_noteUse h (fun _ => rfl) hown)
      (fun _ _ _ => rfl) rfl rfl
  · exact effects_mailbox (exec_rangeInvalidateSpan s h c well vbase length) hf nofun rfl (rangeSpanCheck_passes h hc hwell hspan hst)
      (fun _ _ _ => rfl) rfl rfl
  · have hnamed := ((same_noteUse s h).named well.toNat).trans hn
    exact effects_mailbox (exec_rangeInvalidateWell s h 0xFFFF well 0 0) hf nofun rfl (by simp [hnamed])
      (fun wb t ht => rangeWellApply_state t wb ((ht.named _).trans hn)) rfl rfl
  · have hcheck := adviseCheck_passes h hc hspan hst
    exact ⟨effects_mailbox (exec_adviseNormal s h c vbase length 0) hf nofun rfl hcheck (fun _ _ _ => rfl) rfl rfl,
      effects_mailbox (exec_adviseWillUse s h c vbase length 0) hf nofun rfl hcheck (fun _ _ _ => rfl) rfl rfl,
      effects_mailbox (exec_adviseDontNeed s h c vbase length 0) hf nofun rfl hcheck (fun _ _ _ => rfl) rfl rfl⟩
  · exact effects_mailbox (exec_adviseSetDiePref s h c 0 0 die) hf nofun rfl (liveCheck_passes h (by simp [hc, hdie]) hst)
      (fun _ _ _ => rfl) rfl rfl
  · exact effects_mailbox (exec_stationXlateMode s h n mode) hf nofun rfl (xlateModeCheck_passes h hn hmode hats hjobs)
      (fun _ _ _ => rfl) rfl rfl
end

section
/-! PROOF. Range caches: a miss is filled from the well table or by the twin, the filled entry stands in the cache, and a tile that a range
change still awaits at its deadline is stopped (13 R379, R389, R393). -/
namespace Sys2Proof.Machine

/-! ## What a step does with a moment of the range caches -/

section Commands
variable (s : State) (p : PumpId)

theorem does_rangeCacheFill (c : BitVec 12) (e : BitVec 8) (peer : PeerAnswer) :
    Does (.rangeCacheFill p c e peer) s (s.rangeFilled p.val c.toNat e.toNat peer) := rfl

theorem does_rangeSwitchTimeout : Does (.rangeSwitchTimeout p) s (s.switchTimeout p.val) := rfl

end Commands

/-! ## The answer to a miss (R393) -/

/-- A pump's request for a TWIN entry has left for the twin, and what an ADVISE asked of the entry is settled with it. -/
def State.rangeAsked (s : State) (p c i well : Nat) : State :=
  ((s.modTwin fun t => { t with nextId := s.twin.nextId + 1 }).emit (.xo (.rangeFill s.twin.nextId well))).modXl fun x =>
    { x with advised := x.advised.filter (· != (p, c, i)) }

section Miss
variable (s : State) {p c i : Nat} {r : Range} (hr : tget (s.ctx c).ranges i = some r) (hmiss : s.rcHit p c i = none)
include hr hmiss

/-- A local entry is filled from the well that its handle names. -/
theorem rangeFilled_local (peer : PeerAnswer) {w : Nat} (htwin : r.twin = false) (hw : s.named r.well = some w) :
    s.rangeFilled p c i peer = s.rcFill p c i (s.well w).startNow (s.well w).length .none (s.well w).kvb16 := by
  simp only [State.rangeFilled, hr, hmiss, htwin, hw, Option.isSome_none, Bool.false_eq_true, if_false]

variable (htwin : r.twin = true) (hpaired : s.isPaired = true)
include htwin hpaired

/-- A TWIN entry is filled with what the twin answers of its well. -/
theorem rangeFilled_twin {peer : PeerAnswer} (hst : peer.status = 0) : s.rangeFilled p c i peer =
    (s.rangeAsked p c i r.well).rcFill p c i peer.start.toNat (num peer.bytes 0 8) (if s.xl.advised.contains (p, c, i) then .keep else .none)
      (nbit (num peer.bytes 8 1) 0) := by
  simp only [State.rangeFilled, hr, hmiss, htwin, hpaired, hst, Option.isSome_none, Bool.not_true, Bool.false_eq_true, if_false, if_true,
    beq_self_eq_true]
  rfl

/-- A handle that the twin finds stale leaves the entry unfilled. -/
theorem rangeFilled_twin_stale {peer : PeerAnswer} (hst : peer.status ≠ 0) : s.rangeFilled p c i peer =
    (s.rangeAsked p c i r.well).modPump p fun x =>
      { x with rcStale := if x.rcStale.contains (c, i) then x.rcStale else x.rcStale ++ [(c, i)] } := by
  simp only [State.rangeFilled, hr, hmiss, htwin, hpaired, beq_eq_false_iff_ne.2 hst, Option.isSome_none, Bool.not_true, Bool.false_eq_true,
    if_false, if_true]
  rfl

end Miss

/-! ## The filled entry (R379, R393) -/

theorem pumpAt_modPump_self (s : State) {p : Nat} (f : Pump → Pump) (h : p < 16) : (s.modPump p f).pumpAt p = f (s.pumpAt p) := by
  simp [State.modPump, State.pumpAt, List.getD_eq_getElem?_getD, h]

/-- Whatever a full cache gives up, the new entry stands in it. -/
theorem mem_rcInsert (l : List RcEnt) (e : RcEnt) : e ∈ rcInsert l e := by
  unfold rcInsert
  extract_lets l r victim
  split
  · exact List.mem_cons_self
  · cases victim <;> exact List.mem_cons_self

section Fill
variable (s : State) (p c i start length : Nat) (mark : RcMark) (kvb : Bool)

theorem rcFill_rcache (h : p < 16) : ((s.rcFill p c i start length mark kvb).pumpAt p).rcache =
    rcInsert (s.pumpAt p).rcache ⟨c, i, start, length, mark, kvb⟩ := congrArg Pump.rcache (pumpAt_modPump_self s _ h)

theorem rcFill_rangeMisses : ((s.rcFill p c i start length mark kvb).ctx c).rangeMisses = (s.ctx c).rangeMisses + 1 := by
  rw [State.rcFill, ctx_modCtx_self, State.ctx, State.modPump_xl]; rfl

theorem rcFill_mem : (s.rcFill p c i start length mark kvb).mem = s.mem := State.modPump_mem ..

end Fill

/-! ## A tile that still moves at the deadline of a range change (R389) -/

/-- The first tile of a switch that still moves for a job whose last unit is `q`, with its job. -/
def State.lateTile (s : State) (q : Nat) (w : Switch) : Option (Job × Nat × Nat × Nat) :=
  (w.tiles ++ w.writes).findSome? fun x => ((s.job x.1).filter (·.lastPump == q)).bind fun j =>
    (j.movingTile w.tiles w.writes).map fun t => (j, t)

/-- The first switch that awaits such a tile. -/
def State.lateSwitch (s : State) (q : Nat) : Option (Switch × Job × Nat × Nat × Nat) :=
  s.xl.switches.findSome? fun w => (s.lateTile q w).map fun x => (w, x)

section Late
variable (s : State) {p k step a : Nat} {j : Job} {w : Switch}

/-- The late tile of the pump, or of the prefix unit where the pump has none, stops its job, which leaves the switch. -/
theorem switchTimeout_late (h : ((s.lateSwitch p).orElse fun _ => s.lateSwitch 16) = some (w, j, k, step, a)) :
    s.switchTimeout p =
      let u := (s.until w.deadline).endJob j .xlateFault (some (s.pumpFail j.lastPump k step 1 a))
      (u.dropTileLines j.id ((w.writes.filter (·.1 == j.id)).map (·.2))).modXl fun x =>
        { x with switches := x.switches.map fun v => if v = w then
          { v with tiles := v.tiles.filter (·.1 != j.id), writes := v.writes.filter (·.1 != j.id) } else v } := by
  simp only [State.lateSwitch, State.lateTile] at h
  simp only [State.switchTimeout, h, beq_iff_eq]

variable (hw : s.xl.switches = [w]) (hids : (w.tiles ++ w.writes).map (·.1) = [j.id]) (hj : s.job j.id = some j)
  (hmove : j.movingTile w.tiles w.writes = some (k, step, a))
include hw hids hj hmove

/-- A lone switch that awaits one job's tile is late for the unit that runs the job, and for no other. -/
theorem lateSwitch_only (q : Nat) : s.lateSwitch q = if j.lastPump = q then some (w, j, k, step, a) else none := by
  obtain ⟨x, hx, hid⟩ := List.map_eq_singleton_iff.1 hids
  by_cases hq : j.lastPump = q <;> simp [State.lateSwitch, State.lateTile, hw, hx, hid, hj, hmove, hq, Option.filter, -List.findSome?_append]

theorem late_of_lastPump (hp : j.lastPump = p ∨ j.lastPump = 16) :
    ((s.lateSwitch p).orElse fun _ => s.lateSwitch 16) = some (w, j, k, step, a) := by
  rw [lateSwitch_only s hw hids hj hmove p, lateSwitch_only s hw hids hj hmove 16]
  by_cases hown : j.lastPump = p
  · rw [if_pos hown]; rfl
  · rw [if_neg hown, if_pos (hp.resolve_left hown)]; rfl

end Late

end Sys2Proof.Machine

open Sys2Proof Sys2Proof.Machine

/-- Settles O56: the miss decides which answer fills it, what is filled stands in the cache and counts, and the late tile's job ends. -/
theorem rangeCachesFill : Obligations.RangeCachesFill := by
  refine ⟨fun s p c e peer r hr hmiss => ⟨fun w htwin hw => ?_, fun htwin hpaired => ⟨fun hst => ?_, fun hst => ?_⟩⟩,
    fun s p j w k step a hw hids hj hp hmove => ?_, fun s p c i start len hp => ?_⟩
  · exact (does_rangeCacheFill s p c e peer).of_eq (rangeFilled_local s hr hmiss peer htwin hw)
  · exact (does_rangeCacheFill s p c e peer).of_eq (rangeFilled_twin s hr hmiss htwin hpaired hst)
  · exact (does_rangeCacheFill s p c e peer).of_eq (rangeFilled_twin_stale s hr hmiss htwin hpaired hst)
  · exact (does_rangeSwitchTimeout s p).of_eq (switchTimeout_late s (late_of_lastPump s hw hids hj hmove hp))
  · exact ⟨_, rcFill_rcache s p c i start len _ _ hp ▸ mem_rcInsert _ _, rfl, rfl, rfl, rfl, rcFill_rangeMisses .., rcFill_mem ..⟩
end

section
/-! PROOF. Power states, resets and links of a station: what a reset leaves of its registers and mailbox, and what each event makes of the station
(14 R411 to R442; 15 R455; 19 R573). -/
namespace Sys2Proof.Machine

/-! ## What a reset leaves (14 R437; 15 R455) -/

/-- A station's registers after a reset; AER outlives a hot reset and a function-level one. -/
def Stn.cleared (t : Stn) (why : Loss) : Stn :=
  { t with
    decoders := [], msixEnable := false, msixMask := false, vecs := [], cacheEn := false, memEn := false, biEn := false, atsEnable := false,
    ats := false, barsSet := false, maxPayload := 128, ctoUs := 40000, winBase := 0, winEnable := false, winWrite := false, winRefuse := 0,
    winDeny := 0, jnlMark := 0, jnlThreshold := 0, aer := if why == .hot || why == .flr then t.aer else [], d3hot := false,
    memActive := false, memReturn := true, ide := false, spdm := false, idePeer := 0 }

/-- A station's mailbox after a reset: nothing but the command area and what failed authentications have left. -/
def Mailbox.cleared (x : Mailbox) : Mailbox :=
  { ({} : Mailbox) with area := x.area, challenge := x.challenge, failures := x.failures, lockUntil := x.lockUntil }

section Reset
variable (s : State) (n : Station) (why : Loss)

theorem stnAt_stationReset : ∃ t : Stn, (s.stationReset n why).stnAt n.val = t.cleared why := ⟨_, stnAt_modStn_self ..⟩

/-- What follows in a reset, the pending commands and the station's registers, is no mailbox. -/
theorem mb_stationReset : ∃ x : Mailbox, (s.stationReset n why).mb (.stn n) = x.cleared := by
  rw [State.stationReset, State.mb, State.modStn_mbx]
  exact ⟨_, (mb_modMb _ (.stn n) (.stn n) Mailbox.cleared).trans (if_pos rfl)⟩

end Reset

/-! ## What a step does with an event of a station -/

section Events
variable (s : State) (n : Station)

section Up
variable (hup : (s.stnAt n.val).up = true)
include hup

theorem ifUp_of_up (f : State → State) : s.ifUp n.val f = f s := if_pos hup

theorem does_d3hotEntry : Does (.d3hotEntry n) s (s.modStn n.val fun t => { t with d3hot := true }) := congrArg done (ifUp_of_up s n hup _)

theorem does_d0Return : Does (.d0Return n) s (s.modStn n.val fun t => { t with d3hot := false }) := congrArg done (ifUp_of_up s n hup _)

theorem does_hotReset : Does (.hotReset n) s (s.stationReset n .hot) := congrArg done (ifUp_of_up s n hup _)

theorem does_functionLevelReset : Does (.functionLevelReset n) s (s.stationReset n .flr) := congrArg done (ifUp_of_up s n hup _)

theorem does_linkDlDown : Does (.linkDlDown n) s (s.stationGone n.val .down) := congrArg done (ifUp_of_up s n hup _)

end Up

theorem does_perstAssert (h : (s.stnAt n.val).perst = false) :
    Does (.perstAssert n) s ((s.stationReset n .perst).modStn n.val fun t => { t with perst := true }) :=
  congrArg done (if_neg (by simp [h]))

theorem does_perstDeassert : Does (.perstDeassert n) s (s.modStn n.val fun t => { t with perst := false }) := rfl

theorem does_linkRecoveryEntry :
    Does (.linkRecoveryEntry n) s (s.modStn n.val fun t => if t.up && !t.recovery then t.toRecovery else t) := rfl

theorem does_linkRecoveryEnd :
    Does (.linkRecoveryEnd n) s (s.modStn n.val fun t => if t.up && t.recovery then t.fromRecovery else t) := rfl

theorem does_flitAck (a : BitVec 11) (b : BitVec 10) (c : BitVec 9) :
    Does (.flitAck n a b c) s (s.modStn n.val fun t => if t.up then t.ack a.toNat b.toNat c.toNat else t) := rfl

theorem does_memoryActiveReturn (h : s.inService = true) : Does (.memoryActiveReturn n) s
    (s.modStn n.val fun t => if t.memReturn && t.up then { t with memActive := true, memReturn := false } else t) :=
  congrArg done (if_pos h)

theorem does_linkDlUp (m : LinkMode) (cache mem bi ats : Bool) (cto : BitVec 4) :
    Does (.linkDlUp n m cache mem bi ats cto) s (s.linkUp n.val m cache mem bi ats cto.toNat) := rfl

end Events

/-! ## Recovery, credits and Memory_Active (14 R434, R435, R438, R441) -/

section Links
variable (s : State) (n : Station) (hup : (s.stnAt n.val).up = true)
include hup

theorem linkRecoveryEnd_leaves (hrec : (s.stnAt n.val).recovery = true) : ∃ u, Does (.linkRecoveryEnd n) s u ∧
    u.stnAt n.val = (s.stnAt n.val).fromRecovery ∧ u.mem = s.mem :=
  ⟨_, does_linkRecoveryEnd s n, by simp [hup, hrec], State.modStn_mem ..⟩

theorem flitAck_leaves (a : BitVec 11) (b : BitVec 10) (c : BitVec 9) : ∃ u, Does (.flitAck n a b c) s u ∧
    u.stnAt n.val = (s.stnAt n.val).ack a.toNat b.toNat c.toNat ∧ u.mem = s.mem ∧ u.home = s.home :=
  ⟨_, does_flitAck s n a b c, by simp [hup], State.modStn_mem .., State.modStn_home ..⟩

theorem memoryActiveReturn_leaves (hsvc : s.inService = true) (hret : (s.stnAt n.val).memReturn = true) :
    ∃ u, Does (.memoryActiveReturn n) s u ∧ u.stnAt n.val = { s.stnAt n.val with memActive := true, memReturn := false } ∧ u.mem = s.mem ∧
      ∀ m, m ≠ n.val → u.stnAt m = s.stnAt m :=
  ⟨_, does_memoryActiveReturn s n hsvc, by simp [hup, hret], State.modStn_mem .., fun _ hm => stnAt_modStn_ne s _ hm⟩

end Links

/-! ## A link that comes up (14 R411, R412, R426, R436, R442) -/

/-- A station whose link has trained to full width and speed. -/
def Stn.trained (t : Stn) (m : LinkMode) : Stn := { t.freshSlots with up := true, speed := 3, width := 8, flit := m.flit.toNat }

/-- Host firmware configures a function that a reset has left unconfigured, and no other. -/
def Stn.configuredOnce (t : Stn) (m : LinkMode) (cache mem bi ats : Bool) (cto : Nat) : Stn :=
  if t.barsSet then t else t.configure m cache mem bi ats cto

section Configured
variable {t : Stn} (m : LinkMode) (cache mem bi ats : Bool) (cto : Nat)

theorem Stn.trained_unset (h : t.barsSet = false) :
    (t.trained m).configuredOnce m cache mem bi ats cto = (t.trained m).configure m cache mem bi ats cto := if_neg (ne_true_of_eq_false h)

theorem Stn.trained_set (h : t.barsSet = true) : (t.trained m).configuredOnce m cache mem bi ats cto = t.trained m := if_pos h

end Configured

/-- The module's memory information becomes valid. -/
def State.memInfoNow (s : State) : State := { s with mod := { s.mod with memInfoValid := true } }

theorem memInfoNow_modStn (s : State) (n : Nat) (f : Stn → Stn) : (s.modStn n f).memInfoNow = s.memInfoNow.modStn n f := by
  unfold State.memInfoNow State.modStn; split <;> rfl

section LinkUp
variable (s : State) (n : Station) (m : LinkMode) (cache mem bi ats : Bool) (cto : Nat)

theorem linkUp_of_up (hup : (s.stnAt n.val).up = true) :
    s.linkUp n.val m cache mem bi ats cto = s.modStn n.val fun t => t.configure m cache mem bi ats cto := if_pos hup

section Trains
variable (hdown : (s.stnAt n.val).up = false) (hheld : s.heldDown n.val = false) (hmode : modeOk m = true) (hans : s.answers = true)
  (hphase : s.mod.phase ≠ .bringUp) (hwidth : m.width = 8) (hspeed : m.speed = 3)
include hdown hheld hmode hans hphase hwidth hspeed

/-- At full width and speed no event is recorded. -/
theorem linkUp_trains : s.linkUp n.val m cache mem bi ats cto =
    (s.memInfoNow.modStn n.val fun t => (t.trained m).configuredOnce m cache mem bi ats cto).sendVecs n.val := by
  rw [← memInfoNow_modStn]
  simp only [State.linkUp, hdown, hheld, hmode, hans, hwidth, hspeed, beq_eq_false_iff_ne.2 hphase, bne_self_eq_false, Bool.not_true,
    Bool.or_false, Bool.false_and, Bool.false_eq_true, if_false]
  rfl

theorem linkUp_unconfigured (hbars : (s.stnAt n.val).barsSet = false) : s.linkUp n.val m cache mem bi ats cto =
    (s.memInfoNow.modStn n.val fun t => (t.trained m).configure m cache mem bi ats cto).sendVecs n.val := by
  refine (linkUp_trains s n m cache mem bi ats cto hdown hheld hmode hans hphase hwidth hspeed).trans
    (congrArg (State.sendVecs · n.val) (modStn_congr s.memInfoNow ?_))
  exact Stn.trained_unset m cache mem bi ats cto hbars

theorem linkUp_configured (hbars : (s.stnAt n.val).barsSet = true) : s.linkUp n.val m cache mem bi ats cto =
    (s.memInfoNow.modStn n.val fun t => t.trained m).sendVecs n.val := by
  refine (linkUp_trains s n m cache mem bi ats cto hdown hheld hmode hans hphase hwidth hspeed).trans
    (congrArg (State.sendVecs · n.val) (modStn_congr s.memInfoNow ?_))
  exact Stn.trained_set m cache mem bi ats cto hbars

end Trains

end LinkUp

end Sys2Proof.Machine

open Sys2Proof Sys2Proof.Machine

/-- Settles O34: the last thing a reset does with the registers and with the mailbox is to clear them. -/
theorem stationResetClearsItsRegisters : Obligations.StationResetClearsItsRegisters := by
  intro s n why u
  obtain ⟨t, ht⟩ := stnAt_stationReset s n why
  obtain ⟨x, hx⟩ := mb_stationReset s n why
  rw [show u.stnAt n.val = t.cleared why from ht]
  exact ⟨rfl, rfl, rfl, rfl, rfl, rfl, rfl, rfl, rfl, rfl, rfl, rfl, x, hx⟩

/-- Settles O33: with the link up each event has its one effect; a link that comes up is configured where its function is not. -/
theorem stationEventsAct : Obligations.StationEventsAct := by
  refine ⟨fun s n hup => ⟨does_d3hotEntry s n hup, does_d0Return s n hup, does_hotReset s n hup, does_functionLevelReset s n hup,
      does_linkDlDown s n hup, fun _ => does_linkRecoveryEntry s n, fun hrec => ?_, flitAck_leaves s n hup⟩,
    does_perstAssert, does_perstDeassert, fun s n m cache mem bi ats cto => ⟨fun hup => ?_, fun hdown hheld hmode hans hphase hwidth hspeed =>
      ⟨fun hbars => ?_, fun hbars => ?_⟩⟩, fun s n hsvc hup hret => ?_⟩
  · obtain ⟨u, hdoes, hstn, hmem⟩ := linkRecoveryEnd_leaves s n hup hrec
    exact ⟨u, hdoes, hstn ▸ rfl, hstn ▸ rfl, hstn ▸ rfl, hmem⟩
  · exact (does_linkDlUp s n m cache mem bi ats cto).of_eq (linkUp_of_up s n m cache mem bi ats _ hup)
  · exact (does_linkDlUp s n m cache mem bi ats cto).of_eq
      (linkUp_unconfigured s n m cache mem bi ats _ hdown hheld hmode hans hphase hwidth hspeed hbars)
  · exact (does_linkDlUp s n m cache mem bi ats cto).of_eq
      (linkUp_configured s n m cache mem bi ats _ hdown hheld hmode hans hphase hwidth hspeed hbars)
  · obtain ⟨u, hdoes, hstn, hmem, hother⟩ := memoryActiveReturn_leaves s n hup hsvc hret
    exact ⟨u, hdoes, hstn ▸ rfl, hstn ▸ rfl, hmem, hother⟩
end

section
/-! PROOF. The step itself: the front of the queue, the idle tick, and that every step completes (15 R475; 18 R556; 20 R606). -/
namespace Sys2Proof.Machine

/-- What an idle block leaves where no power-down is under way, and where one is. -/
theorem idle_of_powered {s : State} (h : s.pwr.powerDown = false) :
    s.idle = { s with now := if s.pwr.inputGood then s.now + 10 else s.now } := by
  unfold State.idle
  cases s.pwr.inputGood <;> simp [h]

theorem idle_of_powerDown {s : State} (h : s.pwr.powerDown = true) :
    s.idle = finish { s with now := if s.pwr.inputGood then s.now + 10 else s.now } := by
  unfold State.idle
  cases s.pwr.inputGood <;> simp [h]

/-- A step with a command at the front is that of the command, and every command answers a next state. -/
theorem step_safe (s : State) : Safe s := by
  unfold Safe
  cases hp : s.pending with
  | nil => rw [step_idle hp]; rfl
  | cons c rest =>
    obtain ⟨u, hu⟩ := exec_done c { s with pending := rest }
    rw [step_command hp, hu]
    rfl

end Sys2Proof.Machine

open Sys2Proof Sys2Proof.Machine

/-- Settles O1: by the queue, which is empty or has a command at its front. -/
theorem stepRunsTheFirstCommand : Obligations.StepRunsTheFirstCommand :=
  ⟨fun _ _ => step_command rfl, fun _ _ _ hp => step_command hp,
    fun _ hp => ⟨fun hpower => (step_idle hp).trans (congrArg _ (idle_of_powered hpower)),
      fun hpower => (step_idle hp).trans (congrArg _ (idle_of_powerDown hpower))⟩, step_safe⟩
end

section
/-! PROOF. Firmware: the commands that stage, activate and read it, the completion of an asynchronous command, the turns of an activation, and
the spans that are spared (15 R454, R456, R463, R478 to R481; 19 R583; 20 R607). -/
namespace Sys2Proof.Machine

/-! ## What a step does with these commands and moments -/

section Commands
variable (s : State) (h : CmdHdr)

theorem exec_fwStage (well : BitVec 32) (off len : BitVec 64) (pkg : FwPackage) :
    exec (.fwStage h well off len pkg) s = execFwStage h well off len pkg s := rfl
theorem exec_fwActivate (index flags : Byte) (versions : Versions) :
    exec (.fwActivate h index flags versions) s = execFwActivate h index flags versions s := rfl
theorem exec_fwManifestRead (first count : Byte) : exec (.fwManifestRead h first count) s = execFwManifestRead h first count s := rfl

theorem does_asyncCommandComplete (wb : BitVec 64) : Does (.asyncCommandComplete wb) s (s.asyncEnd wb.toNat) := rfl
theorem does_fwComponentSwitchDone (pass : Bool) : Does (.fwComponentSwitchDone pass) s (s.switched pass) := rfl
theorem does_sbHandoverEnd : Does .sbHandoverEnd s s.handoverEnd := rfl
theorem does_spareSpanCopyDone : Does .spareSpanCopyDone s s.spareCopied := rfl

end Commands

/-! ## Staging and activation (15 R478, R479) -/

theorem Same.running {s t : State} (h : Same s t) : t.running = s.running := by unfold State.running; rw [h.fw]

theorem Same.fwTarget {s t : State} (h : Same s t) (index : Nat) (versions : Versions) : t.fwTarget index versions = s.fwTarget index versions := by
  unfold State.fwTarget
  rw [h.running, h.fw]

/-- The activation of a target that is named, as it stands in the state that acceptance leaves. -/
theorem activateApply_state {s t : State} (ht : Same s t) {index : Nat} {versions : Versions} {target : List (BitVec 32)}
    (htarget : s.fwTarget index versions = some target) (flags wb : Nat) :
    (activateApply index flags versions wb t).2.2 =
      let a := t.modEntry wb fun e => { e with forced := nbit flags 0 }
      (a.modFw fun f => { f with run := some { wb := wb, todo := fwSteps s.running target, target := target, force := nbit flags 0,
                                               fromStaged := t.fw.staged.isSome } }).fwTurn := by
  have ha := same_modEntry t wb fun e => { e with forced := nbit flags 0 }
  simp only [activateApply, ht.fwTarget, htarget, Option.getD_some, (ht.trans ha).running, State.modFw, ha.fw]

/-! ## Completions (15 R454, R456, R463) -/

section Complete
variable (s : State)

theorem same_cplSlot (n : Station) (quiet : Bool) (c : Cpl) : Same s (s.cplSlot n quiet c) := by
  unfold State.cplSlot
  have hslot := same_modMb s (.stn n) fun x =>
    { x with cpls := tset x.cpls (x.cplWrite % 16) c
             cplWrite := (x.cplWrite + 1) % 65536
             cplLost := if 16 ≤ (x.cplWrite + 65536 - x.cplAck) % 65536 then sat 16 (x.cplLost + 1) else x.cplLost }
  exact same_ite _ hslot (hslot.trans (same_raiseVec ..))

theorem same_completeAsync (a : Async) (st : Status) (res : List Byte) : Same s (s.completeAsync a st res) := by
  unfold State.completeAsync
  extract_lets t u c
  have hu : Same s u := (same_modEntry s ..).trans (same_modMbx t _)
  split
  · exact hu
  · exact hu.trans (same_cplSlot ..)
  · exact hu.trans (same_ite _ (.refl u) (same_emit u _))

theorem raiseVec_mbx (n v : Nat) : (s.raiseVec n v).mbx = s.mbx := by simp [State.raiseVec, State.sendVec, State.setVec, apply_ite State.mbx]

theorem modEntry_asyncs (wb : Nat) (f : JEntry → JEntry) : (s.modEntry wb f).mbx.asyncs = s.mbx.asyncs := by
  unfold State.modEntry
  split
  · split
    · rfl
    · dsimp only; split <;> rfl
  · rfl

theorem cplSlot_asyncs (n : Station) (quiet : Bool) (c : Cpl) : (s.cplSlot n quiet c).mbx.asyncs = s.mbx.asyncs := by
  unfold State.cplSlot
  dsimp only
  split
  · rfl
  · rw [raiseVec_mbx]; rfl

/-- A command that has completed runs no longer. -/
theorem completeAsync_asyncs (a : Async) (st : Status) (res : List Byte) :
    (s.completeAsync a st res).mbx.asyncs = s.mbx.asyncs.filter (·.wb != a.wb) := by
  unfold State.completeAsync
  extract_lets t u c
  have hu : u.mbx.asyncs = s.mbx.asyncs.filter (·.wb != a.wb) := congrArg (List.filter _) (modEntry_asyncs s ..)
  split
  · exact hu
  · exact (cplSlot_asyncs ..).trans hu
  · split <;> exact hu

end Complete

section Work
variable {s : State} (hover : s.fw.handover = false)

/-- Where no slot is being bound, no binding ends. -/
theorem bindEnd_unbound (hbind : ∀ x ∈ s.sec.keys, x.2.binding = []) (wb : Nat) : s.bindEnd wb = s := by
  have hnone : (s.sec.keys.findSome? fun (k, x) => (x.binding.find? fun b => b.2 == wb).map fun b => (k, b.1)) = none :=
    List.findSome?_eq_none_iff.2 fun x hx => by simp [hbind x hx]
  simp only [State.bindEnd, hnone]

theorem stageEnd_keys (s : State) (wb : Nat) (pkg : FwPackage) : (s.stageEnd wb pkg).sec.keys = s.sec.keys := by
  unfold State.stageEnd
  dsimp only
  split <;> rfl

/-- What the command's completion is written on: the work of a FW_STAGE and of a KEY_BIND that ends with it. -/
def State.workEnd (s : State) (wb : Nat) : State :=
  (match s.fw.staging with | some (w, pkg) => if w == wb then s.stageEnd wb pkg else s | none => s).bindEnd wb

/-- The completion that is due for a command. -/
def State.completeDue (s : State) (wb : Nat) : State :=
  match s.mbx.asyncs.find? fun a => a.wb == wb with
  | some a => match a.ready with
    | some (st, res) => s.completeAsync a st res
    | none => s
  | none => s

include hover in
theorem asyncEnd_of_serving (wb : Nat) : s.asyncEnd wb = (s.workEnd wb).completeDue wb := if_neg (by simp [hover])

include hover in
theorem asyncEnd_completes {wb : Nat} {a : Async} {st : Status} {res : List Byte}
    (hfind : ((s.workEnd wb).mbx.asyncs.find? fun a => a.wb == wb) = some a) (hready : a.ready = some (st, res)) :
    s.asyncEnd wb = (s.workEnd wb).completeAsync a st res := by
  rw [asyncEnd_of_serving hover]
  simp only [State.completeDue, hfind, hready]

theorem workEnd_unstaged (hstage : s.fw.staging = none) (wb : Nat) : s.workEnd wb = s.bindEnd wb := by simp only [State.workEnd, hstage]

theorem workEnd_staged {pkg : FwPackage} {wb : Nat} (hstage : s.fw.staging = some (wb, pkg)) (hbind : ∀ x ∈ s.sec.keys, x.2.binding = []) :
    s.workEnd wb = s.stageEnd wb pkg := by
  simp only [State.workEnd, hstage, beq_self_eq_true, if_true]
  exact bindEnd_unbound (stageEnd_keys s wb pkg ▸ hbind) wb

end Work

/-! ## Turns of an activation, and spared spans (15 R480, R481; 20 R607) -/

section Turns
variable {s : State} {r : FwRun} {i : Nat} {rest : List Nat} (hrun : s.fw.run = some r) (htodo : r.todo = i :: rest)
  (hpump : i = 1 → (s.pumpAt r.turn).job = none ∧ (s.pumpAt r.turn).test = none)
include hrun htodo hpump

/-- A turn ends unless a pump that is to be updated still works. -/
theorem switched_turn (pass : Bool) : s.switched pass = if pass then s.turnDone r i rest else s.fwFail r i := by
  have hfree : (i == 1 && ((s.pumpAt r.turn).job.isSome || (s.pumpAt r.turn).test.isSome)) = false := by
    by_cases hi : i = 1
    · obtain ⟨hjob, htest⟩ := hpump hi
      simp [hjob, htest]
    · simp [hi]
  simp only [State.switched, hrun, htodo, hfree]
  cases pass <;> rfl

theorem switched_next (hmore : r.turn + 1 < compTurns i) : s.switched true =
    ((s.turnEnd i r.turn).modFw fun f => { f with run := some { r with turn := r.turn + 1 } }).turnStart i (r.turn + 1) :=
  (switched_turn hrun htodo hpump true).trans (if_pos hmore)

theorem switched_last (hlast : compTurns i ≤ r.turn + 1) : s.switched true = (s.turnEnd i r.turn).compDone r i rest :=
  (switched_turn hrun htodo hpump true).trans (if_neg (Nat.not_lt.2 hlast))

end Turns

theorem handoverEnd_after {s : State} (h : ∀ r, s.fw.run = some r → r.todo.headD 9 ≠ 0) :
    s.handoverEnd = s.modFw fun f => { f with handover := false } := by
  unfold State.handoverEnd
  cases hrun : s.fw.run with
  | none => rfl
  | some r => exact if_neg (by simpa using h r hrun)

end Sys2Proof.Machine

open Sys2Proof Sys2Proof.Machine

/-- Settles O21: each command passes its check, and its effect is that of its operation on the firmware. -/
theorem firmwareCommandsTakeEffect : Obligations.FirmwareCommandsTakeEffect := by
  refine ⟨fun s h well off len pkg hf hown => ?_, fun s h index flags versions target hf hown htarget => ?_, fun s h first count hf hlo hhi => ?_⟩
  · exact effects_mailbox (exec_fwStage s h well off len pkg) hf nofun rfl (check_noteUse h (fun _ => rfl) hown) (fun _ _ _ => rfl) rfl rfl
  · exact effects_mailbox (exec_fwActivate s h index flags versions) hf nofun rfl (check_noteUse h (fun _ => rfl) hown)
      (fun wb t ht => activateApply_state ht htarget flags.toNat wb) rfl rfl
  · exact answers_query (exec_fwManifestRead s h first count) hf nofun rfl (if_neg (by simp; omega)) rfl rfl rfl

/-- Settles O59: the work that ends with the command is the staging, the binding or none, and the completion is written on what it leaves. -/
theorem asyncCommandsComplete : Obligations.AsyncCommandsComplete := by
  refine ⟨fun s wb a st res hover hstage hbind hfind hready => ?_, fun s wb pkg a st res hover hstage hbind hfind hready => ?_,
    fun s wb a st res hover hstage hfind hready => ?_⟩
  · have hwork : s.workEnd wb.toNat = s := (workEnd_unstaged hstage _).trans (bindEnd_unbound hbind _)
    have hsame := same_completeAsync s a st res
    refine ⟨(does_asyncCommandComplete s wb).of_eq ?_, fun b hb => ?_, hsame.mem, hsame.pool⟩
    · rw [asyncEnd_completes hover (hwork.symm ▸ hfind) hready, hwork]
    · rw [completeAsync_asyncs] at hb
      simpa using (List.mem_filter.1 hb).2
  · have hwork := workEnd_staged hstage hbind
    rw [← hwork] at hfind ⊢
    exact (does_asyncCommandComplete s wb).of_eq (asyncEnd_completes hover hfind hready)
  · have hwork := workEnd_unstaged hstage wb.toNat
    rw [← hwork] at hfind ⊢
    exact (does_asyncCommandComplete s wb).of_eq (asyncEnd_completes hover hfind hready)

/-- Settles O60: each moment is one operation on the state, whose cases the lemmas above give. -/
theorem serviceMomentsAct : Obligations.ServiceMomentsAct := by
  refine ⟨fun s r i rest hrun htodo hpump => ⟨fun hmore => ?_, fun hlast => ?_, ?_⟩, fun s hrun => ?_, fun s x wb hfind hwb => ?_⟩
  · exact (does_fwComponentSwitchDone s true).of_eq (switched_next hrun htodo hpump hmore)
  · exact (does_fwComponentSwitchDone s true).of_eq (switched_last hrun htodo hpump hlast)
  · exact (does_fwComponentSwitchDone s false).of_eq (switched_turn hrun htodo hpump false)
  · exact (does_sbHandoverEnd s).of_eq (handoverEnd_after hrun)
  · exact (does_spareSpanCopyDone s).of_eq (by simp only [State.spareCopied, hfind, hwb, Option.getD_some])
end

section
/-! PROOF. A CRED_ERASE that its mailbox holds, as the NMI has captured core 4 (17 R521), ends the sessions of the credential all the same
(19 R585), and answers nothing; a refusal sent to the same sender before it is then the last of what has been sent. A refused command is
to change nothing (15 R458). `Leads` speaks of a state before `finish`, so the file shows how `finish` leads to where that state is: what it
sends is no reply, it opens no session but by a reset, and a reset puts the start of the module at its first stage. So a state before `finish`
that has other output, or a session at the Ethernet mailbox, has so after it, or its module is at its first stage: `Differs`. -/
namespace Sys2Proof.Machine

/-- The reply that stands last in what has been sent. -/
def earlierRefusal : Reply := { opcode := 0x0A02, status := .badArgument, tag := 0, seq := 0, time := 0, payload := [] }

/-- Output, mailboxes and module are not those that the held CRED_ERASE leaves. -/
def Differing (o : List Output) (mb : MbxS) (md : Mod) : Prop :=
  o ≠ [.reply .eth 0 earlierRefusal] ∨ mb.eth.session ≠ .none ∨ md.stage = .reset

/-- `s` is not as the held CRED_ERASE leaves its state. -/
def Differs (s : State) : Prop := Differing s.out s.mbx s.mod

/-- `Differs` by a name of its own, which no rule below rewrites. -/
def Differed (s : State) : Prop := Differs s

/-- `simp` leaves the state of a `Differed` as it stands. -/
@[congr] theorem differed_congr (s : State) : Differed s = Differed s := rfl

/-- `t` differs where `s` does, as a rewriting rule: `Differs` of `t` is that of `s`, or holds at any rate. -/
abbrev Carries (s t : State) : Prop := Differs t ↔ Differed t ∨ Differs s

theorem Carries.rule {s t : State} (h : Differs s → Differs t) : Carries s t := ⟨.inl, fun k => k.elim id h⟩

theorem differs_of_same {s t : State} (ho : t.out = s.out) (hm : t.mbx = s.mbx) (hd : t.mod = s.mod) : Differs t ↔ Differs s := by
  unfold Differs
  rw [ho, hm, hd]

@[simp] theorem differs_ite (c : Prop) [Decidable c] (s t : State) :
    Differs (if c then s else t) ↔ if c then Differs s else Differs t := by
  split <;> rfl

/-- A step that leaves `Differs` as it was. -/
def SameDiffers {α : Type} (f : State → α → State) : Prop := ∀ s a, Differs (f s a) ↔ Differs s

@[simp] theorem sameDiffers_iff {α : Type} (f : State → α → State) : SameDiffers f ↔ ∀ s a, Differs (f s a) ↔ Differs s := Iff.rfl

@[simp] theorem differs_foldl_same {α : Type} {f : State → α → State} (hf : SameDiffers f) (l : List α) (s : State) :
    Differs (l.foldl f s) ↔ Differs s := by
  induction l generalizing s with
  | nil => rfl
  | cons a l ih => exact (ih _).trans (hf s a)

@[simp] theorem differs_forAll_same {α : Type} {f : α → State → State} (hf : SameDiffers fun s a => f a s) (l : List α) (s : State) :
    Differs (forAll l f s) ↔ Differs s := differs_foldl_same hf l s

/-- A step that keeps `Differs`. -/
def KeepsDiffers {α : Type} (f : State → α → State) : Prop := ∀ s a, Differs s → Differs (f s a)

@[simp] theorem keepsDiffers_iff {α : Type} (f : State → α → State) : KeepsDiffers f ↔ ∀ s a, Differs s → Differs (f s a) := Iff.rfl

theorem Differs.foldl {α : Type} (l : List α) (f : State → α → State) (hf : KeepsDiffers f) (s : State) (h : Differs s) :
    Differs (l.foldl f s) := by
  induction l generalizing s with
  | nil => exact h
  | cons a l ih => exact ih _ (hf s a h)

@[simp] theorem differs_foldl {α : Type} {f : State → α → State} (hf : KeepsDiffers f) (l : List α) (s : State) :
    Carries s (l.foldl f s) := Carries.rule (Differs.foldl l f hf s)

@[simp] theorem differs_forAll {α : Type} {f : α → State → State} (hf : KeepsDiffers fun s a => f a s) (l : List α) (s : State) :
    Carries s (forAll l f s) := differs_foldl hf l s

/-! ## Updates of the state -/

section Updates
variable (s : State)

@[simp] theorem differs_setMem (a : Nat) (bs : List Byte) : Differs (s.setMem a bs) ↔ Differs s := .rfl
@[simp] theorem differs_clearPoison (a : Nat) : Differs (s.clearPoison a) ↔ Differs s := .rfl
@[simp] theorem differs_zeroRun (a n : Nat) : Differs (s.zeroRun a n) ↔ Differs s := .rfl
@[simp] theorem differs_copyRun (src dst n : Nat) : Differs (s.copyRun src dst n) ↔ Differs s := .rfl
@[simp] theorem differs_until (t : Nat) : Differs (s.until t) ↔ Differs s := .rfl
@[simp] theorem differs_modStn (n : Nat) (f : Stn → Stn) : Differs (s.modStn n f) ↔ Differs s :=
  differs_of_same (by simp) (by simp) (by simp)
@[simp] theorem differs_modPump (p : Nat) (f : Pump → Pump) : Differs (s.modPump p f) ↔ Differs s :=
  differs_of_same (by simp) (by simp) (by simp)
@[simp] theorem differs_setWell (i : Nat) (w : Well) : Differs (s.setWell i w) ↔ Differs s := .rfl
@[simp] theorem differs_modWell (i : Nat) (f : Well → Well) : Differs (s.modWell i f) ↔ Differs s := .rfl
@[simp] theorem differs_modCis (c : Nat) (f : Cistern → Cistern) : Differs (s.modCis c f) ↔ Differs s := .rfl
@[simp] theorem differs_modCtx (c : Nat) (f : Ctx → Ctx) : Differs (s.modCtx c f) ↔ Differs s := .rfl
@[simp] theorem differs_modPlat (p : Nat) (f : Platform → Platform) : Differs (s.modPlat p f) ↔ Differs s := .rfl
@[simp] theorem differs_modNs (i : Nat) (f : Ns → Ns) : Differs (s.modNs i f) ↔ Differs s := .rfl
@[simp] theorem differs_modJob (id : Nat) (f : Job → Job) : Differs (s.modJob id f) ↔ Differs s := .rfl
@[simp] theorem differs_modHome (f : Home → Home) : Differs (s.modHome f) ↔ Differs s := .rfl
@[simp] theorem differs_modTwin (f : Twin → Twin) : Differs (s.modTwin f) ↔ Differs s := .rfl
@[simp] theorem differs_modPool (f : Pool → Pool) : Differs (s.modPool f) ↔ Differs s := .rfl
@[simp] theorem differs_modSec (f : Sec → Sec) : Differs (s.modSec f) ↔ Differs s := .rfl
@[simp] theorem differs_modFlt (f : Flt → Flt) : Differs (s.modFlt f) ↔ Differs s := .rfl
@[simp] theorem differs_modPwr (f : Pwr → Pwr) : Differs (s.modPwr f) ↔ Differs s := .rfl
@[simp] theorem differs_modPfx (f : Pfx → Pfx) : Differs (s.modPfx f) ↔ Differs s := .rfl
@[simp] theorem differs_modJobs (f : Jobs → Jobs) : Differs (s.modJobs f) ↔ Differs s := .rfl
@[simp] theorem differs_modXl (f : Xl → Xl) : Differs (s.modXl f) ↔ Differs s := .rfl

@[simp] theorem differs_modMbx {f : MbxS → MbxS} (hf : ∀ x, (f x).eth = x.eth) : Differs (s.modMbx f) ↔ Differs s := by
  simp [Differs, Differing, State.modMbx, hf]

@[simp] theorem differs_modMb {f : Mailbox → Mailbox} (hf : ∀ x, (f x).session = x.session) (m : Mbx) : Differs (s.modMb m f) ↔ Differs s := by
  cases m <;> simp [Differs, Differing, State.modMb, State.modMbx, hf]

@[simp] theorem differs_modMb_stn (n : Station) (f : Mailbox → Mailbox) : Differs (s.modMb (.stn n) f) ↔ Differs s := .rfl

@[simp] theorem differs_modMod {f : Mod → Mod} (hf : ∀ m, (f m).stage = m.stage) : Differs (s.modMod f) ↔ Differs s := by
  simp [Differs, Differing, State.modMod, hf]

/-- Whatever is sent that is no reply. -/
@[simp] theorem differs_emit {o : Output} (ho : ∀ r, o ≠ .reply .eth 0 r) : Differs (s.emit o) :=
  .inl fun h => ho _ (List.cons.inj h).1

@[simp] theorem differing_self : Differing s.out s.mbx s.mod ↔ Differs s := .rfl

@[simp] theorem differs_mk (pe : List Instr) (o : List Output) (c : Nat) (td : List Todo) (n : Nat) (m : List Host.Cell) (po : List Nat)
    (u : List (Nat × Nat × Bool)) (pm : List (Nat × Nat × Nat)) (pl : Pool) (h : Home) (ca : Cache) (x : Xl) (j : Jobs) (pf : Pfx)
    (st : Vector Stn 48) (mb : MbxS) (fw : Fw) (se : Sec) (tw : Twin) (fl : Flt) (pw : Pwr) (md : Mod) (pi : Pins) :
    Differs ⟨pe, o, c, td, n, m, po, u, pm, pl, h, ca, x, j, pf, st, mb, fw, se, tw, fl, pw, md, pi⟩ ↔ Differing o mb md := .rfl

end Updates

section Rules
variable (s : State)

/-! ## Shared operations -/

@[simp] theorem differs_choose (n : Nat) : Differs (s.choose n).2 ↔ Differs s := by simp [State.choose]

@[simp] theorem differs_pick {α : Type} (l : List α) : Differs (s.pick l).2 ↔ Differs s := by
  unfold State.pick
  split <;> simp

@[simp] theorem differs_freshAge : Differs s.freshAge.2 ↔ Differs s := by simp [State.freshAge]
@[simp] theorem differs_setVec (n v : Nat) (x : Vec) : Differs (s.setVec n v x) ↔ Differs s := by simp [State.setVec]
@[simp] theorem differs_sendVec (n v : Nat) : Carries s (s.sendVec n v) := Carries.rule fun h => by simp [State.sendVec, h]
@[simp] theorem differs_raiseVec (n v : Nat) : Carries s (s.raiseVec n v) := Carries.rule fun h => by simp [State.raiseVec, h]
@[simp] theorem differs_raiseAll (v : Nat) : Carries s (s.raiseAll v) := Carries.rule fun h => by simp +contextual [State.raiseAll, h]
@[simp] theorem differs_logFlt (n kind path decoder : Nat) (addr : Nat) (well : Nat) (isWrite : Bool) :
    Differs (s.logFlt n kind path decoder addr well isWrite) ↔ Differs s := by simp [State.logFlt]
@[simp] theorem differs_countPoisoned (n : Nat) : Differs (s.countPoisoned n) ↔ Differs s := by simp [State.countPoisoned]

@[simp] theorem differs_wakeDie (d : Nat) : Differs (s.wakeDie d) ↔ Differs s := by
  unfold State.wakeDie
  split <;> simp

/-! ## The directory -/

@[simp] theorem differs_modEnt (key : Nat) (f : DirEnt → DirEnt) : Differs (s.modEnt key f) ↔ Differs s := .rfl
@[simp] theorem differs_delEnt (key : Nat) : Differs (s.delEnt key) ↔ Differs s := .rfl
@[simp] theorem differs_touchEnt (key : Nat) : Differs (s.touchEnt key) ↔ Differs s := by
  unfold State.touchEnt
  split <;> simp

@[simp] theorem differs_grantExcl (key n : Nat) (x : Excl) : Differs (s.grantExcl key n x) ↔ Differs s := by simp [State.grantExcl]

@[simp] theorem differs_grantRecord (key n : Nat) (granted modified : Bool) : Carries s (s.grantRecord key n granted modified) := by
  refine Carries.rule fun h => ?_
  unfold State.grantRecord
  split <;> simp [h]

@[simp] theorem differs_leaveExcl (key : Nat) : Carries s (s.leaveExcl key) := by
  refine Carries.rule fun h => ?_
  unfold State.leaveExcl
  split <;> simp +contextual [h]

@[simp] theorem differs_dropHolder (key n : Nat) : Carries s (s.dropHolder key n) := by
  refine Carries.rule fun h => ?_
  unfold State.dropHolder
  split <;> simp [h]

@[simp] theorem differs_grantShared (key n : Nat) : Carries s (s.grantShared key n) := Carries.rule fun h => by simp [State.grantShared, h]

@[simp] theorem differs_applyRsp (key n : Nat) (rsp : BiRsp) : Carries s (s.applyRsp key n rsp) := by
  refine Carries.rule fun h => ?_
  unfold State.applyRsp
  split <;> simp [h]

/-! ## Fault records -/

@[simp] theorem differs_addHist (source kind unit : Nat) (location : Nat) (count verdict : Nat) (inj : Bool) :
    Differs (s.addHist source kind unit location count verdict inj) ↔ Differs s := by simp [State.addHist]
@[simp] theorem differs_modRecord (seq : Nat) (f : FaultRec → FaultRec) : Differs (s.modRecord seq f) ↔ Differs s := by simp [State.modRecord]

@[simp] theorem differs_react (x : Source) (kind unit : Nat) (r : React) : Differs (s.react x kind unit r) ↔ Differs s := by
  unfold State.react
  dsimp only
  repeat' split
  all_goals exact .rfl

@[simp] theorem differs_tell (seq : Nat) (stns : List Nat) : Carries s (s.tell seq stns) :=
  Carries.rule fun h => by simp +contextual [State.tell, h]
@[simp] theorem differs_report (r : FaultRec) : Differs (s.report r) := by simp [State.report]
@[simp] theorem differs_judged (kind unit seq : Nat) (inj : Bool) : Differs (s.judged kind unit seq inj) ↔ Differs s := by simp [State.judged]
@[simp] theorem differs_openRecord (x : Source) (e : Event) : Differs (s.openRecord x e) := by simp [State.openRecord]
@[simp] theorem differs_recordUp (x : Source) (r : FaultRec) : Carries s (s.recordUp x r) := Carries.rule fun h => by simp [State.recordUp, h]

@[simp] theorem differs_recordOnce (e : Event) : Carries s (s.recordOnce e) := by
  refine Carries.rule fun h => ?_
  unfold State.recordOnce
  dsimp only
  repeat' split
  all_goals simp +contextual [h]

@[simp] theorem differs_record (e : Event) : Carries s (s.record e) := by
  refine Carries.rule fun h => ?_
  unfold State.record
  dsimp only
  repeat' split
  all_goals simp [h]

@[simp] theorem differs_unbackedBy (kind unit a : Nat) : Carries s (s.unbackedBy kind unit a) :=
  Carries.rule fun h => by simp [State.unbackedBy, h]

@[simp] theorem differs_poisonLine (a cause : Nat) : Carries s (s.poisonLine a cause) := by
  refine Carries.rule fun h => ?_
  unfold State.poisonLine
  dsimp only
  repeat' split
  all_goals simp [h]

@[simp] theorem differs_judgeStack (stack : Nat) : Carries s (s.judgeStack stack) := Carries.rule fun h => by simp [State.judgeStack, h]
@[simp] theorem differs_rowJudged (stack loc : Nat) (inj : Bool) : Carries s (s.rowJudged stack loc inj) :=
  Carries.rule fun h => by simp [State.rowJudged, h]

@[simp] theorem differs_uncorrectable (e : Event) : Carries s (s.uncorrectable e) := by
  refine Carries.rule fun h => ?_
  unfold State.uncorrectable
  dsimp only
  repeat' split
  all_goals simp [h]

@[simp] theorem differs_touch (a : Nat) : Differs (s.touch a) ↔ Differs s := by
  unfold State.touch
  dsimp only
  repeat' split
  all_goals simp

@[simp] theorem differs_readDram (a : Nat) : Carries s (s.readDram a).2.2 := by
  refine Carries.rule fun h => ?_
  unfold State.readDram
  dsimp only
  repeat' split
  all_goals simp [h]

@[simp] theorem differs_writeDram (a : Nat) (d : Line) (pois : Bool) : Differs (s.writeDram a d pois) ↔ Differs s := by simp [State.writeDram]

/-! ## The caches -/

@[simp] theorem differs_setLines (l : List CLine) : Differs (s.setLines l) ↔ Differs s := by simp [State.setLines]
@[simp] theorem differs_modLine (k : CKey) (f : CLine → CLine) : Differs (s.modLine k f) ↔ Differs s := by simp [State.modLine]
@[simp] theorem differs_dropLine (k : CKey) : Differs (s.dropLine k) ↔ Differs s := by simp [State.dropLine]

@[simp] theorem differs_touchLine (k : CKey) : Differs (s.touchLine k) ↔ Differs s := by
  unfold State.touchLine
  split <;> simp

@[simp] theorem differs_device (n : Nat) (what : D2H) (kind : DevKind) (hpa : Nat) (d : Line) (pois : Bool) (job : Option Nat)
    (opnd addr : Nat) (mask : BitVec 64) :
    Differs (s.device n what kind hpa d pois job opnd addr mask) := by simp [State.device]
@[simp] theorem differs_inTransfer (id d set w : Nat) : Differs (s.inTransfer id d set w) ↔ Differs s := by simp [State.inTransfer]
@[simp] theorem differs_dirtyEvict (c : CLine) (n hpa : Nat) (job : Option Nat) (opnd addr : Nat) :
    Differs (s.dirtyEvict c n hpa job opnd addr) := by simp [State.dirtyEvict]

@[simp] theorem differs_evict (c : CLine) : Carries s (s.evict c) := by
  refine Carries.rule fun h => ?_
  unfold State.evict
  split <;> simp [h]

/-- What the second part of a pair is. -/
theorem differs_snd {α : Type} {x : α × State} {a : α} {t : State} (h : x = (a, t)) (hx : Differs x.2) : Differs t := by
  rw [h] at hx
  exact hx

@[simp] theorem differs_takeWay (d set : Nat) : Carries s (s.takeWay d set).2 := by
  refine Carries.rule fun h => ?_
  unfold State.takeWay
  dsimp only
  split
  · exact h
  · split
    · exact h
    · split <;> rename_i hp <;> have hpick := differs_snd hp (by simp [h])
      · exact hpick
      · simp [hpick]

theorem Differs.place {s t : State} (h : Differs s) {c : CLine} (hp : s.place c = some t) : Differs t := by
  unfold State.place at hp
  split at hp
  · cases hp
  · split at hp
    · cases hp
    · split at hp <;> rename_i hw <;> cases hp
      have hway := differs_snd hw (by simp [h])
      simp [hway]

@[simp] theorem differs_stream (d : Nat) (src : Src) (host : Bool) (l : Nat) : Carries s (s.stream d src host l).2 := by
  refine Carries.rule fun h => ?_
  unfold State.stream
  dsimp only
  split
  · simp [h]
  · split
    · simp [h]
    · split <;> rename_i hp <;> have hpick := differs_snd hp (by simp [h]) <;> simp [hpick]

@[simp] theorem differs_homeRead (dpa : Nat) : Carries s (s.homeRead dpa).2.2 := by
  refine Carries.rule fun h => ?_
  unfold State.homeRead
  split <;> simp [h]

@[simp] theorem differs_stationRead (dpa : Nat) : Carries s (s.stationRead dpa).2.2 := by
  refine Carries.rule fun h => ?_
  unfold State.stationRead
  split
  · simp [h]
  · dsimp only
    split
    · rename_i hp
      exact (show Differs (s.readDram dpa).2.2 by simp [h]).place hp
    · simp [h]

@[simp] theorem differs_writeThrough (dpa : Nat) (d : Line) (mask : BitVec 64) (pois keep : Bool) :
    Carries s (s.writeThrough dpa d mask pois keep) := by
  refine Carries.rule fun h => ?_
  unfold State.writeThrough
  split <;> simp [h]

@[simp] theorem differs_dropRecord (dpa : Nat) (pois : Bool) : Differs (s.dropRecord dpa pois) ↔ Differs s := by simp [State.dropRecord]
@[simp] theorem differs_copyPoison (dpa : Nat) (pois : Bool) : Carries s (s.copyPoison dpa pois) :=
  Carries.rule fun h => by simp [State.copyPoison, h]

@[simp] theorem differs_homeWrite (dpa : Nat) (d : Line) (mask : BitVec 64) (pois : Bool) (src : Src) :
    Carries s (s.homeWrite dpa d mask pois src) := by
  refine Carries.rule fun h => ?_
  have hread {t : State} (ht : Differs t) : Differs (if mask = fullMask then ((0 : Line), false, t) else t.readDram dpa).2.2 := by
    split <;> simp [ht]
  unfold State.homeWrite
  split
  · exact h
  · rename_i die a _
    have hstream : Differs (if mask = fullMask then s.stream die src false (a / 64) else (false, s)).2 := by
      split <;> simp [h]
    dsimp only
    generalize (if mask = fullMask then s.stream die src false (a / 64) else (false, s)) = x at hstream ⊢
    refine (differs_copyPoison ..).2 (.inr ?_)
    split
    · simp [hstream]
    · split
      · simp [hstream]
      · split
        · simp [hstream]
        · split
          · simp [hstream]
          · split
            · rename_i hp
              simp [(hread hstream).place hp]
            · exact (differs_writeThrough ..).2 (.inr (hread hstream))

@[simp] theorem differs_reserveWay (dpa : Nat) : Carries s (s.reserveWay dpa) := by
  refine Carries.rule fun h => ?_
  unfold State.reserveWay
  split
  · exact h
  · split
    · exact h
    · split <;> rename_i hw <;> have hway := differs_snd hw (by simp [h]) <;> exact hway

@[simp] theorem differs_unreserve (dpa : Nat) : Differs (s.unreserve dpa) ↔ Differs s := by simp [State.unreserve]

@[simp] theorem differs_takeBack (dpa : Nat) (d : Line) (mask : BitVec 64) (pois : Bool) (src : Src) :
    Carries s (s.takeBack dpa d mask pois src) := by
  refine Carries.rule fun h => ?_
  unfold State.takeBack
  dsimp only
  repeat' split
  all_goals simp [h]

@[simp] theorem differs_takeThrough (dpa : Nat) (d : Line) (mask : BitVec 64) (pois : Bool) (src : Src) :
    Carries s (s.takeThrough dpa d mask pois src) := Carries.rule fun h => by simp [State.takeThrough, h]

@[simp] theorem differs_poisonHome (dpa cause : Nat) : Carries s (s.poisonHome dpa cause) := by
  refine Carries.rule fun h => ?_
  unfold State.poisonHome
  split <;> simp [h]

@[simp] theorem differs_forgetRun (a n : Nat) : Differs (s.forgetRun a n) ↔ Differs s := by simp [State.forgetRun]

/-! ## The homes -/

@[simp] theorem differs_modTxn (key : Nat) (f : Txn → Txn) : Differs (s.modTxn key f) ↔ Differs s := by simp [State.modTxn]
@[simp] theorem differs_delTxn (key : Nat) : Differs (s.delTxn key) ↔ Differs s := by simp [State.delTxn]

@[simp] theorem differs_sendSnoop (key : Nat) (kind : BiKind) (holder : Nat) : Carries s (s.sendSnoop key kind holder) := by
  refine Carries.rule fun h => ?_
  unfold State.sendSnoop
  split <;> simp [h]

@[simp] theorem differs_startTxn (key : Nat) (p : Purpose) (targets : List Nat) (kind : BiKind) (ev : Option DirEnt) :
    Carries s (s.startTxn key p targets kind ev) := Carries.rule fun h => by simp +contextual [State.startTxn, h]
@[simp] theorem differs_evictEnt (e : DirEnt) : Carries s (s.evictEnt e) := Carries.rule fun h => by simp [State.evictEnt, h]

theorem Differs.evictWay {s : State} (h : Differs s) {die set own : Nat} {x : Nat × State} (hx : s.evictWay die set own = some x) :
    Differs x.2 := by
  unfold State.evictWay at hx
  dsimp only at hx
  split at hx
  · cases hx
  · split at hx
    · cases hx
    · split at hx <;> cases hx
      simp [h]

theorem Differs.dirWay {s : State} (h : Differs s) {die set own : Nat} {x : Nat × State} (hx : s.dirWay die set own = some x) : Differs x.2 := by
  unfold State.dirWay at hx
  split at hx
  · cases hx; exact h
  · exact h.evictWay hx

@[simp] theorem differs_quotaRecall (n die : Nat) : Carries s (s.quotaRecall n die) :=
  Carries.rule fun h => by simp +contextual [State.quotaRecall, h]
@[simp] theorem differs_quotaStep : Carries s s.quotaStep := Carries.rule fun h => by simp +contextual [State.quotaStep, h]
@[simp] theorem differs_slotDone (n : Nat) (rwd : Bool) : Differs (s.slotDone n rwd) ↔ Differs s := by simp [State.slotDone]
@[simp] theorem differs_ioData (n off : Nat) (bs : List Byte) (ep : Bool) : Carries s (s.ioData n off bs ep) :=
  Carries.rule fun h => by simp +contextual [State.ioData, h]

@[simp] theorem differs_fillRead (n id i : Nat) (d : Line) (p : Bool) : Carries s (s.fillRead n id i d p) := by
  refine Carries.rule fun h => ?_
  unfold State.fillRead
  dsimp only
  repeat' split
  all_goals simp [h]

@[simp] theorem differs_fillTile (id tile i : Nat) (d : Line) (p : Bool) : Differs (s.fillTile id tile i d p) ↔ Differs s := by
  simp [State.fillTile]

@[simp] theorem differs_fillDesc (id k : Nat) (d : Line) (p : Bool) : Differs (s.fillDesc id k d p) ↔ Differs s := by simp [State.fillDesc]
@[simp] theorem differs_jobWritten (id : Nat) : Differs (s.jobWritten id) ↔ Differs s := by simp [State.jobWritten]
@[simp] theorem differs_atomDone (id i : Nat) (old : Option Nat) : Differs (s.atomDone id i old) ↔ Differs s := by simp [State.atomDone]

@[simp] theorem differs_respond (r : Req) (k : CmpKind) (data : Option (Line × Bool)) : Carries s (s.respond r k data) := by
  refine Carries.rule fun h => ?_
  unfold State.respond
  dsimp only
  repeat' split
  all_goals simp [h]

@[simp] theorem differs_refuseReq (r : Req) (kind : Nat) : Carries s (s.refuseReq r kind) := by
  refine Carries.rule fun h => ?_
  unfold State.refuseReq
  dsimp only
  repeat' split
  all_goals simp [h]

@[simp] theorem differs_commit (r : Req) (key : Nat) (ans : Option (Line × Bool)) : Carries s (s.commit r key ans) := by
  refine Carries.rule fun h => ?_
  unfold State.commit
  split <;> simp [h]

@[simp] theorem differs_applyWrite (r : Req) (key : Nat) (recalled : Bool) : Carries s (s.applyWrite r key recalled) :=
  Carries.rule fun h => by simp [State.applyWrite, h]

@[simp] theorem differs_applyAtomic (r : Req) (key aop width pos opnd cmp : Nat) : Carries s (s.applyAtomic r key aop width pos opnd cmp) := by
  refine Carries.rule fun h => ?_
  unfold State.applyAtomic
  dsimp only
  repeat' split
  all_goals simp [h]

@[simp] theorem differs_perform (r : Req) (key : Nat) (given : Option (Line × Bool)) : Carries s (s.perform r key given) := by
  refine Carries.rule fun h => ?_
  unfold State.perform
  dsimp only
  repeat' split
  all_goals simp [h]

@[simp] theorem differs_forward (r : Req) : Differs (s.forward r) := by simp [State.forward]

theorem Differs.allocFor {s t : State} (h : Differs s) {r : Req} {key : Nat} (ht : s.allocFor r key = some t) : Differs t := by
  unfold State.allocFor at ht
  dsimp only at ht
  split at ht
  · cases ht
  · split at ht
    · split at ht
      · cases ht
      · split at ht
        · cases ht
        · rename_i hw
          cases ht
          exact h.dirWay hw
    · split at ht
      · split at ht
        · cases ht
        · rename_i hw
          cases ht
          exact h.dirWay hw
      · cases ht; exact h

@[simp] theorem differs_afterGrant (r : Req) (key : Nat) : Carries s (s.afterGrant r key) := by
  refine Carries.rule fun h => ?_
  unfold State.afterGrant
  split <;> simp [h]

@[simp] theorem differs_askRecord (r : Req) (key : Nat) : Carries s (s.askRecord r key) := Carries.rule fun h => by simp [State.askRecord, h]

@[simp] theorem differs_ownerWrite (r : Req) (w : Well) (key : Nat) : Carries s (s.ownerWrite r w key) := by
  refine Carries.rule fun h => ?_
  unfold State.ownerWrite
  dsimp only
  repeat' split
  all_goals simp [h]

theorem Differs.serveFree {s : State} (h : Differs s) (r : Req) (w : Well) (key : Nat) : Differs (s.serveFree r w key).state := by
  unfold State.serveFree
  split
  · split
    · exact h
    · rename_i ha
      have halloc := h.allocFor ha
      repeat' split
      all_goals simp [halloc]
  · split <;> simp [h]

theorem Differs.serveCistern {s : State} (h : Differs s) (r : Req) (w : Well) (key : Nat) : Differs (s.serveCistern r w key).state := by
  unfold State.serveCistern
  dsimp only
  have hfree (r : Req) := h.serveFree r w key
  repeat' split
  all_goals simp [h, hfree]

@[simp] theorem differs_servePlain (r : Req) (w : Well) (key : Nat) : Carries s (s.servePlain r w key) := by
  refine Carries.rule fun h => ?_
  unfold State.servePlain
  dsimp only
  repeat' split
  all_goals simp [h]

@[simp] theorem differs_serveDown (r : Req) (c key : Nat) : Carries s (s.serveDown r c key) := Carries.rule fun h => by simp [State.serveDown, h]

theorem Differs.serve {s : State} (h : Differs s) (r : Req) : Differs (s.serve r).state := by
  have hread (key : Nat) : Differs (if r.kind = .swaRd then s.homeRead key else s.stationRead key).2.2 := by split <;> simp [h]
  have hcis (w : Well) (key : Nat) := h.serveCistern r w key
  simp [State.serve, hread, hcis, h]

@[simp] theorem differs_toRetry (r : Req) : Differs (s.toRetry r) ↔ Differs s := by simp [State.toRetry]
@[simp] theorem differs_enqueue (r : Req) : Differs (s.enqueue r) ↔ Differs s := by simp [State.enqueue]

@[simp] theorem differs_present (r : Req) : Carries s (s.present r) := by
  refine Carries.rule fun h => ?_
  unfold State.present
  split
  · simp [h]
  · split
    · simp [h]
    · split
      · simp [h]
      · have hserve := h.serve r
        split <;> rename_i hs <;> rw [hs] at hserve
        · exact hserve
        · exact (differs_enqueue ..).2 hserve
        · exact hserve

@[simp] theorem differs_newReq (r : Req) : Differs (s.newReq r).2 ↔ Differs s := by simp [State.newReq]
@[simp] theorem differs_submit (r : Req) : Carries s (s.submit r) := Carries.rule fun h => by simp [State.submit, h]

@[simp] theorem differs_drainPass : Carries s s.drainPass := by
  refine Carries.rule fun h => ?_
  refine List.foldlRecOn (motive := fun x : State × List Nat => Differs x.1) _ _ h fun ⟨t, stuck⟩ ht x _ => ?_
  dsimp only
  split
  · exact ht
  · have hserve := ht.serve x.2
    split <;> rename_i hs <;> rw [hs] at hserve <;> simpa using hserve

@[simp] theorem differs_drainFor (k : Nat) : Carries s (State.drainFor k s) := by
  refine Carries.rule fun h => ?_
  induction k generalizing s with
  | zero => exact h
  | succ k ih =>
    have hpass : Differs s.drainPass := by simp [h]
    unfold State.drainFor
    dsimp only
    split
    · exact ih _ hpass
    · exact hpass

@[simp] theorem differs_drain : Carries s s.drain := Carries.rule fun h => by simp [State.drain, h]
@[simp] theorem differs_revWalk (v : Rev) : Carries s (s.revWalk v) := Carries.rule fun h => by simp +contextual [State.revWalk, h]

@[simp] theorem differs_gapWalk : Carries s s.gapWalk := by
  refine Carries.rule fun h => ?_
  refine Differs.foldl _ _ (fun s k h => ?_) s h
  dsimp only
  repeat' split
  all_goals simp [h]

@[simp] theorem differs_lostRecall (key : Nat) : Carries s (s.lostRecall key) := by
  refine Carries.rule fun h => ?_
  unfold State.lostRecall
  dsimp only
  repeat' split
  all_goals simp [h]

@[simp] theorem differs_lostStep : Carries s s.lostStep := Carries.rule fun h => by simp +contextual [State.lostStep, h]
@[simp] theorem differs_homeStep : Carries s s.homeStep := Carries.rule fun h => by simp +contextual [State.homeStep, h]

@[simp] theorem differs_tidyEnt (key : Nat) : Differs (s.tidyEnt key) ↔ Differs s := by
  unfold State.tidyEnt
  split <;> simp

@[simp] theorem differs_endTxn (key : Nat) : Differs (s.endTxn key) ↔ Differs s := by simp [State.endTxn]
@[simp] theorem differs_completeServe (r : Req) (key : Nat) (given : Option (Line × Bool)) : Carries s (s.completeServe r key given) :=
  Carries.rule fun h => by simp [State.completeServe, h]

@[simp] theorem differs_answerAsks (key : Nat) : Carries s (s.answerAsks key) := by
  refine Carries.rule fun h => ?_
  unfold State.answerAsks
  split <;> simp +contextual [h]

@[simp] theorem differs_finishTxn (t : Txn) : Carries s (s.finishTxn t) := by
  refine Carries.rule fun h => ?_
  unfold State.finishTxn
  split <;> simp [h]

@[simp] theorem differs_answer (n : Snoop) (rsp : BiRsp) : Carries s (s.answer n rsp) := by
  refine Carries.rule fun h => ?_
  unfold State.answer
  dsimp only
  repeat' split
  all_goals simp [h]

@[simp] theorem differs_startRev (v : Rev) : Differs (s.startRev v) ↔ Differs s := by
  unfold State.startRev
  split <;> simp

@[simp] theorem differs_endCisRequests (c : Nat) : Carries s (s.endCisRequests c) :=
  Carries.rule fun h => by simp +contextual [State.endCisRequests, h]

@[simp] theorem differs_loseLine (c key : Nat) : Carries s (s.loseLine c key) := by
  refine Carries.rule fun h => ?_
  unfold State.loseLine
  dsimp only
  repeat' split
  all_goals simp [h]

@[simp] theorem differs_downEntry (c : Nat) (e : DirEnt) (inBuffer : Bool) : Carries s (s.downEntry c e inBuffer) := by
  refine Carries.rule fun h => ?_
  unfold State.downEntry
  extract_lets x dead lost live s1 s2 s3 out s4 s5
  have h4 : Differs s4 := by simp +contextual [s4, s3, s2, s1, h]
  have h5 : Differs s5 := by
    unfold s5
    split
    · exact h4
    · exact h4
  clear_value s5
  split
  · dsimp only
    split
    · simp +contextual [h5]
    · simp +contextual [h5]
  · split <;> simp +contextual [h5]

@[simp] theorem differs_downWalk (c : Nat) : Carries s (s.downWalk c) := by
  refine Carries.rule fun h => ?_
  unfold State.downWalk
  extract_lets twinDead mine buffered s1 s2 s3 rest
  have h1 : Differs s1 := Differs.foldl _ _ (fun t e ht => by split <;> simp [ht]) s h
  have h3 : Differs s3 := by simp +contextual [s3, s2, h1]
  simp +contextual [h3]

@[simp] theorem differs_declare (c cause station : Nat) (told : Bool) : Carries s (s.declare c cause station told) :=
  Carries.rule fun h => by simp +contextual [State.declare, h]
@[simp] theorem differs_forgetHolder (n : Nat) : Carries s (s.forgetHolder n) :=
  Carries.rule fun h => by simp +contextual [State.forgetHolder, h]
@[simp] theorem differs_loseHolder (n cause : Nat) : Carries s (s.loseHolder n cause) :=
  Carries.rule fun h => by simp +contextual [State.loseHolder, h]

/-! ## The mailboxes -/

@[simp] theorem differs_auditPut (a : Audit) : Carries s (s.auditPut a) := Carries.rule fun h => by simp [State.auditPut, h]
@[simp] theorem differs_resumeAudit : Carries s s.resumeAudit := Carries.rule fun h => by simp +contextual [State.resumeAudit, h]
@[simp] theorem differs_auditRec (a : Audit) : Carries s (s.auditRec a) := Carries.rule fun h => by simp [State.auditRec, h]
@[simp] theorem differs_auditMbx (m : Mbx) (sender : BitVec 64) (kind wb opcode status : Nat) (digest : BitVec 128) (detail : Nat)
    (cred : Option (BitVec 64)) :
    Carries s (s.auditMbx m sender kind wb opcode status digest detail cred) := Carries.rule fun h => by simp [State.auditMbx, h]

/-- Only the session of a station ends by what follows a command; that of a management mailbox ends by a command. -/
@[simp] theorem differs_endSession_stn (n : Station) (why : Nat) :
    Carries s (s.endSession (.stn n) why) :=
  Carries.rule fun h => by simp [State.endSession, h]

@[simp] theorem differs_crossThresholds (next : Nat) : Carries s (s.crossThresholds next) :=
  Carries.rule fun h => by simp +contextual [State.crossThresholds, h]
@[simp] theorem differs_writeEntry (e : JEntry) : Carries s (s.writeEntry e) := Carries.rule fun h => by simp [State.writeEntry, h]

@[simp] theorem differs_modEntry (wb : Nat) (f : JEntry → JEntry) : Carries s (s.modEntry wb f) := by
  refine Carries.rule fun h => ?_
  unfold State.modEntry
  split <;> simp [h]

@[simp] theorem differs_ownEntry (opcode object : Nat) (result : List Byte) : Carries s (s.ownEntry opcode object result) :=
  Carries.rule fun h => by simp [State.ownEntry, h]

@[simp] theorem differs_numberEntry (wb : Nat) : Carries s (s.numberEntry wb) := by
  refine Carries.rule fun h => ?_
  unfold State.numberEntry
  split <;> simp [h]

@[simp] theorem differs_numberAll : Carries s s.numberAll := Carries.rule fun h => by simp +contextual [State.numberAll, h]
@[simp] theorem differs_ready (wb : Nat) (st : Status) (result : List Byte) : Differs (s.ready wb st result) ↔ Differs s := by simp [State.ready]

@[simp] theorem differs_readyOpt (wb : Option Nat) (st : Status) (result : List Byte) : Differs (s.readyOpt wb st result) ↔ Differs s := by
  unfold State.readyOpt
  split <;> simp

@[simp] theorem differs_cplSlot (n : Station) (quiet : Bool) (c : Cpl) : Carries s (s.cplSlot n quiet c) :=
  Carries.rule fun h => by simp [State.cplSlot, h]

@[simp] theorem differs_completeAsync (a : Async) (st : Status) (result : List Byte) : Carries s (s.completeAsync a st result) := by
  refine Carries.rule fun h => ?_
  unfold State.completeAsync
  dsimp only
  repeat' split
  all_goals simp [h]

@[simp] theorem differs_twinEvent : Carries s s.twinEvent := Carries.rule fun h => by simp [State.twinEvent, h]

/-! ## Translation -/

@[simp] theorem differs_rcDrop (f : Nat → Nat → Bool) : Differs (s.rcDrop f) ↔ Differs s := by simp [State.rcDrop]
@[simp] theorem differs_rcDropTwin (f : Range → Bool) : Differs (s.rcDropTwin f) ↔ Differs s := by simp [State.rcDropTwin]
@[simp] theorem differs_switchOn (hit : Nat → Nat → Bool) (cause : SwCause) (cleared : Nat) :
    Differs (s.switchOn hit cause cleared) ↔ Differs s := by simp [State.switchOn]

@[simp] theorem differs_clearRanges (f : Range → Bool) (cause : SwCause) : Differs (s.clearRanges f cause) ↔ Differs s := by
  simp [State.clearRanges]

@[simp] theorem differs_switchDone (w : Switch) : Carries s (s.switchDone w) := by
  refine Carries.rule fun h => ?_
  unfold State.switchDone
  dsimp only
  repeat' split
  all_goals simp [h]

@[simp] theorem differs_switchStep : Carries s s.switchStep := Carries.rule fun h => by simp +contextual [State.switchStep, h]
@[simp] theorem differs_atsAsk (n : Nat) (r : AtsReq) : Carries s (s.atsAsk n r) := Carries.rule fun h => by simp [State.atsAsk, h]

/-! ## The prefix index -/

@[simp] theorem differs_modPfxEnt (e : Nat) (f : PfxEnt → PfxEnt) : Differs (s.modPfxEnt e f) ↔ Differs s := by simp [State.modPfxEnt]
@[simp] theorem differs_dropRef (e : Nat) : Differs (s.dropRef e) ↔ Differs s := by simp [State.dropRef]

@[simp] theorem differs_freeEntry (e : Nat) : Differs (s.freeEntry e) ↔ Differs s := by
  unfold State.freeEntry
  split <;> simp

@[simp] theorem differs_endHold (i : Nat) : Differs (s.endHold i) ↔ Differs s := by
  unfold State.endHold
  split <;> simp

@[simp] theorem differs_endHolds (ns : Nat) : Differs (s.endHolds ns) ↔ Differs s := by simp [State.endHolds]
@[simp] theorem differs_freeEntries (ns : Nat) : Differs (s.freeEntries ns) ↔ Differs s := by simp [State.freeEntries]

/-! ## Tiles and lines of a job -/

@[simp] theorem differs_ringWrite (p off : Nat) (bs : List Byte) (org : Origin) : Carries s (s.ringWrite p off bs org) := by
  refine Carries.rule fun h => ?_
  unfold State.ringWrite
  split <;> simp [h]

@[simp] theorem differs_writeHeader (p : Nat) : Carries s (s.writeHeader p) := Carries.rule fun h => by simp [State.writeHeader, h]
@[simp] theorem differs_setPlat (p : Nat) (f : Platform → Platform) : Carries s (s.setPlat p f) :=
  Carries.rule fun h => by simp [State.setPlat, h]
@[simp] theorem differs_dropReads (id : Nat) : Differs (s.dropReads id) ↔ Differs s := by simp [State.dropReads]
@[simp] theorem differs_dropAtoms (id : Nat) : Differs (s.dropAtoms id) ↔ Differs s := by simp [State.dropAtoms]
@[simp] theorem differs_leavePumps (id : Nat) : Differs (s.leavePumps id) ↔ Differs s := by simp [State.leavePumps]

@[simp] theorem differs_endThird (id : Nat) : Carries s (s.endThird id) := by
  refine Carries.rule fun h => ?_
  unfold State.endThird
  repeat' split
  all_goals simp [h]

@[simp] theorem differs_abandonPending (id : Nat) : Differs (s.abandonPending id) ↔ Differs s := by
  unfold State.abandonPending
  repeat' split
  all_goals simp

@[simp] theorem differs_stopJob (id : Nat) (st : JobStatus) (f : Option Fail) (lost : Bool) : Carries s (s.stopJob id st f lost) := by
  refine Carries.rule fun h => ?_
  unfold State.stopJob
  split <;> simp [h]

@[simp] theorem differs_finishJob (id : Nat) : Carries s (s.finishJob id) := by
  refine Carries.rule fun h => ?_
  unfold State.finishJob
  split <;> simp [h]

@[simp] theorem differs_ioFlush : Carries s s.ioFlush := by
  refine Carries.rule fun h => ?_
  refine Differs.foldl _ _ (fun s x h => ?_) _ h
  repeat' split
  all_goals simp [h]

@[simp] theorem differs_deviceInto (way : Option (Nat × Nat × Nat)) (n : Nat) (what : D2H) (kind : DevKind) (hpa : Nat) (d : Line)
    (pois : Bool) (job : Option Nat) (opnd addr : Nat) (mask : BitVec 64) :
    Differs (s.deviceInto way n what kind hpa d pois job opnd addr mask) := by
  unfold State.deviceInto
  split <;> simp

@[simp] theorem differs_keepM (job : Option Nat) (n hpa : Nat) : Differs (s.keepM job n hpa) ↔ Differs s := by
  unfold State.keepM
  split <;> simp

@[simp] theorem differs_hostWriteNow (job : Option Nat) (n hpa : Nat) (d : Line) (mask : BitVec 64) (pois : Bool) (opnd addr : Nat) :
    Carries s (s.hostWriteNow job n hpa d mask pois opnd addr) := by
  refine Carries.rule fun h => ?_
  unfold State.hostWriteNow
  extract_lets die p whole own past
  have hown (t : State) (way : Option (Nat × Nat × Nat)) : Differs (own t way) := by simp [own]
  have hpast (t : State) : Differs (past t) := by simp [past]
  have hstream : Differs (if whole then s.stream die (.pump p) true (hpa / 64) else (false, s)).2 := by split <;> simp [h]
  generalize (if whole then s.stream die (.pump p) true (hpa / 64) else (false, s)) = x at hstream ⊢
  obtain ⟨streaming, t⟩ := x
  dsimp only at hstream ⊢
  split
  · split
    · exact hown ..
    · simp [hstream]
  · split
    · exact hpast _
    · split
      · split
        · exact hpast _
        · exact hown ..
      · exact hown ..

@[simp] theorem differs_hostWrite (job : Option Nat) (n hpa : Nat) (d : Line) (mask : BitVec 64) (pois : Bool) (opnd addr : Nat) :
    Carries s (s.hostWrite job n hpa d mask pois opnd addr) := Carries.rule fun h => by simp [State.hostWrite, h]

@[simp] theorem differs_sendFwd (f : FwdOut) : Carries s (s.sendFwd f) := by
  refine Carries.rule fun h => ?_
  unfold State.sendFwd
  split
  · exact h
  · split <;> simp

@[simp] theorem differs_fwdTwin (f : FwdOut) : Carries s (s.fwdTwin f) := Carries.rule fun h => by simp [State.fwdTwin, h]

@[simp] theorem differs_hostNow (j : Job) (opnd a : Nat) (acc : Acc) (t : Target) : Carries s (s.hostNow j opnd a acc t).2 := by
  refine Carries.rule fun h => ?_
  unfold State.hostNow
  dsimp only
  repeat' split
  all_goals simp [h]

@[simp] theorem differs_mapReqs (f : Req → Req) : Differs (s.mapReqs f) ↔ Differs s := by simp [State.mapReqs]

@[simp] theorem differs_issueLine (id : Nat) (q : QLine) (org : Origin) : Carries s (s.issueLine id q org) := by
  refine Carries.rule fun h => ?_
  unfold State.issueLine
  split <;> simp [h]

@[simp] theorem differs_queueLine (id p : Nat) (q : QLine) : Carries s (s.queueLine id p q) := by
  refine Carries.rule fun h => ?_
  unfold State.queueLine
  split <;> simp [h]

@[simp] theorem differs_pushLines (k id p : Nat) : Carries s (State.pushLines k s id p) := by
  refine Carries.rule fun h => ?_
  induction k generalizing s with
  | zero => exact h
  | succ k ih =>
    unfold State.pushLines
    split
    · exact h
    · split
      · exact h
      · split
        · exact h
        · split <;> rename_i hp <;> have ht := differs_snd hp (by simp [h])
          · exact ht
          · exact ih _ (by simp [ht])

@[simp] theorem differs_pushQueue (id : Nat) : Carries s (s.pushQueue id) := by
  refine Carries.rule fun h => ?_
  unfold State.pushQueue
  split <;> simp [h]

@[simp] theorem differs_writesMoved : Carries s s.writesMoved := Carries.rule fun h => by simp +contextual [State.writesMoved, h]

/-! ## Loads -/

theorem Differs.xlateTile {s t : State} (h : Differs s) {j : Job} {p o opnd a len : Nat} {acc : Acc} {step : Nat} {ahead : Bool}
    (ht : s.xlateTile j p o opnd a len acc step ahead = .wait t) :
    Differs t := by
  unfold State.xlateTile at ht
  dsimp only at ht
  split at ht
  · cases ht
  · split at ht <;> cases ht
    refine Differs.foldl _ _ (fun s x h => ?_) s h
    split <;> simp [h]

@[simp] theorem differs_prefetch (id p lines tiles : Nat) : Carries s (s.prefetch id p lines tiles) := by
  refine Carries.rule fun h => ?_
  unfold State.prefetch
  split
  · exact h
  · split
    · exact h
    · rename_i j _ _
      extract_lets look plain ahead loads s1 dests
      have hlook {t : State} (ht : Differs t) (opnd a n : Nat) (acc : Acc) (step : Nat) : Differs (look t opnd a n acc step) := by
        unfold look
        split
        · rename_i hx
          exact ht.xlateTile hx
        · exact ht
      have h1 : Differs s1 := Differs.foldl _ _ (fun s opnd h => Differs.foldl _ _ (fun s x h => hlook h ..) s h) s h
      exact Differs.foldl _ _ (fun s opnd h => Differs.foldl _ _ (fun s x h => hlook h ..) s h) s1 h1

/-! ## Rings and descriptors -/

@[simp] theorem differs_askSlot (id : Nat) : Carries s (s.askSlot id) := by
  refine Carries.rule fun h => ?_
  unfold State.askSlot
  dsimp only
  repeat' split
  all_goals simp +contextual [h]

theorem differs_takeSlot {s t : State} {id : Nat} (h : s.takeSlot id = some t) : Differs t ↔ Differs s := by
  unfold State.takeSlot at h
  split at h
  · cases h
  · split at h <;> cases h
    simp

@[simp] theorem differs_markRead (p i : Nat) : Carries s (s.markRead p i) := Carries.rule fun h => by simp [State.markRead, h]

@[simp] theorem differs_slotRead (id : Nat) : Carries s (s.slotRead id) := by
  refine Carries.rule fun h => ?_
  unfold State.slotRead
  split <;> simp [h]

@[simp] theorem differs_descReady (id p : Nat) : Carries s (s.descReady id p) := by
  refine Carries.rule fun h => ?_
  unfold State.descReady
  dsimp only
  repeat' split
  all_goals simp [h]

@[simp] theorem differs_readDesc (id p : Nat) : Carries s (s.readDesc id p) := by
  refine Carries.rule fun h => ?_
  unfold State.readDesc
  split <;> simp [h]

@[simp] theorem differs_giveJob (id p : Nat) : Carries s (s.giveJob id p) := Carries.rule fun h => by simp [State.giveJob, h]

@[simp] theorem differs_choosePump (j : Job) (hint : Nat) (among : Nat → Bool) : Differs (s.choosePump j hint among).2 ↔ Differs s := by
  unfold State.choosePump
  dsimp only
  split <;> exact differs_pick ..

@[simp] theorem differs_handOff (id : Nat) (die : Option Nat) : Carries s (s.handOff id die) := by
  refine Carries.rule fun h => ?_
  unfold State.handOff
  dsimp only
  repeat' split
  all_goals simp [h]

@[simp] theorem differs_requeue (p : Nat) (die : Bool) : Carries s (s.requeue p die) :=
  Carries.rule fun h => by simp +contextual [State.requeue, h]
@[simp] theorem differs_offerJobs (f : Job → Bool) : Carries s (s.offerJobs f) := Carries.rule fun h => by simp +contextual [State.offerJobs, h]
@[simp] theorem differs_acceptOne (p : Nat) : Carries s (s.acceptOne p) := Carries.rule fun h => by simp [State.acceptOne, h]

@[simp] theorem differs_acceptFor (k p : Nat) : Carries s (State.acceptFor k p s) := by
  refine Carries.rule fun h => ?_
  induction k generalizing s with
  | zero => exact h
  | succ k ih =>
    unfold State.acceptFor
    dsimp only
    split
    · exact ih _ (by simp [h])
    · exact h

@[simp] theorem differs_accept_ (p : Nat) : Carries s (s.accept_ p) := Carries.rule fun h => by simp [State.accept_, h]

@[simp] theorem differs_readEarly : Carries s s.readEarly := by
  refine Carries.rule fun h => ?_
  refine Differs.foldl _ _ (fun s x h => ?_) _ h
  dsimp only
  repeat' split
  all_goals simp +contextual [h]

@[simp] theorem differs_peeked (id : Nat) : Carries s (s.peeked id) := by
  refine Carries.rule fun h => ?_
  unfold State.peeked
  split
  · simp [h]
  · split <;> simp [h]

@[simp] theorem differs_descOnce : Carries s s.descOnce := by
  refine Carries.rule fun h => ?_
  refine Differs.foldl _ _ (fun s j h => ?_) _ (by simp +contextual [h])
  split
  · exact h
  · rename_i hs
    have ht := (differs_takeSlot hs).2 h
    split <;> simp +contextual [ht, h]

@[simp] theorem differs_descStep : Carries s s.descStep := Carries.rule fun h => by simp [State.descStep, h]
@[simp] theorem differs_restartPlat (p : Nat) : Carries s (s.restartPlat p) := Carries.rule fun h => by simp [State.restartPlat, h]
@[simp] theorem differs_dropBell (p : Nat) : Carries s (s.dropBell p) := Carries.rule fun h => by simp [State.dropBell, h]
@[simp] theorem differs_bell (d : Doorbell) : Carries s (s.bell d) := Carries.rule fun h => by simp [State.bell, h]
@[simp] theorem differs_bells : Carries s s.bells := Carries.rule fun h => by simp +contextual [State.bells, h]
@[simp] theorem differs_jobIrq (j : Job) : Carries s (s.jobIrq j) := Carries.rule fun h => by simp [State.jobIrq, h]

@[simp] theorem differs_countEnd (id : Nat) : Differs (s.countEnd id) ↔ Differs s := by
  unfold State.countEnd
  dsimp only
  repeat' split
  all_goals simp

@[simp] theorem differs_delJob (id : Nat) : Differs (s.delJob id) ↔ Differs s := by simp [State.delJob]
@[simp] theorem differs_writeRecord (j : Job) : Carries s (s.writeRecord j) := Carries.rule fun h => by simp [State.writeRecord, h]
@[simp] theorem differs_recordDone (j : Job) : Carries s (s.recordDone j) := Carries.rule fun h => by simp [State.recordDone, h]

@[simp] theorem differs_cplStep : Carries s s.cplStep := by
  refine Carries.rule fun h => ?_
  refine Differs.foldl _ _ (fun s x h => ?_) _ h
  repeat' split
  all_goals simp +contextual [h]

/-! ## Jobs on their pumps -/

@[simp] theorem differs_setIns (id : Nat) (f : Insert → Insert) : Differs (s.setIns id f) ↔ Differs s := by simp [State.setIns]
@[simp] theorem differs_toPhase (id phase : Nat) : Differs (s.toPhase id phase) ↔ Differs s := by simp [State.toPhase]

@[simp] theorem differs_finishStep : Carries s s.finishStep := by
  refine Carries.rule fun h => ?_
  refine Differs.foldl _ _ (fun s x h => ?_) _ h
  repeat' split
  all_goals simp +contextual [h]

@[simp] theorem differs_thirdOn (j : Job) (op : StepOp) (p q : Nat) : Carries s (s.thirdOn j op p q) :=
  Carries.rule fun h => by simp [State.thirdOn, h]
@[simp] theorem differs_idlePump (j : Job) (p : Nat) : Differs (s.idlePump j p).2 ↔ Differs s := by simp [State.idlePump]

@[simp] theorem differs_replayStep : Carries s s.replayStep := by
  refine Carries.rule fun h => ?_
  refine Differs.foldl _ _ (fun s j h => ?_) s h
  split
  · split
    · split <;> rename_i hp <;> have ht := differs_snd hp (by simp [h])
      · simp +contextual [ht]
      · exact ht
    · exact h
  · exact h

@[simp] theorem differs_zeroExchange (p : Nat) : Differs (s.zeroExchange p) ↔ Differs s := by simp [State.zeroExchange]

@[simp] theorem differs_moveStep : Differs s.moveStep ↔ Differs s := by
  refine (differs_foldl_same (fun s r => by simp) _ _).trans (differs_foldl_same (fun s p => ?_) _ s)
  dsimp only
  repeat' split
  all_goals simp

@[simp] theorem differs_atomStep : Carries s s.atomStep := by
  refine Carries.rule fun h => ?_
  refine Differs.foldl _ _ (fun s x h => ?_) _ h
  repeat' split
  all_goals simp +contextual [h]

@[simp] theorem differs_pumpReset (p : Nat) : Carries s (s.pumpReset p) := by
  refine Carries.rule fun h => ?_
  unfold State.pumpReset
  split <;> simp [h]

/-! ## Drains -/

@[simp] theorem differs_endJob (j : Job) (st : JobStatus) (f : Option Fail) (lost : Bool) : Carries s (s.endJob j st f lost) := by
  refine Carries.rule fun h => ?_
  unfold State.endJob
  split <;> simp [h]

@[simp] theorem differs_rerecord (j : Job) (st : JobStatus) (f : Fail) : Carries s (s.rerecord j st f) :=
  Carries.rule fun h => by simp [State.rerecord, h]

@[simp] theorem differs_stationJobs (n : Nat) (reset : Bool) : Carries s (s.stationJobs n reset) := by
  refine Carries.rule fun h => ?_
  unfold State.stationJobs
  extract_lets st s1 s2 ids _ s3 s4
  have h1 : Differs s1 := by
    refine Differs.foldl _ _ (fun s k h => ?_) s h
    split
    · exact h
    · dsimp only
      repeat' split
      all_goals simp +contextual [h]
  have h4 : Differs s4 := by simp +contextual [s4, s3, s2, h1]
  exact Differs.foldl _ _ (fun s p h => by simp +contextual [h]) s4 h4

@[simp] theorem differs_abortPlat (p : Nat) : Carries s (s.abortPlat p) := Carries.rule fun h => by simp +contextual [State.abortPlat, h]

@[simp] theorem differs_dropJob (j : Job) : Differs (s.dropJob j) ↔ Differs s := by
  unfold State.dropJob
  split <;> simp

@[simp] theorem differs_loseRing (p : Nat) : Carries s (s.loseRing p) := by
  refine Carries.rule fun h => ?_
  unfold State.loseRing
  dsimp only
  repeat' split
  all_goals simp +contextual [h]

@[simp] theorem differs_ringsLost (well frm : Nat) : Carries s (s.ringsLost well frm) :=
  Carries.rule fun h => by simp +contextual [State.ringsLost, h]

@[simp] theorem differs_breakInsert (id : Nat) (gone : Bool) : Carries s (s.breakInsert id gone) := by
  refine Carries.rule fun h => ?_
  unfold State.breakInsert
  split <;> simp [h]

@[simp] theorem differs_storeLost (well : Nat) (destroyed : Bool) : Carries s (s.storeLost well destroyed) :=
  Carries.rule fun h => by simp +contextual [State.storeLost, h]
@[simp] theorem differs_abandon (p : Nat) : Carries s (s.abandon p) := Carries.rule fun h => by simp +contextual [State.abandon, h]
@[simp] theorem differs_endPlat (p : Nat) : Carries s (s.endPlat p) := Carries.rule fun h => by simp [State.endPlat, h]

@[simp] theorem differs_platStep : Carries s s.platStep := by
  refine Carries.rule fun h => ?_
  refine Differs.foldl _ _ (fun s x h => ?_) _ h
  dsimp only
  repeat' split
  all_goals simp +contextual [h]

/-! ## Wells -/

@[simp] theorem differs_setGranule (g : Nat) (x : Granule) : Differs (s.setGranule g x) ↔ Differs s := by simp [State.setGranule]

@[simp] theorem differs_placeGranule (p : Place) (g : Nat) : Differs (s.placeGranule p g) ↔ Differs s := by
  unfold State.placeGranule
  dsimp only
  repeat' split
  all_goals simp

@[simp] theorem differs_markMig : Differs s.markMig ↔ Differs s := by simp [State.markMig]
@[simp] theorem differs_takeRun (p : Place) (a n : Nat) : Differs (s.takeRun p a n) ↔ Differs s := by simp [State.takeRun]
@[simp] theorem differs_tidyGranules : Differs s.tidyGranules ↔ Differs s := by simp [State.tidyGranules]
@[simp] theorem differs_releaseRun (a n : Nat) : Differs (s.releaseRun a n) ↔ Differs s := by simp [State.releaseRun]
@[simp] theorem differs_cisTwin (c : Nat) : Differs (s.cisTwin c) ↔ Differs s := by simp [State.cisTwin]
@[simp] theorem differs_relay (wb opcode : Nat) : Carries s (s.relay wb opcode) := Carries.rule fun h => by simp [State.relay, h]
@[simp] theorem differs_twinDrop (i : Nat) : Carries s (s.twinDrop i) := Carries.rule fun h => by simp [State.twinDrop, h]
@[simp] theorem differs_twinClear (i frm : Nat) : Carries s (s.twinClear i frm) := Carries.rule fun h => by simp [State.twinClear, h]

@[simp] theorem differs_completeNow (wb : Nat) (st : Status) (result : List Byte) : Carries s (s.completeNow wb st result) := by
  refine Carries.rule fun h => ?_
  unfold State.completeNow
  split <;> simp [h]

@[simp] theorem differs_dropAsks (mine : Req → Bool) : Carries s (s.dropAsks mine) :=
  Carries.rule fun h => by simp +contextual [State.dropAsks, h]
@[simp] theorem differs_recallTwin (i frm : Nat) : Carries s (s.recallTwin i frm) :=
  Carries.rule fun h => by simp +contextual [State.recallTwin, h]
@[simp] theorem differs_dropRecords (i frm : Nat) : Differs (s.dropRecords i frm) ↔ Differs s := .rfl
@[simp] theorem differs_revokeAll (i frm : Nat) (cause : RevCause) : Differs (s.revokeAll i frm cause) ↔ Differs s := by simp [State.revokeAll]
@[simp] theorem differs_resized (i newLen : Nat) : Carries s (s.resized i newLen) := Carries.rule fun h => by simp [State.resized, h]

@[simp] theorem differs_endMigrate (i : Nat) : Carries s (s.endMigrate i) := by
  refine Carries.rule fun h => ?_
  unfold State.endMigrate
  dsimp only
  repeat' split
  all_goals simp [h]

@[simp] theorem differs_freeWell (i : Nat) : Differs (s.freeWell i) ↔ Differs s := by
  unfold State.freeWell
  dsimp only
  repeat' split
  all_goals simp

@[simp] theorem differs_wellProgress (i : Nat) : Carries s (s.wellProgress i) := by
  refine Carries.rule fun h => ?_
  unfold State.wellProgress
  dsimp only
  repeat' split
  all_goals simp [h]

@[simp] theorem differs_leaveProgress (c : Nat) : Differs (s.leaveProgress c) ↔ Differs s := by simp [State.leaveProgress]
@[simp] theorem differs_wellStep : Carries s s.wellStep := Carries.rule fun h => by simp +contextual [State.wellStep, h]

@[simp] theorem differs_unkey (i : Nat) : Differs (s.unkey i) ↔ Differs s := by
  refine differs_foldl_same (fun s x => ?_) _ _
  repeat' split
  all_goals simp

@[simp] theorem differs_spaceFor (die set need own : Nat) : Carries s (s.spaceFor die set need own).2 := by
  refine Carries.rule fun h => Differs.foldl _ _ (fun s _ h => ?_) s h
  split
  · split
    · rename_i hw
      exact h.evictWay hw
    · exact h
  · exact h

@[simp] theorem differs_chunkRoom (src dst n : Nat) : Carries s (s.chunkRoom src dst n).2 := by
  refine Carries.rule fun h => ?_
  refine List.foldlRecOn (motive := fun x : Bool × List (Nat × Nat × Nat) × State => Differs x.2.2) _ _ h fun ⟨ok, used, t⟩ ht e _ => ?_
  dsimp only
  split
  · split
    · dsimp only
      split <;> simp +contextual [ht]
    · simp +contextual [ht]
  · exact ht

@[simp] theorem differs_moveEnt (e : DirEnt) (key : Nat) : Differs (s.moveEnt e key) ↔ Differs s := by
  unfold State.moveEnt
  split <;> simp

@[simp] theorem differs_moveChunk (src dst n : Nat) : Carries s (s.moveChunk src dst n) := by
  refine Carries.rule fun h => ?_
  unfold State.moveChunk
  extract_lets mv inn cached s1 s2 s3 s4 s5 kept s6 s7
  have h3 : Differs s3 := by
    refine Differs.foldl _ _ (fun s c h => ?_) s2 (by simp +contextual [s2, s1, h])
    split
    · split
      · split
        · rename_i hp
          exact h.place hp
        · simp +contextual [h]
      · exact h
    · exact h
  simp +contextual [s7, s6, s5, s4, h3]

@[simp] theorem differs_dropMigrate (i : Nat) (m : Mig) (st : Status) : Carries s (s.dropMigrate i m st) := by
  refine Carries.rule fun h => ?_
  unfold State.dropMigrate
  split <;> simp [h]

@[simp] theorem differs_destroyNow (i : Nat) (wb : Option Nat) : Carries s (s.destroyNow i wb) := by
  refine Carries.rule fun h => ?_
  unfold State.destroyNow
  dsimp only
  repeat' split
  all_goals simp [h]

@[simp] theorem differs_destroyWell (i : Nat) (wb : Option Nat) : Carries s (s.destroyWell i wb) := by
  refine Carries.rule fun h => ?_
  unfold State.destroyWell
  extract_lets w
  split
  · split <;> rename_i hr <;> have hroom := differs_snd hr (by simp [h]) <;> simp [hroom]
  · simp [h]

@[simp] theorem differs_doomStep : Carries s s.doomStep := Carries.rule fun h => by simp +contextual [State.doomStep, h]
@[simp] theorem differs_shrinkWell (i newLen wb : Nat) : Carries s (s.shrinkWell i newLen wb) :=
  Carries.rule fun h => by simp [State.shrinkWell, h]
@[simp] theorem differs_growWell (i newLen wb : Nat) : Differs (s.growWell i newLen wb) ↔ Differs s := by simp [State.growWell]
@[simp] theorem differs_markPages (i : Nat) : Differs (s.markPages i) ↔ Differs s := by simp [State.markPages]
@[simp] theorem differs_dropZeros : Differs s.dropZeros ↔ Differs s := by simp [State.dropZeros]

/-! ## Stations -/

@[simp] theorem differs_unbackedAper (n id i off dpa : Nat) : Carries s (s.unbackedAper n id i off dpa) :=
  Carries.rule fun h => by simp [State.unbackedAper, h]

@[simp] theorem differs_orphan (n : Nat) : Carries s (s.orphan n) := by
  refine Carries.rule fun h => ?_
  unfold State.orphan
  extract_lets mine own asked s1 s2 s3 s4 s5
  refine Differs.foldl _ _ (fun s t h => ?_) s5 (by simp +contextual [s5, s4, s3, s2, s1, h])
  split
  · simp +contextual [h]
  · exact h

@[simp] theorem differs_revokeIde (n : Nat) : Differs (s.revokeIde n) ↔ Differs s := by simp [State.revokeIde]
@[simp] theorem differs_auditOwn (kind detail : Nat) : Carries s (s.auditOwn kind detail) := Carries.rule fun h => by simp [State.auditOwn, h]
@[simp] theorem differs_ideEnded (n : Nat) (k : IdeKind) (how : Nat) : Carries s (s.ideEnded n k how) :=
  Carries.rule fun h => by simp [State.ideEnded, h]
@[simp] theorem differs_idesEnded (n : Nat) : Carries s (s.idesEnded n) := Carries.rule fun h => by simp +contextual [State.idesEnded, h]
@[simp] theorem differs_spdmEnded (n : Nat) : Carries s (s.spdmEnded n) := Carries.rule fun h => by simp +contextual [State.spdmEnded, h]
@[simp] theorem differs_stationGone (n : Nat) (why : Loss) : Carries s (s.stationGone n why) :=
  Carries.rule fun h => by simp +contextual [State.stationGone, h]
@[simp] theorem differs_stationReset (n : Station) (why : Loss) : Carries s (s.stationReset n why) :=
  Carries.rule fun h => by simp [State.stationReset, h]
@[simp] theorem differs_atsOne (n : Nat) (v : AtsInv) : Carries s (s.atsOne n v) := Carries.rule fun h => by simp +contextual [State.atsOne, h]
@[simp] theorem differs_atsStep : Carries s s.atsStep := Carries.rule fun h => by simp +contextual [State.atsStep, h]

/-! ## The twin -/

@[simp] theorem differs_modMirror (i : Nat) (f : Mirror → Mirror) : Differs (s.modMirror i f) ↔ Differs s := by simp [State.modMirror]
@[simp] theorem differs_markSpan (i frm to_ : Nat) : Differs (s.markSpan i frm to_) ↔ Differs s := by simp [State.markSpan]
@[simp] theorem differs_markWell (i : Nat) : Differs (s.markWell i) ↔ Differs s := by simp [State.markWell]
@[simp] theorem differs_resyncEnd (i : Nat) : Differs (s.resyncEnd i) ↔ Differs s := by simp [State.resyncEnd]
@[simp] theorem differs_cisTwins : Differs s.cisTwins ↔ Differs s := by simp [State.cisTwins]
@[simp] theorem differs_dropFwd (id : Nat) : Differs (s.dropFwd id) ↔ Differs s := by simp [State.dropFwd]

@[simp] theorem differs_unbackedFwd (f : FwdOut) : Carries s (s.unbackedFwd f) := by
  refine Carries.rule fun h => ?_
  unfold State.unbackedFwd
  dsimp only
  repeat' split
  all_goals simp [h]

@[simp] theorem differs_endLocale1 : Carries s s.endLocale1 := Carries.rule fun h => by simp +contextual [State.endLocale1, h]
@[simp] theorem differs_locale1Step : Carries s s.locale1Step := Carries.rule fun h => by simp [State.locale1Step, h]

@[simp] theorem differs_unwait (r : Req) : Carries s (s.unwait r) := by
  refine Carries.rule fun h => ?_
  unfold State.unwait
  dsimp only
  repeat' split
  all_goals simp [h]

@[simp] theorem differs_represent (r : Req) : Carries s (s.represent r) := Carries.rule fun h => by simp [State.represent, h]
@[simp] theorem differs_dropTwinWaits : Differs s.dropTwinWaits ↔ Differs s := by simp [State.dropTwinWaits]

@[simp] theorem differs_lostCommands : Differs s.lostCommands ↔ Differs s := by
  unfold State.lostCommands
  dsimp only
  repeat' split
  all_goals simp

@[simp] theorem differs_commitUnacked : Carries s s.commitUnacked := Carries.rule fun h => by simp +contextual [State.commitUnacked, h]

@[simp] theorem differs_swoStep : Carries s s.swoStep := by
  refine Carries.rule fun h => ?_
  unfold State.swoStep
  split <;> simp +contextual [h]

@[simp] theorem differs_sendKey (k : Nat) (x : KeySlot) : Carries s (s.sendKey k x) := Carries.rule fun h => by simp [State.sendKey, h]

@[simp] theorem differs_joinJournals (info : PeerInfo) (keeper : Bool) : Carries s (s.joinJournals info keeper) := by
  refine Carries.rule fun h => ?_
  unfold State.joinJournals
  split <;> simp +contextual [h, -List.foldl_reverse]

@[simp] theorem differs_resizeIn (i newLen : Nat) : Carries s (s.resizeIn i newLen) := Carries.rule fun h => by simp [State.resizeIn, h]

@[simp] theorem differs_wantStep : Carries s s.wantStep := by
  refine Carries.rule fun h => ?_
  refine Differs.foldl _ _ (fun s x h => ?_) _ h
  repeat' split
  all_goals simp +contextual [h]

@[simp] theorem differs_pairWell (info : PeerInfo) (keeper same : Bool) (i : Nat) : Carries s (s.pairWell info keeper same i) :=
  Carries.rule fun h => by simp [State.pairWell, h]

@[simp] theorem differs_pairForm (info : PeerInfo) : Carries s (s.pairForm info) := by
  refine Carries.rule fun h => ?_
  unfold State.pairForm
  extract_lets keeper same wb v s1 s2 diverged s3 s4 left bytes s5 s6 s7 s8
  have h3 : Differs s3 := Differs.foldl _ _ (fun s i h => by simp +contextual [h]) s2 (by simp +contextual [s2, s1, h])
  have h5 : Differs s5 := by simp +contextual [s5, s4, h3]
  clear_value wb
  have h6 : Differs s6 := by
    unfold s6
    split <;> simp +contextual [h5]
  have h7 : Differs s7 := Differs.foldl _ _ (fun s x h => by simp [h]) s6 h6
  have h8 : Differs s8 := Differs.foldl _ _ (fun s a h => by simp) s7 h7
  simp +contextual [h8]

@[simp] theorem differs_pairStep : Carries s s.pairStep := by
  refine Carries.rule fun h => ?_
  unfold State.pairStep
  split <;> simp [h]

@[simp] theorem differs_pairFail : Differs s.pairFail ↔ Differs s := by simp [State.pairFail]

@[simp] theorem differs_unpairStep : Carries s s.unpairStep := by
  refine Carries.rule fun h => ?_
  unfold State.unpairStep
  dsimp only
  repeat' split
  all_goals simp +contextual [h]

@[simp] theorem differs_grantStep : Carries s s.grantStep := by
  refine Carries.rule fun h => Differs.foldl _ _ (fun s x h => ?_) s h
  dsimp only
  repeat' split
  all_goals simp [h]

@[simp] theorem differs_twinAsk (x : TwinSnoop) : Carries s (s.twinAsk x) := by
  refine Carries.rule fun h => ?_
  unfold State.twinAsk
  dsimp only
  repeat' split
  all_goals simp +contextual [h]

@[simp] theorem differs_twinSnoopStep : Carries s s.twinSnoopStep := by
  refine Carries.rule fun h => ?_
  refine Differs.foldl _ _ (fun s x h => ?_) _ h
  repeat' split
  all_goals simp [h]

@[simp] theorem differs_xoSilent : Differs s.xoSilent ↔ Differs s := by simp [State.xoSilent]
@[simp] theorem differs_xoDown (k : Nat) : Carries s (s.xoDown k) := Carries.rule fun h => by simp [State.xoDown, h]

/-! ## Bring-up and drain of the module -/

@[simp] theorem differs_flushLog : Differs s.flushLog ↔ Differs s := by simp [State.flushLog]
@[simp] theorem differs_afterReset : Differs s.afterReset := .inr (.inr rfl)
@[simp] theorem differs_moduleReset : Differs s.moduleReset := by simp [State.moduleReset]
@[simp] theorem differs_memoryActive (b : Bool) : Differs (s.memoryActive b) ↔ Differs s := by simp [State.memoryActive]
@[simp] theorem differs_yieldPrimacy : Differs s.yieldPrimacy ↔ Differs s := by simp [State.yieldPrimacy]
@[simp] theorem differs_dropBells : Differs s.dropBells ↔ Differs s := by simp [State.dropBells]
@[simp] theorem differs_partTwin : Carries s s.partTwin := Carries.rule fun h => by simp +contextual [State.partTwin, h]
@[simp] theorem differs_setStep (k : Nat) : Differs (setStep k s) ↔ Differs s := by simp [setStep]

@[simp] theorem differs_drainOnce : Carries s s.drainOnce := by
  refine Carries.rule fun h => ?_
  unfold State.drainOnce
  split
  · exact h
  · rename_i d _
    have habort (ps : List Nat) (t : State) (ht : Differs t) : Differs (ps.foldl (fun s p =>
        let s := s.abortPlat p
        if (s.plat p).st == .stopped then s else s.setPlat p fun x => { x with st := if x.st == .drained then .drained else .draining }) t) := by
      refine Differs.foldl _ _ (fun s p h => ?_) t ht
      dsimp only
      split <;> simp +contextual [h]
    split
    · split
      · exact h
      · simp +contextual [apply_ite Differs, h]
    · split
      · exact h
      · simpa using habort _ s h
    · split
      · refine (differs_setStep _ _).2 (Differs.foldl _ _ (fun s i h => by simp +contextual [h]) s h)
      · exact h
    · split <;> simp +contextual [h]
    · simp +contextual [h]
    · simp +contextual [h]
    · dsimp only
      split <;> simp +contextual [h]
    · repeat' split
      all_goals simp +contextual [h]
    · exact h

@[simp] theorem differs_drainStep : Carries s s.drainStep := Carries.rule fun h => by simp +contextual [State.drainStep, h]
@[simp] theorem differs_powerDownStart : Carries s s.powerDownStart := Carries.rule fun h => by simp +contextual [State.powerDownStart, h]
@[simp] theorem differs_powerDownEnd : Differs s.powerDownEnd := by simp [State.powerDownEnd]

/-! ## Power -/

@[simp] theorem differs_emptyStep : Differs s.emptyStep ↔ Differs s := by simp [State.emptyStep]
@[simp] theorem differs_coldStep : Differs s.coldStep ↔ Differs s := by simp [State.coldStep]

/-! ## What follows every command -/

@[simp] theorem differs_bellStep : Carries s s.bellStep := Carries.rule fun h => by simp [State.bellStep, h]
@[simp] theorem differs_nsStep : Differs s.nsStep ↔ Differs s := by simp [State.nsStep]
@[simp] theorem differs_steps : Carries s s.steps := Carries.rule fun h => by simp [State.steps, h]
@[simp] theorem differs_markBusy (kind unit : Nat) (block : Bool) : Differs (s.markBusy kind unit block) ↔ Differs s := by simp [State.markBusy]

@[simp] theorem differs_setHandover (l : List Mbx) (b : Bool) : Differs (s.setHandover l b) ↔ Differs s := by simp [State.setHandover]

@[simp] theorem differs_blockReset (kind unit : Nat) : Carries s (s.blockReset kind unit) := by
  refine Carries.rule fun h => ?_
  unfold State.blockReset
  dsimp only
  repeat' split
  all_goals simp [h]

@[simp] theorem differs_replaceUnit : Differs s.replaceUnit ↔ Differs s := by simp [State.replaceUnit]

@[simp] theorem differs_takeTodo (t : Todo) : Carries s (s.takeTodo t) := by
  refine Carries.rule fun h => ?_
  unfold State.takeTodo
  dsimp only
  repeat' split
  all_goals simp +contextual [h]

@[simp] theorem differs_settleFor (k : Nat) : Carries s (State.settleFor k s) := by
  refine Carries.rule fun h => ?_
  induction k generalizing s with
  | zero => exact h
  | succ k ih =>
    unfold State.settleFor
    split
    · exact h
    · exact ih _ (by simp [h])

@[simp] theorem differs_settle : Carries s s.settle := Carries.rule fun h => by simp [State.settle, h]

@[simp] theorem differs_powerSeq : Carries s s.powerSeq := by
  refine Carries.rule fun h => ?_
  unfold State.powerSeq
  split
  · simp
  · split <;> simp [h]

theorem differs_finish (h : Differs s) : Differs (finish s) := by
  rw [finish]
  simp [h]

end Rules

/-! ## A credential that is erased while the commands are held -/

/-- The header of a CRED_ERASE at the Ethernet mailbox. -/
def eraseHdr : CmdHdr := { mbx := .eth, len := 176 }

/-- In service: the NMI has captured core 4, the credential of slot 1 has opened the session at the Ethernet mailbox, and a command of the same
sender has been refused. -/
def refusedBeforeErase : State :=
  ({ State.reset with out := [.reply .eth 0 earlierRefusal] }.modMb .eth fun x => { x with session := .installer, credSlot := 1 })
    |>.modMod (fun m => { m with phase := .service, stage := .done, errForced := false })
    |>.modFlt fun f => { f with busy := [(6, 4, false)] }

theorem mailOf_refusedBeforeErase : refusedBeforeErase.mailOf (.credErase eraseHdr { slot := 1 }) = some (eraseHdr, [.installer]) := by
  decide +kernel

theorem reaches_refusedBeforeErase : refusedBeforeErase.reaches eraseHdr.mbx = true := by
  decide +kernel

/-- The state that an outcome answers has the session ended and the earlier refusal as all that has been sent, its module not at the first stage. -/
def endedUnanswered : Out → Bool
  | .next t => t.out == [.reply .eth 0 earlierRefusal] && (t.mb .eth).session == Role.none && t.mod.stage != BootStage.reset
  | _ => false

theorem endedUnanswered_credErase : endedUnanswered (exec (.credErase eraseHdr { slot := 1 }) refusedBeforeErase) := by
  decide +kernel

theorem not_differs_of_endedUnanswered {t : State} (h : endedUnanswered (.next t)) : ¬ Differs t := by
  simp only [endedUnanswered, Bool.and_eq_true, beq_iff_eq, bne_iff_ne] at h
  obtain ⟨⟨hout, hsession⟩, hstage⟩ := h
  rintro (ho | hs | hm)
  · exact ho hout
  · exact hs hsession
  · exact hstage hm

/-- What a state is, before `finish`, that leads to the session ended and nothing answered. -/
theorem out_session_of_not_differs {s : State} (h : ¬ Differs s) :
    s.out = [.reply .eth 0 earlierRefusal] ∧ (s.mb .eth).session = Role.none := by
  simp only [Differs, Differing, not_or, Decidable.not_not, ne_eq] at h
  obtain ⟨hout, hsession, -⟩ := h
  exact ⟨hout, hsession⟩

end Sys2Proof.Machine

open Sys2Proof Sys2Proof.Machine

/-- Refutes O7: the mailbox only holds a CRED_ERASE while a core is captured, but the command ends the sessions of its slot's credential
(`execCredErase` counts a held command as taken); the last reply sent to its sender is then the refusal of an earlier command. -/
theorem not_refusedCommandsChangeNothing : ¬ Obligations.RefusedCommandsChangeNothing := by
  intro hunchanged
  obtain ⟨u, hexec, hu⟩ := hunchanged _ _ _ _ mailOf_refusedBeforeErase (by simp) (by simp) reaches_refusedBeforeErase
  have hended := endedUnanswered_credErase
  rw [hexec] at hended
  obtain ⟨hout, hsession⟩ := out_session_of_not_differs fun h => not_differs_of_endedUnanswered hended (differs_finish u h)
  obtain ⟨hsame, -⟩ := hu earlierRefusal (by rw [hout]; rfl) nofun nofun
  have hkept := (hsame.session .eth).1
  rw [hsession] at hkept
  exact absurd hkept (by decide)
end

section
/-! PROOF. The pins after every step, and what follows a command where nothing waits (16 R484; 17 R521, R525; 18 R562; 20 R602). -/
namespace Sys2Proof.Machine

/-- What follows a command sets every pin to its level and leaves no reaction. -/
theorem finish_pinsFollow (s : State) : PinsFollow (finish s) := pinsFollow_of_levels (finish_todo s) (finish_pins s)

/-- No pin depends on the clock. -/
theorem PinsFollow.clock {s : State} (h : PinsFollow s) (t : Nat) : PinsFollow { s with now := t } :=
  { reacted := h.reacted, unpowered := h.unpowered, silent := h.silent, present := h.present, thermal := h.thermal, serving := h.serving,
    toggling := h.toggling, unlit := h.unlit, removable := h.removable, stopped := h.stopped, flagged := h.flagged, busy := h.busy, lit := h.lit }

/-- An idle tick ends as a command does, or lets the clock alone go on (20 R606). -/
theorem idle_pinsFollow {s : State} (h : PinsFollow s) : PinsFollow s.idle := by
  cases hpower : s.pwr.powerDown with
  | true => rw [idle_of_powerDown hpower]; exact finish_pinsFollow _
  | false => rw [idle_of_powered hpower]; exact h.clock _

theorem exec_pinsFollow {c : Instr} {s t : State} (h : exec c s = .next t) : PinsFollow t := by
  obtain ⟨u, hu⟩ := exec_done c s
  obtain rfl : finish u = t := Host.Outcome.next.inj (hu.symm.trans h)
  exact finish_pinsFollow u

/-! ## What follows where nothing waits -/

/-- Without a reaction that is raised nothing is to settle. -/
theorem settle_unraised {s : State} (h : s.todo = []) : s.settle = s := by
  simp only [State.settle, State.settleFor, h]

theorem finish_settled {u : State} (h : Settled u) : finish u = { u with pins := pinsOf u } := by
  obtain ⟨htodo, hsteps, hseq⟩ := h
  simp only [finish, hsteps, settle_unraised htodo, hseq]
  rw [htodo]
  rfl

end Sys2Proof.Machine

open Sys2Proof Sys2Proof.Machine

/-- Settles O3: a step runs a command or idles, and what follows either sets every pin to its level. -/
theorem pinsFollowEveryStep : Obligations.PinsFollowEveryStep := by
  intro s t hpins hstep
  cases hqueue : s.pending with
  | nil =>
    obtain rfl : s.idle = t := Host.Outcome.next.inj ((step_idle hqueue).symm.trans hstep)
    exact idle_pinsFollow hpins
  | cons c rest => exact exec_pinsFollow ((step_command hqueue).symm.trans hstep)

/-- Settles O5: no step, reaction or power-down changes such a state, so that the pins are all that follows. -/
theorem nothingFollowsWhereNothingWaits : Obligations.NothingFollowsWhereNothingWaits :=
  fun _ _ hsettled => ⟨fun _ hdoes => hdoes.trans (congrArg _ (finish_settled hsettled)), finish_settled hsettled⟩
end

section
/-! PROOF. The commands on faults, policies, histories and field tests, and the operations of FAULT_INJECT (17 R529 to R541). -/
namespace Sys2Proof.Machine

section Commands
variable (s : State) (h : CmdHdr)

theorem exec_faultStatus (frm : BitVec 64) (count filter : Byte) :
    exec (.faultStatus h frm count filter) s = execFaultStatus h frm count filter s := rfl
theorem exec_faultAck (seq : BitVec 64) (mode : Byte) : exec (.faultAck h seq mode) s = execFaultAck h seq mode s := rfl
theorem exec_faultPolicySet (source : BitVec 16) (reaction flags : Byte) (th : BitVec 32) (win : BitVec 16) :
    exec (.faultPolicySet h source reaction flags th win) s = execFaultPolicySet h source reaction flags th win s := rfl
theorem exec_unitHistoryRead (kind unit : Byte) (frm : BitVec 32) (count : Byte) :
    exec (.unitHistoryRead h kind unit frm count) s = execUnitHistoryRead h kind unit frm count s := rfl
theorem exec_fieldTestPolicy (flags : Byte) (interval maxOut scrub : BitVec 16) :
    exec (.fieldTestPolicy h flags interval maxOut scrub) s = execFieldTestPolicy h flags interval maxOut scrub s := rfl

end Commands

/-- A byte compared with a literal is its number compared with the literal's. -/
theorem byte_beq (a b : Byte) : (a == b) = (a.toNat == b.toNat) := by
  rw [Bool.eq_iff_iff, beq_iff_eq, beq_iff_eq, BitVec.toNat_inj]

/-! ## FAULT_ACK (17 R530) -/

theorem ackCheck_passes {s : State} {seq mode : Nat} {r : FaultRec} (hr : s.recordOf seq = some r) (hmode : mode ≤ 1)
    (hopen : mode = 0 → r.acked = false) : ackCheck seq mode s = none := by
  have hacked : (mode == 0 && r.acked) = false := by
    by_cases h : mode = 0
    · simp [hopen h]
    · simp [h]
  simp [ackCheck, hr, firstOf, hacked, hmode]

theorem ackApply_state (seq mode wb : Nat) (t : State) : (ackApply seq mode wb t).2.2 =
    (t.flt.records.filter fun r => !r.acked && (if mode = 0 then r.seq == seq else r.seq ≤ seq)).reverse.foldl (fun t r => t.ackRecord r) t := by
  simp only [ackApply, beq_iff_eq]

/-! ## FIELD_TEST_POLICY (17 R538) -/

theorem fieldTestApply_state (flags interval maxOut scrub wb : Nat) (t : State) :
    (fieldTestApply flags interval maxOut scrub wb t).2.2 = t.modFlt fun f =>
      { f with katEn := if flags = 0xFF then f.katEn else nbit flags 0
               scrubEn := if flags = 0xFF then f.scrubEn else nbit flags 1
               intervalS := keep16 interval f.intervalS
               maxOutUs := keep16 maxOut f.maxOutUs
               scrubH := keep16 scrub f.scrubH } := by
  simp only [fieldTestApply, beq_iff_eq]

/-! ## FAULT_INJECT (17 R541) -/

section Inject
variable {s : State} {h : CmdHdr} {p : InjectPay} {ok : State → Bool} {op : Nat}

/-- An operation passes where it names at least one event, a kind of unit that it takes, and what its own condition asks for. -/
theorem injectCheck_passes (hcount : 1 ≤ p.count.toNat) (hkind : p.unitKind.toNat ≤ 0xA ∨ op = 0xF ∧ p.unitKind.toNat = 0xFF) (hok : ok s = true) :
    injectCheck op p ok s = none := by
  have hc : (p.count == 0) = false := by rw [byte_beq]; simp; omega
  have hk : (decide (p.unitKind.toNat ≤ 0xA) || (op == 0xF && p.unitKind == 0xFF)) = true := by
    rw [byte_beq]; simpa using hkind
  unfold injectCheck
  rw [hc, hk, hok]
  rfl

/-- The operation `op` of FAULT_INJECT takes effect in factory test mode. -/
theorem effects_inject {i : Instr} {f : State → State} (he : exec i s = done (s.inject h op p ok f)) (hf : Fit s h [.maker] 16)
    (hphase : s.mod.phase = .factory) (hcount : 1 ≤ p.count.toNat) (hkind : p.unitKind.toNat ≤ 0xA ∨ op = 0xF ∧ p.unitKind.toNat = 0xFF)
    (hmbx : ∀ x, ok { s with mbx := x } = ok s) (hok : ok s = true) : Effects i s h 0x0B03 .ok fun _ t => f t := by
  have hpass : ∀ x, injectCheck op p ok { s with mbx := x } = injectCheck op p ok s := fun x => by simp only [injectCheck, hmbx x]
  exact effects_mailbox (c := injectCmd op p) he hf (fun _ => hphase) rfl (check_noteUse h hpass (injectCheck_passes hcount hkind hok))
    (fun _ _ _ => rfl) rfl rfl

end Inject

section InjectCommands
variable (s : State) (h : CmdHdr) (p : InjectPay)

theorem exec_injectRaise : exec (.injectRaise h p) s = execInjectRaise h p s := rfl
theorem exec_injectFlip1 : exec (.injectFlip1 h p) s = execInjectFlip1 h p s := rfl
theorem exec_injectFlip2 : exec (.injectFlip2 h p) s = execInjectFlip2 h p s := rfl
theorem exec_injectPoison : exec (.injectPoison h p) s = execInjectPoison h p s := rfl
theorem exec_injectParity : exec (.injectParity h p) s = execInjectParity h p s := rfl
theorem exec_injectChecksum : exec (.injectChecksum h p) s = execInjectChecksum h p s := rfl
theorem exec_injectLinkCrc : exec (.injectLinkCrc h p) s = execInjectLinkCrc h p s := rfl
theorem exec_injectClearHistory : exec (.injectClearHistory h p) s = execInjectClearHistory h p s := rfl

end InjectCommands

/-- A unit of the crossover is below its four links, one of the stations below their 48. -/
theorem linkUnit_ok {p : InjectPay} (h : p.unit.toNat < if p.unitKind.toNat = 5 then 4 else 48) :
    (if (p.unitKind == 5) = true then decide (p.unit.toNat < 4) else decide (p.unit.toNat < 48)) = true := by
  have hkind : (p.unitKind == 5) = true ↔ p.unitKind.toNat = 5 := by rw [byte_beq, beq_iff_eq]; rfl
  simp only [hkind]
  split <;> simp_all

end Sys2Proof.Machine

open Sys2Proof Sys2Proof.Machine

/-- Settles O19: each command passes its check, and its effect is that of its operation on the records, policies or tests. -/
theorem faultCommandsTakeEffect : Obligations.FaultCommandsTakeEffect := by
  refine ⟨fun s h frm count filter hf hlo hhi hfilter => ?_, fun s h seq mode r hf hr hmode hopen => ?_,
    fun s h source reaction flags th win hf hok => ?_, fun s h kind unit frm count hf hkind hlo hhi => ?_,
    fun s h flags interval maxOut scrub hf hflags hint hmax hscrub => ?_⟩
  · exact answers_query (exec_faultStatus s h frm count filter) hf nofun rfl (if_neg (by simp [byte_beq]; omega)) rfl rfl rfl
  · refine effects_mailbox (exec_faultAck s h seq mode) hf nofun rfl (check_noteUse h (fun _ => rfl) (ackCheck_passes hr hmode hopen))
      (fun wb t ht => ?_) rfl rfl
    rw [ackApply_state, ht.flt]
  · exact effects_mailbox (exec_faultPolicySet s h source reaction flags th win) hf nofun rfl (if_pos hok) (fun _ _ _ => rfl) rfl rfl
  · exact answers_query (exec_unitHistoryRead s h kind unit frm count) hf nofun rfl (if_neg (by simp [bne, byte_beq]; omega)) rfl rfl rfl
  · exact effects_mailbox (exec_fieldTestPolicy s h flags interval maxOut scrub) hf nofun rfl
      (if_pos (by simpa [byte_beq, hint, hmax, hscrub] using hflags)) (fun wb t _ => fieldTestApply_state _ _ _ _ wb t) rfl rfl

/-- Settles O24: in factory test mode each operation passes where its condition holds, and its effect is that of the operation. -/
theorem injectionsTakeEffect : Obligations.InjectionsTakeEffect := by
  intro s h p hf hphase hcount
  refine ⟨fun hkind hok => ?_, fun hkind hstored => ⟨?_, ?_, ?_⟩, fun hkind hunit => ⟨?_, ?_⟩, fun hkind hunit => ?_, fun hunit => ?_⟩
  · exact effects_inject (exec_injectRaise s h p) hf hphase hcount (.inl hkind) (fun _ => rfl) hok
  · exact effects_inject (exec_injectFlip1 s h p) hf hphase hcount (.inl hkind) (fun _ => rfl) hstored
  · exact effects_inject (exec_injectFlip2 s h p) hf hphase hcount (.inl hkind) (fun _ => rfl) hstored
  · exact effects_inject (exec_injectPoison s h p) hf hphase hcount (.inl hkind) (fun _ => rfl) hstored
  · exact effects_inject (exec_injectParity s h p) hf hphase hcount (.inl hkind) (fun _ => rfl) (by simpa using hunit)
  · exact effects_inject (exec_injectChecksum s h p) hf hphase hcount (.inl hkind) (fun _ => rfl) (by simpa using hunit)
  · exact effects_inject (exec_injectLinkCrc s h p) hf hphase hcount (.inl hkind) (fun _ => rfl) (linkUnit_ok hunit)
  · refine effects_inject (exec_injectClearHistory s h p) hf hphase hcount ?_ (fun _ => rfl) ?_
    · exact hunit.symm.imp (fun h => h.1) fun h => ⟨rfl, h⟩
    · rw [byte_beq]; simpa using hunit.imp id fun h => h.2
end

section
/-! PROOF. The commands on power, and the layout of what POWER_STATUS answers (18 R549, R555, R563). -/
namespace Sys2Proof.Machine

section Commands
variable (s : State) (h : CmdHdr)

theorem exec_powerLimitSet (limit : BitVec 16) (flags : Byte) (hot warm dormant : BitVec 32) :
    exec (.powerLimitSet h limit flags hot warm dormant) s = execPowerLimitSet h limit flags hot warm dormant s := rfl
theorem exec_powerStatus : exec (.powerStatus h) s = execPowerStatus h s := rfl

end Commands

/-! ## POWER_LIMIT_SET (18 R549) -/

/-- Without DEFAULT every field of all ones stays as it is, and a warm or dormant time that names "never" is none. -/
theorem limitApply_state {flags : Nat} (hflags : limitDefault flags = false) (limit hot warm dormant wb : Nat) (t : State) :
    (limitApply limit flags hot warm dormant wb t).2.2 = t.modPwr fun p =>
      { p with limitW := if limit = 0xFFFF then p.limitW else limit
               hotIdleUs := if hot = 0xFFFFFFFF then p.hotIdleUs else hot
               warmIdleUs := if warm = 0xFFFFFFFF then p.warmIdleUs else if warm = 0xFFFFFFFE then none else some warm
               dormantMs := if dormant = 0xFFFFFFFF then p.dormantMs else if dormant = 0 then none else some dormant } := by
  simp only [limitApply, hflags, keep16, ones32, neverUs, beq_iff_eq, Bool.false_eq_true, if_false]

/-! ## Slices of a reply -/

section Slices
variable {α : Type} {a b c : List α} {i j : Nat}

theorem extract_whole (h : a.length = j) : a.extract 0 j = a := by
  rw [List.extract_eq_take_drop, List.drop_zero, Nat.sub_zero, ← h, List.take_length]

theorem extract_append_left (h : j ≤ a.length) : (a ++ b).extract i j = a.extract i j := by
  simp only [List.take_drop]
  rcases Nat.le_total i j with hij | hji
  · rw [Nat.add_sub_cancel' hij, List.take_append_of_le_length h]
  · simp [Nat.sub_eq_zero_of_le hji]

theorem extract_append_right (h : a.length ≤ i) : (a ++ b).extract i j = b.extract (i - a.length) (j - a.length) := by
  simp only [List.extract_eq_take_drop, List.drop_append, List.drop_of_length_le h, List.nil_append]
  congr 1
  omega

/-- A slice of the last piece of a list. -/
theorem extract_last (h : a.length = i) (k l : Nat) : (a ++ b).extract (i + k) (i + l) = b.extract k l := by
  rw [extract_append_right (by omega), h, Nat.add_sub_cancel_left, Nat.add_sub_cancel_left]

theorem extract_last_whole (hi : a.length = i) (hj : i + b.length = j) : (a ++ b).extract i j = b := by
  have h := extract_last (b := b) hi 0 b.length
  rwa [Nat.add_zero, hj, extract_whole rfl] at h

/-- The part of a list that two of its pieces make up. -/
theorem extract_two (hi : c.length = i) (hj : i + a.length + b.length = j) : (c ++ a ++ b).extract i j = a ++ b := by
  rw [List.append_assoc]
  exact extract_last_whole hi (by rw [List.length_append]; omega)

/-- Where every entry's record has `n` bytes, the record of entry `k` is the slice from `n * k`. -/
theorem extract_flatMap {β : Type} {f : β → List α} {n : Nat} (hf : ∀ x, (f x).length = n) {l : List β} {k : Nat} {x : β} (hx : l[k]? = some x) :
    (l.flatMap f).extract (n * k) (n * k + n) = f x := by
  induction l generalizing k with
  | nil => simp at hx
  | cons y l ih =>
    rw [List.flatMap_cons]
    cases k with
    | zero =>
      obtain rfl : y = x := by simpa using hx
      rw [Nat.mul_zero, Nat.zero_add, extract_append_left (le_of_eq (hf y).symm), extract_whole (hf y)]
    | succ k =>
      rw [extract_append_right (by rw [hf, Nat.mul_succ]; omega), hf, Nat.mul_succ, Nat.add_sub_cancel, Nat.add_sub_cancel]
      exact ih (by simpa using hx)

end Slices

/-! ## POWER_STATUS (18 R555, R563) -/

@[simp] theorem length_railEnc (r : Rail) (i : Nat) : (r.enc i).length = 8 := by simp [Rail.enc, zeros]

@[simp] theorem length_convRecord (p : Pwr) (k : Nat) : (convRecord p k).length = 8 := by simp [convRecord, zeros]

@[simp] theorem length_zeros (n : Nat) : (zeros n).length = n := List.length_replicate

theorem length_flatMap_of_const {α β : Type} {f : β → List α} {n : Nat} (hf : ∀ x, (f x).length = n) (l : List β) :
    (l.flatMap f).length = n * l.length := by
  simp [List.length_flatMap, hf, Nat.mul_comm]

section Layout
variable (t : State)

@[simp] theorem length_dieBytes (v : Vector Nat 4) (f : Nat → Nat) : ((v.toList.map f).flatMap (le 1)).length = 4 := by
  simp [length_flatMap_of_const (fun x => le_length 1 x)]

@[simp] theorem length_railRecords (v : Vector Rail 21) : (v.toList.zipIdx.flatMap fun (r, i) => r.enc i).length = 168 := by
  simp [length_flatMap_of_const (f := fun (x : Rail × Nat) => x.1.enc x.2) (fun x => length_railEnc x.1 x.2)]

theorem length_powerStatusReply : (powerStatusReply t).length = 280 := by
  unfold powerStatusReply
  dsimp only
  simp [-List.length_flatMap, length_flatMap_of_const (length_convRecord t.pwr)]

theorem powerStatus_input : (powerStatusReply t).extract 0 0x10 =
    le 4 t.pwr.mv ++ le 4 t.pwr.ma ++ le 2 t.pwr.inW ++ le 2 t.pwr.inW1 ++ le 2 t.pwr.limitW ++ le 2 t.effectiveW := by
  unfold powerStatusReply
  dsimp only
  simp (disch := simp [-List.length_flatMap]) only [extract_append_left, extract_whole]

theorem powerStatus_steps : (powerStatusReply t).extract 0x12 0x14 = le 1 t.pwr.duty ++ le 1 t.pwr.memStep := by
  unfold powerStatusReply
  dsimp only
  simp (disch := simp [-List.length_flatMap]) only [extract_append_left, extract_two]

theorem powerStatus_energy : (powerStatusReply t).extract 0x28 0x30 = le 8 t.pwr.energyMj := by
  unfold powerStatusReply
  dsimp only
  simp (disch := simp [-List.length_flatMap]) only [extract_append_left, extract_last_whole]

theorem powerStatus_temps : (powerStatusReply t).extract 0x30 0x37 = t.pwr.temps.toList := by
  unfold powerStatusReply
  dsimp only
  simp (disch := simp [-List.length_flatMap]) only [extract_append_left, extract_last_whole]

theorem powerStatus_stackTemps : (powerStatusReply t).extract 0x38 0x50 = t.pwr.stackTemps.toList := by
  unfold powerStatusReply
  dsimp only
  simp (disch := simp [-List.length_flatMap]) only [extract_append_left, extract_last_whole]

/-- The byte of die `d` in a list of one byte per die. -/
theorem extract_dieByte (v : Vector Nat 4) (f : Nat → Nat) {d : Nat} (hd : d < 4) :
    ((v.toList.map f).flatMap (le 1)).extract d (d + 1) = le 1 (f (v.toList.getD d 0)) := by
  have hget : (v.toList.map f)[d]? = some (f (v.toList.getD d 0)) := by simp [hd]
  simpa using extract_flatMap (le_length 1) hget

theorem powerStatus_dieDuty {d : Nat} (hd : d < 4) :
    (powerStatusReply t).extract (0x14 + d) (0x15 + d) = le 1 (min t.pwr.duty (t.pwr.thermDuty.toList.getD d 0)) := by
  rw [← extract_dieByte t.pwr.thermDuty (min t.pwr.duty) hd, show 0x15 + d = 0x14 + (d + 1) by omega]
  unfold powerStatusReply
  dsimp only
  simp (disch := (simp [-List.length_flatMap]; omega)) only [extract_append_left]
  exact extract_last (by simp [-List.length_flatMap]) _ _

theorem powerStatus_dieMem {d : Nat} (hd : d < 4) :
    (powerStatusReply t).extract (0x18 + d) (0x19 + d) = le 1 (min t.pwr.memStep (t.pwr.thermMem.toList.getD d 0)) := by
  rw [← extract_dieByte t.pwr.thermMem (min t.pwr.memStep) hd, show 0x19 + d = 0x18 + (d + 1) by omega]
  unfold powerStatusReply
  dsimp only
  simp (disch := (simp [-List.length_flatMap]; omega)) only [extract_append_left]
  exact extract_last (by simp [-List.length_flatMap]) _ _

theorem powerStatus_rail {i : Nat} {v : Rail} (hv : t.pwr.rails.toList[i]? = some v) :
    (powerStatusReply t).extract (0x50 + 8 * i) (0x58 + 8 * i) = v.enc i := by
  have hi : i < 21 := by simpa using (List.getElem?_eq_some_iff.1 hv).1
  have hget : t.pwr.rails.toList.zipIdx[i]? = some (v, i) := by simp [List.getElem?_zipIdx, hv]
  rw [← extract_flatMap (f := fun (x : Rail × Nat) => x.1.enc x.2) (fun x => length_railEnc x.1 x.2) hget,
    show 0x58 + 8 * i = 0x50 + (8 * i + 8) by omega]
  unfold powerStatusReply
  dsimp only
  simp (disch := (simp [-List.length_flatMap]; omega)) only [extract_append_left]
  exact extract_last (by simp [-List.length_flatMap]) _ _

end Layout

end Sys2Proof.Machine

open Sys2Proof Sys2Proof.Machine

/-- Settles O20: POWER_LIMIT_SET passes its check and writes its fields, and each part of what POWER_STATUS answers stands at its offset. -/
theorem powerCommandsTakeEffect : Obligations.PowerCommandsTakeEffect := by
  refine ⟨fun s h limit hot warm dormant hf => ?_, fun s h limit flags hot warm dormant hf hflags hok => ?_, fun s h hf => ?_⟩
  · exact effects_mailbox (exec_powerLimitSet s h limit 1 hot warm dormant) hf nofun rfl (if_pos rfl) (fun _ _ _ => rfl) rfl rfl
  · have hdefault : limitDefault flags.toNat = false := by rcases hflags with rfl | rfl <;> rfl
    exact effects_mailbox (exec_powerLimitSet s h limit flags hot warm dormant) hf nofun rfl (if_pos hok)
      (fun wb t _ => limitApply_state hdefault _ _ _ _ wb t) rfl rfl
  · have hanswers := answers_query (exec_powerStatus s h) hf nofun rfl rfl rfl rfl rfl
    obtain ⟨x, hx⟩ := noteUse_eq s h
    rw [hx] at hanswers ⊢
    exact ⟨hanswers, length_powerStatusReply _, powerStatus_input _, powerStatus_steps _,
      fun d hd => ⟨powerStatus_dieDuty _ hd, powerStatus_dieMem _ hd⟩, powerStatus_energy _, powerStatus_temps _, powerStatus_stackTemps _,
      fun i _ v hv => powerStatus_rail _ hv⟩
end

section
/-! PROOF. A mailbox command without its role (19 R565; 15 R457, R458; 17 R521; 14 R439). -/
namespace Sys2Proof.Machine

/-! ## What carries a command, but no waybill and no journal entry -/

section Unrecorded
variable {s t u : State}

theorem Unrecorded.trans (hst : Unrecorded s t) (htu : Unrecorded t u) : Unrecorded s u :=
  ⟨htu.1.trans hst.1, htu.2.trans hst.2⟩

theorem unrecorded_of_mbx (h : t.mbx = s.mbx) : Unrecorded s t := by rw [Unrecorded, h]; exact ⟨rfl, rfl⟩

theorem unrecorded_modMb (s : State) (m : Mbx) (f : Mailbox → Mailbox) : Unrecorded s (s.modMb m f) := by cases m <;> exact ⟨rfl, rfl⟩

@[simp] theorem auditPut_mbx (s : State) (a : Audit) : (s.auditPut a).mbx = s.mbx := by
  unfold State.auditPut
  simp [apply_ite State.mbx]

@[simp] theorem resumeAudit_mbx (s : State) : s.resumeAudit.mbx = s.mbx := by
  unfold State.resumeAudit
  split
  · rfl
  · simp [foldl_keeps State.mbx]

/-- An audit record is no change of a mailbox. -/
@[simp] theorem auditMbx_mbx (s : State) (m : Mbx) (sender : BitVec 64) (kind wb opcode status : Nat) (digest : BitVec 128) (detail : Nat)
    (cred : Option (BitVec 64)) : (s.auditMbx m sender kind wb opcode status digest detail cred).mbx = s.mbx := by
  simp [State.auditMbx, State.auditRec]

theorem unrecorded_reply (s : State) (h : CmdHdr) (r : Reply) : Unrecorded s (s.reply h r) := unrecorded_modMb s h.mbx _

theorem unrecorded_reject (s : State) (h : CmdHdr) (c : Cmd) (r : Refuse) : Unrecorded s (s.reject h c r) := by
  unfold State.reject
  dsimp only
  refine .trans (unrecorded_of_mbx ?_) ((unrecorded_modMb _ h.mbx _).trans (unrecorded_reply _ h _))
  simp [apply_ite State.mbx]

theorem unrecorded_keepCommand (s : State) (h : CmdHdr) (ask : Bool) : Unrecorded s (s.keepCommand h ask) := by
  unfold State.keepCommand
  dsimp only
  split
  · exact unrecorded_modMb s h.mbx _
  · exact unrecorded_modMb s h.mbx _

theorem unrecorded_noteUse (s : State) (h : CmdHdr) : Unrecorded s (s.noteUse h) := by
  unfold State.noteUse
  split
  · exact ⟨rfl, rfl⟩
  · split
    · exact ⟨rfl, rfl⟩
    · exact unrecorded_modMb s _ _

end Unrecorded

/-! ## The mailbox and a session that is none of the command's roles -/

/-- What a command leaves whose session is none of its roles. -/
def Unentitled (s : State) (h : CmdHdr) (u : State) : Prop :=
  (s.reaches h.mbx = true → Same s u ∧ Unrecorded s u ∧
    (s.captured 6 (coreOf h.mbx) = false → (s.mb h.mbx).handover = false → s.fw.handover = false → s.gapNow = false → s.mod.phase ≠ .bringUp →
      ∃ op, Replied h op .noRight u)) ∧
  (s.reaches h.mbx = false → (∀ n, h.mbx = .stn n → u = s.noBar n.val) ∧ (h.mbx = .eth ∨ h.mbx = .i3c → u = s))

section NoRole
variable {s : State} {h : CmdHdr} {c : Cmd} (hrole : s.role h.mbx h.sender ∉ c.roles)
include hrole

/-- Only BUSY is checked before the role (15 R457). -/
theorem refusal_noRole (own : State → Option Refuse) :
    s.refusal h c own = if s.mailboxBusy h.mbx c.boot = true then refuse .busy else refuse .noRight := by
  have hno : c.roles.contains (s.role h.mbx h.sender) = false := by simpa using hrole
  simp only [State.refusal, firstOf, hno, Bool.not_false, if_true]

theorem refusal_noRole_isNone (own : State → Option Refuse) : (s.refusal h c own).isNone = false := by
  rw [refusal_noRole hrole]
  split <;> rfl

theorem mailbox_noRole (own : State → Option Refuse) (apply : Apply) : Unentitled s h (s.mailbox h c own apply) := by
  have hrole' : (s.noteUse h).role h.mbx h.sender ∉ c.roles := by rwa [role_noteUse]
  have hs := same_noteUse s h
  refine ⟨fun hreach => ?_, fun hreach => ?_⟩
  · unfold State.mailbox
    rw [if_neg (by simp [hreach])]
    cases hcap : s.captured 6 (coreOf h.mbx) with
    | true => exact ⟨same_keepCommand s h false, unrecorded_keepCommand s h false, nofun⟩
    | false =>
      have hreject : ∀ r, Same s ((s.noteUse h).reject h c r) ∧ Unrecorded s ((s.noteUse h).reject h c r) := fun r =>
        ⟨hs.trans (same_reject _ h c r), (unrecorded_noteUse s h).trans (unrecorded_reject _ h c r)⟩
      simp only [Bool.false_eq_true, if_false, refusal_noRole hrole' own]
      cases hbusy : (s.noteUse h).mailboxBusy h.mbx c.boot with
      | true =>
        refine ⟨(hreject _).1, (hreject _).2, fun _ hmb hfw hgap hphase => absurd hbusy ?_⟩
        have hgap' : (s.noteUse h).gapNow = false := by unfold State.gapNow State.inGap at hgap ⊢; rwa [hs.twin]
        simp [State.mailboxBusy, mb_noteUse, hs.fw, hs.mod, hmb, hfw, hgap', hphase]
      | false => exact ⟨(hreject _).1, (hreject _).2, fun _ _ _ _ _ => ⟨_, replied_reject _ h c _⟩⟩
  · unfold State.mailbox
    rw [if_pos (by simp [hreach])]
    exact ⟨fun n hn => by simp only [hn], fun hm => by rcases hm with hm | hm <;> simp only [hm]⟩

end NoRole

/-! ## Every command goes through its mailbox -/

/-- Every command that needs a role is its mailbox's work alone, but TWIN_PAIR and the erasing of a credential, `h_56` and `h_70` of the commands
of `State.mailOf`; the authentication, which any session may send, is `h_9` and `h_10`. -/
theorem exec_of_mailOf {i : Instr} {s : State} {h : CmdHdr} {roles : List Role} (hi : s.mailOf i = some (h, roles)) (hany : roles ≠ anyRole)
    (hpair : ∀ rate peer, i ≠ .twinPair h rate peer) (herase : ∀ p, i ≠ .credErase h p) :
    ∃ (c : Cmd) (own : State → Option Refuse) (apply : Apply), exec i s = done (s.mailbox h c own apply) ∧ c.roles = roles := by
  unfold State.mailOf at hi
  split at hi
  case h_88 => cases hi
  all_goals obtain ⟨rfl, rfl⟩ := Prod.mk.inj (Option.some.inj hi)
  case h_9 | h_10 => exact absurd rfl hany
  case h_56 => exact absurd rfl (hpair _ _)
  case h_70 => exact absurd rfl (herase _)
  all_goals exact ⟨_, _, _, rfl, rfl⟩

section Exceptions
variable {s : State} {h : CmdHdr} (hrole : s.role h.mbx h.sender ∉ [Role.installer])
include hrole

/-- A pairing that is turned away for want of the role is not the pairing's refusal. -/
theorem exec_twinPair_noRole (rate : BitVec 16) (peer : PeerInfo) : exec (.twinPair h rate peer) s =
    done (s.mailbox h (pairCmd rate.toNat) (pairCheck rate.toNat peer)
      fun wb s => ([], 0, (s.emit (.xo (.mail wb 0x0600))).pairBegin peer rate.toNat (some wb))) := by
  have haway : s.pairTurnedAway h rate.toNat peer = none := by
    unfold State.pairTurnedAway
    rw [refusal_noRole_isNone (c := pairCmd rate.toNat) hrole, Bool.and_false]
    rfl
  change execTwinPair h rate peer s = _
  rw [execTwinPair, haway]

/-- Without the role no credential is erased, so that no session ends. -/
theorem exec_credErase_noRole (p : KeyPay) : exec (.credErase h p) s =
    done (s.mailbox h (keyCmd 4 p) (credEraseCheck p)
      fun _ s => ([], p.slot.toNat, s.modSec fun y => { y with creds := tdel y.creds p.slot.toNat })) := by
  change execCredErase h p s = _
  rw [execCredErase, refusal_noRole_isNone (c := keyCmd 4 p) hrole, Bool.and_false]
  rfl

end Exceptions

theorem mem_anyRole (r : Role) : r ∈ anyRole := by cases r <;> decide

end Sys2Proof.Machine

open Sys2Proof Sys2Proof.Machine

/-- Settles O6: the role is checked after BUSY alone, so that every command but two is answered or held by its mailbox without a change, and those
two, a pairing and the erasing of a credential, add nothing of their own. -/
theorem commandsNeedTheirRole : Obligations.CommandsNeedTheirRole := by
  intro i s h roles hi hrole
  by_cases hpair : ∃ rate peer, i = .twinPair h rate peer
  · obtain ⟨rate, peer, rfl⟩ := hpair
    obtain ⟨-, rfl⟩ := Prod.mk.inj (Option.some.inj hi)
    exact ⟨_, exec_twinPair_noRole hrole rate peer, mailbox_noRole (c := pairCmd rate.toNat) hrole _ _⟩
  by_cases herase : ∃ p, i = .credErase h p
  · obtain ⟨p, rfl⟩ := herase
    obtain ⟨-, rfl⟩ := Prod.mk.inj (Option.some.inj hi)
    exact ⟨_, exec_credErase_noRole hrole p, mailbox_noRole (c := keyCmd 4 p) hrole _ _⟩
  · have hany : roles ≠ anyRole := fun h => hrole (h ▸ mem_anyRole _)
    obtain ⟨c, own, apply, hexec, rfl⟩ :=
      exec_of_mailOf hi hany (fun rate peer h => hpair ⟨rate, peer, h⟩) fun p h => herase ⟨p, h⟩
    exact ⟨_, hexec, mailbox_noRole hrole own apply⟩
end

section
/-! PROOF. The commands on the pair (16 R487 to R491, R501, R507). -/
namespace Sys2Proof.Machine

section Commands
variable (s : State) (h : CmdHdr)

theorem exec_twinUnpairEmpty : exec (.twinUnpairEmpty h) s = execTwinUnpairEmpty h s := rfl
theorem exec_twinUnpairSplit : exec (.twinUnpairSplit h) s = execTwinUnpairSplit h s := rfl
theorem exec_twinSwitchover (target scope : Byte) (rsv : BitVec 7) :
    exec (.twinSwitchover h target scope rsv) s = execTwinSwitchover h target scope rsv s := rfl
theorem exec_twinTakeover (target scope : Byte) (rsv : BitVec 7) :
    exec (.twinTakeover h target scope rsv) s = execTwinTakeover h target scope rsv s := rfl
theorem exec_twinStatus (handle : BitVec 32) : exec (.twinStatus h handle) s = execTwinStatus h handle s := rfl

end Commands

/-! ## What a pairing asks for does not read the mailboxes (16 R488) -/

section Mailboxes
variable (s : State) (x : MbxS)

theorem pick_modMbx {α : Type} (l : List α) : (s.modMbx fun _ => x).pick l = ((s.pick l).1, (s.pick l).2.modMbx fun _ => x) := by
  match l with
  | [] | [_] | _ :: _ :: _ => rfl

theorem freeFrames_modMbx (d : Nat) : (s.modMbx fun _ => x).freeFrames d = s.freeFrames d := rfl
theorem freeQuarters_modMbx (d : Nat) : (s.modMbx fun _ => x).freeQuarters d = s.freeQuarters d := rfl
theorem granule_modMbx (g : Nat) : (s.modMbx fun _ => x).granule g = s.granule g := rfl
theorem setGranule_modMbx (g : Nat) (y : Granule) : (s.modMbx fun _ => x).setGranule g y = (s.setGranule g y).modMbx fun _ => x := rfl

theorem placeGranule_modMbx (p : Place) (g : Nat) : (s.modMbx fun _ => x).placeGranule p g = (s.placeGranule p g).modMbx fun _ => x := by
  unfold State.placeGranule
  rw [granule_modMbx]
  split
  · rfl
  · cases p with
    | free => rfl
    | loc d => simp only [freeFrames_modMbx, pick_modMbx, setGranule_modMbx]
    | spread => simp only [freeQuarters_modMbx, pick_modMbx, setGranule_modMbx]

theorem wakeDie_modMbx (d : Nat) : (s.modMbx fun _ => x).wakeDie d = (s.wakeDie d).modMbx fun _ => x := by
  by_cases hd : d < 4
  · cases hdormant : s.pwr.dormant[d] with
    | true => simp only [State.wakeDie, hd, dif_pos, State.modMbx_pwr, hdormant, if_true]; rfl
    | false => simp only [State.wakeDie, hd, dif_pos, State.modMbx_pwr, hdormant, Bool.false_eq_true, if_false]
  · simp only [State.wakeDie, hd, dif_neg, not_false_eq_true]

theorem takeRun_modMbx (p : Place) (a n : Nat) : (s.modMbx fun _ => x).takeRun p a n = (s.takeRun p a n).modMbx fun _ => x := by
  unfold State.takeRun
  rw [List.foldl_hom (·.modMbx fun _ => x) fun t g => placeGranule_modMbx t x p g]
  exact List.foldl_hom (·.modMbx fun _ => x) fun t d => wakeDie_modMbx t x d

theorem findRun_modMbx (p : Place) (n : Nat) : (s.modMbx fun _ => x).findRun p n = ((s.findRun p n).1, (s.findRun p n).2.modMbx fun _ => x) := by
  refine Prod.ext ?_ ?_
  · simp only [findRun_fst]; rfl
  · simp only [findRun_snd]; rfl

/-- Whether a copy of a primary well of the twin fits beside those that were placed before it. -/
def fitCopy (r : Bool × State) (w : PeerWell) : Bool × State :=
  match Place.ofCode w.place.toNat with
  | some p =>
    if !r.1 || (r.2.well (w.handle.toNat % 65536)).st != .free then (false, r.2)
    else match r.2.findRun p w.length.toNat with
      | (some a, s) => (true, (s.takeRun p a w.length.toNat).setWell (w.handle.toNat % 65536) { st := .live, place := p, start := a, length := w.length.toNat })
      | (none, s) => (false, s)
  | none => (false, r.2)

theorem copiesFit_eq (info : PeerInfo) : s.copiesFit info =
    ((info.wells.filter fun w => w.primary && (s.namedMir w.handle.toNat).isNone).foldl fitCopy (true, s)).1 := rfl

theorem fitCopy_modMbx (r : Bool × State) (w : PeerWell) :
    fitCopy (r.1, r.2.modMbx fun _ => x) w = ((fitCopy r w).1, (fitCopy r w).2.modMbx fun _ => x) := by
  unfold fitCopy
  cases Place.ofCode w.place.toNat with
  | none => rfl
  | some p =>
    by_cases h : (!r.1 || (r.2.well (w.handle.toNat % 65536)).st != .free) = true
    · simp only [h, if_true]
      exact if_pos h
    · have hmbx : ¬ (!r.1 || (State.well (r.2.modMbx fun _ => x) (w.handle.toNat % 65536)).st != .free) = true := h
      simp only [h, hmbx, findRun_modMbx]
      rcases r.2.findRun p w.length.toNat with ⟨_ | a, t⟩
      · rfl
      · simp only [takeRun_modMbx, Bool.false_eq_true, if_false]
        rfl

theorem copiesFit_modMbx (info : PeerInfo) : (s.modMbx fun _ => x).copiesFit info = s.copiesFit info := by
  rw [copiesFit_eq, copiesFit_eq]
  have h := List.foldl_hom (l := info.wells.filter fun w => w.primary && (s.namedMir w.handle.toNat).isNone) (init := (true, s))
    (fun r : Bool × State => (r.1, r.2.modMbx fun _ => x)) (fun r w => fitCopy_modMbx x r w)
  have hfst := congrArg Prod.fst h
  exact hfst

theorem pairRefusal_modMbx (info : PeerInfo) : (s.modMbx fun _ => x).pairRefusal info = s.pairRefusal info := by
  unfold State.pairRefusal
  rw [copiesFit_modMbx]
  rfl

theorem pairCheck_modMbx (rate : Nat) (info : PeerInfo) : pairCheck rate info (s.modMbx fun _ => x) = pairCheck rate info s := by
  unfold pairCheck
  rw [pairRefusal_modMbx]
  rfl

end Mailboxes

/-! ## The effects -/

theorem rateBad_false {rate : Nat} (h : rate = 0 ∨ 16 ≤ rate ∧ rate ≤ 448) : rateBad rate = false := by
  rcases h with h | ⟨hlo, hhi⟩
  · simp [rateBad, h]
  · simp [rateBad, hlo, hhi]

theorem pairCheck_passes {s : State} {rate : Nat} {info : PeerInfo} (hrate : rateBad rate = false) (h : s.pairRefusal info = none) :
    pairCheck rate info s = none := by
  simp only [pairCheck, hrate, h, Bool.false_eq_true, if_false]

/-- A pairing that R488 does not refuse is its mailbox's work alone. -/
theorem exec_twinPair_fits {s : State} {peer : PeerInfo} (h : CmdHdr) (rate : BitVec 16) (hfits : s.pairRefusal peer = none) :
    exec (.twinPair h rate peer) s = done (s.mailbox h (pairCmd rate.toNat) (pairCheck rate.toNat peer)
      fun wb s => ([], 0, (s.emit (.xo (.mail wb 0x0600))).pairBegin peer rate.toNat (some wb))) := by
  have haway : s.pairTurnedAway h rate.toNat peer = none := by
    unfold State.pairTurnedAway
    rw [hfits, ite_self]
  change execTwinPair h rate peer s = _
  rw [execTwinPair, haway]

theorem pairBegin_eq (s : State) (info : PeerInfo) (rate : Nat) (wb : Option Nat) : s.pairBegin info rate wb =
    s.modTwin fun x => { x with st := .pairing, pairWb := wb, pairInfo := some info, rate := if rate = 0 then 256 else rate } := by
  simp only [State.pairBegin, beq_iff_eq]

theorem Same.mirrored {s t : State} (h : Same s t) : t.mirrored = s.mirrored := by unfold State.mirrored; rw [h.pool]
theorem Same.namedMir {s t : State} (h : Same s t) (x : Nat) : t.namedMir x = s.namedMir x := by
  unfold State.namedMir State.named State.well; rw [h.pool]
theorem Same.swoWells {s t : State} (h : Same s t) (toThis origin : Bool) : t.swoWells toThis origin = s.swoWells toThis origin := by
  unfold State.swoWells State.mirrored State.well; rw [h.pool]

theorem unpairCheck_passes {s : State} {split : Bool} (hpaired : s.isPaired = true) (hfree : s.twin.unpairing = none)
    (hempty : split = true ∨ s.mirrored = []) : unpairCheck split s = none := by
  rcases hempty with rfl | hempty
  · simp [unpairCheck, firstOf, hpaired, hfree]
  · simp [unpairCheck, firstOf, hpaired, hfree, hempty]

theorem takeoverCheck_passes {s : State} {scope : Nat} (hscope : scope ≤ 1) (hst : s.twin.st = .fenced) : takeoverCheck 0 scope 0 s = none := by
  simp [takeoverCheck, firstOf, switchBad, hst, hscope]

end Sys2Proof.Machine

open Sys2Proof Sys2Proof.Machine

/-- Settles O18: each command passes its check, and its effect is that of its operation on the pair. -/
theorem twinCommandsTakeEffect : Obligations.TwinCommandsTakeEffect := by
  refine ⟨fun s h rate peer hf hrate hfits => ?_, fun s h hf hpaired hfree hempty => ?_, fun s h hf hpaired hfree => ?_,
    fun s h target scope rsv hf hown => ?_, fun s h scope hf hscope hst => ?_, fun s h hf => ⟨?_, fun handle i hhandle hnamed => ?_⟩⟩
  · exact effects_mailbox (c := pairCmd rate.toNat) (exec_twinPair_fits h rate hfits) hf nofun rfl
      (check_noteUse h (fun x => pairCheck_modMbx s x _ _) (pairCheck_passes (rateBad_false hrate) hfits))
      (fun wb t _ => pairBegin_eq _ peer rate.toNat (some wb)) rfl rfl
  · exact effects_mailbox (exec_twinUnpairEmpty s h) hf nofun rfl (check_noteUse h (fun _ => rfl) (unpairCheck_passes hpaired hfree (.inr hempty)))
      (fun _ _ _ => rfl) rfl rfl
  · exact effects_mailbox (exec_twinUnpairSplit s h) hf nofun rfl (check_noteUse h (fun _ => rfl) (unpairCheck_passes hpaired hfree (.inl rfl)))
      (fun _ _ _ => rfl) rfl rfl
  · refine effects_mailbox (exec_twinSwitchover s h target scope rsv) hf nofun rfl (check_noteUse h (fun _ => rfl) hown) (fun wb t ht => ?_) rfl rfl
    rw [← ht.swoWells]
    rfl
  · exact effects_mailbox (exec_twinTakeover s h 0 scope 0) hf nofun rfl (check_noteUse h (fun _ => rfl) (takeoverCheck_passes hscope hst))
      (fun _ _ _ => rfl) rfl rfl
  · exact answers_query (exec_twinStatus s h 0xFFFFFFFF) hf nofun rfl rfl rfl rfl rfl
  · have hmir : (s.noteUse h).namedMir handle.toNat = some i := ((same_noteUse s h).namedMir _).trans hnamed
    have hno : (handle.toNat == Config.noHandle) = false := by simpa [Config.noHandle] using hhandle
    exact answers_query (exec_twinStatus s h handle) hf nofun rfl (if_pos (by simp [hmir])) rfl (by simp [hmir, hno]) rfl
end

section
/-! PROOF. Detection and known-answer tests, MOD_ERR_N, the watchdogs and the ends of the reactions (16 R484; 17 R511, R520, R521, R525, R532, R537,
R539). -/
namespace Sys2Proof.Machine

/-! ## Known-answer tests (17 R537) -/

section Tests
variable {s : State} {p k : Nat} {pass : Bool}

/-- A part that fails a second time in a row takes its pump out of the test and judges it. -/
theorem katPart_failsAgain (htest : (s.pumpAt p).test = some k) (hjob : (s.pumpAt p).job = none) (hfails : (s.pumpAt p).katFails = 1)
    (hbad : pass = false ∨ (decide (0 < (s.pumpAt p).parityInj) || decide (0 < (s.pumpAt p).csumInj)) = true) :
    let inj := (s.pumpAt p).katInj || (decide (0 < (s.pumpAt p).parityInj) || decide (0 < (s.pumpAt p).csumInj))
    s.katPart p pass =
      ((((({ s with now := s.now + 150000 } : State).modPump p fun x => { x with parityInj := 0, csumInj := x.csumInj - 1, katInj := inj }).modTwin
        fun t => { t with katFail := t.katFail + 1 }).modPump p fun x =>
        { x with test := none, katNext := 0, katRun := 0, katFails := 0, katInj := false, since := s.now + 150000 }).record
          { source := 0x0302, unit := p, permanent := true, injected := inj }) := by
  intro inj
  have hfail : (pass && !(decide (0 < (s.pumpAt p).parityInj) || decide (0 < (s.pumpAt p).csumInj))) = false := by
    rcases hbad with h | h <;> simp only [h, Bool.false_and, Bool.not_true, Bool.and_false]
  simp only [State.katPart, htest, hjob, hfail, hfails, State.katLeave, Bool.false_eq_true, if_false, bne_self_eq_false, Bool.and_false,
    Nat.one_ne_zero, beq_iff_eq, State.modTwin_now, State.modPump_now]
  rfl

end Tests

/-! ## The alive toggle and the watchdogs (17 R520, R525) -/

section Reactions
variable {s : State}

theorem does_aliveToggle (htoggles : s.toggles = true) (hanswers : s.answers = true) (hstopped : s.toggleStopped = false) :
    Does .aliveToggle s (s.modMod fun m => { m with toggleLow := !m.toggleLow, toggleHeld := false }) :=
  .of_exec rfl (if_pos (by rw [htoggles, hanswers, hstopped]; rfl))

theorem does_aliveToggleMissed (htoggles : s.toggles = true) (hanswers : s.answers = true) :
    Does .aliveToggleMissed s (s.modMod fun m => { m with toggleHeld := true }) := .of_exec rfl (if_pos (by rw [htoggles, hanswers]; rfl))

/-! ## The ends of reactions (17 R521, R539) -/

section Blocks
variable {kind unit : Nat} (hbusy : (kind, unit, true) ∈ s.flt.busy)
include hbusy

theorem blockBack_unit (hpump : kind ≠ 3) (hcore : kind ≠ 6) :
    s.blockBack kind unit = s.modFlt fun f => { f with busy := f.busy.filter (· != (kind, unit, true)) } := by
  unfold State.blockBack
  rw [if_neg (by simpa using hbusy)]
  split
  · exact absurd rfl hpump
  · exact absurd rfl hcore
  · rfl

end Blocks

theorem blockBack_pump {unit : Nat} (hbusy : (3, unit, true) ∈ s.flt.busy) : s.blockBack 3 unit =
    (s.modFlt fun f => { f with busy := f.busy.filter (· != (3, unit, true)) }).modPump unit fun x =>
      { x with resetting := false, since := s.now } := by
  unfold State.blockBack
  rw [if_neg (by simpa using hbusy)]
  rfl

theorem nmiBack_busy {kind unit : Nat} (hbusy : (kind, unit, false) ∈ s.flt.busy) : s.nmiBack kind unit =
    ((s.capture kind unit).modFlt fun f => { f with busy := f.busy.filter (· != (kind, unit, false)) }).releaseHeld := by
  unfold State.nmiBack
  rw [if_pos (by simpa using hbusy)]
  rfl

theorem drainDue_flagged {t d : Nat} (hflagged : s.flt.flaggedAt = some t) (hdelay : s.flt.drainDelay = some d) (hphase : s.mod.phase = .service)
    (hpaired : s.isPaired = true) (hdrain : s.mod.drain = none) (hpower : s.pwr.powerDown = false) :
    s.drainDue = ((s.until (t + d * 1000000000)).modFlt fun f => { f with flaggedAt := none }).autoDrain false := by
  simp only [State.drainDue, hflagged, hdelay, hphase, hpaired, hdrain, hpower]
  rfl

end Reactions

/-! ## A source whose detection does more than is recorded -/

/-- A module in service on which nothing has happened. -/
def quietService : State := State.reset.modMod fun m => { m with phase := .service, stage := .done, errForced := false }

/-- The errors that a station's function has logged in the state that an outcome answers. -/
def loggedErrors (n : Nat) : Out → Option (List AerErr)
  | .next t => some (t.stnAt n).aer
  | _ => none

/-- The detection of source 0x0407 logs the error of the station's function, which the record alone does not. -/
theorem loggedErrors_faultDetected :
    loggedErrors 0 (exec (.faultDetected 0x0407 0 0 0 0) quietService) ≠ loggedErrors 0 (done (quietService.record { source := 0x0407 })) := by
  decide +kernel

end Sys2Proof.Machine

open Sys2Proof Sys2Proof.Machine

/-- Settles O42: each event is one operation on the state, whose cases the lemmas above give. -/
theorem reactionsEnd : Obligations.ReactionsEnd := by
  refine ⟨fun s => rfl, fun s htoggles hanswers => ⟨does_aliveToggle htoggles hanswers, does_aliveToggleMissed htoggles hanswers⟩,
    fun s hanswers => ⟨.of_exec rfl (if_pos hanswers), fun c => .of_exec rfl (if_pos hanswers)⟩,
    fun s k u hbusy hpump hcore => .of_exec rfl (blockBack_unit hbusy hpump hcore), fun s u hbusy => .of_exec rfl (blockBack_pump hbusy),
    fun s k u hbusy => .of_exec rfl (nmiBack_busy hbusy),
    fun s t d hflagged hdelay hphase hpaired hdrain hpower => .of_exec rfl (drainDue_flagged hflagged hdelay hphase hpaired hdrain hpower)⟩

/-- Settles O41: the part that fails again leads to the last branch of the part's judgement. -/
theorem secondFailedPartJudgesThePump : Obligations.SecondFailedPartJudgesThePump :=
  fun _ _ _ htest hjob hfails _ hbad => .of_exec rfl (katPart_failsAgain htest hjob hfails hbad)

/-- Refutes O40: its first clause says of source 0x0407 too that detection only records, but `State.detectEffect` also logs an uncorrectable error
with the function of the station. -/
theorem not_checksAndTestsAct : ¬ Obligations.ChecksAndTestsAct := by
  rintro ⟨hdetected, -⟩
  have hdoes := hdetected quietService 0x0407 0 0 0 0 _ (by decide +kernel) rfl (by decide) rfl (by decide)
  exact loggedErrors_faultDetected (congrArg (loggedErrors 0) hdoes)
end

section
/-! PROOF. Challenges, lockouts and idle sessions; the 64 V input, its controller, and the power manager (18 R542 to R555, R561 to R564;
19 R569, R571, R573; 20 R589, R606). -/
namespace Sys2Proof.Machine

variable {s : State}

/-! ## Sessions (19 R569, R571, R573) -/

theorem mb_modMb_self (s : State) (m : Mbx) (f : Mailbox → Mailbox) : (s.modMb m f).mb m = f (s.mb m) := by rw [mb_modMb, if_pos rfl]
theorem mb_modMb_ne (s : State) {m k : Mbx} (h : k ≠ m) (f : Mailbox → Mailbox) : (s.modMb m f).mb k = s.mb k := by rw [mb_modMb, if_neg h.symm]

theorem challengeGone_open {m : Mbx} {c : Challenge} (h : (s.mb m).challenge = some c) :
    s.challengeGone m = (s.until c.expires).modMb m fun x => { x with challenge := none } := by simp only [State.challengeGone, h]

theorem lockoutEnd_locked {m : Mbx} {t : Nat} (h : (s.mb m).lockUntil = some t) :
    s.lockoutEnd m = (s.until t).modMb m fun x => { x with lockUntil := none } := by simp only [State.lockoutEnd, h]

theorem endSession_open {m : Mbx} (h : (s.mb m).session ≠ .none) (why : Nat) : s.endSession m why =
    (s.auditMbx m (s.mb m).sender 5 0 0 0 0 why).modMb m fun x => { x with session := .none, cred := 0, credSlot := 0, sender := 0 } :=
  if_neg (by simpa using h)

theorem sessionIdle_mgmt {m : Mbx} (hm : m = .eth ∨ m = .i3c) (h : (s.mb m).session ≠ .none) :
    s.sessionIdle m = (s.until ((s.mb m).lastUse + 900000000000)).endSession m 5 := by
  rcases hm with rfl | rfl <;> exact if_neg (by simpa using h)

theorem mb_of_mbx {t : State} (h : t.mbx = s.mbx) (k : Mbx) : t.mb k = s.mb k := by unfold State.mb; rw [h]

/-- A change of one mailbox leaves the others, the clock, the memory and what is kept of security. -/
theorem modMb_changes (s : State) (m : Mbx) (f : Mailbox → Mailbox) (t : Nat) : let u := (s.until t).modMb m f
    u.mb m = f (s.mb m) ∧ u.now = max s.now (tick t) ∧ (∀ k, k ≠ m → u.mb k = s.mb k) ∧ u.mem = s.mem ∧ u.sec = s.sec :=
  ⟨mb_modMb_self .., by simp [State.until], fun _ hk => mb_modMb_ne _ hk f, by simp, by simp⟩

theorem endSession_ends {m : Mbx} (h : (s.mb m).session ≠ .none) (why : Nat) : let u := s.endSession m why
    (u.mb m).session = .none ∧ (u.mb m).credSlot = 0 ∧ u.now = s.now ∧ (∀ k, k ≠ m → u.mb k = s.mb k) ∧ u.mem = s.mem ∧
      u.sec.creds = s.sec.creds := by
  have haudit := same_auditMbx s m (s.mb m).sender 5 0 0 0 0 why none
  have hmb : ∀ k, (s.auditMbx m (s.mb m).sender 5 0 0 0 0 why).mb k = s.mb k := mb_of_mbx (auditMbx_mbx ..)
  rw [endSession_open h]
  exact ⟨by rw [mb_modMb_self], by rw [mb_modMb_self], (State.modMb_now ..).trans haudit.now,
    fun k hk => (mb_modMb_ne _ hk _).trans (hmb k), (State.modMb_mem ..).trans haudit.mem, by rw [State.modMb_sec, haudit.creds]⟩

/-! ## The input (18 R542 to R548; 20 R589, R606) -/

theorem inputFail_powered (h : s.pwr.hotSwap ≠ .open_) (hold : Nat) : s.inputFail hold = s.openSwap hold := if_neg (by simpa using h)

theorem inputFail_open (h : s.pwr.hotSwap = .open_) (hold : Nat) : s.inputFail hold = s := if_pos (by simp [h])

theorem inputLow_powered (h : s.pwr.hotSwap ≠ .open_) : s.inputLow = s.openSwap 0 :=
  (if_neg (by simpa using h)).trans (inputFail_powered h 0)

theorem limitTrip_powered (hlimiting : s.pwr.limiting = true) (h : s.pwr.hotSwap ≠ .open_) :
    s.limitTrip = s.openSwap (if 3 ≤ s.pwr.tries then 2 else 4) := (if_pos hlimiting).trans (inputFail_powered h _)

theorem powerRecord_answers (h : s.answers = true) (e : Event) : s.powerRecord e = s.record e := if_pos h

/-! ## The power manager's step (18 R549, R552) -/

section Manager
variable {w : Nat}

/-- The state that has taken the sample in. -/
def State.sampled (s : State) (w : Nat) : State :=
  s.modPwr fun p => { p with inW := w, wHist := (w :: s.pwr.wHist).take 10,
                             inW1 := ((w :: s.pwr.wHist).take 10).foldl (· + ·) 0 / ((w :: s.pwr.wHist).take 10).length }

/-- The steps taken down; at both floors LIMIT_UNMET is set. -/
def State.steppedDown (s : State) (steps : Nat × Nat) (floor : Bool) : State :=
  s.modPwr fun p => { p with duty := steps.1, memStep := steps.2, below := 0, unmet := p.unmet || floor }

theorem steppedDown_unfloored (s : State) (steps : Nat × Nat) : s.steppedDown steps false =
    s.modPwr fun p => { p with duty := steps.1, memStep := steps.2, below := 0 } := by
  simp only [State.steppedDown, Bool.or_false]

theorem stepDown_duty {duty : Nat} (h : 2 < duty) (mem : Nat) : stepDown duty mem = (duty - 1, mem) := if_pos h
theorem stepDown_mem {duty mem : Nat} (hd : duty ≤ 2) (hm : 6 < mem) : stepDown duty mem = (duty, mem - 1) :=
  (if_neg (Nat.not_lt.2 hd)).trans (if_pos hm)
theorem stepUp_mem {mem : Nat} (duty : Nat) (h : mem < 16) : stepUp duty mem = (duty, mem + 1) := if_pos h

variable (hheld : s.powerHeld = false)
include hheld

/-- Above the limit a step that is still to be had is taken down. -/
theorem powerStep_above (h : s.effectiveW < w) (hfloor : 2 < s.pwr.duty ∨ 6 < s.pwr.memStep) :
    s.powerStep w = (s.sampled w).steppedDown (stepDown s.pwr.duty s.pwr.memStep) false := by
  have hfloor' : (decide (s.pwr.duty ≤ 2) && decide (s.pwr.memStep ≤ 6)) = false := by simp; omega
  refine (if_neg (c := (s.sampled w).powerHeld = true) (ne_true_of_eq_false hheld)).trans ?_
  refine (if_pos (c := (s.sampled w).effectiveW < w) h).trans ?_
  change (if (((decide (s.pwr.duty ≤ 2) && decide (s.pwr.memStep ≤ 6)) && !s.pwr.unmet) = true) then _ else _) = _
  rw [hfloor', if_neg (by simp)]
  exact congrArg ((s.sampled w).steppedDown (stepDown s.pwr.duty s.pwr.memStep)) hfloor'

/-- At or below the limit the step counts where 50 W are to spare, and from the tenth in a row on raises the duty or the memory's limit. -/
theorem powerStep_below (h : w ≤ s.effectiveW) : s.powerStep w =
    let below := if w + 50 ≤ s.effectiveW then s.pwr.below + 1 else 0
    let steps := if 10 ≤ below then stepUp s.pwr.duty s.pwr.memStep else (s.pwr.duty, s.pwr.memStep)
    (s.sampled w).modPwr fun p => { p with duty := steps.1, memStep := steps.2, below := below, unmet := false } :=
  (if_neg (c := (s.sampled w).powerHeld = true) (ne_true_of_eq_false hheld)).trans
    (if_neg (c := (s.sampled w).effectiveW < w) (Nat.not_lt.2 h))

theorem powerStep_duty (h : s.effectiveW < w) (hduty : 2 < s.pwr.duty) :
    s.powerStep w = (s.sampled w).modPwr fun p => { p with duty := s.pwr.duty - 1, below := 0 } := by
  rw [powerStep_above hheld h (.inl hduty), steppedDown_unfloored, stepDown_duty hduty]
  rfl

theorem powerStep_mem (h : s.effectiveW < w) (hduty : s.pwr.duty ≤ 2) (hmem : 6 < s.pwr.memStep) :
    s.powerStep w = (s.sampled w).modPwr fun p => { p with memStep := s.pwr.memStep - 1, below := 0 } := by
  rw [powerStep_above hheld h (.inr hmem), steppedDown_unfloored, stepDown_mem hduty hmem]
  rfl

theorem powerStep_counts (hspare : w + 50 ≤ s.effectiveW) (hfew : s.pwr.below < 9) :
    s.powerStep w = (s.sampled w).modPwr fun p => { p with below := s.pwr.below + 1, unmet := false } := by
  rw [powerStep_below hheld (by omega)]
  simp only [if_pos hspare]
  rw [if_neg (by omega)]
  rfl

theorem powerStep_raises (hspare : w + 50 ≤ s.effectiveW) (hmany : 9 ≤ s.pwr.below) (hmem : s.pwr.memStep < 16) : s.powerStep w =
    (s.sampled w).modPwr fun p => { p with memStep := s.pwr.memStep + 1, below := s.pwr.below + 1, unmet := false } := by
  rw [powerStep_below hheld (by omega)]
  simp only [if_pos hspare]
  rw [if_pos (by omega), stepUp_mem _ hmem]
  rfl

end Manager

/-! ## Temperatures (18 R561 to R564) -/

/-- With every sensor below its warning the shutdown temperature is forgotten. -/
theorem modPwr_cooled (s : State) (below : Bool) :
    (if below = true then s.modPwr fun p => { p with hot := false } else s) = s.modPwr fun p => { p with hot := p.hot && !below } := by
  cases below
  · simp only [Bool.false_eq_true, if_false, Bool.not_false, Bool.and_true]; rfl
  · simp only [if_true, Bool.not_true, Bool.and_false]

section Temperatures
variable (s : State) (sensors dram : List Byte)

/-- The state that has taken the sample in, the shutdown temperature forgotten where every sensor is below its warning. -/
def State.felt (s : State) (sensors dram : List Byte) : State :=
  let r := s.modPwr fun p => { p with temps := Vector.ofFn fun i => sensors.getD i.val p.temps[i]
                                      stackTemps := Vector.ofFn fun i => dram.getD i.val p.stackTemps[i] }
  r.modPwr fun p => { p with hot := p.hot && !(r.allTemps.zipIdx.all fun x => x.1 < warnOf x.2) }

theorem thermStep_silent (h : s.answers = false) : s.thermStep sensors dram = s.felt sensors dram := by
  unfold State.thermStep
  simp only [modPwr_cooled]
  exact if_pos (congrArg (!·) h)

theorem thermStep_answers (h : s.answers = true) : s.thermStep sensors dram =
    let u := s.felt sensors dram
    ((List.range 4).foldl (fun t d => t.thermDie d) (u.modPwr fun p =>
      { p with therm := if u.allTemps.zipIdx.any fun x => warnOf x.2 ≤ x.1 then true
                        else if u.allTemps.zipIdx.all fun x => x.1 + 5 ≤ warnOf x.2 then false else p.therm })).thermRecords := by
  unfold State.thermStep
  simp only [modPwr_cooled]
  exact if_neg (ne_true_of_eq_false (congrArg (!·) h))

end Temperatures

/-! ## Rails (18 R547) -/

section Rails
variable (s : State) {r : BitVec 5} (mv ma : BitVec 16) (temp : Byte)

theorem does_railSample_rail (h : r.toNat < 21) : Does (.railSample r mv ma temp) s
    (s.modPwr fun p => { p with rails := p.rails.setIfInBounds r.toNat ⟨mv.toNat, ma.toNat, temp, railBad r.toNat mv.toNat⟩ }) := by
  refine .of_exec rfl ?_
  simp only [Nat.not_le.2 h, if_false]

theorem does_railSample_converter (h : 21 ≤ r.toNat) : Does (.railSample r mv ma temp) s
    (s.modPwr fun p => { p with convOut := p.convOut.setIfInBounds (r.toNat - 21) ⟨mv.toNat, ma.toNat, temp, false⟩ }) := by
  have hrails : ∀ (v : Vector Rail 21) (x : Rail), v.setIfInBounds r.toNat x = v := fun v x => Vector.ext fun i hi => by
    rw [Vector.getElem_setIfInBounds_ne _ (by omega)]
  refine .of_exec rfl ?_
  simp only [h, if_true, hrails]

end Rails

end Sys2Proof.Machine

open Sys2Proof Sys2Proof.Machine

/-- Settles O43: each end is a change of one mailbox, the session's also of the audit log. -/
theorem sessionsEnd : Obligations.SessionsEnd := by
  refine ⟨fun s m c hc => ?_, fun s m t ht => ?_, fun s m hm hs => ?_⟩
  · obtain ⟨hmb, hrest⟩ := modMb_changes s m (fun x => { x with challenge := none }) c.expires
    exact ⟨_, .of_exec rfl (challengeGone_open hc), by rw [hmb], hrest⟩
  · obtain ⟨hmb, hrest⟩ := modMb_changes s m (fun x => { x with lockUntil := none }) t
    exact ⟨_, .of_exec rfl (lockoutEnd_locked ht), by rw [hmb], hrest⟩
  · exact ⟨_, .of_exec rfl (sessionIdle_mgmt hm hs), endSession_ends (s := s.until _) hs 5⟩

/-- Settles O45: each event is one operation on the input's state, whose cases the lemmas above give. -/
theorem inputEventsAct : Obligations.InputEventsAct := by
  refine ⟨fun s mv ma hclosed => ?_, fun s hpowered => ⟨?_, ?_, ?_, fun hlimiting => ?_, ?_⟩, fun s hanswers => ⟨?_, ?_, fun k => ?_, fun r hr => ?_⟩,
    fun s hopen hhold => ?_, fun s hopen hhold hhot hstandby => ?_, fun s hsloping => ?_, fun s => rfl, fun s hopen => ?_,
    fun s r mv ma temp => ⟨fun hr => ?_, fun hr hr' => ?_⟩⟩
  · exact .of_exec rfl (if_pos (by simp [hclosed]))
  · exact .of_exec rfl (inputFail_powered hpowered 0)
  · exact .of_exec rfl (inputLow_powered hpowered)
  · exact .of_exec rfl (by rw [inputFail_powered hpowered])
  · exact .of_exec rfl (limitTrip_powered hlimiting hpowered)
  · exact .of_exec rfl (by rw [inputFail_powered hpowered])
  · exact .of_exec rfl (powerRecord_answers hanswers _)
  · exact .of_exec rfl (powerRecord_answers hanswers _)
  · exact .of_exec rfl (if_pos hanswers)
  · exact .of_exec rfl ((if_pos hr).trans (powerRecord_answers hanswers _))
  · exact .of_exec rfl (if_pos (by simp [hopen, hhold]))
  · exact .of_exec rfl (if_pos (by simp [hopen, hhold, hhot, hstandby]))
  · exact .of_exec rfl (if_pos (by simp [hsloping]))
  · exact .of_exec rfl (by rw [inputFail_open hopen])
  · exact does_railSample_rail s mv ma temp hr
  · exact does_railSample_converter s mv ma temp hr

/-- Settles O46: the step's cases by the limit and the floors, and a sample of the temperatures with and without a signal box that runs. -/
theorem powerManagerSteps : Obligations.PowerManagerSteps := by
  refine ⟨fun s w hanswers hheld => ⟨?_, ?_, ?_, ?_⟩, fun s sensors dram => ⟨fun hanswers => ?_, fun hanswers => ?_⟩⟩
  · exact fun habove hduty => .of_exec rfl ((if_pos hanswers).trans (powerStep_duty hheld habove hduty))
  · exact fun habove hduty hmem => .of_exec rfl ((if_pos hanswers).trans (powerStep_mem hheld habove hduty hmem))
  · exact fun _ hfew hspare => .of_exec rfl ((if_pos hanswers).trans (powerStep_counts hheld hspare hfew))
  · exact fun hspare hmany hmem => .of_exec rfl ((if_pos hanswers).trans (powerStep_raises hheld hspare hmany hmem))
  · exact .of_exec rfl (thermStep_silent s sensors dram hanswers)
  · exact .of_exec rfl (thermStep_answers s sensors dram hanswers)
end

section
/-! PROOF. The idle states of stacks and pumps, the module's pins, bring-up, and what a reset keeps (18 R545, R557 to R560; 20 R592 to R607). -/
namespace Sys2Proof.Machine

variable {s : State}

/-! ## Stacks that sleep and wake (18 R559, R560) -/

/-- Die `d` is dormant from the moment `t` on. -/
def State.asleepAt (s : State) (d t : Nat) : State :=
  (s.until t).modPwr fun p => { p with dormant := p.dormant.setIfInBounds d true, waking := p.waking.setIfInBounds d false }

/-- The moment at which the idle time of die `d` has passed, where there is one. -/
def State.idleMoment (s : State) (d : Nat) : Option Nat := s.pwr.dormantMs.map fun ms => s.pwr.lastReq.toList.getD d 0 + ms * 1000000

/-- The moment 10 ms after die `d` became empty, where it is empty. -/
def State.emptyMoment (s : State) (d : Nat) : Option Nat :=
  if (s.quartersUsed d).isEmpty then some ((s.pwr.emptySince.toList.getD d none).getD s.now + 10000000) else none

section Dormancy
variable {d : Nat} (hd : d ≠ 0) (hawake : s.dieDormant d = false) (hanswers : s.answers = true)
include hd hawake hanswers

/-- A die sleeps at the earlier of its two moments, and stays awake without either. -/
theorem dormantEntry_eq : s.dormantEntry d = match s.emptyMoment d, s.idleMoment d with
    | some a, some b => s.asleepAt d (min a b)
    | some t, none | none, some t => s.asleepAt d t
    | none, none => s :=
  if_neg (by simp [hd, hawake, hanswers])

end Dormancy

theorem idleMoment_some {d ms : Nat} (h : s.pwr.dormantMs = some ms) :
    s.idleMoment d = some (s.pwr.lastReq.toList.getD d 0 + ms * 1000000) := by rw [State.idleMoment, h]; rfl

theorem idleMoment_none {d : Nat} (h : s.pwr.dormantMs = none) : s.idleMoment d = none := by rw [State.idleMoment, h]; rfl

theorem emptyMoment_some {d since : Nat} (h : (s.quartersUsed d).isEmpty = true) (hsince : s.pwr.emptySince.toList.getD d none = some since) :
    s.emptyMoment d = some (since + 10000000) := by rw [State.emptyMoment, if_pos h, hsince]; rfl

theorem emptyMoment_none {d : Nat} (h : (s.quartersUsed d).isEmpty = false) : s.emptyMoment d = none := if_neg (ne_true_of_eq_false h)

theorem wakeDone_waking {d : Nat} (h : s.pwr.waking.toList.getD d false = true) : s.wakeDone d =
    (let u := s.modPwr fun p => { p with dormant := p.dormant.setIfInBounds d false, waking := p.waking.setIfInBounds d false,
                                         lastReq := p.lastReq.setIfInBounds d s.now }
     s.twin.mirHeld.foldl (fun u (id, h, off, d, mask, p) => u.mirrorIn id h off d mask p) ((u.modTwin fun t => { t with mirHeld := [] }).releaseHeld)) :=
  if_neg (by rw [h]; decide)

/-! ## The clocks of pumps (18 R557, R558) -/

section Pumps
variable {p : Nat}

theorem pumpAt_modPump_ne (s : State) {p q : Nat} (f : Pump → Pump) (h : q ≠ p) : (s.modPump p f).pumpAt q = s.pumpAt q := by
  unfold State.modPump
  split
  · simp [State.pumpAt, List.getD_eq_getElem?_getD, List.getElem?_set_ne h.symm]
  · rfl

theorem job_modPump (s : State) (p id : Nat) (f : Pump → Pump) : (s.modPump p f).job id = s.job id := by
  unfold State.modPump
  split <;> rfl

/-- A pump's clock changes at moment `t`. -/
def State.clocked (s : State) (p t : Nat) (c : PumpClk) : State :=
  let u := s.until t
  u.modPump p fun x => { x with clk := c, since := u.now }

theorem clocked_changes (s : State) (hp : p < 16) (t : Nat) (c : PumpClk) : let u := s.clocked p t c
    (u.pumpAt p).clk = c ∧ u.now = max s.now (tick t) ∧ (∀ q, q ≠ p → u.pumpAt q = s.pumpAt q) ∧ u.mem = s.mem := by
  refine ⟨?_, ?_, fun q hq => ?_, ?_⟩
  · rw [State.clocked, pumpAt_modPump_self _ _ hp]
  · exact State.modPump_now ..
  · exact pumpAt_modPump_ne _ _ hq
  · exact State.modPump_mem ..

theorem pumpWarm_hot (hidle : (s.pumpAt p).idle = true) (h : (s.pumpAt p).clk = .hot) :
    s.pumpWarm p = s.clocked p ((s.pumpAt p).since + s.pwr.hotIdleUs * 1000) .warm := if_pos (by simp [h, hidle])

theorem pumpCold_warm {us : Nat} (hus : s.pwr.warmIdleUs = some us) (hidle : (s.pumpAt p).idle = true) (h : (s.pumpAt p).clk = .warm) :
    s.pumpCold p = s.clocked p ((s.pumpAt p).since + us * 1000) .cold := by
  unfold State.pumpCold
  rw [hus]
  exact if_pos (by simp [h, hidle])

theorem pumpWoken_waking {j : Job} (hwaking : (s.pumpAt p).waking = true) (hjob : (s.pumpAt p).job = some j.id) (hj : s.job j.id = some j) :
    let u := s.modPump p fun x => { x with clk := .hot, waking := false, since := s.now }
    s.pumpWoken p = if j.stage = .queued p then u.readDesc j.id p else u := by
  intro u
  have hbind : (s.pumpAt p).job.bind u.job = some j := by rw [hjob]; exact (job_modPump ..).trans hj
  refine (if_neg (by simp [hwaking])).trans ?_
  change (match (s.pumpAt p).job.bind u.job with | some j => if j.stage == JobStage.queued p then u.readDesc j.id p else u | none => u) = _
  simp only [hbind, beq_iff_eq]

end Pumps

/-! ## The module's pins (20 R603, R606) -/

section Button
variable (hanswers : s.answers = true) (hdrain : s.mod.drain = none) (hpower : s.pwr.powerDown = false)
include hanswers hdrain hpower

/-- The press is counted; what it does beside is the phase's. -/
theorem attnPress_counts : s.attnPress =
    let u := s.modMod fun m => { m with attnPresses := sat 16 (m.attnPresses + 1) }
    match s.mod.phase with
    | .drained => u.modMod fun m => { m with drain := some ⟨none, true, 8⟩ }
    | .recovery => u.attnAsk
    | .service => if u.twinHealthy || s.mod.attnUntil.isSome then u.attnAsk else u.emit (.mgmt .button)
    | _ => u.emit (.mgmt .button) := by
  have hup : s.mod.poweredDown = false := by
    have h := hanswers
    unfold State.answers at h
    cases hp : s.mod.poweredDown with
    | true => simp [hp] at h
    | false => rfl
  refine (if_neg (ne_true_of_eq_false hup)).trans ((if_neg (by simp [hanswers])).trans ((if_neg ?_).trans ?_))
  · simp [hdrain, hpower]
  · rfl

end Button

theorem attnAsk_first (h : s.mod.attnUntil = none) :
    s.attnAsk = s.modMod fun m => { m with attnUntil := some (s.now + 5000000000), attnLatch := true } := by
  simp only [State.attnAsk, State.modMod, h, Option.isSome_none, Bool.false_eq_true, if_false]

theorem attnAsk_second (h : s.mod.attnUntil ≠ none) : s.attnAsk = s.modMod fun m => { m with attnUntil := none, attnLatch := false } := by
  simp only [State.attnAsk, State.modMod, Option.isSome_iff_ne_none.2 h, if_true]

theorem attnDue_window {t : Nat} (h : s.mod.attnUntil = some t) (hphase : s.mod.phase = .service ∨ s.mod.phase = .recovery) :
    s.attnDue = ((s.until t).modMod fun m => { m with attnUntil := none, attnLatch := false }).autoDrain true := by
  unfold State.attnDue
  rw [h]
  exact if_pos (by rcases hphase with h | h <;> simp [State.until, h])

/-! ## Bring-up (20 R593 to R598) -/

/-- A component has an image that passes where one of its two does. -/
theorem checked_passes (c : Comp) (p0 p1 : Bool) : (c.checked p0 p1).passes = (p0 || p1) := by
  rcases c with ⟨bank, ver0, ver1, ok0, ok1⟩
  match bank with
  | 0 | 1 => cases p0 <;> cases p1 <;> rfl

section Stages
variable {p0 p1 : Bool}

/-- The state with the two checks of SB's banks taken in. -/
def State.sbSeen (s : State) (p0 p1 : Bool) : State := s.modFw fun f => { f with comps := f.comps.set 0 (f.comps[0].checked p0 p1) }

theorem sbChecked_eq (h : s.mod.stage = .rom) : s.sbChecked p0 p1 = if (p0 || p1) = true
    then (s.sbSeen p0 p1).modMod fun m => { m with stage := .sb, errForced := false, toggleHeld := false, toggleLow := true }
    else (s.sbSeen p0 p1).modMod fun m => { m with stage := .stopped } := by
  have hpasses : (s.sbSeen p0 p1).fw.comps[0].passes = (p0 || p1) := by
    rw [← checked_passes s.fw.comps[0] p0 p1]
    simp [State.sbSeen]
  rw [← hpasses]
  exact if_neg (by simp [h])

/-- The state with the checks of the other components taken in, two for each. -/
def State.compsSeen (s : State) (passes : List Bool) : State :=
  let v := s.modFw fun f => { f with comps := Vector.ofFn fun i =>
    if i.val = 0 then f.comps[i] else f.comps[i].checked (passes.getD (2 * i.val - 2) false) (passes.getD (2 * i.val - 1) false) }
  v.modTwin fun t => { t with localVersions := xoMask v.running }

/-- The combination that runs is one that the manifest lists, or the activation was forced. -/
def State.accepts (s u : State) : Bool := (s.fw.active.combos.any fun v => versionList v = u.running) || s.fw.forced

theorem ite_unless_accepted {α : Type} (passes listed forced : Bool) (x y : α) : (if (!passes || (!listed && !forced)) = true then x else y) =
    if (passes && (listed || forced)) = true then y else x := by
  cases passes <;> cases listed <;> cases forced <;> rfl

theorem ofFn_checked (v : Vector Comp 5) (passes : List Bool) :
    (Vector.ofFn fun i : Fin 5 => if i.val == 0 then v[i] else
      v[i].checked (passes.getD (2 * (i.val - 1)) false) (passes.getD (2 * (i.val - 1) + 1) false)) =
    Vector.ofFn fun i => if i.val = 0 then v[i] else v[i].checked (passes.getD (2 * i.val - 2) false) (passes.getD (2 * i.val - 1) false) := by
  refine congrArg _ (funext fun i => ?_)
  by_cases hi : i.val = 0
  · rw [if_pos (by simp [hi]), if_pos hi]
  · rw [if_neg (by simp [hi]), if_neg hi, show 2 * (i.val - 1) = 2 * i.val - 2 by omega, show 2 * i.val - 2 + 1 = 2 * i.val - 1 by omega]

theorem compsChecked_eq (passes : List Bool) (hstage : s.mod.stage = .sb) (hphase : s.mod.phase = .bringUp) :
    let u := s.compsSeen passes
    s.compsChecked passes = if (u.fw.comps.toList.all Comp.passes && s.accepts u) = true
      then u.modMod fun m => { m with stage := .checked, memInfoValid := true } else u.enterRecovery false := by
  intro u
  unfold State.compsChecked
  rw [if_neg (by simp [hstage, hphase])]
  simp only [ofFn_checked]
  simp only [beq_eq_decide]
  exact ite_unless_accepted ..

end Stages

theorem stacksTrained_spared (hstage : s.mod.stage = .checked) (hphase : s.mod.phase = .bringUp) (hspares : ∀ x ∈ s.mod.spares, x.done = true) :
    s.stacksTrained none = s.modMod fun m => { m with stage := .trained } := by
  have hnone : s.mod.spares.filter (fun x => !x.done) = [] := List.filter_eq_nil_iff.2 fun x hx => by simp [hspares x hx]
  refine (if_neg (by simp [hstage, hphase])).trans ?_
  simp only [hnone]
  rfl

theorem stacksTrained_failed (hstage : s.mod.stage = .checked) (hphase : s.mod.phase = .bringUp) (k : Fin 24) :
    s.stacksTrained (some k) = (s.record { source := 0x0104, unit := k.val, permanent := true }).enterRecovery false :=
  if_neg (by simp [hstage, hphase])

theorem metaRestored_ok (hstage : s.mod.stage = .trained) (hphase : s.mod.phase = .bringUp) :
    s.metaRestored true = s.restore.resumeAudit.modMod fun m => { m with stage := .restored } := if_neg (by simp [hstage, hphase])

theorem metaRestored_bad (hstage : s.mod.stage = .trained) (hphase : s.mod.phase = .bringUp) :
    s.metaRestored false = s.modMod fun m => { m with phase := .recovery, metaBad := true, otherBad := m.otherBad } := by
  refine (if_neg (by simp [hstage, hphase])).trans ?_
  simp only [Bool.false_eq_true, if_false, State.enterRecovery, Bool.or_true, Bool.not_true, Bool.or_false]

theorem broughtUp_passed (hstage : s.mod.stage = .filled) (hphase : s.mod.phase = .bringUp) : s.broughtUp [] =
    (((s.modPwr fun p => { p with tries := 0 }).modTwin fun t => { t with katPass := t.katPass + 16, katFail := t.katFail }).enterService).askPair :=
  if_neg (by simp [hstage, hphase])

end Sys2Proof.Machine

open Sys2Proof Sys2Proof.Machine

/-- Settles O47: a die sleeps at the moment that its two idle times give, and a pump's clock goes down at its own. -/
theorem idleStatesChange : Obligations.IdleStatesChange := by
  refine ⟨fun s d hd hawake hanswers => ⟨fun ms hused hms => ?_, fun since hempty hsince => ⟨fun hnone => ?_, fun ms hms => ?_⟩, fun hused hnone => ?_⟩,
    fun s d hwaking => .of_exec rfl (wakeDone_waking hwaking), fun s p hidle => ⟨fun hhot => ?_, fun us hus hwarm => ?_⟩,
    fun s p j hwaking hjob hj => ⟨fun hstage => ?_, fun hstage => ?_⟩⟩
  · exact .of_exec rfl ((dormantEntry_eq hd hawake hanswers).trans (by rw [emptyMoment_none hused, idleMoment_some hms]; rfl))
  · exact .of_exec rfl ((dormantEntry_eq hd hawake hanswers).trans (by rw [emptyMoment_some hempty hsince, idleMoment_none hnone]; rfl))
  · exact .of_exec rfl ((dormantEntry_eq hd hawake hanswers).trans (by rw [emptyMoment_some hempty hsince, idleMoment_some hms]; rfl))
  · exact .of_exec rfl ((dormantEntry_eq hd hawake hanswers).trans (by rw [emptyMoment_none hused, idleMoment_none hnone]))
  · exact ⟨_, .of_exec rfl (pumpWarm_hot hidle hhot), clocked_changes s p.isLt _ _⟩
  · exact ⟨_, .of_exec rfl (pumpCold_warm hus hidle hwarm), clocked_changes s p.isLt _ _⟩
  · exact .of_exec rfl ((pumpWoken_waking hwaking hjob hj).trans (if_pos hstage))
  · exact .of_exec rfl ((pumpWoken_waking hwaking hjob hj).trans (if_neg hstage))

/-- Settles O48: each pin is one operation on the state, whose cases the lemmas above give. -/
theorem pinsAct : Obligations.PinsAct := by
  refine ⟨fun s hanswers hdrain hpower => ⟨fun hphase => ?_, fun hphase hnone => ?_, fun hphase hsome => ?_, fun hphase hnone htwin => ?_⟩,
    fun s t ht hphase => .of_exec rfl (attnDue_window ht hphase), fun s hclosed => ⟨fun hpower => ?_, fun hpower => ?_⟩,
    fun s hstage hdown hclosed hgood => ?_, fun s hanswers => .of_exec rfl (if_pos hanswers)⟩
  · exact .of_exec rfl ((attnPress_counts hanswers hdrain hpower).trans (by rw [hphase]))
  · refine .of_exec rfl ((attnPress_counts hanswers hdrain hpower).trans ?_)
    rw [hphase]
    exact attnAsk_first hnone
  · refine .of_exec rfl ((attnPress_counts hanswers hdrain hpower).trans ?_)
    rw [hphase]
    exact attnAsk_second hsome
  · refine .of_exec rfl ((attnPress_counts hanswers hdrain hpower).trans ?_)
    rw [hphase]
    exact if_neg (by simp [htwin, hnone])
  · exact .of_exec rfl (by simp only [hpower, hclosed, Bool.false_eq_true, if_false]; rfl)
  · exact .of_exec rfl (by simp only [hpower, if_true])
  · exact .of_exec rfl (if_pos (by simp [hstage, hdown, hclosed, hgood]))

/-- Settles O49: each stage's check gives the branch that the stage ends in. -/
theorem bringUpGoesByStages : Obligations.BringUpGoesByStages := by
  refine ⟨fun s p0 p1 hstage => ⟨fun hpass => ?_, fun h0 h1 => ?_⟩, fun s ps hstage hphase => ?_, fun s ps hstage hphase => ⟨fun hpass hlisted => ?_, fun hbad => ?_⟩,
    fun s hstage hphase => ⟨fun hspares => ?_, fun k => ?_⟩, fun s hstage hphase => ⟨?_, ?_⟩, fun s hstage hphase => ?_, fun s hstage hphase => ?_⟩
  · exact .of_exec rfl ((sbChecked_eq hstage).trans (if_pos (by simpa using hpass)))
  · exact .of_exec rfl ((sbChecked_eq hstage).trans (if_neg (by simp [h0, h1])))
  · refine ⟨_, .of_exec rfl (compsChecked_eq ps hstage hphase), ?_, ?_⟩
    · split <;> rfl
    · split
      case isTrue h => exact .inl ⟨hphase, rfl, rfl, (Bool.and_eq_true _ _ ▸ h).1⟩
      case isFalse => exact .inr ⟨rfl, Bool.or_true _⟩
  · refine .of_exec rfl ((compsChecked_eq ps hstage hphase).trans (if_pos ?_))
    exact Bool.and_eq_true_iff.2 ⟨hpass, Bool.or_eq_true_iff.2 hlisted⟩
  · refine .of_exec rfl ((compsChecked_eq ps hstage hphase).trans (if_neg ?_))
    intro h
    obtain ⟨hpass, hlisted⟩ := Bool.and_eq_true_iff.1 h
    rcases hbad with hfail | ⟨hunlisted, hunforced⟩
    · exact absurd hpass (ne_true_of_eq_false hfail)
    · rcases Bool.or_eq_true_iff.1 hlisted with h | h
      · exact absurd h (ne_true_of_eq_false hunlisted)
      · exact absurd h (ne_true_of_eq_false hunforced)
  · exact .of_exec rfl (stacksTrained_spared hstage hphase hspares)
  · exact .of_exec rfl (stacksTrained_failed hstage hphase k)
  · exact .of_exec rfl (metaRestored_ok hstage hphase)
  · exact .of_exec rfl (metaRestored_bad hstage hphase)
  · exact .of_exec rfl (if_pos (by simp [hstage, hphase]))
  · exact .of_exec rfl (broughtUp_passed hstage hphase)

/-- Settles O50: the reset's state names what it keeps, and every other part of it is that of the power-on reset. -/
theorem resetKeepsTheFlash : Obligations.ResetKeepsTheFlash := by
  refine fun s => ⟨rfl, rfl, rfl, rfl, rfl, rfl, rfl, rfl, rfl, rfl, rfl, rfl, fun m => ?_, rfl, rfl, rfl, rfl, rfl, rfl, rfl, rfl, rfl, rfl⟩
  cases m with
  | stn n => simp [State.mb, State.afterReset]
  | eth | i3c => rfl
end

section
/-! PROOF. Presence, links and losses of the crossover (16 R482 to R484, R502; 17 R532). -/
namespace Sys2Proof.Machine

variable {s : State}

theorem getD_toList_vector {α : Type} {n : Nat} (v : Vector α n) (k : Fin n) (d : α) : v.toArray.toList.getD k.val d = v[k] := by
  simp [List.getD_eq_getElem?_getD, k.isLt]

/-! ## Presence (16 R483, R502) -/

/-- The change of PRESENT is counted. -/
def State.presenceSeen (s : State) (b : Bool) : State :=
  (s.modTwin fun t => { t with present := b }).modMod fun m => { m with twinChanges := sat 16 (m.twinChanges + 1) }

theorem does_twinPresenceLost (h : s.twin.present = true) : Does .twinPresenceLost s (match s.twin.st with
    | .paired => (s.presenceSeen false).startGap 1
    | .pairing => (s.presenceSeen false).pairFail
    | _ => s.presenceSeen false) :=
  .of_exec rfl (if_neg (by simp [h]))

/-! ## Links (16 R482, R484; 17 R532) -/

section Links
variable {k : Fin 4} (hretired : s.twin.retired[k] = false)
include hretired

/-- A link that is up again after no failed lane forgets what failed before. -/
theorem xoLink_passed (a b : Bool) (hclean : s.twin.laneFails[k] = []) : s.xoLink k.val none a b =
    (s.modTwin fun t => { t with laneFails := t.laneFails.setIfInBounds k.val [] }).modTwin fun t =>
      { t with links := t.links.setIfInBounds k.val true } := by
  unfold State.xoLink
  rw [getD_toList_vector, getD_toList_vector, hretired, hclean]
  rfl

/-- The lane that failed before is judged transient. -/
theorem xoLink_recovered (a b : Bool) {l : Nat} {rest : List Nat} (hfailed : s.twin.laneFails[k] = l :: rest) : s.xoLink k.val none a b =
    ((s.modTwin fun t => { t with laneFails := t.laneFails.setIfInBounds k.val [] }).addHist 0x0501 5 k.val (2 ^ l) 1 1 false).modTwin fun t =>
      { t with links := t.links.setIfInBounds k.val true } := by
  unfold State.xoLink
  rw [getD_toList_vector, getD_toList_vector, hretired, hfailed]
  rfl

end Links

theorem does_crossoverLinkUp (h : s.answers = true) (k : Fin 4) (a b : Bool) :
    Does (.crossoverLinkUp k none a b) s (s.xoLink k.val none a b).askPair := .of_exec rfl (if_pos h)

theorem xoDown_paired {k : Nat} (hup : k ∈ s.xoUp) (hpaired : s.isPaired = true) : s.xoDown k =
    (let u := (s.modTwin fun t => { t with links := t.links.setIfInBounds k false }).record { source := 0x0501, unit := k }
     if u.xoUp.isEmpty then u.xoSilent else u) := by
  have hpaired' : (s.modTwin fun t => { t with links := t.links.setIfInBounds k false }).isPaired = true := hpaired
  refine (if_neg (by simpa using hup)).trans ?_
  simp only [hpaired', if_true]

theorem xoSilent_pairing (h : s.twin.st = .pairing) : s.xoSilent = s.pairFail := if_pos (by simp [h])

theorem xoSilent_paired (hpaired : s.isPaired = true) (h : s.twin.st ≠ .pairing) :
    s.xoSilent = s.modTwin fun t => { t with presenceWait := true } := (if_neg (by simpa using h)).trans (if_pos hpaired)

end Sys2Proof.Machine

open Sys2Proof Sys2Proof.Machine

/-- Settles O37: each event is one operation on the crossover's state, whose cases the lemmas above give. -/
theorem crossoverEventsAct : Obligations.CrossoverEventsAct := by
  refine ⟨fun s hpresent => ⟨fun hst => ?_, fun hst => ?_, fun hst => ?_⟩, fun s hgone => ?_, fun s k a b hanswers hretired => ⟨fun hclean => ?_, fun l rest hfailed => ?_⟩,
    fun s k hup hpaired => .of_exec rfl (xoDown_paired hup hpaired), fun s hpaired hst => .of_exec rfl (xoSilent_paired hpaired hst),
    fun s hst => .of_exec rfl (xoSilent_pairing hst), fun s hpaired hwait hpresent => ⟨fun hkeeper => ?_, fun hkeeper => ?_⟩, fun s k hup => ?_⟩
  · exact (does_twinPresenceLost hpresent).of_eq (by rw [hst]; rfl)
  · exact (does_twinPresenceLost hpresent).of_eq (by rw [hst]; rfl)
  · exact (does_twinPresenceLost hpresent).of_eq (by rw [hst]; rfl)
  · exact .of_exec rfl (if_neg (by simp [hgone]))
  · exact (does_crossoverLinkUp hanswers k a b).of_eq (by rw [xoLink_passed hretired a b hclean])
  · exact (does_crossoverLinkUp hanswers k a b).of_eq (by rw [xoLink_recovered hretired a b hfailed])
  · exact .of_exec rfl ((if_pos (by simp [hpaired, hwait, hpresent])).trans (if_pos hkeeper))
  · exact .of_exec rfl ((if_pos (by simp [hpaired, hwait, hpresent])).trans (if_neg (ne_true_of_eq_false hkeeper)))
  · exact .of_exec rfl (if_pos (by simpa using hup))
end

section
/-! PROOF. What the twin asks and answers over the crossover (16 R494, R495, R502 to R507; 04 R125; 06 R165, R178; 13 R392, R408). -/
namespace Sys2Proof.Machine

variable {s : State}

/-! ## Mirrored writes (16 R494) -/

section MirroredWrite
variable {h i : Nat} (hpaired : s.isPaired = true) (hnamed : s.namedMir h = some i) (hhome : (s.well i).isHome = false)
include hpaired hnamed hhome

theorem mirrorIn_eq (id : Nat) {off : Nat} (d : Line) (mask : BitVec 64) (p : Bool) (hoff : off < (s.well i).length) :
    let key := (s.well i).dpa (lineOf off)
    s.mirrorIn id h off d mask p = if s.asleep key = true
      then (s.wakeDie (s.dieOf key)).modTwin fun t => { t with mirHeld := t.mirHeld ++ [(id, h, off, d, mask, p)] }
      else ((s.noteApplied i (lineOf off) (mergeLine (s.peekLine key).1 d mask)).homeWrite key d mask p .xo).emit (.xo (.mirrorAck id)) := by
  unfold State.mirrorIn
  rw [hnamed]
  exact if_neg (by simp [hpaired, hhome, hoff])

/-! ## Grants of the twin's stations (16 R495) -/

/-- What the twin had told of the line before is forgotten. -/
def State.grantForgotten (s : State) (key : Nat) : State :=
  (s.modHome fun x => { x with dir := x.dir.filter fun e => !(e.record && e.key == key) }).modTwin fun t =>
    { t with grants := t.grants.filter (·.2.1 != key) }

theorem grantIn_eq (id : Nat) {off : Nat} (granted modified : Bool) (hcoh : (s.well i).coh = true) (hoff : off < (s.well i).length) :
    let key := (s.well i).dpa (lineOf off)
    s.grantIn id h off granted modified = if granted = true
      then ((s.grantForgotten key).modTwin fun t => { t with grants := t.grants ++ [(id, key, modified)] }).grantStep
      else s.grantForgotten key := by
  unfold State.grantIn
  rw [hnamed]
  exact if_neg (by simp [hpaired, hhome, hcoh, hoff])

end MirroredWrite

theorem mirrorAcked_open {id : Nat} {m : MirOut} (h : s.twin.mirOut.find? (·.id == id) = some m) :
    s.mirrorAcked id = (s.modTwin fun t => { t with mirOut := t.mirOut.filter (·.id != id) }).respond m.req .cmp m.ans := by
  unfold State.mirrorAcked
  rw [h]

theorem does_mirrorAckTimeout {id : BitVec 32} {m : MirOut} (h : s.twin.mirOut.find? (·.id == id.toNat) = some m) (hpaired : s.isPaired = true) :
    Does (.mirrorAckTimeout id) s ((s.until m.deadline).startGap 3) := by
  refine .of_exec rfl ?_
  rw [h]
  exact if_pos hpaired

/-! ## Requests and answers (16 R495; 13 R392) -/

theorem twinAccess_paired (hpaired : s.isPaired = true) (id : BitVec 32) (a : BitVec 48) :
    s.twinAccess (.read id a) = s.twinPool id.toNat a.toNat .swaRd 0 fullMask false := if_neg (by simp [hpaired])

theorem twinAccess_rangeFill (hpaired : s.isPaired = true) {h : BitVec 32} {i : Nat} (hnamed : s.named h.toNat = some i) (id : BitVec 32) :
    s.twinAccess (.rangeFill id h) = s.emit (.xo (.rangeInfo id.toNat (s.well i).startNow (s.well i).length (s.well i).kvb16)) := by
  refine (if_neg (by simp [hpaired])).trans ?_
  simp only [hnamed]

theorem twinAnswer_request {id : Nat} {f : FwdOut} {r : Req} (h : s.twin.fwdOut.find? (·.id == id) = some f) (hreq : f.req = some r)
    (d : Line) (p down : Bool) : s.twinAnswer id d p down = (s.dropFwd id).fwdDone r d p := by
  unfold State.twinAnswer
  simp only [h, hreq]

theorem twinSnoopIn_unnamed {h : Nat} (hnamed : s.namedMir h = none) (id off : Nat) :
    s.twinSnoopIn id h off = s.emit (.xo (.snoopRsp id)) := by
  unfold State.twinSnoopIn
  rw [hnamed]

theorem twinSnoopIn_named (hpaired : s.isPaired = true) {h i : Nat} (hnamed : s.namedMir h = some i) (id off : Nat) :
    s.twinSnoopIn id h off = s.modTwin fun t => { t with snoops := t.snoops ++ [⟨id, (s.well i).dpa (lineOf off)⟩] } := by
  unfold State.twinSnoopIn
  rw [hnamed]
  exact if_neg (by simp [hpaired])

theorem declareIn_live {h c : Nat} (hnamed : s.namedCis h = some c) (hlive : (s.cis c).st = .live) (cause : Nat) :
    s.declareIn h cause = s.declare c cause twinHolder true := by
  unfold State.declareIn
  rw [hnamed]
  exact if_pos (by simp [hlive])

theorem mailIn_context (hpaired : s.isPaired = true) {c : BitVec 16} (hc : c.toNat < 4096) (hfree : (s.ctx c.toNat).st = .free) (name : BitVec 128) :
    s.mailIn (.context c name) = s.modCtx c.toNat fun _ => { st := .live, name := name } := if_pos (by simp [hpaired, hc, hfree])

theorem does_switchoverGapEnd {x : Swo} (hst : s.twin.st ≠ .gap) (hswo : s.twin.swo = some x) (hgap : x.gap = true) :
    Does .switchoverGapEnd s (s.endSwo x) := by
  refine .of_exec rfl ((if_neg (by simpa using hst)).trans ?_)
  rw [hswo]
  exact if_pos hgap

end Sys2Proof.Machine

open Sys2Proof Sys2Proof.Machine

/-- Settles O38: each message is one operation on the state, whose cases the lemmas above give. -/
theorem twinMessagesAct : Obligations.TwinMessagesAct := by
  refine ⟨fun s id h off d mask p i hpaired hnamed hhome hoff => ⟨fun hawake => ?_, fun hasleep => ?_⟩, fun s id m hm => ⟨?_, fun hpaired => ?_⟩,
    fun s id a hpaired => ⟨?_, fun h i hnamed => ?_⟩, fun s id d mark f r hf hr => ?_, fun s id h off => ⟨fun hnamed => ?_, fun i hpaired hnamed => ?_⟩,
    fun s id h off what i hpaired hnamed hhome hcoh hoff => ?_, fun s cis cause c hpaired hnamed hlive => ?_,
    fun s c name hanswers hpaired hc hfree => ?_, fun s a hpaired => ⟨?_, ?_⟩, fun s hgap => ?_, fun s x hst hswo hgap => ?_⟩
  · exact .of_exec rfl ((mirrorIn_eq hpaired hnamed hhome id.toNat d mask p hoff).trans (if_neg (ne_true_of_eq_false hawake)))
  · exact .of_exec rfl ((mirrorIn_eq hpaired hnamed hhome id.toNat d mask p hoff).trans (if_pos hasleep))
  · exact .of_exec rfl (mirrorAcked_open hm)
  · exact does_mirrorAckTimeout hm hpaired
  · exact .of_exec rfl (twinAccess_paired hpaired id a)
  · exact .of_exec rfl (twinAccess_rangeFill hpaired hnamed id)
  · exact .of_exec rfl (twinAnswer_request hf hr d _ _)
  · exact .of_exec rfl (twinSnoopIn_unnamed hnamed _ _)
  · exact .of_exec rfl (twinSnoopIn_named hpaired hnamed _ _)
  · refine .of_exec rfl ((grantIn_eq hpaired hnamed hhome id.toNat _ _ hcoh hoff).trans ?_)
    simp only [bne_iff_ne, ne_eq, ite_not]
    rfl
  · exact .of_exec rfl ((if_pos hpaired).trans (declareIn_live hnamed hlive _))
  · exact .of_exec rfl ((if_pos hanswers).trans (mailIn_context hpaired hc hfree name))
  · exact .of_exec rfl (if_pos hpaired)
  · exact .of_exec rfl (if_pos hpaired)
  · exact .of_exec rfl (if_pos (by simp [hgap]))
  · exact does_switchoverGapEnd hst hswo hgap
end

section
/-! PROOF. Reports, audit and resync of a pair (16 R497 to R500, R509; 19 R577). -/
namespace Sys2Proof.Machine

variable {s : State}

theorem pageOf_length (s : State) (i k : Nat) : (s.pageOf i k).length = 64 := by simp [State.pageOf, pageKeys]

theorem wellPage_of_well {t : State} {i : Nat} (h : t.well i = s.well i) (k : Nat) : t.wellPage i k = s.wellPage i k := by
  unfold State.wellPage
  rw [h]

theorem stacksReady_well (s : State) (keys : List Nat) (i : Nat) : (s.stacksReady keys).2.well i = s.well i := by
  unfold State.well
  rw [stacksReady_pool]

section Pages
variable {h i k : Nat} (hpaired : s.isPaired = true) (hnamed : s.namedMir h = some i) (hlen : 4096 * (k + 1) < (s.well i).length)
include hpaired hnamed hlen

/-! ## The audit (16 R498) -/

section Audit
variable (hsync : (s.well i).mirSt = some .sync)
include hsync

/-- A page that is not the next in the order is not audited. -/
theorem auditPage_later (hhome : (s.well i).isHome = false) (hnext : s.auditNext ≠ some (h, k)) (other : PageImage) : s.auditPage h k other = s := by
  unfold State.auditPage
  rw [hnamed]
  exact (if_neg (by simp [hpaired, hsync]; omega)).trans (if_pos (by simpa [hhome] using hnext))

variable (hturn : (s.well i).isHome = true ∨ s.auditNext = some (h, k))
include hturn

/-- A page whose stacks are dormant waits for them. -/
theorem auditPage_asleep (hasleep : (s.stacksReady (pageKeys (s.well i) k)).1 = false) (other : PageImage) :
    s.auditPage h k other = (s.stacksReady (pageKeys (s.well i) k)).2 := by
  unfold State.auditPage
  rw [hnamed]
  refine (if_neg (by simp [hpaired, hsync]; omega)).trans ((if_neg ?_).trans (if_pos (congrArg (!·) hasleep)))
  rcases hturn with hhome | hnext
  · simp [hhome]
  · simp [hnext]

/-- A page that is equal on both sides is counted where it is not at home. -/
theorem auditPage_equal {r : State} (hready : s.stacksReady (pageKeys (s.well i) k) = (true, r)) :
    let sent := r.emit (.xo (.crc h k (pageCrc (r.pageOf i k))))
    s.auditPage h k (r.pageOf i k) = if (s.well i).isHome = true then sent
      else sent.modTwin fun t => { t with auditPages := t.auditPages + 1, auditLast := some (h, k) } := by
  have hwell : r.well i = s.well i := by rw [← stacksReady_well s (pageKeys (s.well i) k) i, hready]
  have hgate : (!s.isPaired || (s.well i).mirSt != some .sync || decide ((s.well i).length ≤ 4096 * k)) = false := by
    simp [hpaired, hsync]; omega
  have hmine : (!(s.well i).isHome && s.auditNext != some (h, k)) = false := by
    rcases hturn with hhome | hnext
    · simp [hhome]
    · simp [hnext]
  simp only [State.auditPage, hnamed, hgate, hmine, hready, hwell, Nat.not_le.2 hlen, List.take_of_length_le (le_of_eq (pageOf_length r i k)), beq_self_eq_true,
    Bool.and_self, Bool.not_true, Bool.false_eq_true, if_false, if_true]

end Audit

/-! ## The resync (16 R509) -/

section Resync
variable (hresync : (s.well i).mirSt = some .resync)
include hresync

/-- Page `k` is in step again. -/
def State.pageCleared (s : State) (i k : Nat) : State :=
  (s.modTwin fun t => { t with bitmap := t.bitmap.filter (· != s.wellPage i k) }).resyncEnd i

theorem resyncPage_asleep (hturn : (s.well i).isHome = false ∨ s.resyncNext = some (i, k))
    (hasleep : (s.stacksReady (pageKeys (s.well i) k)).1 = false) (image : PageImage) :
    s.resyncPage h k image = (s.stacksReady (pageKeys (s.well i) k)).2 := by
  unfold State.resyncPage
  rw [hnamed]
  refine (if_neg (by simp [hpaired, hresync]; omega)).trans ((if_pos ?_).trans (if_pos (congrArg (!·) hasleep)))
  rcases hturn with hhome | hnext
  · simp [hhome]
  · simp [hnext]

section Awake
variable (hawake : (s.stacksReady (pageKeys (s.well i) k)).1 = true)
include hawake

theorem resyncPage_sent (hhome : (s.well i).isHome = true) (hnext : s.resyncNext = some (i, k)) (image : PageImage) :
    let r := (s.stacksReady (pageKeys (s.well i) k)).2
    s.resyncPage h k image = (r.emit (.xo (.page h k (r.pageStored i k)))).pageCleared i k := by
  intro r
  have hwell : (r.well i).isHome = true := by rw [stacksReady_well, hhome]
  unfold State.resyncPage
  rw [hnamed]
  exact (if_neg (by simp [hpaired, hresync]; omega)).trans ((if_pos (by simp [hnext])).trans
    ((if_neg (ne_true_of_eq_false (congrArg (!·) hawake))).trans (if_pos hwell)))

theorem resyncPage_taken (hhome : (s.well i).isHome = false) (image : PageImage) :
    let r := (s.stacksReady (pageKeys (s.well i) k)).2
    s.resyncPage h k image = ((image.take 64).zipIdx.foldl (fun (t : State) ((d, p), l) =>
      t.putLine ((t.well i).dpa (4096 * k + 64 * l)) (t.openLine i (4096 * k + 64 * l) d) p) r).pageCleared i k := by
  intro r
  have hwell : (r.well i).isHome = false := by rw [stacksReady_well, hhome]
  unfold State.resyncPage
  rw [hnamed]
  exact (if_neg (by simp [hpaired, hresync]; omega)).trans ((if_pos (by simp [hhome])).trans
    ((if_neg (ne_true_of_eq_false (congrArg (!·) hawake))).trans (if_neg (ne_true_of_eq_false hwell))))

end Awake

end Resync

end Pages

end Sys2Proof.Machine

open Sys2Proof Sys2Proof.Machine

/-- Settles O39: the reports are one operation each; of a page the turn decides, then its stacks, then the side that it is on. -/
theorem pairUpkeepActs : Obligations.PairUpkeepActs := by
  refine ⟨fun s hanswers => .of_exec rfl (if_pos hanswers), fun s r a hpaired => ⟨.of_exec rfl (if_pos hpaired), .of_exec rfl (if_pos hpaired),
    .of_exec rfl (if_pos hpaired)⟩, fun s h k i hpaired hnamed hlen => ⟨fun hasleep image => ⟨fun hsync hturn => ?_, fun hresync hturn => ?_⟩,
    fun hawake hsync => ⟨fun hhome => ?_, fun hhome hnext => ?_, fun hhome hnext other => ?_⟩, fun hawake hresync hhome hnext image => ?_,
    fun hawake hresync hhome image => ?_⟩⟩
  · exact .of_exec rfl (auditPage_asleep hpaired hnamed hlen hsync hturn hasleep image)
  · exact .of_exec rfl (resyncPage_asleep hpaired hnamed hlen hresync hturn hasleep image)
  · exact .of_exec rfl ((auditPage_equal hpaired hnamed hlen hsync (.inl hhome) (Prod.ext hawake rfl)).trans (if_pos hhome))
  · exact .of_exec rfl ((auditPage_equal hpaired hnamed hlen hsync (.inr hnext) (Prod.ext hawake rfl)).trans (if_neg (ne_true_of_eq_false hhome)))
  · exact .of_exec rfl (auditPage_later hpaired hnamed hlen hsync hhome hnext other)
  · refine .of_exec rfl ((resyncPage_sent hpaired hnamed hlen hresync hawake hhome hnext image).trans ?_)
    have hpage : ∀ o, ((s.stacksReady (pageKeys (s.well i) k.toNat)).2.emit o).wellPage i k.toNat = s.wellPage i k.toNat := fun _ =>
      wellPage_of_well (stacksReady_well s _ i) k.toNat
    rw [State.pageCleared, hpage]
  · exact .of_exec rfl (resyncPage_taken hpaired hnamed hlen hresync hawake hhome image)
end

section
/-! PROOF. A challenge during a lockout that its mailbox holds (17 R521; 19 R571). -/
namespace Sys2Proof.Machine

/-- In service: the NMI has captured core 4, the Ethernet mailbox is locked out, and a command of the same sender has been refused before. -/
def lockedOutBehindCapture : State :=
  ({ State.reset with out := [.reply .eth 0 earlierRefusal] }.modMb .eth fun x => { x with lockUntil := some 1000000000 })
    |>.modMod (fun m => { m with phase := .service, stage := .done, errForced := false })
    |>.modFlt fun f => { f with busy := [(6, 4, false)] }

theorem reaches_lockedOutBehindCapture : lockedOutBehindCapture.reaches eraseHdr.mbx = true := by decide +kernel

theorem idle_lockedOutBehindCapture : lockedOutBehindCapture.mailboxBusy eraseHdr.mbx true = false := by decide +kernel

theorem lockedOut_lockedOutBehindCapture : lockedOutBehindCapture.lockedOut eraseHdr.mbx = true := by decide +kernel

/-- The challenge is held, so that the earlier refusal stays all that has been sent. -/
theorem endedUnanswered_heldChallenge : endedUnanswered (exec (.roleAuthChallenge eraseHdr 1 0 0) lockedOutBehindCapture) := by
  decide +kernel

end Sys2Proof.Machine

open Sys2Proof Sys2Proof.Machine

/-- Refutes O22: its second clause says that a lockout answers every challenge with NO_RIGHT, but where a capture keeps the mailbox's core the
mailbox only holds the challenge; the last reply sent to its sender is then that of an earlier command, with that command's code. -/
theorem not_securityCommandsTakeEffect : ¬ Obligations.SecurityCommandsTakeEffect := by
  rintro ⟨-, hlocked, -⟩
  obtain ⟨u, hexec, ⟨r, hhead, hcode, -⟩, -⟩ := hlocked lockedOutBehindCapture eraseHdr 1 0 0 reaches_lockedOutBehindCapture
    idle_lockedOutBehindCapture lockedOut_lockedOutBehindCapture
  have hheld := endedUnanswered_heldChallenge
  rw [hexec] at hheld
  obtain ⟨hout, -⟩ := out_session_of_not_differs fun h => not_differs_of_endedUnanswered hheld (differs_finish u h)
  rw [hout] at hhead
  obtain ⟨-, -, rfl⟩ := Output.reply.inj (Option.some.inj hhead)
  exact absurd hcode (by decide)
end
section
namespace Sys2Proof.Machine

/-- In service with empty tables: no job, request, snoop, well or namespace waits for anything, and every die is known to be empty. -/
structure AtRest (s : State) : Prop where
  todo : s.todo = []
  pool : s.pool = {}
  home : s.home = {}
  xl : s.xl = {}
  jobs : s.jobs = {}
  pfx : s.pfx = {}
  twin : s.twin = {}
  fw : s.fw = {}
  pwr : s.pwr = {}
  phase : s.mod.phase = .service
  drain : s.mod.drain = none
  invalidations : ∀ n, (s.stnAt n).atsInv = []

/-! ## A table that a function leaves as it is -/

theorem modJobs_fixed {s : State} {f : Jobs → Jobs} (h : f s.jobs = s.jobs) : s.modJobs f = s := by rw [State.modJobs, h]

theorem modXl_fixed {s : State} {f : Xl → Xl} (h : f s.xl = s.xl) : s.modXl f = s := by rw [State.modXl, h]

theorem modPwr_fixed {s : State} {f : Pwr → Pwr} (h : f s.pwr = s.pwr) : s.modPwr f = s := by rw [State.modPwr, h]

namespace AtRest
variable {s : State} (h : AtRest s)
include h

/-! ## The pumps, and each of the steps, at rest -/

theorem pumpAt (p : Nat) : s.pumpAt p = {} := by
  rw [State.pumpAt, h.jobs]
  exact List.getElem?_getD_replicate_default_eq _ 16 p

theorem job (id : Nat) : s.job id = none := by rw [State.job, h.jobs]; rfl

theorem locale1Step : s.locale1Step = s := by
  simp [State.locale1Step, State.isPaired, State.gapNow, State.inGap, State.endLocale1, h.twin]

theorem homeStep : s.homeStep = s := by
  simp [State.homeStep, State.gapWalk, State.drain, State.lostStep, State.quotaStep, h.twin, h.home, h.pool]

theorem writesMoved : s.writesMoved = s := by
  have hjobs : (s.modJobs fun x =>
      { x with jobs := x.jobs.map fun j => if j.wTiles.isEmpty then j else { j with wTiles := j.wTiles.filter (s.wTileOut j) } }) = s :=
    modJobs_fixed (by rw [h.jobs]; rfl)
  simp only [State.writesMoved, show s.jobs.jobs = [] by rw [h.jobs], List.foldl_nil, hjobs]
  exact List.foldl_fixed' (fun p => by rw [h.pumpAt p]; rfl) _

theorem finishStep : s.finishStep = s := by simp [State.finishStep, h.jobs]

theorem atomStep : s.atomStep = s := by simp [State.atomStep, h.jobs]

theorem cplStep : s.cplStep = s := by simp [State.cplStep, h.jobs]

theorem replayStep : s.replayStep = s := by simp [State.replayStep, h.jobs]

theorem ioFlush : s.ioFlush = s := by simp [State.ioFlush, h.jobs]

theorem switchStep : s.switchStep = s := by
  simp only [State.switchStep, h.xl, List.map_nil, List.filter_nil, List.foldl_nil]
  exact modXl_fixed (by rw [h.xl])

theorem wellStep : s.wellStep = s := by simp [State.wellStep, h.pool]

theorem wantStep : s.wantStep = s := by simp [State.wantStep, State.mirrored, h.pool]

theorem doomStep : s.doomStep = s := by simp [State.doomStep, h.pool]

theorem platStep : s.platStep = s := by simp [State.platStep, h.jobs]

theorem moveStep : s.moveStep = s := by
  unfold State.moveStep
  extract_lets t
  have ht : t = s := List.foldl_fixed' (fun p => by simp only [h.pumpAt p]) _
  simp [ht, h.jobs]

theorem atsStep : s.atsStep = s :=
  List.foldl_fixed' (fun n => by rw [h.invalidations n]; rfl) _

theorem twinSnoopStep : s.twinSnoopStep = s := by simp [State.twinSnoopStep, h.twin]

theorem grantStep : s.grantStep = s := by simp [State.grantStep, h.twin]

theorem swoStep : s.swoStep = s := by simp [State.swoStep, h.twin]

theorem pairStep : s.pairStep = s := by simp [State.pairStep, h.twin]

theorem unpairStep : s.unpairStep = s := by simp [State.unpairStep, h.twin]

theorem bellStep : s.bellStep = s := by simp [State.bellStep, State.bells, h.phase, h.drain, h.fw, h.jobs]

theorem nsStep : s.nsStep = s := by simp [State.nsStep, h.pfx]

theorem offerJobs (f : Job → Bool) : s.offerJobs f = s := by simp [State.offerJobs, h.jobs]

theorem readEarly : s.readEarly = s :=
  List.foldl_fixed' (fun p => by simp only [h.pumpAt p, Option.bind_none]) _

theorem descStep : s.descStep = s := by simp [State.descStep, State.descOnce, h.readEarly, h.jobs]

theorem drainOnce : s.drainOnce = s := by simp [State.drainOnce, h.drain]

theorem drainStep : s.drainStep = s := List.foldl_fixed' (fun _ => h.drainOnce) _

theorem coldStep : s.coldStep = s := by
  simp only [State.coldStep, h.phase]
  exact modJobs_fixed (by rw [h.jobs]; decide +kernel)

theorem emptyStep : s.emptyStep = s := by
  refine modPwr_fixed ?_
  simp only [h.pwr, State.quartersUsed, h.pool]
  rfl

theorem steps : s.steps = s := by
  simp only [State.steps, h.locale1Step, h.homeStep, h.writesMoved, h.finishStep, h.ioFlush, h.atomStep, h.cplStep, h.switchStep, h.wellStep,
    h.wantStep, h.doomStep, h.platStep, h.moveStep, h.replayStep, h.atsStep, h.twinSnoopStep, h.grantStep, h.swoStep, h.pairStep, h.unpairStep,
    h.bellStep, h.nsStep, h.offerJobs, h.descStep, h.drainStep, h.coldStep, h.emptyStep]

theorem powerSeq : s.powerSeq = s := by simp [State.powerSeq, h.pwr, h.drain]

/-- Nothing goes on by itself. -/
theorem settled : Settled s := ⟨h.todo, h.steps, h.powerSeq⟩

end AtRest

/-- Whatever only answers a command leaves a module at rest. -/
theorem AtRest.of_same {s t : State} (h : AtRest s) (hsame : Same s t) : AtRest t where
  todo := hsame.todo.trans h.todo
  pool := hsame.pool.trans h.pool
  home := hsame.home.trans h.home
  xl := hsame.xl.trans h.xl
  jobs := hsame.jobs.trans h.jobs
  pfx := hsame.pfx.trans h.pfx
  twin := hsame.twin.trans h.twin
  fw := hsame.fw.trans h.fw
  pwr := hsame.pwr.trans h.pwr
  phase := (congrArg Mod.phase hsame.mod).trans h.phase
  drain := (congrArg Mod.drain hsame.mod).trans h.drain
  invalidations n := by
    obtain ⟨v, hv⟩ := hsame.stn n
    rw [hv]
    exact h.invalidations n

/-- Spans that begin to be spared leave a module at rest. -/
theorem AtRest.withSpares {s : State} (h : AtRest s) (f : Mod → List Spare) : AtRest (s.modMod fun m => { m with spares := f m }) :=
  ⟨h.todo, h.pool, h.home, h.xl, h.jobs, h.pfx, h.twin, h.fw, h.pwr, h.phase, h.drain, h.invalidations⟩

/-! ## A row that is spared -/

/-- In service with an installer's session; row 0 of stack 0 has been judged permanently faulty. -/
def wornRow : State :=
  (State.reset.modMb .eth fun x => { x with session := .installer })
    |>.modMod (fun m => { m with phase := .service, stage := .done, errForced := false })
    |>.modFlt fun f =>
      { f with history := [{ boot := 0, source := 0x0103, unitKind := 2, unit := 0, time := 0, location := 0, count := 1, verdict := 2 }] }

def spareHdr : CmdHdr := { mbx := .eth, len := 16 }

theorem atRest_wornRow : AtRest wornRow where
  todo := rfl
  pool := rfl
  home := rfl
  xl := rfl
  jobs := rfl
  pfx := rfl
  twin := rfl
  fw := rfl
  pwr := rfl
  phase := rfl
  drain := rfl
  invalidations n := congrArg Stn.atsInv (List.getElem?_getD_replicate_default_eq _ 48 n)

theorem fit_wornRow : Fit wornRow spareHdr [.installer] 16 where
  reached := by decide +kernel
  core := by decide +kernel
  ring := by decide +kernel
  idle := by decide +kernel
  phase := by decide +kernel
  role := by decide +kernel
  header := by decide +kernel
  length := by decide +kernel
  tag := by decide +kernel
  reserved := by decide +kernel

/-- The row is one to be spared. -/
theorem spareCheck_wornRow : spareCheck 0 0 0 wornRow = none := by decide +kernel

theorem spareRows_wornRow : wornRow.spareRows 0 0 0 = [0] := by decide +kernel

theorem spareRows_same {s t : State} (h : Same s t) (stack mode loc : Nat) : t.spareRows stack mode loc = s.spareRows stack mode loc := by
  simp only [State.spareRows, State.permRows, h.flt, h.mod]

theorem exec_spareActivate (h : CmdHdr) (stack mode : Byte) (loc : BitVec 64) (s : State) :
    exec (.spareActivate h stack mode loc) s = execSpareActivate h stack mode loc s := rfl

/-- A SPARE_ACTIVATE with a span that is still to be copied goes on. -/
theorem spareEnd_unfinished {s : State} {x : Spare} {wb stack : Nat} (hx : x ∈ s.mod.spares) (hwb : x.wb = some wb) (hdone : x.done = false) :
    s.spareEnd wb stack = s := by
  have hany : (s.mod.spares.any fun x => x.wb == some wb && !x.done) = true := List.any_eq_true.2 ⟨x, hx, by simp [hwb, hdone]⟩
  simp only [State.spareEnd, hany, if_true]

theorem AtRest.wakeDie {s : State} (h : AtRest s) (d : Nat) : s.wakeDie d = s := by
  simp [State.wakeDie, h.pwr]

/-- Row 0's span begins to be spared, with a count of its rows. -/
def State.withSpan (s : State) (wb rows : Nat) : State :=
  s.modMod fun m => { m with spares := m.spares ++ [{ stack := 0, span := 0, wb := some wb, rows := rows }] }

theorem spareEnd_withSpan (s : State) (wb rows : Nat) : (s.withSpan wb rows).spareEnd wb 0 = s.withSpan wb rows :=
  spareEnd_unfinished (List.mem_append_right _ (List.mem_singleton_self _)) rfl rfl

/-- The model counts the row. -/
theorem spareApply_wornRow {t : State} (ht : Same wornRow t) (wb : Nat) : (spareApply 0 0 0 wb t).2.2 = t.withSpan wb 1 := by
  have hrest : AtRest t := atRest_wornRow.of_same ht
  have hrows : t.spareRows 0 0 0 = [0] := (spareRows_same ht 0 0 0).trans spareRows_wornRow
  have hgoes : ((t.withSpan wb 1).mod.phase == .service || (t.withSpan wb 1).mod.phase == .factory) && (t.withSpan wb 1).mod.drain.isNone := by
    simp [State.withSpan, State.modMod, hrest.phase, hrest.drain]
  simp only [spareApply, hrows, hrest.wakeDie]
  exact (congrArg (fun x : List Byte × Nat × State => x.2.2) (if_pos hgoes)).trans (spareEnd_withSpan t wb 1)

theorem effects_spareActivate :
    Effects (.spareActivate spareHdr 0 0 0) wornRow spareHdr 0x0B01 .accepted fun wb t => t.withSpan wb 1 :=
  effects_mailbox (own := spareCheck 0 0 0) (apply := spareApply 0 0 0) (exec_spareActivate spareHdr 0 0 0 wornRow) fit_wornRow nofun rfl
    (check_noteUse spareHdr (fun _ => rfl) spareCheck_wornRow) (fun wb _ ht => spareApply_wornRow ht wb) rfl rfl

/-- Nothing that follows changes what the span counts. -/
theorem spares_finish {t u : State} {wb rows : Nat} (ht : Same wornRow t) (hu : Same (t.withSpan wb rows) u) :
    (finish u).mod.spares = [{ stack := 0, span := 0, wb := some wb, rows := rows }] := by
  have hrest : AtRest u := ((atRest_wornRow.of_same ht).withSpares _).of_same hu
  rw [finish_settled hrest.settled]
  simp only [hu.mod, State.withSpan, State.modMod, ht.mod]
  rfl

end Sys2Proof.Machine

open Sys2Proof Sys2Proof.Machine

/-- Refutes O23: its clause on SPARE_ACTIVATE lists the spans to copy without the rows that each counts, which the answer's number of spared
rows is made of; in a module at rest nothing that follows changes the list, and the model's span counts the row. -/
theorem not_serviceCommandsTakeEffect : ¬ Obligations.ServiceCommandsTakeEffect := by
  rintro ⟨-, -, -, -, hspare, -⟩
  obtain ⟨wb, t, u, hexec, ht, hu, -⟩ := hspare wornRow spareHdr 0 0 0 fit_wornRow spareCheck_wornRow rfl rfl
  obtain ⟨wb', t', u', hexec', ht', hu', -⟩ := effects_spareActivate
  have huncounted : Same (t.withSpan wb 0) u := by
    have hrows : wornRow.spareRows (0 : Byte).toNat (0 : Byte).toNat (0 : BitVec 64).toNat = [0] := spareRows_wornRow
    simp only [hrows, (atRest_wornRow.of_same ht).wakeDie] at hu
    rwa [← spareEnd_withSpan]
  have hfinish : finish u = finish u' := Host.Outcome.next.inj (hexec.symm.trans hexec')
  have hspares := (spares_finish ht huncounted).symm.trans ((congrArg (·.mod.spares) hfinish).trans (spares_finish ht' hu'))
  exact absurd (congrArg (List.map (·.rows)) hspares) (by simp)
end
section
/-! PROOF. What follows a command opens no secured session at the I3C port (19 R584): each function that `finish` calls leaves the port's
sessions, as the loss of a station's link ends that station's alone, and a reset of the module ends them all. The rules follow the order of
the model's functions, a rule for each, so that the rule of a function rests on those of the functions it calls. -/
namespace Sys2Proof.Machine

/-- The secured sessions of the I3C port, whose number is 48 (19 R584). -/
def Sec.i3c (x : Sec) : List (Nat × BitVec 384) := tgetD x.spdm 48 []

theorem i3c_of_spdm {s t : State} (h : t.sec.spdm = s.sec.spdm) : t.sec.i3c = s.sec.i3c := by rw [Sec.i3c, h]; rfl

@[simp] theorem tgetD_spdm (x : Sec) : tgetD x.spdm 48 [] = x.i3c := rfl

@[simp] theorem i3c_mk (cr : Tab Cred) (ke : Tab KeySlot) (tk : Tab KeySlot) (o tw : List Audit) (se ne ma : Nat) (re : Bool)
    (en : List (Nat × Nat × BitVec 64)) (sp : Tab (List (Nat × BitVec 384))) (nx : Nat) :
    Sec.i3c ⟨cr, ke, tk, o, tw, se, ne, ma, re, en, sp, nx⟩ = tgetD sp 48 [] := rfl

/-- A step that leaves the sessions of the I3C port. -/
def KeepsI3c {α : Type} (f : State → α → State) : Prop := ∀ s a, (f s a).sec.i3c = s.sec.i3c

@[simp] theorem keepsI3c_iff {α : Type} (f : State → α → State) : KeepsI3c f ↔ ∀ s a, (f s a).sec.i3c = s.sec.i3c := Iff.rfl

@[simp] theorem i3c_foldl {α : Type} (f : State → α → State) (hf : KeepsI3c f) (l : List α) (s : State) :
    (l.foldl f s).sec.i3c = s.sec.i3c := foldl_keeps (fun s => s.sec.i3c) (fun s a _ => hf s a) s

@[simp] theorem i3c_forAll {α : Type} (f : α → State → State) (hf : KeepsI3c fun s a => f a s) (l : List α) (s : State) :
    (forAll l f s).sec.i3c = s.sec.i3c := i3c_foldl _ hf l s

@[simp] theorem i3c_ite (c : Prop) [Decidable c] (s t : State) :
    (if c then s else t).sec.i3c = if c then s.sec.i3c else t.sec.i3c := apply_ite (·.sec.i3c) c s t

/-! ## The log, the directory and its snoops -/

variable (s : State)

@[simp] theorem flushLog_i3c : s.flushLog.sec.i3c = s.sec.i3c := by simp [State.flushLog]

@[simp] theorem auditRec_i3c (a : Audit) : (s.auditRec a).sec.i3c = s.sec.i3c :=
  i3c_of_spdm ((same_resumeAudit s).trans (same_auditPut _ a)).spdm

@[simp] theorem auditOwn_i3c (kind detail : Nat) : (s.auditOwn kind detail).sec.i3c = s.sec.i3c := by simp [State.auditOwn]

theorem tgetD_tdel {α : Type} (t : Tab α) {k n : Nat} (h : n ≠ k) (d : α) : tgetD (tdel t n) k d = tgetD t k d := by
  rw [tgetD, tget_tdel_ne t h.symm, tgetD]

/-- The sessions of a station's port are not those of the I3C port. -/
theorem spdmEnded_i3c {n : Nat} (hn : n ≠ 48) : (s.spdmEnded n).sec.i3c = s.sec.i3c := by
  simp only [State.spdmEnded]
  refine (i3c_foldl _ (fun s x => auditOwn_i3c s _ _) _ _).trans ?_
  exact (tgetD_tdel _ hn _).trans (congrArg Sec.i3c (State.modStn_sec s ..))

@[simp] theorem ideEnded_i3c (n : Nat) (k : IdeKind) (how : Nat) : (s.ideEnded n k how).sec.i3c = s.sec.i3c := by simp [State.ideEnded]
@[simp] theorem idesEnded_i3c (n : Nat) : (s.idesEnded n).sec.i3c = s.sec.i3c := by simp [State.idesEnded]

@[simp] theorem grantRecord_i3c (key n : Nat) (granted modified : Bool) : (s.grantRecord key n granted modified).sec.i3c = s.sec.i3c := by
  unfold State.grantRecord
  split <;> simp

@[simp] theorem dropAsks_i3c (mine : Req → Bool) : (s.dropAsks mine).sec.i3c = s.sec.i3c := by simp [State.dropAsks]
@[simp] theorem forward_i3c (r : Req) : (s.forward r).sec.i3c = s.sec.i3c := by simp [State.forward]
@[simp] theorem unreserve_i3c (dpa : Nat) : (s.unreserve dpa).sec.i3c = s.sec.i3c := by simp [State.unreserve]
@[simp] theorem askRecord_i3c (r : Req) (key : Nat) : (s.askRecord r key).sec.i3c = s.sec.i3c := by simp [State.askRecord]
@[simp] theorem delEnt_i3c (key : Nat) : (s.delEnt key).sec.i3c = s.sec.i3c := by simp [State.delEnt]

@[simp] theorem tidyEnt_i3c (key : Nat) : (s.tidyEnt key).sec.i3c = s.sec.i3c := by
  unfold State.tidyEnt
  split <;> simp

@[simp] theorem choose_i3c (n : Nat) : (s.choose n).2.sec.i3c = s.sec.i3c := by simp [State.choose]

@[simp] theorem pick_i3c {α : Type} (l : List α) : (s.pick l).2.sec.i3c = s.sec.i3c := by
  unfold State.pick
  split <;> simp

@[simp] theorem setLines_i3c (l : List CLine) : (s.setLines l).sec.i3c = s.sec.i3c := rfl
@[simp] theorem dropLine_i3c (k : CKey) : (s.dropLine k).sec.i3c = s.sec.i3c := rfl

@[simp] theorem wakeDie_i3c (d : Nat) : (s.wakeDie d).sec.i3c = s.sec.i3c := by
  unfold State.wakeDie
  repeat' split
  all_goals rfl

@[simp] theorem touch_i3c (a : Nat) : (s.touch a).sec.i3c = s.sec.i3c := by
  unfold State.touch
  dsimp only
  repeat' split
  all_goals simp

@[simp] theorem writeDram_i3c (a : Nat) (d : Line) (pois : Bool) : (s.writeDram a d pois).sec.i3c = s.sec.i3c := by simp [State.writeDram]
@[simp] theorem inTransfer_i3c (id d set w : Nat) : (s.inTransfer id d set w).sec.i3c = s.sec.i3c := by simp [State.inTransfer]

@[simp] theorem device_i3c (n : Nat) (what : D2H) (kind : DevKind) (hpa : Nat) (d : Line)
    (pois : Bool) (job : Option Nat) (opnd addr : Nat) (mask : BitVec 64) :
    (s.device n what kind hpa d pois job opnd addr mask).sec.i3c = s.sec.i3c := by
  simp [State.device]

@[simp] theorem dirtyEvict_i3c (c : CLine) (n hpa : Nat) (job : Option Nat) (opnd addr : Nat) :
    (s.dirtyEvict c n hpa job opnd addr).sec.i3c = s.sec.i3c := by
  simp [State.dirtyEvict]

@[simp] theorem evict_i3c (c : CLine) : (s.evict c).sec.i3c = s.sec.i3c := by
  unfold State.evict
  split <;> simp

@[simp] theorem takeWay_i3c (d set : Nat) : (s.takeWay d set).2.sec.i3c = s.sec.i3c := by
  unfold State.takeWay
  dsimp only
  split
  · rfl
  · split
    · rfl
    · split <;> rename_i hp <;> have hpick := congrArg Prod.snd hp ▸ pick_i3c s _
      · exact hpick
      · exact (evict_i3c _ _).trans hpick

@[simp] theorem reserveWay_i3c (dpa : Nat) : (s.reserveWay dpa).sec.i3c = s.sec.i3c := by
  unfold State.reserveWay
  split
  · rfl
  · split
    · rfl
    · split <;> rename_i d set _ _ _ _ hw <;> have hway := congrArg (·.2.sec.i3c) hw
      · exact hway.symm.trans (takeWay_i3c ..)
      · exact hway.symm.trans (takeWay_i3c ..)

@[simp] theorem sendSnoop_i3c (key : Nat) (kind : BiKind) (holder : Nat) : (s.sendSnoop key kind holder).sec.i3c = s.sec.i3c := by
  unfold State.sendSnoop
  split <;> simp

@[simp] theorem startTxn_i3c (key : Nat) (p : Purpose) (targets : List Nat) (kind : BiKind) (ev : Option DirEnt) :
    (s.startTxn key p targets kind ev).sec.i3c = s.sec.i3c := by
  simp [State.startTxn]

@[simp] theorem quotaRecall_i3c (n die : Nat) : (s.quotaRecall n die).sec.i3c = s.sec.i3c := by simp [State.quotaRecall]

@[simp] theorem afterGrant_i3c (r : Req) (key : Nat) : (s.afterGrant r key).sec.i3c = s.sec.i3c := by
  unfold State.afterGrant
  split <;> simp

/-! ## Lines of the cache, and what a home reads and writes -/

@[simp] theorem freshAge_i3c : (s.freshAge).2.sec.i3c = s.sec.i3c := by simp [State.freshAge]
@[simp] theorem modLine_i3c (k : CKey) (f : CLine → CLine) : (s.modLine k f).sec.i3c = s.sec.i3c := rfl

@[simp] theorem touchLine_i3c (k : CKey) : (s.touchLine k).sec.i3c = s.sec.i3c := by
  unfold State.touchLine
  split
  · rfl
  · refine (modLine_i3c ..).trans (i3c_forAll _ ?_ _ s)
    exact fun _ _ => rfl

@[simp] theorem addHist_i3c (source kind unit location count verdict : Nat) (inj : Bool) :
    (s.addHist source kind unit location count verdict inj).sec.i3c = s.sec.i3c := rfl

@[simp] theorem raiseVec_i3c (n v : Nat) : (s.raiseVec n v).sec.i3c = s.sec.i3c := i3c_of_spdm (same_raiseVec s n v).spdm
@[simp] theorem ringRoom_i3c : s.ringRoom.sec.i3c = s.sec.i3c := by simp [State.ringRoom]

@[simp] theorem react_i3c (x : Source) (kind unit : Nat) (r : React) : (s.react x kind unit r).sec.i3c = s.sec.i3c := by
  unfold State.react
  dsimp only
  repeat' split
  all_goals rfl

@[simp] theorem tell_i3c (seq : Nat) (stns : List Nat) : (s.tell seq stns).sec.i3c = s.sec.i3c := by simp [State.tell]
@[simp] theorem report_i3c (r : FaultRec) : (s.report r).sec.i3c = s.sec.i3c := by simp [State.report]
@[simp] theorem modRecord_i3c (seq : Nat) (f : FaultRec → FaultRec) : (s.modRecord seq f).sec.i3c = s.sec.i3c := rfl
@[simp] theorem judged_i3c (kind unit seq : Nat) (inj : Bool) : (s.judged kind unit seq inj).sec.i3c = s.sec.i3c := by simp [State.judged]
@[simp] theorem openRecord_i3c (x : Source) (e : Event) : (s.openRecord x e).sec.i3c = s.sec.i3c := by simp [State.openRecord]
@[simp] theorem recordUp_i3c (x : Source) (r : FaultRec) : (s.recordUp x r).sec.i3c = s.sec.i3c := by simp [State.recordUp]

@[simp] theorem recordOnce_i3c (e : Event) : (s.recordOnce e).sec.i3c = s.sec.i3c := by
  unfold State.recordOnce
  dsimp only
  repeat' split
  all_goals simp

@[simp] theorem record_i3c (e : Event) : (s.record e).sec.i3c = s.sec.i3c := by
  unfold State.record
  dsimp only
  repeat' split
  all_goals simp

@[simp] theorem poisonLine_i3c (a cause : Nat) : (s.poisonLine a cause).sec.i3c = s.sec.i3c := by
  unfold State.poisonLine
  dsimp only
  repeat' split
  all_goals simp

@[simp] theorem judgeStack_i3c (stack : Nat) : (s.judgeStack stack).sec.i3c = s.sec.i3c := by simp [State.judgeStack]
@[simp] theorem rowJudged_i3c (stack loc : Nat) (inj : Bool) : (s.rowJudged stack loc inj).sec.i3c = s.sec.i3c := by simp [State.rowJudged]

@[simp] theorem uncorrectable_i3c (e : Event) : (s.uncorrectable e).sec.i3c = s.sec.i3c := by
  unfold State.uncorrectable
  dsimp only
  repeat' split
  all_goals simp

@[simp] theorem readDram_i3c (a : Nat) : (s.readDram a).2.2.sec.i3c = s.sec.i3c := by
  unfold State.readDram
  dsimp only
  repeat' split
  all_goals simp

theorem place_i3c {c : CLine} {t : State} (h : s.place c = some t) : t.sec.i3c = s.sec.i3c := by
  unfold State.place at h
  split at h
  · cases h
  · rename_i d set _
    split at h
    · cases h
    · split at h <;> rename_i u hw <;> cases h
      have hway : u.sec.i3c = s.sec.i3c := (congrArg (·.2.sec.i3c) hw).symm.trans (takeWay_i3c ..)
      rw [touchLine_i3c, setLines_i3c, hway]

@[simp] theorem stationRead_i3c (dpa : Nat) : (s.stationRead dpa).2.2.sec.i3c = s.sec.i3c := by
  unfold State.stationRead
  split
  · exact touchLine_i3c ..
  · dsimp only
    split
    · rename_i hp
      exact (place_i3c _ hp).trans (readDram_i3c ..)
    · exact readDram_i3c ..

@[simp] theorem homeRead_i3c (dpa : Nat) : (s.homeRead dpa).2.2.sec.i3c = s.sec.i3c := by
  unfold State.homeRead
  split <;> simp

@[simp] theorem slotDone_i3c (n : Nat) (rwd : Bool) : (s.slotDone n rwd).sec.i3c = s.sec.i3c := by simp [State.slotDone]
@[simp] theorem countPoisoned_i3c (n : Nat) : (s.countPoisoned n).sec.i3c = s.sec.i3c := by simp [State.countPoisoned]

@[simp] theorem ioData_i3c (n off : Nat) (bs : List Byte) (ep : Bool) : (s.ioData n off bs ep).sec.i3c = s.sec.i3c := by
  refine i3c_foldl _ (fun s x => ?_) _ s
  rfl

@[simp] theorem fillRead_i3c (n id i : Nat) (d : Line) (p : Bool) : (s.fillRead n id i d p).sec.i3c = s.sec.i3c := by
  unfold State.fillRead
  dsimp only
  split <;> simp

@[simp] theorem fillTile_i3c (id tile i : Nat) (d : Line) (p : Bool) : (s.fillTile id tile i d p).sec.i3c = s.sec.i3c := by simp [State.fillTile]
@[simp] theorem jobWritten_i3c (id : Nat) : (s.jobWritten id).sec.i3c = s.sec.i3c := by simp [State.jobWritten]
@[simp] theorem fillDesc_i3c (id k : Nat) (d : Line) (p : Bool) : (s.fillDesc id k d p).sec.i3c = s.sec.i3c := by simp [State.fillDesc]

@[simp] theorem respond_i3c (r : Req) (k : CmpKind) (data : Option (Line × Bool)) : (s.respond r k data).sec.i3c = s.sec.i3c := by
  unfold State.respond
  dsimp only
  split <;> simp

@[simp] theorem modEnt_i3c (key : Nat) (f : DirEnt → DirEnt) : (s.modEnt key f).sec.i3c = s.sec.i3c := by simp [State.modEnt]

@[simp] theorem touchEnt_i3c (key : Nat) : (s.touchEnt key).sec.i3c = s.sec.i3c := by
  unfold State.touchEnt
  split <;> simp

@[simp] theorem leaveExcl_i3c (key : Nat) : (s.leaveExcl key).sec.i3c = s.sec.i3c := by
  unfold State.leaveExcl
  split <;> simp

@[simp] theorem grantShared_i3c (key n : Nat) : (s.grantShared key n).sec.i3c = s.sec.i3c := by simp [State.grantShared]
@[simp] theorem grantExcl_i3c (key n : Nat) (x : Excl) : (s.grantExcl key n x).sec.i3c = s.sec.i3c := by simp [State.grantExcl]

@[simp] theorem dropHolder_i3c (key n : Nat) : (s.dropHolder key n).sec.i3c = s.sec.i3c := by
  unfold State.dropHolder
  split <;> simp

@[simp] theorem commit_i3c (r : Req) (key : Nat) (ans : Option (Line × Bool)) : (s.commit r key ans).sec.i3c = s.sec.i3c := by
  unfold State.commit
  split <;> simp

@[simp] theorem stream_i3c (d : Nat) (src : Src) (host : Bool) (l : Nat) : (s.stream d src host l).2.sec.i3c = s.sec.i3c := by
  unfold State.stream
  dsimp only
  split
  · rfl
  · split
    · rfl
    · split <;> rename_i hp <;> exact (congrArg (·.2.sec.i3c) hp).symm.trans (pick_i3c ..)

@[simp] theorem writeThrough_i3c (dpa : Nat) (d : Line) (mask : BitVec 64) (pois keep : Bool) :
    (s.writeThrough dpa d mask pois keep).sec.i3c = s.sec.i3c := by
  unfold State.writeThrough
  split <;> simp

@[simp] theorem dropRecord_i3c (dpa : Nat) (pois : Bool) : (s.dropRecord dpa pois).sec.i3c = s.sec.i3c := by simp [State.dropRecord]
@[simp] theorem copyPoison_i3c (dpa : Nat) (pois : Bool) : (s.copyPoison dpa pois).sec.i3c = s.sec.i3c := by simp [State.copyPoison]

@[simp] theorem homeWrite_i3c (dpa : Nat) (d : Line) (mask : BitVec 64) (pois : Bool) (src : Src) :
    (s.homeWrite dpa d mask pois src).sec.i3c = s.sec.i3c := by
  have hread : ∀ t : State, (if mask = fullMask then ((0 : Line), false, t) else t.readDram dpa).2.2.sec.i3c = t.sec.i3c := fun t => by
    split
    · rfl
    · exact readDram_i3c ..
  unfold State.homeWrite
  split
  · rfl
  · rename_i die a _
    have hstream : (if mask = fullMask then s.stream die src false (a / 64) else (false, s)).2.sec.i3c = s.sec.i3c := by
      split <;> simp
    dsimp only
    generalize (if mask = fullMask then s.stream die src false (a / 64) else (false, s)) = x at hstream ⊢
    rw [copyPoison_i3c]
    split
    · simpa using hstream
    · split
      · simpa using hstream
      · split
        · simpa using hstream
        · split
          · simpa using hstream
          · split
            · rename_i hp
              rw [dropRecord_i3c, place_i3c _ hp, hread, hstream]
            · rw [writeThrough_i3c, hread, hstream]

@[simp] theorem takeBack_i3c (dpa : Nat) (d : Line) (mask : BitVec 64) (pois : Bool) (src : Src) :
    (s.takeBack dpa d mask pois src).sec.i3c = s.sec.i3c := by
  unfold State.takeBack
  split
  · simp
  · dsimp only
    split
    · simp
    · rw [copyPoison_i3c, dropRecord_i3c, touchLine_i3c, setLines_i3c]
      split <;> simp

@[simp] theorem takeThrough_i3c (dpa : Nat) (d : Line) (mask : BitVec 64) (pois : Bool) (src : Src) :
    (s.takeThrough dpa d mask pois src).sec.i3c = s.sec.i3c := by
  simp [State.takeThrough]

@[simp] theorem applyWrite_i3c (r : Req) (key : Nat) (recalled : Bool) : (s.applyWrite r key recalled).sec.i3c = s.sec.i3c := by
  simp [State.applyWrite]

@[simp] theorem atomDone_i3c (id i : Nat) (old : Option Nat) : (s.atomDone id i old).sec.i3c = s.sec.i3c := by simp [State.atomDone]

@[simp] theorem applyAtomic_i3c (r : Req) (key aop width pos opnd cmp : Nat) : (s.applyAtomic r key aop width pos opnd cmp).sec.i3c = s.sec.i3c := by
  unfold State.applyAtomic
  dsimp only
  repeat' split
  all_goals simp

@[simp] theorem perform_i3c (r : Req) (key : Nat) (given : Option (Line × Bool)) : (s.perform r key given).sec.i3c = s.sec.i3c := by
  unfold State.perform
  dsimp only
  repeat' split
  all_goals simp

@[simp] theorem delTxn_i3c (key : Nat) : (s.delTxn key).sec.i3c = s.sec.i3c := by simp [State.delTxn]

@[simp] theorem completeServe_i3c (r : Req) (key : Nat) (given : Option (Line × Bool)) : (s.completeServe r key given).sec.i3c = s.sec.i3c := by
  simp [State.completeServe]

@[simp] theorem endTxn_i3c (key : Nat) : (s.endTxn key).sec.i3c = s.sec.i3c := by simp [State.endTxn]
@[simp] theorem modTxn_i3c (key : Nat) (f : Txn → Txn) : (s.modTxn key f).sec.i3c = s.sec.i3c := by simp [State.modTxn]

@[simp] theorem answerAsks_i3c (key : Nat) : (s.answerAsks key).sec.i3c = s.sec.i3c := by
  unfold State.answerAsks
  split
  · refine (i3c_foldl _ (fun s id => ?_) _ _).trans (modTxn_i3c ..)
    rfl
  · rfl

@[simp] theorem finishTxn_i3c (t : Txn) : (s.finishTxn t).sec.i3c = s.sec.i3c := by
  unfold State.finishTxn
  split <;> simp

@[simp] theorem orphan_i3c (n : Nat) : (s.orphan n).sec.i3c = s.sec.i3c := by
  refine (i3c_foldl _ (fun s t => ?_) _ _).trans ?_
  · split <;> simp
  · simp

/-! ## Refusals, cisterns that go down, answers of snoops -/

@[simp] theorem logFlt_i3c (n kind path decoder : Nat) (addr : Nat) (well : Nat) (isWrite : Bool) :
    (s.logFlt n kind path decoder addr well isWrite).sec.i3c = s.sec.i3c := by
  simp [State.logFlt]

@[simp] theorem refuseReq_i3c (r : Req) (kind : Nat) : (s.refuseReq r kind).sec.i3c = s.sec.i3c := by
  unfold State.refuseReq
  dsimp only
  repeat' split
  all_goals simp

@[simp] theorem serveDown_i3c (r : Req) (c key : Nat) : (s.serveDown r c key).sec.i3c = s.sec.i3c := by simp [State.serveDown]
@[simp] theorem endCisRequests_i3c (c : Nat) : (s.endCisRequests c).sec.i3c = s.sec.i3c := by simp [State.endCisRequests]

@[simp] theorem startRev_i3c (v : Rev) : (s.startRev v).sec.i3c = s.sec.i3c := by
  unfold State.startRev
  split <;> simp

@[simp] theorem poisonHome_i3c (dpa cause : Nat) : (s.poisonHome dpa cause).sec.i3c = s.sec.i3c := by
  unfold State.poisonHome
  split <;> simp

@[simp] theorem loseLine_i3c (c key : Nat) : (s.loseLine c key).sec.i3c = s.sec.i3c := by
  unfold State.loseLine
  dsimp only
  split <;> simp

@[simp] theorem downEntry_i3c (c : Nat) (e : DirEnt) (inBuffer : Bool) : (s.downEntry c e inBuffer).sec.i3c = s.sec.i3c := by
  unfold State.downEntry
  extract_lets x dead lost live s₁ s₂ s₃ out s₄ s₅
  have h₅ : s₅.sec.i3c = s.sec.i3c := by simp [s₅, s₄, s₃, s₂, s₁]
  clear_value s₅
  split
  · dsimp only
    split <;> simp [h₅]
  · split <;> simp [h₅]

@[simp] theorem downWalk_i3c (c : Nat) : (s.downWalk c).sec.i3c = s.sec.i3c := by simp [State.downWalk]
@[simp] theorem declare_i3c (c cause station : Nat) (told : Bool) : (s.declare c cause station told).sec.i3c = s.sec.i3c := by simp [State.declare]

@[simp] theorem applyRsp_i3c (key holder : Nat) (rsp : BiRsp) : (s.applyRsp key holder rsp).sec.i3c = s.sec.i3c := by
  unfold State.applyRsp
  split <;> simp

@[simp] theorem answer_i3c (n : Snoop) (rsp : BiRsp) : (s.answer n rsp).sec.i3c = s.sec.i3c := by
  unfold State.answer
  dsimp only
  repeat' split
  all_goals simp

@[simp] theorem forgetHolder_i3c (n : Nat) : (s.forgetHolder n).sec.i3c = s.sec.i3c := by simp [State.forgetHolder]
@[simp] theorem loseHolder_i3c (n cause : Nat) : (s.loseHolder n cause).sec.i3c = s.sec.i3c := by simp [State.loseHolder]

/-! ## Requests that are served, and jobs -/

@[simp] theorem countEnd_i3c (id : Nat) : (s.countEnd id).sec.i3c = s.sec.i3c := by
  unfold State.countEnd
  split
  · rfl
  · split <;> simp

@[simp] theorem delJob_i3c (id : Nat) : (s.delJob id).sec.i3c = s.sec.i3c := by simp [State.delJob]
@[simp] theorem jobIrq_i3c (j : Job) : (s.jobIrq j).sec.i3c = s.sec.i3c := by simp [State.jobIrq]
@[simp] theorem dropReads_i3c (id : Nat) : (s.dropReads id).sec.i3c = s.sec.i3c := by simp [State.dropReads]
@[simp] theorem newReq_i3c (r : Req) : (s.newReq r).2.sec.i3c = s.sec.i3c := by simp [State.newReq]
@[simp] theorem toRetry_i3c (r : Req) : (s.toRetry r).sec.i3c = s.sec.i3c := by simp [State.toRetry]
@[simp] theorem enqueue_i3c (r : Req) : (s.enqueue r).sec.i3c = s.sec.i3c := by simp [State.enqueue]

@[simp] theorem ownerWrite_i3c (r : Req) (w : Well) (key : Nat) : (s.ownerWrite r w key).sec.i3c = s.sec.i3c := by
  unfold State.ownerWrite
  dsimp only
  repeat' split
  all_goals simp

@[simp] theorem evictEnt_i3c (e : DirEnt) : (s.evictEnt e).sec.i3c = s.sec.i3c := by simp [State.evictEnt]

theorem evictWay_i3c {die set own : Nat} {x : Nat × State} (h : s.evictWay die set own = some x) : x.2.sec.i3c = s.sec.i3c := by
  unfold State.evictWay at h
  dsimp only at h
  split at h
  · cases h
  · split at h
    · cases h
    · split at h <;> cases h
      exact evictEnt_i3c ..

theorem dirWay_i3c {die set own : Nat} {x : Nat × State} (h : s.dirWay die set own = some x) : x.2.sec.i3c = s.sec.i3c := by
  unfold State.dirWay at h
  split at h
  · cases h; rfl
  · exact evictWay_i3c s h

theorem allocFor_i3c {r : Req} {key : Nat} {t : State} (h : s.allocFor r key = some t) : t.sec.i3c = s.sec.i3c := by
  unfold State.allocFor at h
  dsimp only at h
  split at h
  · cases h
  · split at h
    · split at h
      · cases h
      · split at h
        · cases h
        · rename_i hw
          cases h
          exact dirWay_i3c s hw
    · split at h
      · split at h
        · cases h
        · rename_i hw
          cases h
          exact dirWay_i3c s hw
      · cases h; rfl

@[simp] theorem serveFree_i3c (r : Req) (w : Well) (key : Nat) : (s.serveFree r w key).state.sec.i3c = s.sec.i3c := by
  unfold State.serveFree
  split
  · split
    · rfl
    · rename_i ha
      have halloc := allocFor_i3c s ha
      repeat' split
      all_goals simp [halloc]
  · split <;> simp

@[simp] theorem serveCistern_i3c (r : Req) (w : Well) (key : Nat) : (s.serveCistern r w key).state.sec.i3c = s.sec.i3c := by
  unfold State.serveCistern
  dsimp only
  repeat' split
  all_goals simp

@[simp] theorem servePlain_i3c (r : Req) (w : Well) (key : Nat) : (s.servePlain r w key).sec.i3c = s.sec.i3c := by
  unfold State.servePlain
  dsimp only
  repeat' split
  all_goals simp

@[simp] theorem serve_i3c (r : Req) : (s.serve r).state.sec.i3c = s.sec.i3c := by
  have hread : ∀ key, (if r.kind = .swaRd then s.homeRead key else s.stationRead key).2.2.sec.i3c = s.sec.i3c := fun key => by
    split <;> simp
  simp [State.serve, hread]

@[simp] theorem present_i3c (r : Req) : (s.present r).sec.i3c = s.sec.i3c := by
  unfold State.present
  split
  · simp
  · split
    · simp
    · split
      · simp
      · have hserve := serve_i3c s r
        split <;> rename_i hs <;> rw [hs] at hserve
        · exact hserve
        · exact (enqueue_i3c ..).trans hserve
        · exact hserve

@[simp] theorem submit_i3c (r : Req) : (s.submit r).sec.i3c = s.sec.i3c := by simp [State.submit]

@[simp] theorem ringWrite_i3c (p off : Nat) (bs : List Byte) (org : Origin) : (s.ringWrite p off bs org).sec.i3c = s.sec.i3c := by
  unfold State.ringWrite
  split <;> simp

@[simp] theorem writeHeader_i3c (p : Nat) : (s.writeHeader p).sec.i3c = s.sec.i3c := by simp [State.writeHeader]
@[simp] theorem setPlat_i3c (p : Nat) (f : Platform → Platform) : (s.setPlat p f).sec.i3c = s.sec.i3c := by simp [State.setPlat]

@[simp] theorem endThird_i3c (id : Nat) : (s.endThird id).sec.i3c = s.sec.i3c := by
  unfold State.endThird
  split
  · repeat' split
    all_goals simp
  · rfl

@[simp] theorem leavePumps_i3c (id : Nat) : (s.leavePumps id).sec.i3c = s.sec.i3c := by simp [State.leavePumps]
@[simp] theorem dropAtoms_i3c (id : Nat) : (s.dropAtoms id).sec.i3c = s.sec.i3c := by simp [State.dropAtoms]
@[simp] theorem modPfxEnt_i3c (e : Nat) (f : PfxEnt → PfxEnt) : (s.modPfxEnt e f).sec.i3c = s.sec.i3c := by simp [State.modPfxEnt]

@[simp] theorem freeEntry_i3c (e : Nat) : (s.freeEntry e).sec.i3c = s.sec.i3c := by
  unfold State.freeEntry
  split <;> simp

@[simp] theorem abandonPending_i3c (id : Nat) : (s.abandonPending id).sec.i3c = s.sec.i3c := by
  unfold State.abandonPending
  split
  · split <;> simp
  · rfl

@[simp] theorem stopJob_i3c (id : Nat) (st : JobStatus) (f : Option Fail) (lost : Bool) : (s.stopJob id st f lost).sec.i3c = s.sec.i3c := by
  unfold State.stopJob
  split <;> simp

@[simp] theorem endJob_i3c (j : Job) (st : JobStatus) (f : Option Fail) (lost : Bool) : (s.endJob j st f lost).sec.i3c = s.sec.i3c := by
  unfold State.endJob
  split <;> simp

@[simp] theorem writeRecord_i3c (j : Job) : (s.writeRecord j).sec.i3c = s.sec.i3c := by simp [State.writeRecord]
@[simp] theorem mapReqs_i3c (f : Req → Req) : (s.mapReqs f).sec.i3c = s.sec.i3c := by simp [State.mapReqs]
@[simp] theorem rerecord_i3c (j : Job) (st : JobStatus) (f : Fail) : (s.rerecord j st f).sec.i3c = s.sec.i3c := by simp [State.rerecord]

/-! ## Stations, sessions and reactions -/

@[simp] theorem stationJobs_i3c (n : Nat) (reset : Bool) : (s.stationJobs n reset).sec.i3c = s.sec.i3c := by
  refine (i3c_foldl _ (fun s p => by simp) _ _).trans ?_
  refine i3c_foldl _ (fun s k => ?_) _ s
  split
  · rfl
  · dsimp only
    repeat' split
    all_goals simp

theorem stationGone_i3c {n : Nat} (hn : n ≠ 48) (why : Loss) : (s.stationGone n why).sec.i3c = s.sec.i3c := by
  simp [State.stationGone, spdmEnded_i3c _ hn]

@[simp] theorem markBusy_i3c (kind unit : Nat) (block : Bool) : (s.markBusy kind unit block).sec.i3c = s.sec.i3c := by simp [State.markBusy]

@[simp] theorem pumpReset_i3c (p : Nat) : (s.pumpReset p).sec.i3c = s.sec.i3c := by
  unfold State.pumpReset
  split <;> simp

@[simp] theorem auditMbx_i3c (m : Mbx) (sender : BitVec 64) (kind wb opcode status : Nat) (digest : BitVec 128)
    (detail : Nat) (cred : Option (BitVec 64)) :
    (s.auditMbx m sender kind wb opcode status digest detail cred).sec.i3c = s.sec.i3c := by
  simp [State.auditMbx]

@[simp] theorem endSession_i3c (m : Mbx) (why : Nat) : (s.endSession m why).sec.i3c = s.sec.i3c := by simp [State.endSession]

@[simp] theorem stationReset_i3c (n : Station) (why : Loss) : (s.stationReset n why).sec.i3c = s.sec.i3c := by
  have hn : n.val ≠ 48 := Nat.ne_of_lt n.isLt
  simp [State.stationReset, stationGone_i3c _ hn]

@[simp] theorem ready_i3c (wb : Nat) (st : Status) (result : List Byte) : (s.ready wb st result).sec.i3c = s.sec.i3c := by simp [State.ready]

@[simp] theorem readyOpt_i3c (wb : Option Nat) (st : Status) (result : List Byte) : (s.readyOpt wb st result).sec.i3c = s.sec.i3c := by
  unfold State.readyOpt
  split <;> simp

@[simp] theorem pairFail_i3c : s.pairFail.sec.i3c = s.sec.i3c := by simp [State.pairFail]
@[simp] theorem xoSilent_i3c : s.xoSilent.sec.i3c = s.sec.i3c := by simp [State.xoSilent]
@[simp] theorem xoDown_i3c (k : Nat) : (s.xoDown k).sec.i3c = s.sec.i3c := by simp [State.xoDown]
@[simp] theorem setHandover_i3c (l : List Mbx) (b : Bool) : (s.setHandover l b).sec.i3c = s.sec.i3c := by simp [State.setHandover]

@[simp] theorem blockReset_i3c (kind unit : Nat) : (s.blockReset kind unit).sec.i3c = s.sec.i3c := by
  unfold State.blockReset
  dsimp only
  repeat' split
  all_goals simp

@[simp] theorem capture_i3c (kind unit : Nat) : (s.capture kind unit).sec.i3c = s.sec.i3c := by
  unfold State.capture
  split <;> simp

@[simp] theorem yieldPrimacy_i3c : s.yieldPrimacy.sec.i3c = s.sec.i3c := by simp [State.yieldPrimacy]
@[simp] theorem replaceUnit_i3c : s.replaceUnit.sec.i3c = s.sec.i3c := by simp [State.replaceUnit]

/-! ## Jobs that are handed on, and accesses of the host memory -/

@[simp] theorem descReady_i3c (id p : Nat) : (s.descReady id p).sec.i3c = s.sec.i3c := by
  unfold State.descReady
  dsimp only
  repeat' split
  all_goals simp

@[simp] theorem askSlot_i3c (id : Nat) : (s.askSlot id).sec.i3c = s.sec.i3c := by
  unfold State.askSlot
  dsimp only
  repeat' split
  all_goals simp

@[simp] theorem readDesc_i3c (id p : Nat) : (s.readDesc id p).sec.i3c = s.sec.i3c := by
  unfold State.readDesc
  split <;> simp

@[simp] theorem choosePump_i3c (j : Job) (hint : Nat) (among : Nat → Bool) : (s.choosePump j hint among).2.sec.i3c = s.sec.i3c := by
  unfold State.choosePump
  dsimp only
  split <;> simp

@[simp] theorem giveJob_i3c (id p : Nat) : (s.giveJob id p).sec.i3c = s.sec.i3c := by simp [State.giveJob]

@[simp] theorem handOff_i3c (id : Nat) (die : Option Nat) : (s.handOff id die).sec.i3c = s.sec.i3c := by
  unfold State.handOff
  dsimp only
  repeat' split
  all_goals simp

@[simp] theorem requeue_i3c (p : Nat) (die : Bool) : (s.requeue p die).sec.i3c = s.sec.i3c := by simp [State.requeue]
@[simp] theorem revokeIde_i3c (n : Nat) : (s.revokeIde n).sec.i3c = s.sec.i3c := by simp [State.revokeIde]
@[simp] theorem markRead_i3c (p i : Nat) : (s.markRead p i).sec.i3c = s.sec.i3c := by simp [State.markRead]
@[simp] theorem offerJobs_i3c (f : Job → Bool) : (s.offerJobs f).sec.i3c = s.sec.i3c := by simp [State.offerJobs]
@[simp] theorem acceptOne_i3c (p : Nat) : (s.acceptOne p).sec.i3c = s.sec.i3c := by simp [State.acceptOne]

theorem acceptFor_i3c (k p : Nat) : (State.acceptFor k p s).sec.i3c = s.sec.i3c := by
  induction k generalizing s with
  | zero => rfl
  | succ k ih =>
    unfold State.acceptFor
    dsimp only
    split
    · exact (ih _).trans (acceptOne_i3c ..)
    · rfl

@[simp] theorem acceptStep_i3c (p : Nat) : (s.accept_ p).sec.i3c = s.sec.i3c := acceptFor_i3c ..
@[simp] theorem recordDone_i3c (j : Job) : (s.recordDone j).sec.i3c = s.sec.i3c := by simp [State.recordDone]

@[simp] theorem cplStep_i3c : s.cplStep.sec.i3c = s.sec.i3c := by
  refine i3c_foldl _ (fun s k => ?_) _ s
  split
  · rfl
  · repeat' split
    all_goals simp

@[simp] theorem atomStep_i3c : s.atomStep.sec.i3c = s.sec.i3c := by
  refine i3c_foldl _ (fun s j => ?_) _ s
  split
  · split <;> simp
  · rfl

@[simp] theorem ioFlush_i3c : s.ioFlush.sec.i3c = s.sec.i3c := by
  refine i3c_foldl _ (fun s n => ?_) _ s
  split <;> simp

@[simp] theorem finishJob_i3c (id : Nat) : (s.finishJob id).sec.i3c = s.sec.i3c := by
  unfold State.finishJob
  split <;> simp

@[simp] theorem finishStep_i3c : s.finishStep.sec.i3c = s.sec.i3c := by
  refine i3c_foldl _ (fun s k => ?_) _ s
  split
  · split <;> simp
  · rfl

@[simp] theorem atsAsk_i3c (n : Nat) (r : AtsReq) : (s.atsAsk n r).sec.i3c = s.sec.i3c := by simp [State.atsAsk]

@[simp] theorem hostNow_i3c (j : Job) (opnd a : Nat) (acc : Acc) (t : Target) : (s.hostNow j opnd a acc t).2.sec.i3c = s.sec.i3c := by
  unfold State.hostNow
  dsimp only
  repeat' split
  all_goals simp

@[simp] theorem sendFwd_i3c (f : FwdOut) : (s.sendFwd f).sec.i3c = s.sec.i3c := by
  unfold State.sendFwd
  split
  · rfl
  · split <;> simp

@[simp] theorem fwdTwin_i3c (f : FwdOut) : (s.fwdTwin f).sec.i3c = s.sec.i3c := by simp [State.fwdTwin]

@[simp] theorem deviceInto_i3c (way : Option (Nat × Nat × Nat)) (n : Nat) (what : D2H) (kind : DevKind)
    (hpa : Nat) (d : Line) (pois : Bool) (job : Option Nat) (opnd addr : Nat) (mask : BitVec 64) :
    (s.deviceInto way n what kind hpa d pois job opnd addr mask).sec.i3c = s.sec.i3c := by
  unfold State.deviceInto
  split <;> simp

@[simp] theorem keepM_i3c (job : Option Nat) (n hpa : Nat) : (s.keepM job n hpa).sec.i3c = s.sec.i3c := by
  unfold State.keepM
  split <;> simp

@[simp] theorem hostWay_i3c (n hpa : Nat) : (s.hostWay n hpa).2.sec.i3c = s.sec.i3c := by
  unfold State.hostWay
  dsimp only
  split
  · rfl
  · split <;> rename_i hw <;> exact (congrArg (·.2.sec.i3c) hw).symm.trans (takeWay_i3c ..)

@[simp] theorem hostWriteNow_i3c (job : Option Nat) (n hpa : Nat) (d : Line) (mask : BitVec 64) (pois : Bool) (opnd addr : Nat) :
    (s.hostWriteNow job n hpa d mask pois opnd addr).sec.i3c = s.sec.i3c := by
  unfold State.hostWriteNow
  extract_lets die p whole own past
  have hstream : (if whole then s.stream die (.pump p) true (hpa / 64) else (false, s)).2.sec.i3c = s.sec.i3c := by
    split <;> simp
  generalize (if whole then s.stream die (.pump p) true (hpa / 64) else (false, s)) = x at hstream ⊢
  have hown : ∀ t way, (own t way).sec.i3c = t.sec.i3c := fun t way => by simp [own]
  have hpast : ∀ t, (past t).sec.i3c = t.sec.i3c := fun t => by simp [past]
  obtain ⟨streaming, t⟩ := x
  dsimp only at hstream ⊢
  split
  · split
    · exact (hown ..).trans hstream
    · simpa using hstream
  · split
    · exact (hpast ..).trans hstream
    · have hway := hostWay_i3c t n hpa
      split <;> rename_i hw <;> rw [hw] at hway
      · split
        · exact (hpast ..).trans (hway.trans hstream)
        · exact (hown ..).trans (hway.trans hstream)
      · exact (hown ..).trans (hway.trans hstream)

@[simp] theorem hostWrite_i3c (job : Option Nat) (n hpa : Nat) (d : Line) (mask : BitVec 64) (pois : Bool) (opnd addr : Nat) :
    (s.hostWrite job n hpa d mask pois opnd addr).sec.i3c = s.sec.i3c := by
  simp [State.hostWrite]

@[simp] theorem issueLine_i3c (id : Nat) (q : QLine) (org : Origin) : (s.issueLine id q org).sec.i3c = s.sec.i3c := by
  unfold State.issueLine
  split <;> simp

@[simp] theorem queueLine_i3c (id p : Nat) (q : QLine) : (s.queueLine id p q).sec.i3c = s.sec.i3c := by
  unfold State.queueLine
  split <;> simp

theorem pushLines_i3c (k id p : Nat) : (State.pushLines k s id p).sec.i3c = s.sec.i3c := by
  induction k generalizing s with
  | zero => rfl
  | succ k ih =>
    unfold State.pushLines
    split
    · rfl
    · split
      · rfl
      · split
        · rfl
        · split <;> rename_i hn <;> have hnow := (congrArg (·.2.sec.i3c) hn).symm.trans (hostNow_i3c ..)
          · exact hnow
          · rw [ih, queueLine_i3c, State.modJob_sec]
            exact hnow

@[simp] theorem pushQueue_i3c (id : Nat) : (s.pushQueue id).sec.i3c = s.sec.i3c := by
  unfold State.pushQueue
  split
  · exact pushLines_i3c ..
  · rfl

@[simp] theorem writesMoved_i3c : s.writesMoved.sec.i3c = s.sec.i3c := by simp [State.writesMoved]

/-! ## The steps of homes and platforms -/

@[simp] theorem lostRecall_i3c (key : Nat) : (s.lostRecall key).sec.i3c = s.sec.i3c := by
  unfold State.lostRecall
  dsimp only
  repeat' split
  all_goals simp

@[simp] theorem lostStep_i3c : s.lostStep.sec.i3c = s.sec.i3c := by simp [State.lostStep]

@[simp] theorem drainPass_i3c : s.drainPass.sec.i3c = s.sec.i3c := by
  refine foldl_keeps (fun x : State × List Nat => x.1.sec.i3c) (fun x y _ => ?_) (s, [])
  obtain ⟨s, stuck⟩ := x
  dsimp only
  split
  · rfl
  · have hserve := serve_i3c s y.2
    split <;> rename_i hs <;> rw [hs] at hserve <;> exact hserve

theorem drainFor_i3c (k : Nat) : (s.drainFor k).sec.i3c = s.sec.i3c := by
  induction k generalizing s with
  | zero => rfl
  | succ k ih =>
    unfold State.drainFor
    dsimp only
    split
    · exact (ih _).trans (drainPass_i3c s)
    · exact drainPass_i3c s

@[simp] theorem drain_i3c : s.drain.sec.i3c = s.sec.i3c := by
  unfold State.drain
  split
  · rfl
  · exact drainFor_i3c ..

@[simp] theorem gapWalk_i3c : s.gapWalk.sec.i3c = s.sec.i3c := by
  refine i3c_foldl _ (fun s k => ?_) _ s
  split
  · rfl
  · dsimp only
    split
    · simp
    · rfl

@[simp] theorem quotaStep_i3c : s.quotaStep.sec.i3c = s.sec.i3c := by simp [State.quotaStep]
@[simp] theorem revWalk_i3c (v : Rev) : (s.revWalk v).sec.i3c = s.sec.i3c := by simp [State.revWalk]
@[simp] theorem homeStep_i3c : s.homeStep.sec.i3c = s.sec.i3c := by simp [State.homeStep]
@[simp] theorem dropFwd_i3c (id : Nat) : (s.dropFwd id).sec.i3c = s.sec.i3c := by simp [State.dropFwd]
@[simp] theorem unbackedAper_i3c (n id i off dpa : Nat) : (s.unbackedAper n id i off dpa).sec.i3c = s.sec.i3c := by simp [State.unbackedAper]
@[simp] theorem unbackedBy_i3c (kind unit a : Nat) : (s.unbackedBy kind unit a).sec.i3c = s.sec.i3c := by simp [State.unbackedBy]

@[simp] theorem unbackedFwd_i3c (f : FwdOut) : (s.unbackedFwd f).sec.i3c = s.sec.i3c := by
  unfold State.unbackedFwd
  dsimp only
  repeat' split
  all_goals simp

@[simp] theorem endLocale1_i3c : s.endLocale1.sec.i3c = s.sec.i3c := by simp [State.endLocale1]
@[simp] theorem locale1Step_i3c : s.locale1Step.sec.i3c = s.sec.i3c := by simp [State.locale1Step]
@[simp] theorem zeroExchange_i3c (p : Nat) : (s.zeroExchange p).sec.i3c = s.sec.i3c := by simp [State.zeroExchange]

@[simp] theorem moveStep_i3c : s.moveStep.sec.i3c = s.sec.i3c := by
  refine (i3c_foldl _ (fun s r => by simp) _ _).trans (i3c_foldl _ (fun s p => ?_) _ s)
  dsimp only
  split
  · split <;> simp
  · rfl

@[simp] theorem abandon_i3c (p : Nat) : (s.abandon p).sec.i3c = s.sec.i3c := by simp [State.abandon]
@[simp] theorem endPlat_i3c (p : Nat) : (s.endPlat p).sec.i3c = s.sec.i3c := by simp [State.endPlat]

@[simp] theorem platStep_i3c : s.platStep.sec.i3c = s.sec.i3c := by
  refine i3c_foldl _ (fun s x => ?_) _ s
  obtain ⟨p, x⟩ := x
  dsimp only
  split
  · simp
  · split <;> simp

/-! ## Wells: chunks that move, runs that are released, wells that end -/

@[simp] theorem spaceFor_i3c (die set need own : Nat) : (s.spaceFor die set need own).2.sec.i3c = s.sec.i3c := by
  refine i3c_foldl _ (fun s _ => ?_) _ s
  split
  · split
    · rename_i hw
      exact evictWay_i3c s hw
    · rfl
  · rfl

@[simp] theorem chunkRoom_i3c (src dst n : Nat) : (s.chunkRoom src dst n).2.sec.i3c = s.sec.i3c := by
  refine foldl_keeps (fun x : Bool × List (Nat × Nat × Nat) × State => x.2.2.sec.i3c) (fun x e _ => ?_) (true, [], s)
  obtain ⟨ok, used, s⟩ := x
  dsimp only
  split
  · split
    · dsimp only
      split <;> simp
    · exact spaceFor_i3c ..
  · rfl

@[simp] theorem modEntry_i3c (wb : Nat) (f : JEntry → JEntry) : (s.modEntry wb f).sec.i3c = s.sec.i3c :=
  i3c_of_spdm (same_modEntry s wb f).spdm

@[simp] theorem cplSlot_i3c (n : Station) (quiet : Bool) (c : Cpl) : (s.cplSlot n quiet c).sec.i3c = s.sec.i3c := by simp [State.cplSlot]

@[simp] theorem completeAsync_i3c (a : Async) (st : Status) (result : List Byte) : (s.completeAsync a st result).sec.i3c = s.sec.i3c := by
  unfold State.completeAsync
  dsimp only
  split <;> simp

@[simp] theorem completeNow_i3c (wb : Nat) (st : Status) (result : List Byte) : (s.completeNow wb st result).sec.i3c = s.sec.i3c := by
  unfold State.completeNow
  split <;> simp

@[simp] theorem unkey_i3c (i : Nat) : (s.unkey i).sec.i3c = s.sec.i3c := by
  refine i3c_foldl _ (fun s x => ?_) _ s
  dsimp only
  split <;> simp

@[simp] theorem revokeAll_i3c (i frm : Nat) (cause : RevCause) : (s.revokeAll i frm cause).sec.i3c = s.sec.i3c := by simp [State.revokeAll]
@[simp] theorem abortPlat_i3c (p : Nat) : (s.abortPlat p).sec.i3c = s.sec.i3c := by simp [State.abortPlat]

@[simp] theorem dropJob_i3c (j : Job) : (s.dropJob j).sec.i3c = s.sec.i3c := by
  unfold State.dropJob
  split <;> simp

@[simp] theorem loseRing_i3c (p : Nat) : (s.loseRing p).sec.i3c = s.sec.i3c := by
  unfold State.loseRing
  dsimp only
  split
  · split <;> simp
  · simp

@[simp] theorem ringsLost_i3c (well frm : Nat) : (s.ringsLost well frm).sec.i3c = s.sec.i3c := by simp [State.ringsLost]
@[simp] theorem freeEntries_i3c (ns : Nat) : (s.freeEntries ns).sec.i3c = s.sec.i3c := by simp [State.freeEntries]
@[simp] theorem dropRef_i3c (e : Nat) : (s.dropRef e).sec.i3c = s.sec.i3c := by simp [State.dropRef]

@[simp] theorem endHold_i3c (i : Nat) : (s.endHold i).sec.i3c = s.sec.i3c := by
  unfold State.endHold
  split <;> simp

@[simp] theorem endHolds_i3c (ns : Nat) : (s.endHolds ns).sec.i3c = s.sec.i3c := by simp [State.endHolds]
@[simp] theorem setIns_i3c (id : Nat) (f : Insert → Insert) : (s.setIns id f).sec.i3c = s.sec.i3c := by simp [State.setIns]
@[simp] theorem toPhase_i3c (id phase : Nat) : (s.toPhase id phase).sec.i3c = s.sec.i3c := by simp [State.toPhase]

@[simp] theorem breakInsert_i3c (id : Nat) (gone : Bool) : (s.breakInsert id gone).sec.i3c = s.sec.i3c := by
  unfold State.breakInsert
  split <;> simp

@[simp] theorem storeLost_i3c (well : Nat) (destroyed : Bool) : (s.storeLost well destroyed).sec.i3c = s.sec.i3c := by simp [State.storeLost]
@[simp] theorem rcDrop_i3c (f : Nat → Nat → Bool) : (s.rcDrop f).sec.i3c = s.sec.i3c := by simp [State.rcDrop]

@[simp] theorem switchOn_i3c (hit : Nat → Nat → Bool) (cause : SwCause) (cleared : Nat) : (s.switchOn hit cause cleared).sec.i3c = s.sec.i3c := by
  simp [State.switchOn]

@[simp] theorem clearRanges_i3c (f : Range → Bool) (cause : SwCause) : (s.clearRanges f cause).sec.i3c = s.sec.i3c := by simp [State.clearRanges]
@[simp] theorem twinDrop_i3c (i : Nat) : (s.twinDrop i).sec.i3c = s.sec.i3c := by simp [State.twinDrop]
@[simp] theorem twinClear_i3c (i frm : Nat) : (s.twinClear i frm).sec.i3c = s.sec.i3c := by simp [State.twinClear]

@[simp] theorem destroyNow_i3c (i : Nat) (wb : Option Nat) : (s.destroyNow i wb).sec.i3c = s.sec.i3c := by
  unfold State.destroyNow
  dsimp only
  repeat' split
  all_goals simp

@[simp] theorem forgetRun_i3c (a n : Nat) : (s.forgetRun a n).sec.i3c = s.sec.i3c := rfl
@[simp] theorem releaseRun_i3c (a n : Nat) : (s.releaseRun a n).sec.i3c = s.sec.i3c := by simp [State.releaseRun]

@[simp] theorem moveEnt_i3c (e : DirEnt) (key : Nat) : (s.moveEnt e key).sec.i3c = s.sec.i3c := by
  unfold State.moveEnt
  split <;> simp

@[simp] theorem moveChunk_i3c (src dst n : Nat) : (s.moveChunk src dst n).sec.i3c = s.sec.i3c := by
  unfold State.moveChunk
  extract_lets mv inn cached s₁ s₂ s₃ s₄ s₅ kept s₆ s₇
  have h₂ : s₂.sec.i3c = s.sec.i3c := by simp [s₂, s₁]
  have h₃ : s₃.sec.i3c = s.sec.i3c := by
    refine (foldl_keeps (fun s => s.sec.i3c) (fun t c hc => ?_) s₂).trans h₂
    split
    · split
      · split
        · rename_i hp
          exact place_i3c _ hp
        · simp
      · rfl
    · rfl
  clear_value s₃
  simp [s₇, s₆, s₅, s₄, h₃]

@[simp] theorem markMig_i3c : s.markMig.sec.i3c = s.sec.i3c := by simp [State.markMig]
@[simp] theorem tidyGranules_i3c : s.tidyGranules.sec.i3c = s.sec.i3c := by simp [State.tidyGranules]

@[simp] theorem dropMigrate_i3c (i : Nat) (m : Mig) (st : Status) : (s.dropMigrate i m st).sec.i3c = s.sec.i3c := by
  unfold State.dropMigrate
  split <;> simp

@[simp] theorem destroyWell_i3c (i : Nat) (wb : Option Nat) : (s.destroyWell i wb).sec.i3c = s.sec.i3c := by
  unfold State.destroyWell
  dsimp only
  split
  · rename_i m _
    have hroom := chunkRoom_i3c s m.start (s.well i).start m.point
    split <;> rename_i hr <;> rw [hr] at hroom
    · simpa using hroom
    · exact hroom
  · simp

@[simp] theorem doomStep_i3c : s.doomStep.sec.i3c = s.sec.i3c := by simp [State.doomStep]
@[simp] theorem modMirror_i3c (i : Nat) (f : Mirror → Mirror) : (s.modMirror i f).sec.i3c = s.sec.i3c := by simp [State.modMirror]
@[simp] theorem shrinkWell_i3c (i newLen wb : Nat) : (s.shrinkWell i newLen wb).sec.i3c = s.sec.i3c := by simp [State.shrinkWell]
@[simp] theorem setGranule_i3c (g : Nat) (x : Granule) : (s.setGranule g x).sec.i3c = s.sec.i3c := by simp [State.setGranule]

@[simp] theorem placeGranule_i3c (p : Place) (g : Nat) : (s.placeGranule p g).sec.i3c = s.sec.i3c := by
  unfold State.placeGranule
  split
  · rfl
  · split <;> simp

@[simp] theorem takeRun_i3c (p : Place) (a n : Nat) : (s.takeRun p a n).sec.i3c = s.sec.i3c := by simp [State.takeRun]
@[simp] theorem growWell_i3c (i newLen wb : Nat) : (s.growWell i newLen wb).sec.i3c = s.sec.i3c := by simp [State.growWell]
@[simp] theorem resizeIn_i3c (i newLen : Nat) : (s.resizeIn i newLen).sec.i3c = s.sec.i3c := by simp [State.resizeIn]

@[simp] theorem wantStep_i3c : s.wantStep.sec.i3c = s.sec.i3c := by
  refine i3c_foldl _ (fun s i => ?_) _ s
  split
  · repeat' split
    all_goals simp
  · rfl

@[simp] theorem recallTwin_i3c (i frm : Nat) : (s.recallTwin i frm).sec.i3c = s.sec.i3c := by simp [State.recallTwin]
@[simp] theorem dropRecords_i3c (i frm : Nat) : (s.dropRecords i frm).sec.i3c = s.sec.i3c := by simp [State.dropRecords]
@[simp] theorem cisTwin_i3c (c : Nat) : (s.cisTwin c).sec.i3c = s.sec.i3c := by simp [State.cisTwin]

@[simp] theorem freeWell_i3c (i : Nat) : (s.freeWell i).sec.i3c = s.sec.i3c := by
  unfold State.freeWell
  dsimp only
  split <;> simp

@[simp] theorem resized_i3c (i newLen : Nat) : (s.resized i newLen).sec.i3c = s.sec.i3c := by simp [State.resized]

@[simp] theorem endMigrate_i3c (i : Nat) : (s.endMigrate i).sec.i3c = s.sec.i3c := by
  unfold State.endMigrate
  dsimp only
  split <;> simp

@[simp] theorem wellProgress_i3c (i : Nat) : (s.wellProgress i).sec.i3c = s.sec.i3c := by
  unfold State.wellProgress
  dsimp only
  repeat' split
  all_goals simp

@[simp] theorem leaveProgress_i3c (c : Nat) : (s.leaveProgress c).sec.i3c = s.sec.i3c := by simp [State.leaveProgress]
@[simp] theorem wellStep_i3c : s.wellStep.sec.i3c = s.sec.i3c := by simp [State.wellStep]

@[simp] theorem switchDone_i3c (w : Switch) : (s.switchDone w).sec.i3c = s.sec.i3c := by
  unfold State.switchDone
  dsimp only
  repeat' split
  all_goals simp

@[simp] theorem switchStep_i3c : s.switchStep.sec.i3c = s.sec.i3c := by simp [State.switchStep]

/-! ## The twin, translation services and replays -/

@[simp] theorem grantStep_i3c : s.grantStep.sec.i3c = s.sec.i3c := by
  refine i3c_foldl _ (fun s x => ?_) _ s
  dsimp only
  split
  · rfl
  · split
    · rfl
    · rename_i hw
      exact dirWay_i3c s hw

@[simp] theorem twinAsk_i3c (x : TwinSnoop) : (s.twinAsk x).sec.i3c = s.sec.i3c := by
  unfold State.twinAsk
  split <;> simp

@[simp] theorem twinSnoopStep_i3c : s.twinSnoopStep.sec.i3c = s.sec.i3c := by
  refine i3c_foldl _ (fun s x => ?_) _ s
  split
  · simp
  · split
    · rfl
    · split
      · simp
      · split <;> simp

@[simp] theorem atsOne_i3c (n : Nat) (v : AtsInv) : (s.atsOne n v).sec.i3c = s.sec.i3c := by simp [State.atsOne]
@[simp] theorem atsStep_i3c : s.atsStep.sec.i3c = s.sec.i3c := by simp [State.atsStep]
@[simp] theorem idlePump_i3c (j : Job) (p : Nat) : (s.idlePump j p).2.sec.i3c = s.sec.i3c := by simp [State.idlePump]
@[simp] theorem thirdOn_i3c (j : Job) (op : StepOp) (p q : Nat) : (s.thirdOn j op p q).sec.i3c = s.sec.i3c := by simp [State.thirdOn]

@[simp] theorem replayStep_i3c : s.replayStep.sec.i3c = s.sec.i3c := by
  refine i3c_foldl _ (fun s j => ?_) _ s
  split
  · split
    · split <;> rename_i hp <;> have hpump := (congrArg (·.2.sec.i3c) hp).symm.trans (idlePump_i3c ..)
      · exact (thirdOn_i3c ..).trans hpump
      · exact hpump
    · rfl
  · rfl

@[simp] theorem nsStep_i3c : s.nsStep.sec.i3c = s.sec.i3c := by simp [State.nsStep]
@[simp] theorem dropBells_i3c : s.dropBells.sec.i3c = s.sec.i3c := by simp [State.dropBells]
@[simp] theorem restartPlat_i3c (p : Nat) : (s.restartPlat p).sec.i3c = s.sec.i3c := by simp [State.restartPlat]
@[simp] theorem dropBell_i3c (p : Nat) : (s.dropBell p).sec.i3c = s.sec.i3c := by simp [State.dropBell]
@[simp] theorem bell_i3c (d : Doorbell) : (s.bell d).sec.i3c = s.sec.i3c := by simp [State.bell]
@[simp] theorem bells_i3c : s.bells.sec.i3c = s.sec.i3c := by simp [State.bells]
@[simp] theorem bellStep_i3c : s.bellStep.sec.i3c = s.sec.i3c := by simp [State.bellStep]
@[simp] theorem markSpan_i3c (i frm to_ : Nat) : (s.markSpan i frm to_).sec.i3c = s.sec.i3c := by simp [State.markSpan]
@[simp] theorem commitUnacked_i3c : s.commitUnacked.sec.i3c = s.sec.i3c := by simp [State.commitUnacked]
@[simp] theorem markPages_i3c (i : Nat) : (s.markPages i).sec.i3c = s.sec.i3c := by simp [State.markPages]
@[simp] theorem dropZeros_i3c : s.dropZeros.sec.i3c = s.sec.i3c := by simp [State.dropZeros]
@[simp] theorem dropTwinWaits_i3c : s.dropTwinWaits.sec.i3c = s.sec.i3c := by simp [State.dropTwinWaits]
@[simp] theorem rcDropTwin_i3c (f : Range → Bool) : (s.rcDropTwin f).sec.i3c = s.sec.i3c := by simp [State.rcDropTwin]

@[simp] theorem unwait_i3c (r : Req) : (s.unwait r).sec.i3c = s.sec.i3c := by
  unfold State.unwait
  dsimp only
  split <;> simp

@[simp] theorem represent_i3c (r : Req) : (s.represent r).sec.i3c = s.sec.i3c := by simp [State.represent]

@[simp] theorem crossThresholds_i3c (next : Nat) : (s.crossThresholds next).sec.i3c = s.sec.i3c :=
  i3c_of_spdm (same_crossThresholds s next).spdm

@[simp] theorem writeEntry_i3c (e : JEntry) : (s.writeEntry e).sec.i3c = s.sec.i3c := i3c_of_spdm (same_writeEntry s e).spdm

@[simp] theorem numberEntry_i3c (wb : Nat) : (s.numberEntry wb).sec.i3c = s.sec.i3c := by
  unfold State.numberEntry
  split <;> simp

@[simp] theorem numberAll_i3c : s.numberAll.sec.i3c = s.sec.i3c := by simp [State.numberAll]
@[simp] theorem raiseAll_i3c (v : Nat) : (s.raiseAll v).sec.i3c = s.sec.i3c := by simp [State.raiseAll]
@[simp] theorem twinEvent_i3c : s.twinEvent.sec.i3c = s.sec.i3c := by simp [State.twinEvent]
@[simp] theorem cisTwins_i3c : s.cisTwins.sec.i3c = s.sec.i3c := by simp [State.cisTwins]

@[simp] theorem unpairStep_i3c : s.unpairStep.sec.i3c = s.sec.i3c := by
  unfold State.unpairStep
  split <;> simp

@[simp] theorem ownEntry_i3c (opcode object : Nat) (result : List Byte) : (s.ownEntry opcode object result).sec.i3c = s.sec.i3c :=
  i3c_of_spdm (same_ownEntry s opcode object result).spdm

@[simp] theorem joinJournals_i3c (info : PeerInfo) (keeper : Bool) : (s.joinJournals info keeper).sec.i3c = s.sec.i3c := by
  unfold State.joinJournals
  split
  · refine (i3c_foldl _ (fun s e => ?_) _ _).trans (by simp)
    rfl
  · simp

@[simp] theorem markWell_i3c (i : Nat) : (s.markWell i).sec.i3c = s.sec.i3c := by simp [State.markWell]

@[simp] theorem sendCopy_i3c (i : Nat) : (s.sendCopy i).sec.i3c = s.sec.i3c := by
  unfold State.sendCopy
  dsimp only
  split <;> simp

@[simp] theorem resyncEnd_i3c (i : Nat) : (s.resyncEnd i).sec.i3c = s.sec.i3c := by simp [State.resyncEnd]

@[simp] theorem pairWell_i3c (info : PeerInfo) (keeper same : Bool) (i : Nat) : (s.pairWell info keeper same i).sec.i3c = s.sec.i3c := by
  simp [State.pairWell]

@[simp] theorem relay_i3c (wb opcode : Nat) : (s.relay wb opcode).sec.i3c = s.sec.i3c := by simp [State.relay]
@[simp] theorem sendKey_i3c (k : Nat) (x : KeySlot) : (s.sendKey k x).sec.i3c = s.sec.i3c := by simp [State.sendKey]

@[simp] theorem pairForm_i3c (info : PeerInfo) : (s.pairForm info).sec.i3c = s.sec.i3c := by
  unfold State.pairForm
  dsimp only
  split <;> simp [-List.foldl_reverse]

@[simp] theorem pairStep_i3c : s.pairStep.sec.i3c = s.sec.i3c := by
  unfold State.pairStep
  split <;> simp

@[simp] theorem swoStep_i3c : s.swoStep.sec.i3c = s.sec.i3c := by
  unfold State.swoStep
  split <;> simp

@[simp] theorem emptyStep_i3c : s.emptyStep.sec.i3c = s.sec.i3c := by simp [State.emptyStep]
@[simp] theorem coldStep_i3c : s.coldStep.sec.i3c = s.sec.i3c := by simp [State.coldStep]

/-! ## The drain, descriptors, and all steps together -/

@[simp] theorem setStep_i3c (k : Nat) : (setStep k s).sec.i3c = s.sec.i3c := by simp [setStep]
@[simp] theorem memoryActive_i3c (b : Bool) : (s.memoryActive b).sec.i3c = s.sec.i3c := by simp [State.memoryActive]

@[simp] theorem lostCommands_i3c : s.lostCommands.sec.i3c = s.sec.i3c := by
  unfold State.lostCommands
  dsimp only
  repeat' split
  all_goals simp

@[simp] theorem partTwin_i3c : s.partTwin.sec.i3c = s.sec.i3c := by simp [State.partTwin]

@[simp] theorem drainOnce_i3c : s.drainOnce.sec.i3c = s.sec.i3c := by
  unfold State.drainOnce
  dsimp only
  repeat' split
  all_goals simp

@[simp] theorem drainStep_i3c : s.drainStep.sec.i3c = s.sec.i3c := by simp [State.drainStep]

theorem takeSlot_i3c {id : Nat} {t : State} (h : s.takeSlot id = some t) : t.sec.i3c = s.sec.i3c := by
  unfold State.takeSlot at h
  split at h
  · cases h
  · split at h <;> cases h
    rw [State.modJob_sec]

@[simp] theorem peeked_i3c (id : Nat) : (s.peeked id).sec.i3c = s.sec.i3c := by
  unfold State.peeked
  split
  · rfl
  · split <;> simp

@[simp] theorem slotRead_i3c (id : Nat) : (s.slotRead id).sec.i3c = s.sec.i3c := by
  unfold State.slotRead
  split <;> simp

theorem xlateTile_i3c {j : Job} {p o opnd a len : Nat} {acc : Acc} {step : Nat} {ahead : Bool} {t : State}
    (h : s.xlateTile j p o opnd a len acc step ahead = .wait t) : t.sec.i3c = s.sec.i3c := by
  unfold State.xlateTile at h
  dsimp only at h
  split at h
  · cases h
  · split at h <;> cases h
    refine i3c_foldl _ (fun s x => ?_) _ s
    split
    · exact atsAsk_i3c ..
    · rfl

@[simp] theorem prefetch_i3c (id p lines : Nat) (tiles : Nat) : (s.prefetch id p lines tiles).sec.i3c = s.sec.i3c := by
  unfold State.prefetch
  split
  · rfl
  · split
    · rfl
    · rename_i j _ _
      extract_lets look
      have hlook : ∀ t opnd a n acc step, (look t opnd a n acc step).sec.i3c = t.sec.i3c := fun t opnd a n acc step => by
        unfold look
        split
        · rename_i hx
          exact xlateTile_i3c t hx
        · rfl
      refine (i3c_foldl _ (fun s opnd => ?_) _ _).trans (i3c_foldl _ (fun s opnd => ?_) _ s) <;>
        exact i3c_foldl _ (fun s x => hlook ..) _ s

@[simp] theorem readEarly_i3c : s.readEarly.sec.i3c = s.sec.i3c := by
  refine i3c_foldl _ (fun s p => ?_) _ s
  dsimp only
  split
  · split <;> simp
  · rfl

@[simp] theorem descOnce_i3c : s.descOnce.sec.i3c = s.sec.i3c := by
  refine (i3c_foldl _ (fun s j => ?_) _ _).trans (readEarly_i3c s)
  split
  · rfl
  · rename_i hs
    have ht := takeSlot_i3c s hs
    split <;> simp [ht]

@[simp] theorem descStep_i3c : s.descStep.sec.i3c = s.sec.i3c := by simp [State.descStep]
@[simp] theorem steps_i3c : s.steps.sec.i3c = s.sec.i3c := by simp [State.steps]

/-! ## What a whole command leaves of the sessions -/

@[simp] theorem powerDownStart_i3c : s.powerDownStart.sec.i3c = s.sec.i3c := by
  simp only [State.powerDownStart, State.modTwin_sec]
  refine (foldl_keeps (fun s : State => s.sec.i3c) (fun s n hn => ?_) (s.modPwr _)).trans (by rw [State.modPwr_sec])
  have hport : n ≠ 48 := Nat.ne_of_lt (List.mem_range.1 hn)
  split
  · exact stationGone_i3c s hport .down
  · rfl

/-- The sessions of the I3C port are as they were, or the module was reset. -/
def I3cKeptOrCleared (s t : State) : Prop := t.sec.i3c = s.sec.i3c ∨ t.sec.i3c = []

theorem I3cKeptOrCleared.trans {s t u : State} (h : I3cKeptOrCleared s t) (h' : I3cKeptOrCleared t u) : I3cKeptOrCleared s u := by
  rcases h' with hu | hu
  · exact h.imp hu.trans hu.trans
  · exact .inr hu

theorem takeTodo_i3c (t : Todo) : I3cKeptOrCleared s (s.takeTodo t) := by
  cases t with
  | nmi kind unit => exact .inl rfl
  | block kind unit => exact .inl (blockReset_i3c ..)
  | moduleReset => exact .inr rfl
  | replace => exact .inl (replaceUnit_i3c ..)
  | pumpOut p => exact .inl (requeue_i3c ..)
  | stationOut n =>
    left
    dsimp only [State.takeTodo]
    split
    · exact stationReset_i3c ..
    · rfl
  | revokeIde n => exact .inl (revokeIde_i3c ..)

theorem settleFor_i3c (k : Nat) : I3cKeptOrCleared s (s.settleFor k) := by
  induction k generalizing s with
  | zero => exact .inl rfl
  | succ k ih =>
    unfold State.settleFor
    split
    · exact .inl rfl
    · rename_i t rest _
      exact (takeTodo_i3c { s with todo := rest } t).trans (ih _)

theorem settle_i3c : I3cKeptOrCleared s s.settle := settleFor_i3c s _

theorem powerSeq_i3c : I3cKeptOrCleared s s.powerSeq := by
  unfold State.powerSeq
  split
  · exact .inr rfl
  · split
    · split
      · exact .inl (powerDownStart_i3c s)
      · exact .inl rfl
    · exact .inl rfl

theorem finish_sec : (finish s).sec = s.steps.settle.steps.settle.powerSeq.sec := by rw [finish]

/-- What follows a command opens no session. -/
theorem finish_i3c : I3cKeptOrCleared s (finish s) := by
  have round (s : State) : I3cKeptOrCleared s s.steps.settle := .trans (.inl (steps_i3c s)) (settle_i3c _)
  rw [I3cKeptOrCleared, finish_sec]
  exact ((round s).trans (round _)).trans (powerSeq_i3c _)

end Sys2Proof.Machine
end

section
/-! PROOF. The end of the one session that the I3C port's first entry holds, where the table holds a second entry of the port (19 R584). -/
namespace Sys2Proof.Machine

/-- In service; the table of sessions names the I3C port twice. -/
def portListedTwice : State :=
  { State.reset.modMod fun m => { m with phase := .service, stage := .done, errForced := false } with
    sec := { State.reset.sec with spdm := [(48, [(0, 0)]), (48, [(1, 0)])] } }

theorem exec_ideStreamEnd_session (p : SpdmPort) (k : Fin 4) (s : State) :
    exec (.ideStreamEnd (.session p k)) s = .next (finish (s.spdmClose p k.val)) := rfl

theorem i3c_portListedTwice : portListedTwice.sec.i3c = [(0, 0)] := rfl

theorem finish_portListedTwice : (finish (portListedTwice.spdmClose .i3c 0)).sec.i3c = [(1, 0)] := by decide +kernel

end Sys2Proof.Machine

open Sys2Proof Sys2Proof.Machine

/-- Refutes O44: where the table of sessions holds two entries of the I3C port, the end of the only session of the first brings the second to
light, and no state before `finish` without a session leads there, as nothing that follows a command opens one. -/
theorem not_linkSecurityActs : ¬ Obligations.LinkSecurityActs := by
  rintro ⟨-, -, -, -, hend, -⟩
  obtain ⟨u, hdoes, hleft, -⟩ := hend portListedTwice 0 (0, 0) rfl
  have hfinish : finish (portListedTwice.spdmClose .i3c 0) = finish u :=
    Host.Outcome.next.inj ((exec_ideStreamEnd_session .i3c 0 portListedTwice).symm.trans hdoes)
  have hnone : u.sec.i3c = [] := hleft
  have hopen := finish_portListedTwice
  rw [hfinish] at hopen
  rcases finish_i3c u with hkept | hcleared
  · rw [hkept, hnone] at hopen
    cases hopen
  · rw [hcleared] at hopen
    cases hopen
end
